-- ==== Sys2Proof/Word.lean ====
section
/-! DEFINITION. The word types of the FZ-M8: 64-bit registers and addresses, 32-bit instruction words and vector
lanes, bytes, and the 6-bit operand specifier of R34. -/

namespace Sys2Proof

/-- A 64-bit register value or address (R51, R76). -/
abbrev Word := BitVec 64
/-- One 32-bit instruction word (R24) or one 32-bit lane of a vector register (R111). -/
abbrev Word32 := BitVec 32
/-- The smallest addressable unit of memory (R3). -/
abbrev Byte := BitVec 8
/-- A 6-bit operand specifier field (R34, R35). -/
abbrev Spec := BitVec 6

end Sys2Proof
end

