-- ==== Sys2Proof/Syntax.lean ====
section
/-! DEFINITION. The steps of the device: every row of the opcode table. The machine instructions keep the raw
fields of their base word and the words that follow it (`Form`, R24); the filter bytecode of R312 keeps its
16-bit fields; the hardware, host and fault steps carry the unit they act on, named by the model's unit numbers:
a cluster is `die * 32 + cluster`, a core `cluster * 20 + core` (16 to 19 are the memory cores), a slot
`core * 8 + slot`, a DRAM channel `die * 128 + channel`. -/

namespace Sys2Proof

/-- The fields of the extension word X (R30), in the order of the table. -/
structure Ext where
  g : BitVec 1
  gn : BitVec 1
  gp : BitVec 5
  q : BitVec 1
  rm : BitVec 3
  scope : BitVec 3
  ty : BitVec 4
  e : BitVec 1
  cb : BitVec 1
  c : BitVec 6
  xfn : BitVec 6
  deriving DecidableEq, Repr, Inhabited

/-- The words after the base word, one alternative for each value of LEN (R24). -/
inductive Form where
  /-- LEN 00: no further word. -/
  | base
  /-- LEN 01: a 64-bit literal. -/
  | lit (l : Word)
  /-- LEN 10: X and IMM32. -/
  | ext (x : Ext) (imm : Word32)
  /-- LEN 11: X, IMM32 and a 64-bit literal. -/
  | extLit (x : Ext) (imm : Word32) (l : Word)
  deriving DecidableEq, Repr, Inhabited

/-- The instructions, filter instructions and hardware steps of spec/opcode_table.json, one constructor a row. -/
inductive Instr where
  /-- `NOP` (R64). -/
  | nop (f : Form)
  /-- `YIELD` (R64). -/
  | yield (f : Form)
  /-- `REALIGN` (R65). -/
  | realign (f : Form)
  /-- `ADD` (R51). -/
  | add (d a b : Spec) (f : Form)
  /-- `SUB` (R51). -/
  | sub (d a b : Spec) (f : Form)
  /-- `AND` (R51). -/
  | and (d a b : Spec) (f : Form)
  /-- `OR` (R51). -/
  | or (d a b : Spec) (f : Form)
  /-- `XOR` (R51). -/
  | xor (d a b : Spec) (f : Form)
  /-- `ANDN` (R51). -/
  | andn (d a b : Spec) (f : Form)
  /-- `SHL` (R51). -/
  | shl (d a b : Spec) (f : Form)
  /-- `SHR` (R51). -/
  | shr (d a b : Spec) (f : Form)
  /-- `SAR` (R51). -/
  | sar (d a b : Spec) (f : Form)
  /-- `ROL` (R51). -/
  | rol (d a b : Spec) (f : Form)
  /-- `MIN` (R51). -/
  | min (d a b : Spec) (f : Form)
  /-- `MAX` (R51). -/
  | max (d a b : Spec) (f : Form)
  /-- `MINN` (R51). -/
  | minn (d a b : Spec) (f : Form)
  /-- `MAXN` (R51). -/
  | maxn (d a b : Spec) (f : Form)
  /-- `MUL` (R51). -/
  | mul (d a b : Spec) (f : Form)
  /-- `MULH` (R51). -/
  | mulh (d a b : Spec) (f : Form)
  /-- `MULHN` (R51). -/
  | mulhn (d a b : Spec) (f : Form)
  /-- `DIV` (R52). -/
  | div (d a b : Spec) (f : Form)
  /-- `DIVN` (R52). -/
  | divn (d a b : Spec) (f : Form)
  /-- `REM` (R52). -/
  | rem (d a b : Spec) (f : Form)
  /-- `REMN` (R52). -/
  | remn (d a b : Spec) (f : Form)
  /-- `CLZ` (R51). -/
  | clz (d a : Spec) (f : Form)
  /-- `POPC` (R51). -/
  | popc (d a : Spec) (f : Form)
  /-- `CTZ` (R51). -/
  | ctz (d a : Spec) (f : Form)
  /-- `ADDI` (R53). -/
  | addi (d a : Spec) (i : BitVec 12) (f : Form)
  /-- `ANDI` (R53). -/
  | andi (d a : Spec) (i : BitVec 12) (f : Form)
  /-- `ORI` (R53). -/
  | ori (d a : Spec) (i : BitVec 12) (f : Form)
  /-- `XORI` (R53). -/
  | xori (d a : Spec) (i : BitVec 12) (f : Form)
  /-- `SHFI` (R54). -/
  | shfi (d a : Spec) (o : BitVec 2) (n : BitVec 6) (f : Form)
  /-- `MOVI` (R53). -/
  | movi (d : Spec) (i : BitVec 12) (f : Form)
  /-- `CMP` (R55). -/
  | cmp (d a b : Spec) (c : BitVec 6) (f : Form)
  /-- `CMPI` (R55). -/
  | cmpi (d a : Spec) (c : BitVec 6) (i : BitVec 6) (f : Form)
  /-- `PAND` (R56). -/
  | pand (d a b : Spec) (f : Form)
  /-- `POR` (R56). -/
  | por (d a b : Spec) (f : Form)
  /-- `PXOR` (R56). -/
  | pxor (d a b : Spec) (f : Form)
  /-- `PANDN` (R56). -/
  | pandn (d a b : Spec) (f : Form)
  /-- `PNOT` (R56). -/
  | pnot (d a : Spec) (f : Form)
  /-- `PSET` (R56). -/
  | pset (d : Spec) (f : Form)
  /-- `PCLR` (R56). -/
  | pclr (d : Spec) (f : Form)
  /-- `PMOVR` (R56). -/
  | pmovr (d : Spec) (f : Form)
  /-- `PMOVW` (R56). -/
  | pmovw (a : Spec) (f : Form)
  /-- `SEL` (R57). -/
  | sel (d a b : Spec) (n : BitVec 1) (p : BitVec 5) (f : Form)
  /-- `LEA` (R58). -/
  | lea (d a b : Spec) (s : BitVec 2) (f : Form)
  /-- `BITF` (R59). -/
  | bitf (d b : Spec) (f : Form)
  /-- `BR` (R60). -/
  | br (g : BitVec 1) (p : BitVec 5) (o : BitVec 18)
  /-- `CALL` (R60). -/
  | call (g : BitVec 1) (p : BitVec 5) (o : BitVec 18)
  /-- `JMPR` (R61). -/
  | jmpr (a : Spec) (f : Form)
  /-- `CALLG` (R61). -/
  | callg (d a : Spec) (f : Form)
  /-- `RET` (R61). -/
  | ret (a : Spec) (f : Form)
  /-- `CALLRM` (R70). -/
  | callrm (d a b : Spec) (f : Form)
  /-- `REPLY` (R72). -/
  | reply (a b : Spec) (f : Form)
  /-- `WPSET` (R48). -/
  | wpset (a : Spec) (f : Form)
  /-- `SEMWAIT` (R66). -/
  | semwait (n : BitVec 4) (f : Form)
  /-- `SEMPOST` (R66). -/
  | sempost (n : BitVec 4) (f : Form)
  /-- `LD` (R90). -/
  | ld (d a : Spec) (w : BitVec 2) (o : BitVec 10) (f : Form)
  /-- `LDS` (R90). -/
  | lds (d a : Spec) (w : BitVec 2) (o : BitVec 10) (f : Form)
  /-- `ST` (R90). -/
  | st (d a : Spec) (w : BitVec 2) (o : BitVec 10) (f : Form)
  /-- `LDX` (R91). -/
  | ldx (d a b : Spec) (h : BitVec 2) (s : BitVec 1) (w : BitVec 2) (f : Form)
  /-- `STX` (R91). -/
  | stx (d a b : Spec) (h : BitVec 2) (w : BitVec 2) (f : Form)
  /-- `BAT` (R94). -/
  | bat (d a b : Spec) (z : BitVec 1) (o : BitVec 4) (f : Form)
  /-- `BAT_CAS` (R94). -/
  | batCas (d a b : Spec) (z : BitVec 1) (f : Form)
  /-- `BST` (R96). -/
  | bst (a b : Spec) (f : Form)
  /-- `BLD` (R98). -/
  | bld (a b : Spec) (f : Form)
  /-- `WAITW` (R100). -/
  | waitw (d a b : Spec) (c : BitVec 6) (f : Form)
  /-- `SEAL` (R101). -/
  | seal (a b : Spec) (f : Form)
  /-- `UNSEAL` (R102). -/
  | unseal (a b : Spec) (f : Form)
  /-- `WTURN` (R104). -/
  | wturn (a : Spec) (f : Form)
  /-- `TURNQ` (R103). -/
  | turnq (d a : Spec) (f : Form)
  /-- `RLD` (R178). -/
  | rld (d a : Spec) (f : Form)
  /-- `RST` (R178). -/
  | rst (a b : Spec) (f : Form)
  /-- `RLDV` (R178). -/
  | rldv (d a : Spec) (f : Form)
  /-- `RSTV` (R178). -/
  | rstv (a b : Spec) (f : Form)
  /-- `RAT` (R178). -/
  | rat (d a b : Spec) (f : Form)
  /-- `PBIND` (R170). -/
  | pbind (d a : Spec) (f : Form)
  /-- `MCAST` (R176). -/
  | mcast (d a b : Spec) (f : Form)
  /-- `PCLOSE` (R173). -/
  | pclose (a : Spec) (f : Form)
  /-- `PSTAT` (R174). -/
  | pstat (d a : Spec) (f : Form)
  /-- `CPFWD` (R187). -/
  | cpfwd (d a b : Spec) (f : Form)
  /-- `CPWAIT` (R188). -/
  | cpwait (d a b : Spec) (f : Form)
  /-- `CBINIT` (R194). -/
  | cbinit (d a b : Spec) (f : Form)
  /-- `CBPROD` (R196). -/
  | cbprod (d a b : Spec) (f : Form)
  /-- `CBCONS` (R196). -/
  | cbcons (d a b : Spec) (f : Form)
  /-- `CBSTAT` (R197). -/
  | cbstat (d a : Spec) (f : Form)
  /-- `FENCE` (R209). -/
  | fence (s : BitVec 3) (k : BitVec 2) (e : BitVec 1) (f : Form)
  /-- `BARI` (R215). -/
  | bari (a b : Spec) (f : Form)
  /-- `BARA` (R215). -/
  | bara (d a b : Spec) (f : Form)
  /-- `BARW` (R215). -/
  | barw (a b : Spec) (f : Form)
  /-- `BART` (R215). -/
  | bart (d a : Spec) (f : Form)
  /-- `SPAWN` (R232). -/
  | spawn (d a b : Spec) (f : Form)
  /-- `ENQ` (R231). -/
  | enq (a b : Spec) (f : Form)
  /-- `PARK` (R238). -/
  | park (a b : Spec) (f : Form)
  /-- `END` (R237). -/
  | endT (f : Form)
  /-- `MIGR` (R246). -/
  | migr (a : Spec) (f : Form)
  /-- `DISP` (R251). -/
  | disp (d : Spec) (f : Form)
  /-- `TDONE` (R252). -/
  | tdone (a : Spec) (f : Form)
  /-- `PLANW` (R249). -/
  | planw (a : Spec) (f : Form)
  /-- `PLANSW` (R250). -/
  | plansw (d : Spec) (f : Form)
  /-- `RGSYNC` (R227). -/
  | rgsync (a : Spec) (f : Form)
  /-- `RGENTER` (R228). -/
  | rgenter (a : Spec) (f : Form)
  /-- `RGEXIT` (R228). -/
  | rgexit (f : Form)
  /-- `TREL` (R252). -/
  | trel (a : Spec) (f : Form)
  /-- `ISCLAIM` (R260). -/
  | isclaim (d : Spec) (f : Form)
  /-- `ISREL` (R261). -/
  | isrel (f : Form)
  /-- `ISWIN` (R264). -/
  | iswin (a : Spec) (f : Form)
  /-- `ISMODE` (R264). -/
  | ismode (a : Spec) (f : Form)
  /-- `ISLDW` (R265). -/
  | isldw (a : Spec) (f : Form)
  /-- `ISLDV` (R266). -/
  | isldv (a : Spec) (f : Form)
  /-- `ISGO` (R267). -/
  | isgo (a : Spec) (f : Form)
  /-- `ISCAP` (R268). -/
  | iscap (a b : Spec) (f : Form)
  /-- `ISCLR` (R269). -/
  | isclr (f : Form)
  /-- `GETC` (R75). -/
  | getc (d : Spec) (r : BitVec 12) (f : Form)
  /-- `SETC` (R75). -/
  | setc (a : Spec) (r : BitVec 12) (f : Form)
  /-- `CP_LAUNCH` (R184). -/
  | cpLaunch (d : Spec) (f : Form)
  /-- `TRAP` (R281). -/
  | trap (a : Spec) (f : Form)
  /-- `ERET` (R282). -/
  | eret (f : Form)
  /-- `TLBINV` (R293). -/
  | tlbinv (a b : Spec) (f : Form)
  /-- `WHLSET` (R84). -/
  | whlset (a b : Spec) (f : Form)
  /-- `WHLSW` (R85). -/
  | whlsw (a : Spec) (f : Form)
  /-- `BANKRET` (R87). -/
  | bankret (a : Spec) (f : Form)
  /-- `DBRK` (R273). -/
  | dbrk (f : Form)
  /-- `TRACEW` (R273). -/
  | tracew (a : Spec) (f : Form)
  /-- `VLD` (R117). -/
  | vld (d a : Spec) (i : BitVec 12) (f : Form)
  /-- `VST` (R117). -/
  | vst (d a : Spec) (i : BitVec 12) (f : Form)
  /-- `VLDX` (R121). -/
  | vldx (d a b : Spec) (f : Form)
  /-- `VSTX` (R121). -/
  | vstx (d a b : Spec) (f : Form)
  /-- `VADD` (R122). -/
  | vadd (d a b : Spec) (f : Form)
  /-- `VSUB` (R122). -/
  | vsub (d a b : Spec) (f : Form)
  /-- `VMUL` (R122). -/
  | vmul (d a b : Spec) (f : Form)
  /-- `VDIV` (R122). -/
  | vdiv (d a b : Spec) (f : Form)
  /-- `VMIN` (R122). -/
  | vmin (d a b : Spec) (f : Form)
  /-- `VMAX` (R122). -/
  | vmax (d a b : Spec) (f : Form)
  /-- `VSQRT` (R122). -/
  | vsqrt (d a : Spec) (f : Form)
  /-- `VRCP` (R122). -/
  | vrcp (d a : Spec) (f : Form)
  /-- `VRSQ` (R122). -/
  | vrsq (d a : Spec) (f : Form)
  /-- `VEXP2` (R122). -/
  | vexp2 (d a : Spec) (f : Form)
  /-- `VLOG2` (R122). -/
  | vlog2 (d a : Spec) (f : Form)
  /-- `VABS` (R122). -/
  | vabs (d a : Spec) (f : Form)
  /-- `VNEG` (R122). -/
  | vneg (d a : Spec) (f : Form)
  /-- `VRINT` (R122). -/
  | vrint (d a : Spec) (f : Form)
  /-- `VFMA` (R123). -/
  | vfma (d a b : Spec) (f : Form)
  /-- `VFMS` (R123). -/
  | vfms (d a b : Spec) (f : Form)
  /-- `VFNMA` (R123). -/
  | vfnma (d a b : Spec) (f : Form)
  /-- `VIADD` (R124). -/
  | viadd (d a b : Spec) (f : Form)
  /-- `VISUB` (R124). -/
  | visub (d a b : Spec) (f : Form)
  /-- `VIMUL` (R124). -/
  | vimul (d a b : Spec) (f : Form)
  /-- `VIMULH` (R124). -/
  | vimulh (d a b : Spec) (f : Form)
  /-- `VAND` (R124). -/
  | vand (d a b : Spec) (f : Form)
  /-- `VOR` (R124). -/
  | vor (d a b : Spec) (f : Form)
  /-- `VXOR` (R124). -/
  | vxor (d a b : Spec) (f : Form)
  /-- `VSHL` (R124). -/
  | vshl (d a b : Spec) (f : Form)
  /-- `VSHR` (R124). -/
  | vshr (d a b : Spec) (f : Form)
  /-- `VSAR` (R124). -/
  | vsar (d a b : Spec) (f : Form)
  /-- `VIMIN` (R124). -/
  | vimin (d a b : Spec) (f : Form)
  /-- `VIMAX` (R124). -/
  | vimax (d a b : Spec) (f : Form)
  /-- `VIMINN` (R124). -/
  | viminn (d a b : Spec) (f : Form)
  /-- `VIMAXN` (R124). -/
  | vimaxn (d a b : Spec) (f : Form)
  /-- `VIMULHN` (R124). -/
  | vimulhn (d a b : Spec) (f : Form)
  /-- `VCVT` (R125). -/
  | vcvt (d a : Spec) (s : BitVec 4) (t : BitVec 4) (f : Form)
  /-- `VCMP` (R126). -/
  | vcmp (d a b : Spec) (c : BitVec 6) (f : Form)
  /-- `KAND` (R127). -/
  | kand (d a b : Spec) (f : Form)
  /-- `KOR` (R127). -/
  | kor (d a b : Spec) (f : Form)
  /-- `KXOR` (R127). -/
  | kxor (d a b : Spec) (f : Form)
  /-- `KNOT` (R127). -/
  | knot (d a : Spec) (f : Form)
  /-- `KPOP` (R127). -/
  | kpop (d a : Spec) (f : Form)
  /-- `KMOVW` (R127). -/
  | kmovw (d a : Spec) (f : Form)
  /-- `KMOVK` (R127). -/
  | kmovk (d a : Spec) (f : Form)
  /-- `VSEL` (R127). -/
  | vsel (d a b : Spec) (f : Form)
  /-- `VRADD` (R128). -/
  | vradd (d a : Spec) (f : Form)
  /-- `VRMAX` (R128). -/
  | vrmax (d a : Spec) (f : Form)
  /-- `VRMIN` (R128). -/
  | vrmin (d a : Spec) (f : Form)
  /-- `VRIADD` (R128). -/
  | vriadd (d a : Spec) (f : Form)
  /-- `VRAND` (R128). -/
  | vrand (d a : Spec) (f : Form)
  /-- `VROR` (R128). -/
  | vror (d a : Spec) (f : Form)
  /-- `VRIMAX` (R128). -/
  | vrimax (d a : Spec) (f : Form)
  /-- `VRIMIN` (R128). -/
  | vrimin (d a : Spec) (f : Form)
  /-- `VBCAST` (R129). -/
  | vbcast (d a : Spec) (f : Form)
  /-- `VPERM` (R129). -/
  | vperm (d a b : Spec) (f : Form)
  /-- `VROT` (R129). -/
  | vrot (d a b : Spec) (f : Form)
  /-- `VGETL` (R129). -/
  | vgetl (d a b : Spec) (f : Form)
  /-- `VSETL` (R129). -/
  | vsetl (d a b : Spec) (f : Form)
  /-- `VIOTA` (R129). -/
  | viota (d a : Spec) (f : Form)
  /-- `VFLGR` (R22). -/
  | vflgr (d : Spec) (f : Form)
  /-- `VFLGC` (R22). -/
  | vflgc (f : Form)
  /-- `VATOM` (R130). -/
  | vatom (d a b : Spec) (o : BitVec 1) (p : BitVec 3) (f : Form)
  /-- `TLD` (R137). -/
  | tld (d a b : Spec) (z : BitVec 1) (g : BitVec 1) (t : BitVec 1) (f : Form)
  /-- `TST` (R140). -/
  | tst (d a b : Spec) (f : Form)
  /-- `TMMA` (R142). -/
  | tmma (d a b : Spec) (c : BitVec 1) (t : BitVec 2) (f : Form)
  /-- `TZERO` (R143). -/
  | tzero (d : Spec) (f : Form)
  /-- `TSCALE` (R143). -/
  | tscale (d a b : Spec) (f : Form)
  /-- `TADD` (R143). -/
  | tadd (d a b : Spec) (f : Form)
  /-- `TGETR` (R143). -/
  | tgetr (d a b : Spec) (f : Form)
  /-- `TPUTR` (R143). -/
  | tputr (d a b : Spec) (f : Form)
  /-- `TMASK` (R145). -/
  | tmask (d a b : Spec) (f : Form)
  /-- `TWAIT` (R144). -/
  | twait (f : Form)
  /-- `TCMD` (R150). -/
  | tcmd (a b : Spec) (f : Form)
  /-- `KVCOMMIT` (R147). -/
  | kvcommit (d a b : Spec) (f : Form)
  /-- `LDF` (R312). -/
  | ldf (d : BitVec 3) (n : BitVec 5)
  /-- `LDI` (R312). -/
  | ldi (d : BitVec 3) (i : BitVec 9)
  /-- `FILTER_ADD` (R312). -/
  | filterAdd (d : BitVec 3) (a : BitVec 3)
  /-- `FILTER_SUB` (R312). -/
  | filterSub (d : BitVec 3) (a : BitVec 3)
  /-- `FILTER_AND` (R312). -/
  | filterAnd (d : BitVec 3) (a : BitVec 3)
  /-- `FILTER_OR` (R312). -/
  | filterOr (d : BitVec 3) (a : BitVec 3)
  /-- `FILTER_SHR` (R312). -/
  | filterShr (d : BitVec 3) (s : BitVec 6)
  /-- `JEQ` (R312). -/
  | jeq (a : BitVec 3) (b : BitVec 3) (o : BitVec 6)
  /-- `JNE` (R312). -/
  | jne (a : BitVec 3) (b : BitVec 3) (o : BitVec 6)
  /-- `JLT` (R312). -/
  | jlt (a : BitVec 3) (b : BitVec 3) (o : BitVec 6)
  /-- `CNT` (R312). -/
  | cnt (n : BitVec 3)
  /-- `KEEP` (R312). -/
  | keep
  /-- `DROP` (R312). -/
  | drop
  /-- `TRIG` (R314). -/
  | trig (k : BitVec 1)
  /-- `MARK` (R312). -/
  | mark (l : BitVec 12)
  /-- `TRACE_RECORD` (R311). -/
  | traceRecord (die : Nat)
  /-- `WAYPOINT_RECORD` (R309). -/
  | waypointRecord (core : Nat)
  /-- `HALT` (R303). -/
  | halt (clu : Nat)
  /-- `HALT_EVENT` (R304). -/
  | haltEvent (clu why core slot : Nat)
  /-- `HALTED` (R304). -/
  | halted (clu : Nat)
  /-- `RESUME` (R306). -/
  | resume (clu : Nat)
  /-- `STEP` (R306). -/
  | stepOne (clu core slot : Nat)
  /-- `STEP_DONE` (R306). -/
  | stepDone (clu : Nat)
  /-- `DBG_DATA` (R302). -/
  | dbgData (wr : Bool) (r : Spec) (f : Form)
  /-- `TRC_CTL` (R314). -/
  | trcCtl (a : Spec) (f : Form)
  /-- `TRC_FDATA` (R302). -/
  | trcFdata (a : Spec) (f : Form)
  /-- `RACE_CLR` (R295). -/
  | raceClr (a : Spec) (f : Form)
  /-- `CAP_OUT` (R296). -/
  | capOut (d : Spec) (f : Form)
  /-- `RESYNC` (R322). -/
  | resync
  /-- `LOADFW` (R328). -/
  | loadfw
  /-- `LAUNCH` (R321). -/
  | launch
  /-- `RESET` (R321). -/
  | reset
  /-- `BAD_OPCODE` (R321). -/
  | badOpcode
  /-- `BOOT` (R328). -/
  | boot
  /-- `HOST_READ` (R323). -/
  | hostRead (link off len : Nat)
  /-- `HOST_WRITE` (R323). -/
  | hostWrite (link off : Nat) (data : List Byte)
  /-- `LINK_TRAINING` (R324). -/
  | linkTraining (n0 n1 n2 n3 : Nat) (hops : List (Nat × Nat))
  /-- `PTP_LOCK` (R319). -/
  | ptpLock (t : Nat)
  /-- `SLICE_INSTANT` (R244). -/
  | sliceInstant
  /-- `INTERVAL_BOUNDARY` (R326). -/
  | intervalBoundary
  /-- `THERMAL_COPY` (R298). -/
  | thermalCopy (clu : Nat)
  /-- `THERMAL_REMAP` (R298). -/
  | thermalRemap (clu : Nat)
  /-- `TIMER_EXPIRY` (R240). -/
  | timerExpiry (slot : Nat)
  /-- `BUDGET_EXHAUSTED` (R243). -/
  | budgetExhausted (clu region : Nat)
  /-- `PREEMPTION` (R241). -/
  | preemption (slot reason : Nat)
  /-- `PREEMPT_SAVE` (R241). -/
  | preemptSave (slot : Nat)
  /-- `PREEMPT_ENQUEUE` (R241). -/
  | preemptEnqueue (slot : Nat)
  /-- `QUEUE_AGING` (R233). -/
  | queueAging (clu : Nat)
  /-- `DISPATCH` (R235). -/
  | dispatch (clu : Nat)
  /-- `CONTEXT_RESTORE` (R346). -/
  | contextRestore (slot part : Nat)
  /-- `PARK_WAKE` (R239). -/
  | parkWake (core : Nat)
  /-- `DEPOSIT` (R72). -/
  | deposit (pid : Nat)
  /-- `REMOTE_CALL` (R70). -/
  | remoteCall (pid : Nat)
  /-- `MATRIX_COMMAND` (R151). -/
  | matrixCommand (pid : Nat)
  /-- `MIGRATION_ARRIVAL` (R246). -/
  | migrationArrival (pid : Nat)
  /-- `MIGRATION_RESEND` (R246). -/
  | migrationResend (pid : Nat)
  /-- `REMOTE_ACCESS` (R178). -/
  | remoteAccess (pid : Nat)
  /-- `RESPONSE_DELIVERY` (R178). -/
  | responseDelivery (pid : Nat)
  /-- `LOSS_NOTICE` (R181). -/
  | lossNotice (pid : Nat)
  /-- `MCAST_DELIVERY` (R176). -/
  | mcastDelivery (pid : Nat)
  /-- `STREAM_OPEN` (R171). -/
  | streamOpen (pid : Nat)
  /-- `STREAM_WORD` (R172). -/
  | streamWord (pid : Nat)
  /-- `STREAM_END` (R173). -/
  | streamEnd (pid : Nat)
  /-- `STREAM_TIMEOUT` (R175). -/
  | streamTimeout (slot port : Nat)
  /-- `STREAM_ABORT` (R175). -/
  | streamAbort (pid : Nat)
  /-- `GROUP_WATCHDOG` (R153). -/
  | groupWatchdog (slot : Nat)
  /-- `PACKET_FORWARD` (R159). -/
  | packetForward (pid : Nat)
  /-- `LANE_DROP` (R158). -/
  | laneDrop (clu dir : Nat)
  /-- `ROUTER_GATE` (R167). -/
  | routerGate (clu : Nat)
  /-- `ROUTER_WAKE` (R167). -/
  | routerWake (clu : Nat)
  /-- `TURN_SERVICE` (R81). -/
  | turnService (slot acc : Nat)
  /-- `WAITW_REREAD` (R100). -/
  | waitwReread (slot : Nat)
  /-- `WHEEL_SWAP` (R85). -/
  | wheelSwap (outer : Bool) (unit : Nat)
  /-- `STRIPE_COMMIT` (R96). -/
  | stripeCommit (slot : Nat)
  /-- `BLD_PASS` (R98). -/
  | bldPass (slot : Nat)
  /-- `RETIREMENT_SWAP` (R88). -/
  | retirementSwap (common : Bool) (unit : Nat)
  /-- `RETIREMENT_DONE` (R88). -/
  | retirementDone (common : Bool) (unit : Nat)
  /-- `ERROR_THRESHOLD` (R329). -/
  | errorThreshold (kind unit group bank : Nat)
  /-- `BANK_LOSS` (R89). -/
  | bankLoss (common : Bool) (unit group bank : Nat)
  /-- `SCRUB` (R329). -/
  | scrub (clu bank : Nat)
  /-- `DRAM_REQUEST` (R200). -/
  | dramRequest (chan : Nat)
  /-- `REFRESH_WINDOW` (R200). -/
  | refreshWindow (chan : Nat)
  /-- `COPY_TRANSFER_START` (R182). -/
  | copyTransferStart (clu ch : Nat)
  /-- `COPY_LINE` (R185). -/
  | copyLine (clu ch : Nat)
  /-- `COPY_STAMP` (R185). -/
  | copyStamp (clu ch : Nat)
  /-- `CHAIN_HOP` (R187). -/
  | chainHop (clu ch : Nat)
  /-- `COPY_STOP` (R190). -/
  | copyStop (clu ch cause : Nat)
  /-- `FOOTPRINT_RELEASE` (R192). -/
  | footprintRelease (clu job : Nat)
  /-- `KVCOMMIT_HOLD_END` (R147). -/
  | kvcommitHoldEnd (slot : Nat)
  /-- `UNIT_COMMAND` (R135). -/
  | unitCommand (core : Nat)
  /-- `ISOCHRONE_PASS` (R255). -/
  | isochronePass (clu : Nat)
  /-- `FETCH_SERVE` (R63). -/
  | fetchServe (clu : Nat)
  /-- `ICACHE_REFILL` (R63), of a cluster and the key of a block. -/
  | icacheRefill (block : Nat × Nat)
  /-- `TABLE_WALK` (R292), of a cluster, a root and a page. -/
  | tableWalk (walk : Nat × Nat × Nat)
  /-- `REPORT_TAKEN` (R279). -/
  | reportTaken (slot : Nat)
  /-- `ESCALATION` (R285). -/
  | escalation (slot : Nat)
  /-- `BIND_RECORD_WRITE` (R234). -/
  | bindRecordWrite (clu idx : Nat) (val : Word)
  /-- `WEAR_ROTATION` (R329). -/
  | wearRotation (clu core : Nat)
  /-- `UNCORRECTABLE_ERROR` (R92). -/
  | uncorrectableError (key : Nat)
  deriving DecidableEq, Repr

/-- The words after the base word of a machine instruction; a branch of form J and every step that is no machine
instruction has none (R29). -/
def Instr.form : Instr → Form
  | .nop f => f
  | .yield f => f
  | .realign f => f
  | .add _ _ _ f => f
  | .sub _ _ _ f => f
  | .and _ _ _ f => f
  | .or _ _ _ f => f
  | .xor _ _ _ f => f
  | .andn _ _ _ f => f
  | .shl _ _ _ f => f
  | .shr _ _ _ f => f
  | .sar _ _ _ f => f
  | .rol _ _ _ f => f
  | .min _ _ _ f => f
  | .max _ _ _ f => f
  | .minn _ _ _ f => f
  | .maxn _ _ _ f => f
  | .mul _ _ _ f => f
  | .mulh _ _ _ f => f
  | .mulhn _ _ _ f => f
  | .div _ _ _ f => f
  | .divn _ _ _ f => f
  | .rem _ _ _ f => f
  | .remn _ _ _ f => f
  | .clz _ _ f => f
  | .popc _ _ f => f
  | .ctz _ _ f => f
  | .addi _ _ _ f => f
  | .andi _ _ _ f => f
  | .ori _ _ _ f => f
  | .xori _ _ _ f => f
  | .shfi _ _ _ _ f => f
  | .movi _ _ f => f
  | .cmp _ _ _ _ f => f
  | .cmpi _ _ _ _ f => f
  | .pand _ _ _ f => f
  | .por _ _ _ f => f
  | .pxor _ _ _ f => f
  | .pandn _ _ _ f => f
  | .pnot _ _ f => f
  | .pset _ f => f
  | .pclr _ f => f
  | .pmovr _ f => f
  | .pmovw _ f => f
  | .sel _ _ _ _ _ f => f
  | .lea _ _ _ _ f => f
  | .bitf _ _ f => f
  | .br _ _ _ => .base
  | .call _ _ _ => .base
  | .jmpr _ f => f
  | .callg _ _ f => f
  | .ret _ f => f
  | .callrm _ _ _ f => f
  | .reply _ _ f => f
  | .wpset _ f => f
  | .semwait _ f => f
  | .sempost _ f => f
  | .ld _ _ _ _ f => f
  | .lds _ _ _ _ f => f
  | .st _ _ _ _ f => f
  | .ldx _ _ _ _ _ _ f => f
  | .stx _ _ _ _ _ f => f
  | .bat _ _ _ _ _ f => f
  | .batCas _ _ _ _ f => f
  | .bst _ _ f => f
  | .bld _ _ f => f
  | .waitw _ _ _ _ f => f
  | .seal _ _ f => f
  | .unseal _ _ f => f
  | .wturn _ f => f
  | .turnq _ _ f => f
  | .rld _ _ f => f
  | .rst _ _ f => f
  | .rldv _ _ f => f
  | .rstv _ _ f => f
  | .rat _ _ _ f => f
  | .pbind _ _ f => f
  | .mcast _ _ _ f => f
  | .pclose _ f => f
  | .pstat _ _ f => f
  | .cpfwd _ _ _ f => f
  | .cpwait _ _ _ f => f
  | .cbinit _ _ _ f => f
  | .cbprod _ _ _ f => f
  | .cbcons _ _ _ f => f
  | .cbstat _ _ f => f
  | .fence _ _ _ f => f
  | .bari _ _ f => f
  | .bara _ _ _ f => f
  | .barw _ _ f => f
  | .bart _ _ f => f
  | .spawn _ _ _ f => f
  | .enq _ _ f => f
  | .park _ _ f => f
  | .endT f => f
  | .migr _ f => f
  | .disp _ f => f
  | .tdone _ f => f
  | .planw _ f => f
  | .plansw _ f => f
  | .rgsync _ f => f
  | .rgenter _ f => f
  | .rgexit f => f
  | .trel _ f => f
  | .isclaim _ f => f
  | .isrel f => f
  | .iswin _ f => f
  | .ismode _ f => f
  | .isldw _ f => f
  | .isldv _ f => f
  | .isgo _ f => f
  | .iscap _ _ f => f
  | .isclr f => f
  | .getc _ _ f => f
  | .setc _ _ f => f
  | .cpLaunch _ f => f
  | .trap _ f => f
  | .eret f => f
  | .tlbinv _ _ f => f
  | .whlset _ _ f => f
  | .whlsw _ f => f
  | .bankret _ f => f
  | .dbrk f => f
  | .tracew _ f => f
  | .vld _ _ _ f => f
  | .vst _ _ _ f => f
  | .vldx _ _ _ f => f
  | .vstx _ _ _ f => f
  | .vadd _ _ _ f => f
  | .vsub _ _ _ f => f
  | .vmul _ _ _ f => f
  | .vdiv _ _ _ f => f
  | .vmin _ _ _ f => f
  | .vmax _ _ _ f => f
  | .vsqrt _ _ f => f
  | .vrcp _ _ f => f
  | .vrsq _ _ f => f
  | .vexp2 _ _ f => f
  | .vlog2 _ _ f => f
  | .vabs _ _ f => f
  | .vneg _ _ f => f
  | .vrint _ _ f => f
  | .vfma _ _ _ f => f
  | .vfms _ _ _ f => f
  | .vfnma _ _ _ f => f
  | .viadd _ _ _ f => f
  | .visub _ _ _ f => f
  | .vimul _ _ _ f => f
  | .vimulh _ _ _ f => f
  | .vand _ _ _ f => f
  | .vor _ _ _ f => f
  | .vxor _ _ _ f => f
  | .vshl _ _ _ f => f
  | .vshr _ _ _ f => f
  | .vsar _ _ _ f => f
  | .vimin _ _ _ f => f
  | .vimax _ _ _ f => f
  | .viminn _ _ _ f => f
  | .vimaxn _ _ _ f => f
  | .vimulhn _ _ _ f => f
  | .vcvt _ _ _ _ f => f
  | .vcmp _ _ _ _ f => f
  | .kand _ _ _ f => f
  | .kor _ _ _ f => f
  | .kxor _ _ _ f => f
  | .knot _ _ f => f
  | .kpop _ _ f => f
  | .kmovw _ _ f => f
  | .kmovk _ _ f => f
  | .vsel _ _ _ f => f
  | .vradd _ _ f => f
  | .vrmax _ _ f => f
  | .vrmin _ _ f => f
  | .vriadd _ _ f => f
  | .vrand _ _ f => f
  | .vror _ _ f => f
  | .vrimax _ _ f => f
  | .vrimin _ _ f => f
  | .vbcast _ _ f => f
  | .vperm _ _ _ f => f
  | .vrot _ _ _ f => f
  | .vgetl _ _ _ f => f
  | .vsetl _ _ _ f => f
  | .viota _ _ f => f
  | .vflgr _ f => f
  | .vflgc f => f
  | .vatom _ _ _ _ _ f => f
  | .tld _ _ _ _ _ _ f => f
  | .tst _ _ _ f => f
  | .tmma _ _ _ _ _ f => f
  | .tzero _ f => f
  | .tscale _ _ _ f => f
  | .tadd _ _ _ f => f
  | .tgetr _ _ _ f => f
  | .tputr _ _ _ f => f
  | .tmask _ _ _ f => f
  | .twait f => f
  | .tcmd _ _ f => f
  | .kvcommit _ _ _ f => f
  | .ldf _ _ => .base
  | .ldi _ _ => .base
  | .filterAdd _ _ => .base
  | .filterSub _ _ => .base
  | .filterAnd _ _ => .base
  | .filterOr _ _ => .base
  | .filterShr _ _ => .base
  | .jeq _ _ _ => .base
  | .jne _ _ _ => .base
  | .jlt _ _ _ => .base
  | .cnt _ => .base
  | .keep => .base
  | .drop => .base
  | .trig _ => .base
  | .mark _ => .base
  | .traceRecord _ => .base
  | .waypointRecord _ => .base
  | .halt _ => .base
  | .haltEvent _ _ _ _ => .base
  | .halted _ => .base
  | .resume _ => .base
  | .stepOne _ _ _ => .base
  | .stepDone _ => .base
  | .dbgData _ _ f => f
  | .trcCtl _ f => f
  | .trcFdata _ f => f
  | .raceClr _ f => f
  | .capOut _ f => f
  | .resync => .base
  | .loadfw => .base
  | .launch => .base
  | .reset => .base
  | .badOpcode => .base
  | .boot => .base
  | .hostRead _ _ _ => .base
  | .hostWrite _ _ _ => .base
  | .linkTraining _ _ _ _ _ => .base
  | .ptpLock _ => .base
  | .sliceInstant => .base
  | .intervalBoundary => .base
  | .thermalCopy _ => .base
  | .thermalRemap _ => .base
  | .timerExpiry _ => .base
  | .budgetExhausted _ _ => .base
  | .preemption _ _ => .base
  | .preemptSave _ => .base
  | .preemptEnqueue _ => .base
  | .queueAging _ => .base
  | .dispatch _ => .base
  | .contextRestore _ _ => .base
  | .parkWake _ => .base
  | .deposit _ => .base
  | .remoteCall _ => .base
  | .matrixCommand _ => .base
  | .migrationArrival _ => .base
  | .migrationResend _ => .base
  | .remoteAccess _ => .base
  | .responseDelivery _ => .base
  | .lossNotice _ => .base
  | .mcastDelivery _ => .base
  | .streamOpen _ => .base
  | .streamWord _ => .base
  | .streamEnd _ => .base
  | .streamTimeout _ _ => .base
  | .streamAbort _ => .base
  | .groupWatchdog _ => .base
  | .packetForward _ => .base
  | .laneDrop _ _ => .base
  | .routerGate _ => .base
  | .routerWake _ => .base
  | .turnService _ _ => .base
  | .waitwReread _ => .base
  | .wheelSwap _ _ => .base
  | .stripeCommit _ => .base
  | .bldPass _ => .base
  | .retirementSwap _ _ => .base
  | .retirementDone _ _ => .base
  | .errorThreshold _ _ _ _ => .base
  | .bankLoss _ _ _ _ => .base
  | .scrub _ _ => .base
  | .dramRequest _ => .base
  | .refreshWindow _ => .base
  | .copyTransferStart _ _ => .base
  | .copyLine _ _ => .base
  | .copyStamp _ _ => .base
  | .chainHop _ _ => .base
  | .copyStop _ _ _ => .base
  | .footprintRelease _ _ => .base
  | .kvcommitHoldEnd _ => .base
  | .unitCommand _ => .base
  | .isochronePass _ => .base
  | .fetchServe _ => .base
  | .icacheRefill _ => .base
  | .tableWalk _ => .base
  | .reportTaken _ => .base
  | .escalation _ => .base
  | .bindRecordWrite _ _ _ => .base
  | .wearRotation _ _ => .base
  | .uncorrectableError _ => .base

end Sys2Proof
end

