-- ==== Sys2Proof/WellFormed.lean ====
section
/-! DEFINITION. Which encodings are well formed (R43 order 2): the checks of lengths, guards, extension-word fields,
type, rounding and scope codes, and buffer bits that decide illegal instruction (cause 0x01) from the words alone. -/

namespace Sys2Proof

/-- The fields of an instruction's words (R28): the major opcode, the four 6-bit fields of the base word and the words
after it. -/
structure Raw where
  maj : BitVec 6
  d : BitVec 6
  a : BitVec 6
  b : BitVec 6
  fn : BitVec 6
  f : Form
  deriving DecidableEq, Repr, Inhabited

/-- The words of a control-register access: the number stands in IMM12, or in IMM32 in the extended form (R75). -/
def Raw.creg (maj : BitVec 6) (d a : BitVec 6) (n : BitVec 12) : Form → Raw
  | .base => ⟨maj, d, a, n.extractLsb' 6 6, n.extractLsb' 0 6, .base⟩
  | f => ⟨maj, d, a, 0, 0, f⟩

/-- The control-register number of a `GETC` or `SETC` (R75): a number above 0xFFF for words that name none. -/
def Raw.number (r : Raw) : Nat :=
  match r.f with
  | .ext _ imm => if r.b = 0 ∧ r.fn = 0 then imm.toNat else 0x10000
  | .base => (r.b ++ r.fn).toNat
  | _ => 0x10000

/-- The base word fields and the following words of a machine instruction (R28, R41); none for the other steps. -/
def Instr.raw : Instr → Option Raw
  | .nop f => some ⟨0, 0#6, 0#6, 0#6, 0#6, f⟩
  | .yield f => some ⟨0, 0#6, 0#6, 0#6, 1#6, f⟩
  | .realign f => some ⟨0, 0#6, 0#6, 0#6, 2#6, f⟩
  | .add d a b f => some ⟨1, d, a, b, 0#6, f⟩
  | .sub d a b f => some ⟨1, d, a, b, 1#6, f⟩
  | .and d a b f => some ⟨1, d, a, b, 2#6, f⟩
  | .or d a b f => some ⟨1, d, a, b, 3#6, f⟩
  | .xor d a b f => some ⟨1, d, a, b, 4#6, f⟩
  | .andn d a b f => some ⟨1, d, a, b, 5#6, f⟩
  | .shl d a b f => some ⟨1, d, a, b, 6#6, f⟩
  | .shr d a b f => some ⟨1, d, a, b, 7#6, f⟩
  | .sar d a b f => some ⟨1, d, a, b, 8#6, f⟩
  | .rol d a b f => some ⟨1, d, a, b, 9#6, f⟩
  | .min d a b f => some ⟨1, d, a, b, 10#6, f⟩
  | .max d a b f => some ⟨1, d, a, b, 11#6, f⟩
  | .minn d a b f => some ⟨1, d, a, b, 12#6, f⟩
  | .maxn d a b f => some ⟨1, d, a, b, 13#6, f⟩
  | .mul d a b f => some ⟨1, d, a, b, 14#6, f⟩
  | .mulh d a b f => some ⟨1, d, a, b, 15#6, f⟩
  | .mulhn d a b f => some ⟨1, d, a, b, 16#6, f⟩
  | .div d a b f => some ⟨1, d, a, b, 17#6, f⟩
  | .divn d a b f => some ⟨1, d, a, b, 18#6, f⟩
  | .rem d a b f => some ⟨1, d, a, b, 19#6, f⟩
  | .remn d a b f => some ⟨1, d, a, b, 20#6, f⟩
  | .clz d a f => some ⟨1, d, a, 0#6, 21#6, f⟩
  | .popc d a f => some ⟨1, d, a, 0#6, 22#6, f⟩
  | .ctz d a f => some ⟨1, d, a, 0#6, 23#6, f⟩
  | .addi d a i f => some ⟨2, d, a, i.extractLsb' 6 6, i.extractLsb' 0 6, f⟩
  | .andi d a i f => some ⟨3, d, a, i.extractLsb' 6 6, i.extractLsb' 0 6, f⟩
  | .ori d a i f => some ⟨4, d, a, i.extractLsb' 6 6, i.extractLsb' 0 6, f⟩
  | .xori d a i f => some ⟨5, d, a, i.extractLsb' 6 6, i.extractLsb' 0 6, f⟩
  | .shfi d a o n f => some ⟨6, d, a, 0#4 ++ o, n, f⟩
  | .movi d i f => some ⟨7, d, 0#6, i.extractLsb' 6 6, i.extractLsb' 0 6, f⟩
  | .cmp d a b c f => some ⟨8, d, a, b, c, f⟩
  | .cmpi d a c i f => some ⟨9, d, a, c, i, f⟩
  | .pand d a b f => some ⟨10, d, a, b, 0#6, f⟩
  | .por d a b f => some ⟨10, d, a, b, 1#6, f⟩
  | .pxor d a b f => some ⟨10, d, a, b, 2#6, f⟩
  | .pandn d a b f => some ⟨10, d, a, b, 3#6, f⟩
  | .pnot d a f => some ⟨10, d, a, 0#6, 4#6, f⟩
  | .pset d f => some ⟨10, d, 0#6, 0#6, 5#6, f⟩
  | .pclr d f => some ⟨10, d, 0#6, 0#6, 6#6, f⟩
  | .pmovr d f => some ⟨10, d, 0#6, 0#6, 7#6, f⟩
  | .pmovw a f => some ⟨10, 0#6, a, 0#6, 8#6, f⟩
  | .sel d a b n p f => some ⟨11, d, a, b, n ++ p, f⟩
  | .lea d a b s f => some ⟨12, d, a, b, 0#4 ++ s, f⟩
  | .br g p o => some ⟨14, g ++ p, o.extractLsb' 12 6, o.extractLsb' 6 6, o.extractLsb' 0 6, .base⟩
  | .call g p o => some ⟨15, g ++ p, o.extractLsb' 12 6, o.extractLsb' 6 6, o.extractLsb' 0 6, .base⟩
  | .jmpr a f => some ⟨16, 0#6, a, 0#6, 0#6, f⟩
  | .callg d a f => some ⟨16, d, a, 0#6, 1#6, f⟩
  | .ret a f => some ⟨16, 0#6, a, 0#6, 2#6, f⟩
  | .callrm d a b f => some ⟨16, d, a, b, 3#6, f⟩
  | .reply a b f => some ⟨16, 0#6, a, b, 4#6, f⟩
  | .wpset a f => some ⟨16, 0#6, a, 0#6, 5#6, f⟩
  | .semwait n f => some ⟨16, 0#6, 0#6, 0#2 ++ n, 6#6, f⟩
  | .sempost n f => some ⟨16, 0#6, 0#6, 0#2 ++ n, 7#6, f⟩
  | .ld d a w o f => some ⟨17, d, a, w ++ o.extractLsb' 6 4, o.extractLsb' 0 6, f⟩
  | .lds d a w o f => some ⟨18, d, a, w ++ o.extractLsb' 6 4, o.extractLsb' 0 6, f⟩
  | .st d a w o f => some ⟨19, d, a, w ++ o.extractLsb' 6 4, o.extractLsb' 0 6, f⟩
  | .ldx d a b h s w f => some ⟨20, d, a, b, h ++ s ++ 0#1 ++ w, f⟩
  | .stx d a b h w f => some ⟨20, d, a, b, h ++ 1#2 ++ w, f⟩
  | .bat d a b z o f => some ⟨21, d, a, b, z ++ 0#1 ++ o, f⟩
  | .bst a b f => some ⟨22, 0#6, a, b, 0#6, f⟩
  | .bld a b f => some ⟨22, 0#6, a, b, 1#6, f⟩
  | .waitw d a b c f => some ⟨23, d, a, b, c, f⟩
  | .seal a b f => some ⟨24, 0#6, a, b, 0#6, f⟩
  | .unseal a b f => some ⟨24, 0#6, a, b, 1#6, f⟩
  | .wturn a f => some ⟨24, 0#6, a, 0#6, 2#6, f⟩
  | .turnq d a f => some ⟨24, d, a, 0#6, 3#6, f⟩
  | .rld d a f => some ⟨25, d, a, 0#6, 0#6, f⟩
  | .rst a b f => some ⟨25, 0#6, a, b, 1#6, f⟩
  | .rldv d a f => some ⟨25, d, a, 0#6, 2#6, f⟩
  | .rstv a b f => some ⟨25, 0#6, a, b, 3#6, f⟩
  | .pbind d a f => some ⟨26, d, a, 0#6, 0#6, f⟩
  | .mcast d a b f => some ⟨26, d, a, b, 1#6, f⟩
  | .pclose a f => some ⟨26, 0#6, a, 0#6, 2#6, f⟩
  | .pstat d a f => some ⟨26, d, a, 0#6, 3#6, f⟩
  | .cpfwd d a b f => some ⟨27, d, a, b, 0#6, f⟩
  | .cpwait d a b f => some ⟨27, d, a, b, 1#6, f⟩
  | .cbinit d a b f => some ⟨27, d, a, b, 2#6, f⟩
  | .cbprod d a b f => some ⟨27, d, a, b, 3#6, f⟩
  | .cbcons d a b f => some ⟨27, d, a, b, 4#6, f⟩
  | .cbstat d a f => some ⟨27, d, a, 0#6, 5#6, f⟩
  | .fence s k e f => some ⟨28, 0#6, 0#6, 0#3 ++ s, k ++ e ++ 0#3, f⟩
  | .bari a b f => some ⟨28, 0#6, a, b, 1#6, f⟩
  | .bara d a b f => some ⟨28, d, a, b, 2#6, f⟩
  | .barw a b f => some ⟨28, 0#6, a, b, 3#6, f⟩
  | .bart d a f => some ⟨28, d, a, 0#6, 4#6, f⟩
  | .spawn d a b f => some ⟨29, d, a, b, 0#6, f⟩
  | .enq a b f => some ⟨29, 0#6, a, b, 1#6, f⟩
  | .park a b f => some ⟨29, 0#6, a, b, 2#6, f⟩
  | .endT f => some ⟨29, 0#6, 0#6, 0#6, 3#6, f⟩
  | .migr a f => some ⟨29, 0#6, a, 0#6, 4#6, f⟩
  | .disp d f => some ⟨29, d, 0#6, 0#6, 5#6, f⟩
  | .tdone a f => some ⟨29, 0#6, a, 0#6, 6#6, f⟩
  | .planw a f => some ⟨29, 0#6, a, 0#6, 7#6, f⟩
  | .plansw d f => some ⟨29, d, 0#6, 0#6, 8#6, f⟩
  | .rgsync a f => some ⟨29, 0#6, a, 0#6, 9#6, f⟩
  | .rgenter a f => some ⟨29, 0#6, a, 0#6, 10#6, f⟩
  | .rgexit f => some ⟨29, 0#6, 0#6, 0#6, 11#6, f⟩
  | .trel a f => some ⟨29, 0#6, a, 0#6, 12#6, f⟩
  | .isclaim d f => some ⟨30, d, 0#6, 0#6, 0#6, f⟩
  | .isrel f => some ⟨30, 0#6, 0#6, 0#6, 1#6, f⟩
  | .iswin a f => some ⟨30, 0#6, a, 0#6, 2#6, f⟩
  | .ismode a f => some ⟨30, 0#6, a, 0#6, 3#6, f⟩
  | .isldw a f => some ⟨30, 0#6, a, 0#6, 4#6, f⟩
  | .isldv a f => some ⟨30, 0#6, a, 0#6, 5#6, f⟩
  | .isgo a f => some ⟨30, 0#6, a, 0#6, 6#6, f⟩
  | .iscap a b f => some ⟨30, 0#6, a, b, 7#6, f⟩
  | .isclr f => some ⟨30, 0#6, 0#6, 0#6, 8#6, f⟩
  | .trap a f => some ⟨33, 0#6, a, 0#6, 0#6, f⟩
  | .eret f => some ⟨33, 0#6, 0#6, 0#6, 1#6, f⟩
  | .tlbinv a b f => some ⟨33, 0#6, a, b, 2#6, f⟩
  | .whlset a b f => some ⟨33, 0#6, a, b, 3#6, f⟩
  | .whlsw a f => some ⟨33, 0#6, a, 0#6, 4#6, f⟩
  | .bankret a f => some ⟨33, 0#6, a, 0#6, 5#6, f⟩
  | .dbrk f => some ⟨33, 0#6, 0#6, 0#6, 6#6, f⟩
  | .tracew a f => some ⟨33, 0#6, a, 0#6, 7#6, f⟩
  | .vld d a i f => some ⟨36, d, a, i.extractLsb' 6 6, i.extractLsb' 0 6, f⟩
  | .vst d a i f => some ⟨37, d, a, i.extractLsb' 6 6, i.extractLsb' 0 6, f⟩
  | .vldx d a b f => some ⟨38, d, a, b, 0#6, f⟩
  | .vstx d a b f => some ⟨38, d, a, b, 1#6, f⟩
  | .vadd d a b f => some ⟨39, d, a, b, 0#6, f⟩
  | .vsub d a b f => some ⟨39, d, a, b, 1#6, f⟩
  | .vmul d a b f => some ⟨39, d, a, b, 2#6, f⟩
  | .vdiv d a b f => some ⟨39, d, a, b, 3#6, f⟩
  | .vmin d a b f => some ⟨39, d, a, b, 4#6, f⟩
  | .vmax d a b f => some ⟨39, d, a, b, 5#6, f⟩
  | .vsqrt d a f => some ⟨39, d, a, 0#6, 6#6, f⟩
  | .vrcp d a f => some ⟨39, d, a, 0#6, 7#6, f⟩
  | .vrsq d a f => some ⟨39, d, a, 0#6, 8#6, f⟩
  | .vexp2 d a f => some ⟨39, d, a, 0#6, 9#6, f⟩
  | .vlog2 d a f => some ⟨39, d, a, 0#6, 10#6, f⟩
  | .vabs d a f => some ⟨39, d, a, 0#6, 11#6, f⟩
  | .vneg d a f => some ⟨39, d, a, 0#6, 12#6, f⟩
  | .vrint d a f => some ⟨39, d, a, 0#6, 13#6, f⟩
  | .vfma d a b f => some ⟨40, d, a, b, 0#6, f⟩
  | .vfms d a b f => some ⟨40, d, a, b, 1#6, f⟩
  | .vfnma d a b f => some ⟨40, d, a, b, 2#6, f⟩
  | .viadd d a b f => some ⟨41, d, a, b, 0#6, f⟩
  | .visub d a b f => some ⟨41, d, a, b, 1#6, f⟩
  | .vimul d a b f => some ⟨41, d, a, b, 2#6, f⟩
  | .vimulh d a b f => some ⟨41, d, a, b, 3#6, f⟩
  | .vand d a b f => some ⟨41, d, a, b, 4#6, f⟩
  | .vor d a b f => some ⟨41, d, a, b, 5#6, f⟩
  | .vxor d a b f => some ⟨41, d, a, b, 6#6, f⟩
  | .vshl d a b f => some ⟨41, d, a, b, 7#6, f⟩
  | .vshr d a b f => some ⟨41, d, a, b, 8#6, f⟩
  | .vsar d a b f => some ⟨41, d, a, b, 9#6, f⟩
  | .vimin d a b f => some ⟨41, d, a, b, 10#6, f⟩
  | .vimax d a b f => some ⟨41, d, a, b, 11#6, f⟩
  | .viminn d a b f => some ⟨41, d, a, b, 12#6, f⟩
  | .vimaxn d a b f => some ⟨41, d, a, b, 13#6, f⟩
  | .vimulhn d a b f => some ⟨41, d, a, b, 14#6, f⟩
  | .vcvt d a s t f => some ⟨42, d, a, 0#2 ++ s, 0#2 ++ t, f⟩
  | .vcmp d a b c f => some ⟨43, d, a, b, c, f⟩
  | .kand d a b f => some ⟨44, d, a, b, 0#6, f⟩
  | .kor d a b f => some ⟨44, d, a, b, 1#6, f⟩
  | .kxor d a b f => some ⟨44, d, a, b, 2#6, f⟩
  | .knot d a f => some ⟨44, d, a, 0#6, 3#6, f⟩
  | .kpop d a f => some ⟨44, d, a, 0#6, 4#6, f⟩
  | .kmovw d a f => some ⟨44, d, a, 0#6, 5#6, f⟩
  | .kmovk d a f => some ⟨44, d, a, 0#6, 6#6, f⟩
  | .vradd d a f => some ⟨45, d, a, 0#6, 0#6, f⟩
  | .vrmax d a f => some ⟨45, d, a, 0#6, 1#6, f⟩
  | .vrmin d a f => some ⟨45, d, a, 0#6, 2#6, f⟩
  | .vriadd d a f => some ⟨45, d, a, 0#6, 3#6, f⟩
  | .vrand d a f => some ⟨45, d, a, 0#6, 4#6, f⟩
  | .vror d a f => some ⟨45, d, a, 0#6, 5#6, f⟩
  | .vrimax d a f => some ⟨45, d, a, 0#6, 6#6, f⟩
  | .vrimin d a f => some ⟨45, d, a, 0#6, 7#6, f⟩
  | .vbcast d a f => some ⟨46, d, a, 0#6, 0#6, f⟩
  | .vperm d a b f => some ⟨46, d, a, b, 1#6, f⟩
  | .vrot d a b f => some ⟨46, d, a, b, 2#6, f⟩
  | .vgetl d a b f => some ⟨46, d, a, b, 3#6, f⟩
  | .vsetl d a b f => some ⟨46, d, a, b, 4#6, f⟩
  | .viota d a f => some ⟨46, d, a, 0#6, 5#6, f⟩
  | .vflgr d f => some ⟨46, d, 0#6, 0#6, 6#6, f⟩
  | .vflgc f => some ⟨46, 0#6, 0#6, 0#6, 7#6, f⟩
  | .vatom d a b o p f => some ⟨47, d, a, b, o ++ 0#2 ++ p, f⟩
  | .tld d a b z g t f => some ⟨48, d, a, b, 0#3 ++ z ++ g ++ t, f⟩
  | .tst d a b f => some ⟨49, d, a, b, 0#6, f⟩
  | .tmma d a b c t f => some ⟨50, d, a, b, c ++ 0#3 ++ t, f⟩
  | .tzero d f => some ⟨51, d, 0#6, 0#6, 0#6, f⟩
  | .tscale d a b f => some ⟨51, d, a, b, 1#6, f⟩
  | .tadd d a b f => some ⟨51, d, a, b, 2#6, f⟩
  | .tgetr d a b f => some ⟨51, d, a, b, 3#6, f⟩
  | .tputr d a b f => some ⟨51, d, a, b, 4#6, f⟩
  | .tmask d a b f => some ⟨51, d, a, b, 5#6, f⟩
  | .twait f => some ⟨51, 0#6, 0#6, 0#6, 6#6, f⟩
  | .tcmd a b f => some ⟨52, 0#6, a, b, 0#6, f⟩
  | .kvcommit d a b f => some ⟨53, d, a, b, 0#6, f⟩
  | .bitf d b f => some ⟨13, d, 0#6, b, 0#6, f⟩
  | .batCas d a b z f => some ⟨21, d, a, b, z ++ 9#5, f⟩
  | .rat d a b f => some ⟨25, d, a, b, 4#6, f⟩
  | .vsel d a b f => some ⟨44, d, a, b, 7#6, f⟩
  | .getc d r f => some ⟨31, d, 0, r.extractLsb' 6 6, r.extractLsb' 0 6, f⟩
  | .setc a r f => some ⟨32, 0, a, r.extractLsb' 6 6, r.extractLsb' 0 6, f⟩
  | .cpLaunch d f => some (Raw.creg 31 d 0 0x02F f)
  | .capOut d f => some (Raw.creg 31 d 0 0x15A f)
  | .dbgData false d f => some (Raw.creg 31 d 0 0x185 f)
  | .dbgData true a f => some (Raw.creg 32 0 a 0x185 f)
  | .trcCtl a f => some (Raw.creg 32 0 a 0x190 f)
  | .trcFdata a f => some (Raw.creg 32 0 a 0x194 f)
  | .raceClr a f => some (Raw.creg 32 0 a 0x143 f)
  | _ => none

/-! ## Lengths and operands by major -/

/-- The lengths that the opcode map permits (R41), as bits 0 to 3 for LEN 00, 01, 10 and 11. -/
def Raw.lengths (r : Raw) : Nat :=
  match r.maj.toNat with
  | 0x01 => if 21 ≤ r.fn.toNat then 5 else 15
  | 0x02 | 0x03 | 0x04 | 0x05 | 0x07 | 0x08 | 0x09 | 0x0B | 0x0C | 0x17 => 15
  | 0x0D => 12
  | 0x0E | 0x0F => 1
  | 0x15 => if r.fn.extractLsb' 0 4 = 9 then 12 else 15
  | 0x19 => if r.fn = 4 then 4 else 5
  | 0x2C => if r.fn = 7 then 4 else 5
  | 0x30 => if r.fn.extractLsb' 2 1 = 1 then 4 else 5
  | _ => 5

/-- The bit of a form in `Raw.lengths`. -/
def Form.bit : Form → Nat
  | .base => 0
  | .lit _ => 1
  | .ext _ _ => 2
  | .extLit _ _ _ => 3

/-- Whether the major opcode is of form I (R28, R41). -/
def Raw.formI (r : Raw) : Bool :=
  [0x02, 0x03, 0x04, 0x05, 0x06, 0x07, 0x11, 0x12, 0x13, 0x1F, 0x20, 0x24, 0x25].contains r.maj.toNat

/-- Majors whose extended form adds only the guard (R170, R215, R229, R263, R273), `FENCE` apart. -/
def Raw.guardOnly (r : Raw) : Bool :=
  [0x1A, 0x1C, 0x1D, 0x1E, 0x21, 0x32, 0x34].contains r.maj.toNat && !(r.maj = 0x1A && r.fn.toNat ≥ 1)

/-- Whether D is a scalar destination, so that `q0` to `q7` and the end marker may stand there (R30, R34). -/
def Raw.scalarDest (r : Raw) : Bool :=
  match r.maj.toNat with
  | 0x01 | 0x02 | 0x03 | 0x04 | 0x05 | 0x06 | 0x07 | 0x0B | 0x0C | 0x0D | 0x11 | 0x12 | 0x15 | 0x17 | 0x1F
  | 0x2D | 0x35 => true
  | 0x0A => r.fn = 7
  | 0x10 => r.fn = 1 || r.fn = 3
  | 0x14 => r.fn.extractLsb' 2 1 = 0
  | 0x18 => r.fn = 3
  | 0x19 => r.fn = 0 || r.fn = 4
  | 0x1A => r.fn = 1 || r.fn = 3
  | 0x1B => r.fn ≠ 2
  | 0x2C => r.fn = 4 || r.fn = 5
  | 0x2E => r.fn = 3
  | 0x33 => r.fn = 3
  | _ => false

/-- The scalar data operands of an instruction, as specifiers, for the buffer rule (R36). A literal takes the place
of B (R33). -/
def Raw.dataOps (r : Raw) : List (BitVec 6) :=
  let b := match r.f with | .lit _ | .extLit _ _ _ => [] | _ => [r.b]
  match r.maj.toNat with
  | 0x01 => if 21 ≤ r.fn.toNat then [r.d, r.a] else r.d :: r.a :: b
  | 0x02 | 0x03 | 0x04 | 0x05 | 0x06 => [r.d, r.a]
  | 0x07 => [r.d]
  | 0x08 => r.a :: b
  | 0x09 => [r.a]
  | 0x0A => if r.fn = 7 then [r.d] else if r.fn = 8 then [r.a] else []
  | 0x0B | 0x0C | 0x15 | 0x17 => r.d :: r.a :: b
  | 0x0D => r.d :: b
  | 0x10 => match r.fn.toNat with
    | 0 | 2 | 5 => [r.a]
    | 1 => [r.d, r.a]
    | 3 => [r.d, r.a, r.b]
    | 4 => [r.a, r.b]
    | _ => []
  | 0x11 | 0x12 | 0x13 => [r.d, r.a]
  | 0x14 => [r.d, r.a, r.b]
  | 0x16 => [r.a, r.b]
  | 0x18 => match r.fn.toNat with
    | 0 | 1 => [r.a, r.b]
    | 2 => [r.a]
    | _ => [r.d, r.a]
  | 0x19 => match r.fn.toNat with
    | 0 | 2 => [r.d, r.a]
    | 1 | 3 => [r.a, r.b]
    | _ => [r.d, r.a, r.b]
  | 0x1A => match r.fn.toNat with
    | 1 => [r.d, r.a, r.b]
    | 3 => [r.d]
    | _ => []
  | 0x1B => match r.fn.toNat with
    | 0 | 1 => [r.d, r.a, r.b]
    | 5 => [r.d]
    | _ => [r.d, r.b]
  | 0x1F => [r.d]
  | 0x20 => [r.a]
  | 0x24 | 0x25 | 0x26 | 0x30 | 0x31 => [r.a]
  | 0x33 => match r.fn.toNat with
    | 1 => [r.b]
    | 3 => [r.d, r.b]
    | 4 | 5 => [r.a, r.b]
    | _ => []
  | 0x35 => [r.d, r.a, r.b]
  | _ => []

/-- Whether a specifier names a buffer handle `b0` to `b7` (R34). -/
def isHandle (x : BitVec 6) : Bool := 40 ≤ x.toNat && x.toNat ≤ 47

/-- Whether a specifier names a port register `q0` to `q7` (R34). -/
def isPort (x : BitVec 6) : Bool := 32 ≤ x.toNat && x.toNat ≤ 39

/-- Whether the instruction reads a register that C names (R30). -/
def Raw.usesC (r : Raw) (x : Ext) : Bool :=
  match r.maj.toNat with
  | 0x15 => r.fn.extractLsb' 0 4 = 9
  | 0x19 => r.fn = 4 && x.xfn.extractLsb' 0 4 = 9
  | 0x24 | 0x25 => x.xfn.extractLsb' 3 1 = 1
  | 0x28 | 0x2F => true
  | 0x2C => r.fn = 7
  | 0x30 => r.fn.extractLsb' 2 1 = 1
  | _ => false

/-- Majors in which CB = 1 is no illegal instruction: those with scalar data operands, and the vector and tile accesses with a
buffer as base (R36, R114, R137, R140). A handle where R195 gives no use for it is an illegal operand. -/
def Raw.mayCb (r : Raw) : Bool :=
  let m := r.maj.toNat
  (1 ≤ m && m ≤ 0x20 && !r.guardOnly) || [0x24, 0x25, 0x26, 0x30, 0x31, 0x33, 0x35].contains m

/-! ## Types, rounding and flags -/

def intTypes : List Nat := [0, 1, 2, 3, 4, 5]
def floatTypes : List Nat := [8, 9, 10]

/-- The type codes the instruction accepts in its extended form (R37, R114); `[0]` where TYPE is unused. -/
def Raw.types (r : Raw) : List Nat :=
  match r.maj.toNat with
  | 0x19 => if r.fn = 4 then [5, 7] else [0]
  | 0x24 | 0x25 | 0x26 => [0, 1, 2, 3, 4, 5, 8, 9, 10, 13]
  | 0x27 | 0x28 => floatTypes
  | 0x29 => intTypes
  | 0x2B => if 6 ≤ r.fn.toNat then floatTypes else intTypes ++ floatTypes
  | 0x2D => if r.fn.toNat ≤ 2 then floatTypes else intTypes
  | 0x2E => if r.fn = 3 then [4, 5] else [5]
  | 0x2F => match (r.fn.extractLsb' 0 3).toNat with
    | 4 | 5 => [4, 5]
    | 6 => [10]
    | 7 => [9]
    | _ => [4]
  | _ => [0]

/-- Whether Q may be set (R30, R114, R143). -/
def Raw.usesQ (r : Raw) (x : Ext) : Bool :=
  match r.maj.toNat with
  | 0x27 | 0x28 | 0x2A | 0x32 => true
  | 0x2B => floatTypes.contains x.ty.toNat
  | 0x2D => r.fn.toNat ≤ 2
  | 0x33 => r.fn = 1 || r.fn = 2
  | _ => false

/-- Whether RM may be set (R30, R114, R137, R143). -/
def Raw.usesRm (r : Raw) : Bool :=
  match r.maj.toNat with
  | 0x27 | 0x28 | 0x2A | 0x30 => true
  | 0x2D => r.fn = 0
  | 0x2F => 6 ≤ (r.fn.extractLsb' 0 3).toNat
  | 0x33 => r.fn = 1 || r.fn = 2
  | _ => false

/-- The ordering qualifiers of R40 an access may carry, as values of XFN[5:4]; `[0]` for none. -/
def Raw.quals (r : Raw) : List Nat :=
  match r.maj.toNat with
  | 0x11 | 0x12 | 0x24 => [0, 1]
  | 0x13 | 0x25 => [0, 2]
  | 0x14 => if r.fn.extractLsb' 2 1 = 1 then [0, 2] else [0, 1]
  | 0x15 => [0, 1, 2, 3]
  | 0x19 => match r.fn.toNat with
    | 0 => [0, 1]
    | 1 => [0, 2]
    | 4 => [0, 1, 2, 3]
    | _ => [0]
  | _ => [0]

/-- XFN, as the opcode map assigns it (R41). -/
def Raw.xfnOk (r : Raw) (x : Ext) : Bool :=
  let q := (x.xfn.extractLsb' 4 2).toNat
  let lo := (x.xfn.extractLsb' 0 4).toNat
  match r.maj.toNat with
  | 0x0D => true
  | 0x11 | 0x12 | 0x13 | 0x14 | 0x15 => r.quals.contains q && lo = 0
  | 0x19 => if r.fn = 4 then lo ≤ 11 && (lo < 10 || x.ty = 5) else r.quals.contains q && lo = 0
  | 0x1A => if r.fn = 1 then x.xfn.toNat ≤ 1 else x.xfn = 0
  | 0x24 | 0x25 => r.quals.contains q
  | 0x26 | 0x27 | 0x28 | 0x29 | 0x2A | 0x2B | 0x2D | 0x2F => x.xfn.toNat ≤ 7
  | 0x2E => if r.fn = 3 then x.xfn = 0 else x.xfn.toNat ≤ 7
  | _ => x.xfn = 0

/-- SCOPE: any scope code on `FENCE`, and on a qualified access; otherwise zero (R39, R40). -/
def Raw.scopeOk (r : Raw) (x : Ext) : Bool :=
  if r.maj = 0x1C && r.fn.extractLsb' 0 3 = 0 then x.scope.toNat ≤ 5
  else if r.quals ≠ [0] && x.xfn.extractLsb' 4 2 ≠ 0 then x.scope.toNat ≤ 5
  else x.scope = 0

/-- IMM32 where the words are of LEN 10 or 11 (R32, R41). -/
def Raw.immOk (r : Raw) (imm : Word32) (lit : Bool) : Bool :=
  match r.maj.toNat with
  | 0x02 | 0x03 | 0x04 | 0x05 | 0x07 | 0x09 => !lit || imm = 0
  | 0x06 => imm.extractLsb' 8 24 = 0
  | 0x0C | 0x15 | 0x17 => true
  | 0x0D => imm.extractLsb' 6 2 = 0 && imm.extractLsb' 10 22 = 0 && imm.extractLsb' 8 2 ≠ 3
  | 0x11 | 0x13 => true
  | 0x12 => imm.extractLsb' 30 2 ≠ 3
  | 0x16 => imm.extractLsb' 16 16 = 0
  | 0x19 => if r.fn = 1 || r.fn = 3 then imm.extractLsb' 16 16 = 0 else imm = 0
  | 0x1F | 0x20 => imm.toNat ≤ 0xFFF
  | 0x24 | 0x25 | 0x30 | 0x31 => true
  | _ => imm = 0

/-- The extension word (R30, R31, R36). -/
def Raw.extOk (r : Raw) (x : Ext) : Bool :=
  (if x.g = 1 then !(x.gn = 1 && x.gp = 31) else x.gn = 0 && x.gp = 0)
  && (x.q = 0 || r.usesQ x)
  && (if r.usesRm then x.rm.toNat ≤ 4 else x.rm = 0)
  && r.scopeOk x
  && r.types.contains x.ty.toNat
  && (x.e = 0 || (r.scalarDest && isPort r.d && !r.guardOnly))
  && r.xfnOk x
  && (if x.cb = 1 then r.mayCb && !r.usesC x && r.dataOps.any isHandle else r.usesC x || x.c = 0)
  && (r.maj ≠ 0x2C || r.fn ≠ 7 || x.c.toNat ≤ 7)

/-- The function field and the sub-fields of the base word that the encoding table leaves to the instruction (R41). -/
def Raw.fnOk (r : Raw) : Bool :=
  match r.maj.toNat with
  | 0x08 => r.fn.toNat ≤ 11
  | 0x09 => r.b.toNat ≤ 11
  | 0x12 => r.b.extractLsb' 4 2 ≠ 3
  | 0x14 => !(r.fn.extractLsb' 3 1 = 1 && (r.fn.extractLsb' 2 1 = 1 || r.fn.extractLsb' 0 2 = 3))
  | 0x15 => (r.fn.extractLsb' 0 4).toNat ≤ 11 && ((r.fn.extractLsb' 0 4).toNat < 10 || r.fn.extractLsb' 5 1 = 1)
  | 0x17 => r.fn.toNat ≤ 2
  | 0x2B => r.fn.toNat ≤ 7
  | 0x1C => r.fn.extractLsb' 0 3 ≠ 0 ||
      (r.fn.extractLsb' 4 2 ≠ 3 && r.b.toNat ≤ 5 && (r.f.bit = 0 || r.b = 0))
  | 0x2A => [0, 1, 2, 3, 4, 5, 8, 9, 10, 13].contains r.fn.toNat && [0, 1, 2, 3, 4, 5, 8, 9, 10, 13].contains r.b.toNat
  | 0x30 => !(r.fn.extractLsb' 1 1 = 1 && r.fn.extractLsb' 0 1 = 0)
  | 0x32 => (r.fn.extractLsb' 0 2).toNat ≤ 2
  | 0x0E | 0x0F => r.d ≠ 0x3F
  | _ => true

/-- A base-word field that a literal or an extended form empties is zero (R18, R33). -/
def Raw.emptyOk (r : Raw) : Bool :=
  if r.formI then r.f.bit = 0 || (r.b = 0 && r.fn = 0)
  else if r.maj = 0x09 then r.f.bit = 0 || r.fn = 0
  else r.f.bit % 2 = 0 || r.b = 0

/-- The checks of the words beyond the opcode map (R43 order 2). -/
def Raw.wf (r : Raw) : Bool :=
  r.lengths.testBit r.f.bit && r.fnOk && r.emptyOk &&
  match r.f with
  | .base | .lit _ => true
  | .ext x imm => r.extOk x && r.immOk imm false
  | .extLit x imm _ => r.extOk x && r.immOk imm true

/-- Words that another constructor stands for: of registers that have a row of their own in the opcode table, `getc` and `setc` do not
name them, and their own rows name no other. -/
def Instr.ownRow : Instr → Bool
  | .getc d r f => [0x02F, 0x15A, 0x185].contains (Raw.number ⟨31, d, 0, r.extractLsb' 6 6, r.extractLsb' 0 6, f⟩)
  | .setc a r f =>
    [0x143, 0x185, 0x190, 0x194].contains (Raw.number ⟨32, 0, a, r.extractLsb' 6 6, r.extractLsb' 0 6, f⟩)
  | .bat _ _ _ _ o _ => o = 9
  | .cpLaunch _ f => (Raw.creg 31 0 0 0x02F f).number ≠ 0x02F
  | .capOut _ f => (Raw.creg 31 0 0 0x15A f).number ≠ 0x15A
  | .dbgData _ _ f => (Raw.creg 31 0 0 0x185 f).number ≠ 0x185
  | .trcCtl _ f => (Raw.creg 32 0 0 0x190 f).number ≠ 0x190
  | .trcFdata _ f => (Raw.creg 32 0 0 0x194 f).number ≠ 0x194
  | .raceClr _ f => (Raw.creg 32 0 0 0x143 f).number ≠ 0x143
  | _ => false

/-- A well-formed machine instruction: its words pass the checks that decide cause 0x01 from the encoding alone. -/
def Instr.wf (i : Instr) : Bool :=
  match i.raw with
  | some r => r.wf && !i.ownRow
  | none => false

/-- A well-formed filter instruction (R312, R313): the reserved fields have no place in the syntax, so only the field
number of `LDF` is checked. -/
def Instr.filterWf : Instr → Bool
  | .ldf _ n => n.toNat ≤ 9
  | .ldi _ _ | .filterAdd _ _ | .filterSub _ _ | .filterAnd _ _ | .filterOr _ _ | .filterShr _ _ | .jeq _ _ _
  | .jne _ _ _ | .jlt _ _ _ | .cnt _ | .keep | .drop | .trig _ | .mark _ => true
  | _ => false

end Sys2Proof
end

