-- ==== Sys2Proof/Decode.lean ====
section
/-! DEFINITION. The decoder and the encoder (R24 to R44): bytes to an instruction or none, and an instruction to its
words. Words that fail the checks of order 2 of R43 decode to none. -/

namespace Sys2Proof

/-- Major 0x00 of the opcode map (R41). -/
def Raw.maj00 (r : Raw) : Option Instr :=
  if r.d = 0 ∧ r.a = 0 ∧ r.b = 0 ∧ r.fn = 0 then some (.nop r.f)
  else if r.d = 0 ∧ r.a = 0 ∧ r.b = 0 ∧ r.fn = 1 then some (.yield r.f)
  else if r.d = 0 ∧ r.a = 0 ∧ r.b = 0 ∧ r.fn = 2 then some (.realign r.f)
  else none

/-- Major 0x01 of the opcode map (R41). -/
def Raw.maj01 (r : Raw) : Option Instr :=
  if r.b = 0 ∧ r.fn = 21 then some (.clz r.d r.a r.f)
  else if r.b = 0 ∧ r.fn = 22 then some (.popc r.d r.a r.f)
  else if r.b = 0 ∧ r.fn = 23 then some (.ctz r.d r.a r.f)
  else if r.fn = 0 then some (.add r.d r.a r.b r.f)
  else if r.fn = 1 then some (.sub r.d r.a r.b r.f)
  else if r.fn = 2 then some (.and r.d r.a r.b r.f)
  else if r.fn = 3 then some (.or r.d r.a r.b r.f)
  else if r.fn = 4 then some (.xor r.d r.a r.b r.f)
  else if r.fn = 5 then some (.andn r.d r.a r.b r.f)
  else if r.fn = 6 then some (.shl r.d r.a r.b r.f)
  else if r.fn = 7 then some (.shr r.d r.a r.b r.f)
  else if r.fn = 8 then some (.sar r.d r.a r.b r.f)
  else if r.fn = 9 then some (.rol r.d r.a r.b r.f)
  else if r.fn = 10 then some (.min r.d r.a r.b r.f)
  else if r.fn = 11 then some (.max r.d r.a r.b r.f)
  else if r.fn = 12 then some (.minn r.d r.a r.b r.f)
  else if r.fn = 13 then some (.maxn r.d r.a r.b r.f)
  else if r.fn = 14 then some (.mul r.d r.a r.b r.f)
  else if r.fn = 15 then some (.mulh r.d r.a r.b r.f)
  else if r.fn = 16 then some (.mulhn r.d r.a r.b r.f)
  else if r.fn = 17 then some (.div r.d r.a r.b r.f)
  else if r.fn = 18 then some (.divn r.d r.a r.b r.f)
  else if r.fn = 19 then some (.rem r.d r.a r.b r.f)
  else if r.fn = 20 then some (.remn r.d r.a r.b r.f)
  else none

/-- Major 0x02 of the opcode map (R41). -/
def Raw.maj02 (r : Raw) : Option Instr :=
  some (.addi r.d r.a (r.b ++ r.fn) r.f)

/-- Major 0x03 of the opcode map (R41). -/
def Raw.maj03 (r : Raw) : Option Instr :=
  some (.andi r.d r.a (r.b ++ r.fn) r.f)

/-- Major 0x04 of the opcode map (R41). -/
def Raw.maj04 (r : Raw) : Option Instr :=
  some (.ori r.d r.a (r.b ++ r.fn) r.f)

/-- Major 0x05 of the opcode map (R41). -/
def Raw.maj05 (r : Raw) : Option Instr :=
  some (.xori r.d r.a (r.b ++ r.fn) r.f)

/-- Major 0x06 of the opcode map (R41). -/
def Raw.maj06 (r : Raw) : Option Instr :=
  if r.b.extractLsb' 2 4 = 0 then some (.shfi r.d r.a (r.b.extractLsb' 0 2) r.fn r.f)
  else none

/-- Major 0x07 of the opcode map (R41). -/
def Raw.maj07 (r : Raw) : Option Instr :=
  if r.a = 0 then some (.movi r.d (r.b ++ r.fn) r.f)
  else none

/-- Major 0x08 of the opcode map (R41). -/
def Raw.maj08 (r : Raw) : Option Instr :=
  some (.cmp r.d r.a r.b r.fn r.f)

/-- Major 0x09 of the opcode map (R41). -/
def Raw.maj09 (r : Raw) : Option Instr :=
  some (.cmpi r.d r.a r.b r.fn r.f)

/-- Major 0x0A of the opcode map (R41). -/
def Raw.maj0A (r : Raw) : Option Instr :=
  if r.a = 0 ∧ r.b = 0 ∧ r.fn = 5 then some (.pset r.d r.f)
  else if r.a = 0 ∧ r.b = 0 ∧ r.fn = 6 then some (.pclr r.d r.f)
  else if r.a = 0 ∧ r.b = 0 ∧ r.fn = 7 then some (.pmovr r.d r.f)
  else if r.d = 0 ∧ r.b = 0 ∧ r.fn = 8 then some (.pmovw r.a r.f)
  else if r.b = 0 ∧ r.fn = 4 then some (.pnot r.d r.a r.f)
  else if r.fn = 0 then some (.pand r.d r.a r.b r.f)
  else if r.fn = 1 then some (.por r.d r.a r.b r.f)
  else if r.fn = 2 then some (.pxor r.d r.a r.b r.f)
  else if r.fn = 3 then some (.pandn r.d r.a r.b r.f)
  else none

/-- Major 0x0B of the opcode map (R41). -/
def Raw.maj0B (r : Raw) : Option Instr :=
  some (.sel r.d r.a r.b (r.fn.extractLsb' 5 1) (r.fn.extractLsb' 0 5) r.f)

/-- Major 0x0C of the opcode map (R41). -/
def Raw.maj0C (r : Raw) : Option Instr :=
  if r.fn.extractLsb' 2 4 = 0 then some (.lea r.d r.a r.b (r.fn.extractLsb' 0 2) r.f)
  else none

/-- Major 0x0D of the opcode map (R41). -/
def Raw.maj0D (r : Raw) : Option Instr :=
  if r.a = 0 ∧ r.fn = 0 then some (.bitf r.d r.b r.f)
  else none

/-- Major 0x0E of the opcode map (R41). -/
def Raw.maj0E (r : Raw) : Option Instr :=
  if r.f = .base then some (.br (r.d.extractLsb' 5 1) (r.d.extractLsb' 0 5) (r.a ++ r.b ++ r.fn))
  else none

/-- Major 0x0F of the opcode map (R41). -/
def Raw.maj0F (r : Raw) : Option Instr :=
  if r.f = .base then some (.call (r.d.extractLsb' 5 1) (r.d.extractLsb' 0 5) (r.a ++ r.b ++ r.fn))
  else none

/-- Major 0x10 of the opcode map (R41). -/
def Raw.maj10 (r : Raw) : Option Instr :=
  if r.d = 0 ∧ r.a = 0 ∧ r.b.extractLsb' 4 2 = 0 ∧ r.fn = 6 then some (.semwait (r.b.extractLsb' 0 4) r.f)
  else if r.d = 0 ∧ r.a = 0 ∧ r.b.extractLsb' 4 2 = 0 ∧ r.fn = 7 then some (.sempost (r.b.extractLsb' 0 4) r.f)
  else if r.d = 0 ∧ r.b = 0 ∧ r.fn = 0 then some (.jmpr r.a r.f)
  else if r.d = 0 ∧ r.b = 0 ∧ r.fn = 2 then some (.ret r.a r.f)
  else if r.d = 0 ∧ r.b = 0 ∧ r.fn = 5 then some (.wpset r.a r.f)
  else if r.b = 0 ∧ r.fn = 1 then some (.callg r.d r.a r.f)
  else if r.d = 0 ∧ r.fn = 4 then some (.reply r.a r.b r.f)
  else if r.fn = 3 then some (.callrm r.d r.a r.b r.f)
  else none

/-- Major 0x11 of the opcode map (R41). -/
def Raw.maj11 (r : Raw) : Option Instr :=
  some (.ld r.d r.a (r.b.extractLsb' 4 2) (r.b.extractLsb' 0 4 ++ r.fn) r.f)

/-- Major 0x12 of the opcode map (R41). -/
def Raw.maj12 (r : Raw) : Option Instr :=
  some (.lds r.d r.a (r.b.extractLsb' 4 2) (r.b.extractLsb' 0 4 ++ r.fn) r.f)

/-- Major 0x13 of the opcode map (R41). -/
def Raw.maj13 (r : Raw) : Option Instr :=
  some (.st r.d r.a (r.b.extractLsb' 4 2) (r.b.extractLsb' 0 4 ++ r.fn) r.f)

/-- Major 0x14 of the opcode map (R41). -/
def Raw.maj14 (r : Raw) : Option Instr :=
  if r.fn.extractLsb' 2 2 = 1 then some (.stx r.d r.a r.b (r.fn.extractLsb' 4 2) (r.fn.extractLsb' 0 2) r.f)
  else if r.fn.extractLsb' 2 1 = 0 then some (.ldx r.d r.a r.b (r.fn.extractLsb' 4 2) (r.fn.extractLsb' 3 1) (r.fn.extractLsb' 0 2) r.f)
  else none

/-- Major 0x15 of the opcode map (R41). -/
def Raw.maj15 (r : Raw) : Option Instr :=
  if r.fn.extractLsb' 0 5 = 9 then some (.batCas r.d r.a r.b (r.fn.extractLsb' 5 1) r.f)
  else if r.fn.extractLsb' 4 1 = 0 then some (.bat r.d r.a r.b (r.fn.extractLsb' 5 1) (r.fn.extractLsb' 0 4) r.f)
  else none

/-- Major 0x16 of the opcode map (R41). -/
def Raw.maj16 (r : Raw) : Option Instr :=
  if r.d = 0 ∧ r.fn = 0 then some (.bst r.a r.b r.f)
  else if r.d = 0 ∧ r.fn = 1 then some (.bld r.a r.b r.f)
  else none

/-- Major 0x17 of the opcode map (R41). -/
def Raw.maj17 (r : Raw) : Option Instr :=
  some (.waitw r.d r.a r.b r.fn r.f)

/-- Major 0x18 of the opcode map (R41). -/
def Raw.maj18 (r : Raw) : Option Instr :=
  if r.d = 0 ∧ r.b = 0 ∧ r.fn = 2 then some (.wturn r.a r.f)
  else if r.d = 0 ∧ r.fn = 0 then some (.seal r.a r.b r.f)
  else if r.d = 0 ∧ r.fn = 1 then some (.unseal r.a r.b r.f)
  else if r.b = 0 ∧ r.fn = 3 then some (.turnq r.d r.a r.f)
  else none

/-- Major 0x19 of the opcode map (R41). -/
def Raw.maj19 (r : Raw) : Option Instr :=
  if r.b = 0 ∧ r.fn = 0 then some (.rld r.d r.a r.f)
  else if r.d = 0 ∧ r.fn = 1 then some (.rst r.a r.b r.f)
  else if r.b = 0 ∧ r.fn = 2 then some (.rldv r.d r.a r.f)
  else if r.d = 0 ∧ r.fn = 3 then some (.rstv r.a r.b r.f)
  else if r.fn = 4 then some (.rat r.d r.a r.b r.f)
  else none

/-- Major 0x1A of the opcode map (R41). -/
def Raw.maj1A (r : Raw) : Option Instr :=
  if r.d = 0 ∧ r.b = 0 ∧ r.fn = 2 then some (.pclose r.a r.f)
  else if r.b = 0 ∧ r.fn = 0 then some (.pbind r.d r.a r.f)
  else if r.b = 0 ∧ r.fn = 3 then some (.pstat r.d r.a r.f)
  else if r.fn = 1 then some (.mcast r.d r.a r.b r.f)
  else none

/-- Major 0x1B of the opcode map (R41). -/
def Raw.maj1B (r : Raw) : Option Instr :=
  if r.b = 0 ∧ r.fn = 5 then some (.cbstat r.d r.a r.f)
  else if r.fn = 0 then some (.cpfwd r.d r.a r.b r.f)
  else if r.fn = 1 then some (.cpwait r.d r.a r.b r.f)
  else if r.fn = 2 then some (.cbinit r.d r.a r.b r.f)
  else if r.fn = 3 then some (.cbprod r.d r.a r.b r.f)
  else if r.fn = 4 then some (.cbcons r.d r.a r.b r.f)
  else none

/-- Major 0x1C of the opcode map (R41). -/
def Raw.maj1C (r : Raw) : Option Instr :=
  if r.d = 0 ∧ r.a = 0 ∧ r.b.extractLsb' 3 3 = 0 ∧ r.fn.extractLsb' 0 3 = 0 then some (.fence (r.b.extractLsb' 0 3) (r.fn.extractLsb' 4 2) (r.fn.extractLsb' 3 1) r.f)
  else if r.d = 0 ∧ r.fn = 1 then some (.bari r.a r.b r.f)
  else if r.d = 0 ∧ r.fn = 3 then some (.barw r.a r.b r.f)
  else if r.b = 0 ∧ r.fn = 4 then some (.bart r.d r.a r.f)
  else if r.fn = 2 then some (.bara r.d r.a r.b r.f)
  else none

/-- Major 0x1D of the opcode map (R41). -/
def Raw.maj1D (r : Raw) : Option Instr :=
  if r.d = 0 ∧ r.a = 0 ∧ r.b = 0 ∧ r.fn = 3 then some (.endT r.f)
  else if r.d = 0 ∧ r.a = 0 ∧ r.b = 0 ∧ r.fn = 11 then some (.rgexit r.f)
  else if r.d = 0 ∧ r.b = 0 ∧ r.fn = 4 then some (.migr r.a r.f)
  else if r.a = 0 ∧ r.b = 0 ∧ r.fn = 5 then some (.disp r.d r.f)
  else if r.d = 0 ∧ r.b = 0 ∧ r.fn = 6 then some (.tdone r.a r.f)
  else if r.d = 0 ∧ r.b = 0 ∧ r.fn = 7 then some (.planw r.a r.f)
  else if r.a = 0 ∧ r.b = 0 ∧ r.fn = 8 then some (.plansw r.d r.f)
  else if r.d = 0 ∧ r.b = 0 ∧ r.fn = 9 then some (.rgsync r.a r.f)
  else if r.d = 0 ∧ r.b = 0 ∧ r.fn = 10 then some (.rgenter r.a r.f)
  else if r.d = 0 ∧ r.b = 0 ∧ r.fn = 12 then some (.trel r.a r.f)
  else if r.d = 0 ∧ r.fn = 1 then some (.enq r.a r.b r.f)
  else if r.d = 0 ∧ r.fn = 2 then some (.park r.a r.b r.f)
  else if r.fn = 0 then some (.spawn r.d r.a r.b r.f)
  else none

/-- Major 0x1E of the opcode map (R41). -/
def Raw.maj1E (r : Raw) : Option Instr :=
  if r.d = 0 ∧ r.a = 0 ∧ r.b = 0 ∧ r.fn = 1 then some (.isrel r.f)
  else if r.d = 0 ∧ r.a = 0 ∧ r.b = 0 ∧ r.fn = 8 then some (.isclr r.f)
  else if r.a = 0 ∧ r.b = 0 ∧ r.fn = 0 then some (.isclaim r.d r.f)
  else if r.d = 0 ∧ r.b = 0 ∧ r.fn = 2 then some (.iswin r.a r.f)
  else if r.d = 0 ∧ r.b = 0 ∧ r.fn = 3 then some (.ismode r.a r.f)
  else if r.d = 0 ∧ r.b = 0 ∧ r.fn = 4 then some (.isldw r.a r.f)
  else if r.d = 0 ∧ r.b = 0 ∧ r.fn = 5 then some (.isldv r.a r.f)
  else if r.d = 0 ∧ r.b = 0 ∧ r.fn = 6 then some (.isgo r.a r.f)
  else if r.d = 0 ∧ r.fn = 7 then some (.iscap r.a r.b r.f)
  else none

/-- Major 0x21 of the opcode map (R41). -/
def Raw.maj21 (r : Raw) : Option Instr :=
  if r.d = 0 ∧ r.a = 0 ∧ r.b = 0 ∧ r.fn = 1 then some (.eret r.f)
  else if r.d = 0 ∧ r.a = 0 ∧ r.b = 0 ∧ r.fn = 6 then some (.dbrk r.f)
  else if r.d = 0 ∧ r.b = 0 ∧ r.fn = 0 then some (.trap r.a r.f)
  else if r.d = 0 ∧ r.b = 0 ∧ r.fn = 4 then some (.whlsw r.a r.f)
  else if r.d = 0 ∧ r.b = 0 ∧ r.fn = 5 then some (.bankret r.a r.f)
  else if r.d = 0 ∧ r.b = 0 ∧ r.fn = 7 then some (.tracew r.a r.f)
  else if r.d = 0 ∧ r.fn = 2 then some (.tlbinv r.a r.b r.f)
  else if r.d = 0 ∧ r.fn = 3 then some (.whlset r.a r.b r.f)
  else none

/-- Major 0x24 of the opcode map (R41). -/
def Raw.maj24 (r : Raw) : Option Instr :=
  some (.vld r.d r.a (r.b ++ r.fn) r.f)

/-- Major 0x25 of the opcode map (R41). -/
def Raw.maj25 (r : Raw) : Option Instr :=
  some (.vst r.d r.a (r.b ++ r.fn) r.f)

/-- Major 0x26 of the opcode map (R41). -/
def Raw.maj26 (r : Raw) : Option Instr :=
  if r.fn = 0 then some (.vldx r.d r.a r.b r.f)
  else if r.fn = 1 then some (.vstx r.d r.a r.b r.f)
  else none

/-- Major 0x27 of the opcode map (R41). -/
def Raw.maj27 (r : Raw) : Option Instr :=
  if r.b = 0 ∧ r.fn = 6 then some (.vsqrt r.d r.a r.f)
  else if r.b = 0 ∧ r.fn = 7 then some (.vrcp r.d r.a r.f)
  else if r.b = 0 ∧ r.fn = 8 then some (.vrsq r.d r.a r.f)
  else if r.b = 0 ∧ r.fn = 9 then some (.vexp2 r.d r.a r.f)
  else if r.b = 0 ∧ r.fn = 10 then some (.vlog2 r.d r.a r.f)
  else if r.b = 0 ∧ r.fn = 11 then some (.vabs r.d r.a r.f)
  else if r.b = 0 ∧ r.fn = 12 then some (.vneg r.d r.a r.f)
  else if r.b = 0 ∧ r.fn = 13 then some (.vrint r.d r.a r.f)
  else if r.fn = 0 then some (.vadd r.d r.a r.b r.f)
  else if r.fn = 1 then some (.vsub r.d r.a r.b r.f)
  else if r.fn = 2 then some (.vmul r.d r.a r.b r.f)
  else if r.fn = 3 then some (.vdiv r.d r.a r.b r.f)
  else if r.fn = 4 then some (.vmin r.d r.a r.b r.f)
  else if r.fn = 5 then some (.vmax r.d r.a r.b r.f)
  else none

/-- Major 0x28 of the opcode map (R41). -/
def Raw.maj28 (r : Raw) : Option Instr :=
  if r.fn = 0 then some (.vfma r.d r.a r.b r.f)
  else if r.fn = 1 then some (.vfms r.d r.a r.b r.f)
  else if r.fn = 2 then some (.vfnma r.d r.a r.b r.f)
  else none

/-- Major 0x29 of the opcode map (R41). -/
def Raw.maj29 (r : Raw) : Option Instr :=
  if r.fn = 0 then some (.viadd r.d r.a r.b r.f)
  else if r.fn = 1 then some (.visub r.d r.a r.b r.f)
  else if r.fn = 2 then some (.vimul r.d r.a r.b r.f)
  else if r.fn = 3 then some (.vimulh r.d r.a r.b r.f)
  else if r.fn = 4 then some (.vand r.d r.a r.b r.f)
  else if r.fn = 5 then some (.vor r.d r.a r.b r.f)
  else if r.fn = 6 then some (.vxor r.d r.a r.b r.f)
  else if r.fn = 7 then some (.vshl r.d r.a r.b r.f)
  else if r.fn = 8 then some (.vshr r.d r.a r.b r.f)
  else if r.fn = 9 then some (.vsar r.d r.a r.b r.f)
  else if r.fn = 10 then some (.vimin r.d r.a r.b r.f)
  else if r.fn = 11 then some (.vimax r.d r.a r.b r.f)
  else if r.fn = 12 then some (.viminn r.d r.a r.b r.f)
  else if r.fn = 13 then some (.vimaxn r.d r.a r.b r.f)
  else if r.fn = 14 then some (.vimulhn r.d r.a r.b r.f)
  else none

/-- Major 0x2A of the opcode map (R41). -/
def Raw.maj2A (r : Raw) : Option Instr :=
  if r.b.extractLsb' 4 2 = 0 ∧ r.fn.extractLsb' 4 2 = 0 then some (.vcvt r.d r.a (r.b.extractLsb' 0 4) (r.fn.extractLsb' 0 4) r.f)
  else none

/-- Major 0x2B of the opcode map (R41). -/
def Raw.maj2B (r : Raw) : Option Instr :=
  some (.vcmp r.d r.a r.b r.fn r.f)

/-- Major 0x2C of the opcode map (R41). -/
def Raw.maj2C (r : Raw) : Option Instr :=
  if r.b = 0 ∧ r.fn = 3 then some (.knot r.d r.a r.f)
  else if r.b = 0 ∧ r.fn = 4 then some (.kpop r.d r.a r.f)
  else if r.b = 0 ∧ r.fn = 5 then some (.kmovw r.d r.a r.f)
  else if r.b = 0 ∧ r.fn = 6 then some (.kmovk r.d r.a r.f)
  else if r.fn = 0 then some (.kand r.d r.a r.b r.f)
  else if r.fn = 1 then some (.kor r.d r.a r.b r.f)
  else if r.fn = 2 then some (.kxor r.d r.a r.b r.f)
  else if r.fn = 7 then some (.vsel r.d r.a r.b r.f)
  else none

/-- Major 0x2D of the opcode map (R41). -/
def Raw.maj2D (r : Raw) : Option Instr :=
  if r.b = 0 ∧ r.fn = 0 then some (.vradd r.d r.a r.f)
  else if r.b = 0 ∧ r.fn = 1 then some (.vrmax r.d r.a r.f)
  else if r.b = 0 ∧ r.fn = 2 then some (.vrmin r.d r.a r.f)
  else if r.b = 0 ∧ r.fn = 3 then some (.vriadd r.d r.a r.f)
  else if r.b = 0 ∧ r.fn = 4 then some (.vrand r.d r.a r.f)
  else if r.b = 0 ∧ r.fn = 5 then some (.vror r.d r.a r.f)
  else if r.b = 0 ∧ r.fn = 6 then some (.vrimax r.d r.a r.f)
  else if r.b = 0 ∧ r.fn = 7 then some (.vrimin r.d r.a r.f)
  else none

/-- Major 0x2E of the opcode map (R41). -/
def Raw.maj2E (r : Raw) : Option Instr :=
  if r.d = 0 ∧ r.a = 0 ∧ r.b = 0 ∧ r.fn = 7 then some (.vflgc r.f)
  else if r.a = 0 ∧ r.b = 0 ∧ r.fn = 6 then some (.vflgr r.d r.f)
  else if r.b = 0 ∧ r.fn = 0 then some (.vbcast r.d r.a r.f)
  else if r.b = 0 ∧ r.fn = 5 then some (.viota r.d r.a r.f)
  else if r.fn = 1 then some (.vperm r.d r.a r.b r.f)
  else if r.fn = 2 then some (.vrot r.d r.a r.b r.f)
  else if r.fn = 3 then some (.vgetl r.d r.a r.b r.f)
  else if r.fn = 4 then some (.vsetl r.d r.a r.b r.f)
  else none

/-- Major 0x2F of the opcode map (R41). -/
def Raw.maj2F (r : Raw) : Option Instr :=
  if r.fn.extractLsb' 3 2 = 0 then some (.vatom r.d r.a r.b (r.fn.extractLsb' 5 1) (r.fn.extractLsb' 0 3) r.f)
  else none

/-- Major 0x30 of the opcode map (R41). -/
def Raw.maj30 (r : Raw) : Option Instr :=
  if r.fn.extractLsb' 3 3 = 0 then some (.tld r.d r.a r.b (r.fn.extractLsb' 2 1) (r.fn.extractLsb' 1 1) (r.fn.extractLsb' 0 1) r.f)
  else none

/-- Major 0x31 of the opcode map (R41). -/
def Raw.maj31 (r : Raw) : Option Instr :=
  if r.fn = 0 then some (.tst r.d r.a r.b r.f)
  else none

/-- Major 0x32 of the opcode map (R41). -/
def Raw.maj32 (r : Raw) : Option Instr :=
  if r.fn.extractLsb' 2 3 = 0 then some (.tmma r.d r.a r.b (r.fn.extractLsb' 5 1) (r.fn.extractLsb' 0 2) r.f)
  else none

/-- Major 0x33 of the opcode map (R41). -/
def Raw.maj33 (r : Raw) : Option Instr :=
  if r.d = 0 ∧ r.a = 0 ∧ r.b = 0 ∧ r.fn = 6 then some (.twait r.f)
  else if r.a = 0 ∧ r.b = 0 ∧ r.fn = 0 then some (.tzero r.d r.f)
  else if r.fn = 1 then some (.tscale r.d r.a r.b r.f)
  else if r.fn = 2 then some (.tadd r.d r.a r.b r.f)
  else if r.fn = 3 then some (.tgetr r.d r.a r.b r.f)
  else if r.fn = 4 then some (.tputr r.d r.a r.b r.f)
  else if r.fn = 5 then some (.tmask r.d r.a r.b r.f)
  else none

/-- Major 0x34 of the opcode map (R41). -/
def Raw.maj34 (r : Raw) : Option Instr :=
  if r.d = 0 ∧ r.fn = 0 then some (.tcmd r.a r.b r.f)
  else none

/-- Major 0x35 of the opcode map (R41). -/
def Raw.maj35 (r : Raw) : Option Instr :=
  if r.fn = 0 then some (.kvcommit r.d r.a r.b r.f)
  else none

/-- `GETC` and the rows of the opcode table that are reads of one register (R75, R42). -/
def Raw.maj1F (r : Raw) : Option Instr :=
  if r.a = 0 then
    if r.number = 0x02F then some (.cpLaunch r.d r.f)
    else if r.number = 0x15A then some (.capOut r.d r.f)
    else if r.number = 0x185 then some (.dbgData false r.d r.f)
    else some (.getc r.d (r.b ++ r.fn) r.f)
  else none

/-- `SETC` and the rows of the opcode table that are writes of one register (R75, R42). -/
def Raw.maj20 (r : Raw) : Option Instr :=
  if r.d = 0 then
    if r.number = 0x185 then some (.dbgData true r.a r.f)
    else if r.number = 0x190 then some (.trcCtl r.a r.f)
    else if r.number = 0x194 then some (.trcFdata r.a r.f)
    else if r.number = 0x143 then some (.raceClr r.a r.f)
    else some (.setc r.a (r.b ++ r.fn) r.f)
  else none

/-- The opcode map (R41): the instruction that the fields name, none for an unassigned encoding. -/
def Raw.instr (r : Raw) : Option Instr :=
  match r.maj.toNat with
  | 0 => r.maj00
  | 1 => r.maj01
  | 2 => r.maj02
  | 3 => r.maj03
  | 4 => r.maj04
  | 5 => r.maj05
  | 6 => r.maj06
  | 7 => r.maj07
  | 8 => r.maj08
  | 9 => r.maj09
  | 10 => r.maj0A
  | 11 => r.maj0B
  | 12 => r.maj0C
  | 13 => r.maj0D
  | 14 => r.maj0E
  | 15 => r.maj0F
  | 16 => r.maj10
  | 17 => r.maj11
  | 18 => r.maj12
  | 19 => r.maj13
  | 20 => r.maj14
  | 21 => r.maj15
  | 22 => r.maj16
  | 23 => r.maj17
  | 24 => r.maj18
  | 25 => r.maj19
  | 26 => r.maj1A
  | 27 => r.maj1B
  | 28 => r.maj1C
  | 29 => r.maj1D
  | 30 => r.maj1E
  | 31 => r.maj1F
  | 32 => r.maj20
  | 33 => r.maj21
  | 36 => r.maj24
  | 37 => r.maj25
  | 38 => r.maj26
  | 39 => r.maj27
  | 40 => r.maj28
  | 41 => r.maj29
  | 42 => r.maj2A
  | 43 => r.maj2B
  | 44 => r.maj2C
  | 45 => r.maj2D
  | 46 => r.maj2E
  | 47 => r.maj2F
  | 48 => r.maj30
  | 49 => r.maj31
  | 50 => r.maj32
  | 51 => r.maj33
  | 52 => r.maj34
  | 53 => r.maj35
  | _ => none

/-! ## Words -/

/-- The extension word, field by field (R30). -/
def Ext.ofWord (w : Word32) : Ext where
  g := w.extractLsb' 31 1
  gn := w.extractLsb' 30 1
  gp := w.extractLsb' 25 5
  q := w.extractLsb' 24 1
  rm := w.extractLsb' 21 3
  scope := w.extractLsb' 18 3
  ty := w.extractLsb' 14 4
  e := w.extractLsb' 13 1
  cb := w.extractLsb' 12 1
  c := w.extractLsb' 6 6
  xfn := w.extractLsb' 0 6

/-- The word of an extension (R30). -/
def Ext.word (x : Ext) : Word32 :=
  x.g ++ x.gn ++ x.gp ++ x.q ++ x.rm ++ x.scope ++ x.ty ++ x.e ++ x.cb ++ x.c ++ x.xfn

/-- The number of words that LEN gives (R24). -/
def lenWords (len : BitVec 2) : Nat :=
  match len.toNat with
  | 0 => 1
  | 3 => 5
  | _ => 3

/-- LEN of a base word (R24). -/
def lenOf (w : Word32) : BitVec 2 := w.extractLsb' 30 2

/-- The words after the base word, read as LEN gives (R24). -/
def Form.ofWords (len : BitVec 2) (ws : List Word32) : Option Form :=
  match len.toNat, ws with
  | 0, _ => some .base
  | 1, l :: h :: _ => some (.lit (h ++ l))
  | 2, x :: i :: _ => some (.ext (Ext.ofWord x) i)
  | 3, x :: i :: l :: h :: _ => some (.extLit (Ext.ofWord x) i (h ++ l))
  | _, _ => none

/-- The words after the base word, and LEN (R24). -/
def Form.words : Form → List Word32
  | .base => []
  | .lit l => [l.extractLsb' 0 32, l.extractLsb' 32 32]
  | .ext x i => [x.word, i]
  | .extLit x i l => [x.word, i, l.extractLsb' 0 32, l.extractLsb' 32 32]

/-- LEN of a form (R24). -/
def Form.len : Form → BitVec 2
  | .base => 0
  | .lit _ => 1
  | .ext _ _ => 2
  | .extLit _ _ _ => 3

/-- The base word of given fields (R28). -/
def Raw.base (r : Raw) : Word32 := r.f.len ++ r.maj ++ r.d ++ r.a ++ r.b ++ r.fn

/-- The words of an instruction's fields, in address order (R25). -/
def Raw.words (r : Raw) : List Word32 := r.base :: r.f.words

/-- The fields of a base word, with the words that follow it. -/
def Raw.ofWord (w : Word32) (f : Form) : Raw :=
  ⟨w.extractLsb' 24 6, w.extractLsb' 18 6, w.extractLsb' 12 6, w.extractLsb' 6 6, w.extractLsb' 0 6, f⟩

/-- The instruction that a list of words begins with, and how many words it has: none where the encoding is illegal
(R43 order 2) or words are missing. -/
def decodeWords : List Word32 → Option (Instr × Nat)
  | [] => none
  | w :: ws =>
    match Form.ofWords (lenOf w) ws with
    | none => none
    | some f =>
      let r := Raw.ofWord w f
      if r.wf then r.instr.map fun i => (i, lenWords (lenOf w)) else none

/-- What the base word alone tells of an instruction: its later words are taken as zero. -/
def baseRaw (w : Word32) : Raw :=
  Raw.ofWord w (match (lenOf w).toNat with
    | 0 => .base
    | 1 => .lit 0
    | 2 => .ext (Ext.ofWord 0) 0
    | _ => .extLit (Ext.ofWord 0) 0 0)

/-- Whether the base word alone decides that the instruction is illegal (R27, R43): a reserved major, a length the
major does not permit, or an unassigned function or non-zero unused field of the base word. -/
def baseIllegal (w : Word32) : Bool :=
  let r := baseRaw w
  !(r.lengths.testBit r.f.bit && r.fnOk && r.emptyOk && r.instr.isSome)

/-! ## Bytes -/

/-- A word from its four bytes, little-endian (R25). -/
def wordOfBytes (b0 b1 b2 b3 : Byte) : Word32 := b3 ++ b2 ++ b1 ++ b0

/-- The bytes of a word, little-endian (R25). -/
def bytesOfWord (w : Word32) : List Byte :=
  [w.extractLsb' 0 8, w.extractLsb' 8 8, w.extractLsb' 16 8, w.extractLsb' 24 8]

/-- Whole words of a byte list, in address order. -/
def wordsOfBytes : List Byte → List Word32
  | b0 :: b1 :: b2 :: b3 :: bs => wordOfBytes b0 b1 b2 b3 :: wordsOfBytes bs
  | _ => []

/-- The decoder: the instruction that a byte list begins with and the bytes after it, or none. -/
def decodeBytes (bs : List Byte) : Option (Instr × List Byte) :=
  (decodeWords (wordsOfBytes bs)).map fun p => (p.1, bs.drop (4 * p.2))

/-- The words of an instruction, empty for a step that has no encoding. -/
def encode (i : Instr) : List Word32 :=
  match i.raw with
  | some r => r.words
  | none => []

/-- The bytes of an instruction in address order (R25). -/
def encodeBytes (i : Instr) : List Byte := (encode i).flatMap bytesOfWord

/-! ## Filter bytecode -/

/-- The filter instruction of a 16-bit word, none for opcode 15 or a reserved field that is not zero (R312, R314). -/
def decodeFilter (w : BitVec 16) : Option Instr :=
  let d := w.extractLsb' 9 3
  let a := w.extractLsb' 6 3
  match (w.extractLsb' 12 4).toNat with
  | 0 => if w.extractLsb' 0 4 = 0 ∧ (w.extractLsb' 4 5).toNat ≤ 9 then some (.ldf d (w.extractLsb' 4 5)) else none
  | 1 => some (.ldi d (w.extractLsb' 0 9))
  | 2 => if w.extractLsb' 0 6 = 0 then some (.filterAdd d a) else none
  | 3 => if w.extractLsb' 0 6 = 0 then some (.filterSub d a) else none
  | 4 => if w.extractLsb' 0 6 = 0 then some (.filterAnd d a) else none
  | 5 => if w.extractLsb' 0 6 = 0 then some (.filterOr d a) else none
  | 6 => if a = 0 then some (.filterShr d (w.extractLsb' 0 6)) else none
  | 7 => some (.jeq d a (w.extractLsb' 0 6))
  | 8 => some (.jne d a (w.extractLsb' 0 6))
  | 9 => some (.jlt d a (w.extractLsb' 0 6))
  | 10 => if w.extractLsb' 3 9 = 0 then some (.cnt (w.extractLsb' 0 3)) else none
  | 11 => if w.extractLsb' 0 12 = 0 then some .keep else none
  | 12 => if w.extractLsb' 0 12 = 0 then some .drop else none
  | 13 => if w.extractLsb' 1 11 = 0 then some (.trig (w.extractLsb' 0 1)) else none
  | 14 => some (.mark (w.extractLsb' 0 12))
  | _ => none

/-- The word of a filter instruction (R312). -/
def encodeFilter : Instr → Option (BitVec 16)
  | .ldf d n => some (0#4 ++ d ++ n ++ 0#4)
  | .ldi d i => some (1#4 ++ d ++ i)
  | .filterAdd d a => some (2#4 ++ d ++ a ++ 0#6)
  | .filterSub d a => some (3#4 ++ d ++ a ++ 0#6)
  | .filterAnd d a => some (4#4 ++ d ++ a ++ 0#6)
  | .filterOr d a => some (5#4 ++ d ++ a ++ 0#6)
  | .filterShr d s => some (6#4 ++ d ++ 0#3 ++ s)
  | .jeq a b o => some (7#4 ++ a ++ b ++ o)
  | .jne a b o => some (8#4 ++ a ++ b ++ o)
  | .jlt a b o => some (9#4 ++ a ++ b ++ o)
  | .cnt n => some (10#4 ++ 0#9 ++ n)
  | .keep => some (11#4 ++ 0#12)
  | .drop => some (12#4 ++ 0#12)
  | .trig k => some (13#4 ++ 0#11 ++ k)
  | .mark l => some (14#4 ++ l)
  | _ => none

/-! ## The opcode table's numbering -/

/-- The 32-bit words of a number whose bit 0 is the least significant bit of the first word. -/
def tableWords : Nat → Nat → List Word32
  | 0, _ => []
  | n + 1, w => BitVec.ofNat 32 w :: tableWords n (w / 4294967296)

/-- The instruction the decoder reads from an instruction whose bits are `w`, numbered as spec/opcode_table.json
numbers them; every bit above `nbits` is 0. -/
def decodeTableWord (nbits w : Nat) : Option Instr :=
  if nbits ≤ 16 then decodeFilter (BitVec.ofNat 16 w)
  else (decodeWords (tableWords 5 (w % 2 ^ nbits))).map (·.1)

end Sys2Proof
end

