-- ==== Sys2Proof/Machine/Flags.lean ====
section
/-! DEFINITION. The float formats, rounding, the flag word and every flag computation (R106, R107), the conversions
(R125), the comparisons (R55, R126) and the cb4 codebook (R109). A result is its bit pattern with the flags raised:
[0] invalid, [1] divide-by-zero, [2] overflow, [3] underflow, [4] inexact. -/

namespace Sys2Proof.Machine

/-! ## Formats -/

/-- A float format by its exponent and fraction widths (R106). -/
structure Fmt where
  eb : Nat
  fb : Nat
  deriving DecidableEq, Repr

def Fmt.f32 : Fmt := ⟨8, 23⟩
def Fmt.bf16 : Fmt := ⟨8, 7⟩
def Fmt.f16 : Fmt := ⟨5, 10⟩

/-- The format of a float type code (R37). -/
def Fmt.ofType (ty : Nat) : Fmt := if ty = 8 then .f16 else if ty = 9 then .bf16 else .f32

def Fmt.bias (f : Fmt) : Nat := 2 ^ (f.eb - 1) - 1
def Fmt.width (f : Fmt) : Nat := f.eb + f.fb + 1
def Fmt.expMax (f : Fmt) : Nat := 2 ^ f.eb - 1
def Fmt.signBit (f : Fmt) : Nat := 2 ^ (f.eb + f.fb)
/-- +infinity. -/
def Fmt.inf (f : Fmt) : Nat := f.expMax * 2 ^ f.fb
/-- The quiet NaN produced. -/
def Fmt.qnan (f : Fmt) : Nat := f.inf + 2 ^ (f.fb - 1)
def Fmt.maxFinite (f : Fmt) : Nat := f.inf - 1

/-- A float value: a NaN (signalling or not), an infinity, or `± m * 2 ^ e`. -/
inductive Fl where
  | nan (signalling : Bool)
  | inf (neg : Bool)
  | fin (neg : Bool) (m : Nat) (e : Int)
  deriving DecidableEq, Repr, Inhabited

/-- The value of a bit pattern (R106). -/
def Fmt.decode (f : Fmt) (b : Nat) : Fl :=
  let b := b % 2 ^ f.width
  let neg := decide (f.signBit ≤ b)
  let ex := b / 2 ^ f.fb % 2 ^ f.eb
  let fr := b % 2 ^ f.fb
  if ex = f.expMax then
    if fr = 0 then .inf neg else .nan (decide (fr < 2 ^ (f.fb - 1)))
  else if ex = 0 then .fin neg fr (1 - f.bias - f.fb)
  else .fin neg (2 ^ f.fb + fr) ((ex : Int) - f.bias - f.fb)

def Fl.isNan : Fl → Bool
  | .nan _ => true
  | _ => false

def Fl.isSnan : Fl → Bool
  | .nan s => s
  | _ => false

def Fl.neg : Fl → Bool
  | .nan _ => false
  | .inf n => n
  | .fin n _ _ => n

def Fl.isZero : Fl → Bool
  | .fin _ 0 _ => true
  | _ => false

/-- Whether a bit pattern is a non-zero subnormal (R106, R116). -/
def Fmt.subnormal (f : Fmt) (b : Nat) : Bool := decide (b / 2 ^ f.fb % 2 ^ f.eb = 0 ∧ b % 2 ^ f.fb ≠ 0)

/-! ## Rounding -/

/-- A signed bit pattern. -/
def Fmt.signed (f : Fmt) (neg : Bool) (b : Nat) : Nat := if neg then f.signBit + b else b

/-- Whether a magnitude is rounded up: the mode of R38, the sign, whether the kept part is odd, the discarded part and
half a unit. -/
def roundsUp (rm : Nat) (neg odd : Bool) (rem half : Nat) : Bool :=
  match rm with
  | 0 => decide (half < rem) || (decide (rem = half) && odd)
  | 1 => false
  | 2 => decide (rem ≠ 0) && !neg
  | 3 => decide (rem ≠ 0) && neg
  | _ => decide (half ≤ rem)

/-- `RoundTo` (R107) of the exact value `± (m * 2 ^ e)`, or of one just above it in magnitude when `sticky`. A zero
value keeps the sign given. -/
def Fmt.round (f : Fmt) (rm : Nat) (neg : Bool) (m : Nat) (e : Int) (sticky : Bool) : Nat × Nat :=
  if m = 0 ∧ !sticky then (f.signed neg 0, 0)
  else
    let m := 2 * m + sticky.toNat
    let e := e - 1
    let emin : Int := 1 - f.bias
    let top : Int := (Nat.log2 m : Int) + e
    let q : Int := max (top - f.fb) (emin - f.fb)
    let sh := q - e
    let n := if sh ≤ 0 then m * 2 ^ (-sh).toNat else m / 2 ^ sh.toNat
    let rem := if sh ≤ 0 then 0 else m % 2 ^ sh.toNat
    let half := if sh ≤ 0 then 1 else 2 ^ (sh.toNat - 1)
    let n := if roundsUp rm neg (n % 2 = 1) rem half then n + 1 else n
    let (n, q) := if n = 2 ^ (f.fb + 1) then (2 ^ f.fb, q + 1) else (n, q)
    if 2 ^ f.fb ≤ n ∧ (f.bias : Int) < q + f.fb then
      let toInf := match rm with
        | 1 => false
        | 2 => !neg
        | 3 => neg
        | _ => true
      (f.signed neg (if toInf then f.inf else f.maxFinite), 20)
    else
      let bits := if n < 2 ^ f.fb then n else (q + f.fb + f.bias).toNat * 2 ^ f.fb + (n - 2 ^ f.fb)
      let flags := if rem = 0 then 0 else if top < emin then 24 else 16
      (f.signed neg bits, flags)

/-- Invalid: the quiet NaN and flag 0. -/
def Fmt.invalid (f : Fmt) : Nat × Nat := (f.qnan, 1)

/-- The quiet NaN for a NaN operand, invalid where one signals (R107). -/
def Fmt.nanOf (f : Fmt) (xs : List Fl) : Nat × Nat := (f.qnan, if xs.any Fl.isSnan then 1 else 0)

/-- An exact sum of two dyadic values, as sign, magnitude and exponent. -/
def dyAdd (n1 : Bool) (m1 : Nat) (e1 : Int) (n2 : Bool) (m2 : Nat) (e2 : Int) : Int × Int :=
  let e := min e1 e2
  let a : Int := m1 * 2 ^ (e1 - e).toNat
  let b : Int := m2 * 2 ^ (e2 - e).toNat
  ((if n1 then -a else a) + (if n2 then -b else b), e)

/-- `RoundTo` of an exact signed dyadic value; an exact zero sum takes the sign that R107 gives. -/
def Fmt.roundInt (f : Fmt) (rm : Nat) (zeroNeg : Bool) (v : Int) (e : Int) : Nat × Nat :=
  if v = 0 then (f.signed zeroNeg 0, 0) else f.round rm (decide (v < 0)) v.natAbs e false

/-- The sign of a zero sum (R107). -/
def zeroSign (rm : Nat) (n1 n2 : Bool) : Bool := if n1 = n2 then n1 else rm = 3

def Fmt.addV (f : Fmt) (rm : Nat) (a b : Fl) : Nat × Nat :=
  match a, b with
  | .nan _, _ | _, .nan _ => f.nanOf [a, b]
  | .inf n, .inf k => if n = k then (f.signed n f.inf, 0) else f.invalid
  | .inf n, _ | _, .inf n => (f.signed n f.inf, 0)
  | .fin n1 m1 e1, .fin n2 m2 e2 =>
    let (v, e) := dyAdd n1 m1 e1 n2 m2 e2
    f.roundInt rm (zeroSign rm n1 n2) v e

def Fl.negate : Fl → Fl
  | .nan s => .nan s
  | .inf n => .inf !n
  | .fin n m e => .fin (!n) m e

def Fmt.add (f : Fmt) (rm a b : Nat) : Nat × Nat := f.addV rm (f.decode a) (f.decode b)
def Fmt.sub (f : Fmt) (rm a b : Nat) : Nat × Nat := f.addV rm (f.decode a) (f.decode b).negate

def Fmt.mul (f : Fmt) (rm a b : Nat) : Nat × Nat :=
  let x := f.decode a
  let y := f.decode b
  match x, y with
  | .nan _, _ | _, .nan _ => f.nanOf [x, y]
  | .inf n, .inf k => (f.signed (n != k) f.inf, 0)
  | .inf n, .fin k m _ | .fin k m _, .inf n => if m = 0 then f.invalid else (f.signed (n != k) f.inf, 0)
  | .fin n1 m1 e1, .fin n2 m2 e2 => f.round rm (n1 != n2) (m1 * m2) (e1 + e2) false

/-- `± (a * b) ± c` rounded once (R123); `np` negates the product and `nc` the addend. -/
def Fmt.fma (f : Fmt) (rm : Nat) (np nc : Bool) (a b c : Nat) : Nat × Nat :=
  let x := f.decode a
  let y := f.decode b
  let z := if nc then (f.decode c).negate else f.decode c
  let zeroInf := match x, y with
    | .inf _, .fin _ 0 _ | .fin _ 0 _, .inf _ => true
    | _, _ => false
  if zeroInf then f.invalid
  else match x, y with
    | .nan _, _ | _, .nan _ => f.nanOf [x, y, z]
    | _, _ =>
      let sp := (x.neg != y.neg) != np
      match x, y with
      | .fin _ m1 e1, .fin _ m2 e2 =>
        match z with
        | .nan _ => f.nanOf [z]
        | .inf n => (f.signed n f.inf, 0)
        | .fin n m e =>
          let (v, ee) := dyAdd sp (m1 * m2) (e1 + e2) n m e
          f.roundInt rm (zeroSign rm sp n) v ee
      | _, _ =>
        match z with
        | .nan _ => f.nanOf [z]
        | .inf n => if n = sp then (f.signed n f.inf, 0) else f.invalid
        | .fin _ _ _ => (f.signed sp f.inf, 0)

/-- A quotient of magnitudes with enough bits for any rounding: quotient, exponent, inexact. -/
def divDigits (fb m1 : Nat) (e1 : Int) (m2 : Nat) (e2 : Int) : Nat × Int × Bool :=
  let k := fb + 5 + Nat.log2 m2 - Nat.log2 m1
  (m1 * 2 ^ k / m2, e1 - e2 - k, decide (m1 * 2 ^ k % m2 ≠ 0))

def Fmt.div (f : Fmt) (rm a b : Nat) : Nat × Nat :=
  let x := f.decode a
  let y := f.decode b
  match x, y with
  | .nan _, _ | _, .nan _ => f.nanOf [x, y]
  | .inf _, .inf _ => f.invalid
  | .inf n, .fin k _ _ => (f.signed (n != k) f.inf, 0)
  | .fin n _ _, .inf k => (f.signed (n != k) 0, 0)
  | .fin n m1 e1, .fin k m2 e2 =>
    if m2 = 0 then (if m1 = 0 then f.invalid else (f.signed (n != k) f.inf, 2))
    else
      let (q, e, st) := divDigits f.fb m1 e1 m2 e2
      f.round rm (n != k) q e st

/-! ## Ordering, minimum and maximum -/

/-- A number that orders the values of a format, -0 below +0. -/
def Fmt.rank (f : Fmt) (b : Nat) : Int :=
  let b := b % 2 ^ f.width
  if f.signBit ≤ b then -((b - f.signBit : Nat) : Int) - 1 else b

/-- IEEE minimumNumber or maximumNumber (R122): the other operand when one is a NaN. -/
def Fmt.minMax (f : Fmt) (isMax : Bool) (a b : Nat) : Nat × Nat :=
  let x := f.decode a
  let y := f.decode b
  let fl := if x.isSnan || y.isSnan then 1 else 0
  if x.isNan && y.isNan then (f.qnan, fl)
  else if x.isNan then (b % 2 ^ f.width, fl)
  else if y.isNan then (a % 2 ^ f.width, fl)
  else if (decide (f.rank a ≤ f.rank b)) != isMax then (a % 2 ^ f.width, fl) else (b % 2 ^ f.width, fl)

/-- Whether two values compare: less, equal; meaningless with a NaN. -/
def Fmt.lt (f : Fmt) (a b : Nat) : Bool :=
  if (f.decode a).isZero && (f.decode b).isZero then false else decide (f.rank a < f.rank b)
def Fmt.eq (f : Fmt) (a b : Nat) : Bool :=
  ((f.decode a).isZero && (f.decode b).isZero) || decide (f.rank a = f.rank b)

/-- `VCMP` conditions 0 to 7 on floats (R126): the bit and the flags. -/
def Fmt.cmp (f : Fmt) (c a b : Nat) : Bool × Nat :=
  let x := f.decode a
  let y := f.decode b
  let un := x.isNan || y.isNan
  let sn := x.isSnan || y.isSnan
  let r := match c with
    | 0 => !un && f.eq a b
    | 1 => un || !f.eq a b
    | 2 => !un && f.lt a b
    | 3 => !un && !f.lt b a
    | 4 => !un && f.lt b a
    | 5 => !un && !f.lt a b
    | 6 => un
    | _ => !un
  (r, if 2 ≤ c ∧ c ≤ 5 then un.toNat else sn.toNat)

/-- The conditions of `CMP` and `CMPI` (R55). -/
def condHolds (c : Nat) (a b : Word) : Bool :=
  match c with
  | 0 => a = b
  | 1 => a ≠ b
  | 2 => a.toInt < b.toInt
  | 3 => b.toInt ≤ a.toInt
  | 4 => a.toInt ≤ b.toInt
  | 5 => b.toInt < a.toInt
  | 6 => a.toNat < b.toNat
  | 7 => b.toNat ≤ a.toNat
  | 8 => a.toNat ≤ b.toNat
  | 9 => b.toNat < a.toNat
  | 10 => a &&& b = 0
  | _ => a &&& b ≠ 0

/-! ## Roots, exponential and logarithm -/

/-- Integer square root by digits: the largest `r` with `r * r ≤ m`, from `r` so far and the remaining binary digits. -/
def isqrtGo (m : Nat) : Nat → Nat → Nat
  | 0, r => r
  | i + 1, r => isqrtGo m i (if (r + 2 ^ i) * (r + 2 ^ i) ≤ m then r + 2 ^ i else r)

def isqrt (m : Nat) : Nat := isqrtGo m (Nat.log2 m / 2 + 1) 0

def Fmt.sqrt (f : Fmt) (rm a : Nat) : Nat × Nat :=
  match f.decode a with
  | .nan s => (f.qnan, s.toNat)
  | .inf n => if n then f.invalid else (f.inf, 0)
  | .fin n m e =>
    if m = 0 then (f.signed n 0, 0)
    else if n then f.invalid
    else
      let (m, e) := if e % 2 = 0 then (m, e) else (2 * m, e - 1)
      let k := f.fb + 5
      let r := isqrt (m * 4 ^ k)
      f.round rm false r (e / 2 - k) (decide (r * r ≠ m * 4 ^ k))

def Fmt.rcp (f : Fmt) (rm a : Nat) : Nat × Nat :=
  match f.decode a with
  | .nan s => (f.qnan, s.toNat)
  | .inf n => (f.signed n 0, 0)
  | .fin n m e =>
    if m = 0 then (f.signed n f.inf, 2)
    else
      let (q, e, st) := divDigits f.fb 1 0 m e
      f.round rm n q e st

def Fmt.rsq (f : Fmt) (rm a : Nat) : Nat × Nat :=
  match f.decode a with
  | .nan s => (f.qnan, s.toNat)
  | .inf n => if n then f.invalid else (0, 0)
  | .fin n m e =>
    if m = 0 then (f.signed n f.inf, 2)
    else if n then f.invalid
    else
      let (m, e) := if e % 2 = 0 then (m, e) else (2 * m, e - 1)
      let p := f.fb + 5 + Nat.log2 m
      let r := isqrt (2 ^ (2 * p) / m)
      f.round rm false r (-(e / 2) - p) (decide (r * r * m ≠ 2 ^ (2 * p)))

/-- Working precision of `VEXP2` and `VLOG2` in bits (log entry 11). -/
def expPrec : Nat := 260

/-- `2 ^ (f / 2 ^ d)` for `f < 2 ^ d`, as a fixed-point number of `expPrec` fraction bits: the product of the iterated
square roots of 2 that the digits of `f` select. -/
def exp2Frac (f : Nat) : Nat → Nat → Nat → Nat
  | 0, _, acc => acc
  | d + 1, root, acc =>
    let root := isqrt (root * 2 ^ expPrec)
    let acc := if f / 2 ^ d % 2 = 1 then acc * root / 2 ^ expPrec else acc
    exp2Frac f d root acc

/-- The digits after the point of the base-2 logarithm of `x / 2 ^ p` in [1, 2), by repeated squaring. -/
def log2Frac (p : Nat) : Nat → Nat → Nat → Nat
  | 0, _, acc => acc
  | k + 1, x, acc =>
    let y := x * x / 2 ^ p
    if 2 ^ (p + 1) ≤ y then log2Frac p k (y / 2) (2 * acc + 1) else log2Frac p k y (2 * acc)

def Fmt.exp2 (f : Fmt) (rm a : Nat) : Nat × Nat :=
  match f.decode a with
  | .nan s => (f.qnan, s.toNat)
  | .inf n => if n then (0, 0) else (f.inf, 0)
  | .fin n m e =>
    if m = 0 then f.round rm false 1 0 false
    else
      let d := (-e).toNat
      let v : Int := if e ≥ 0 then (m * 2 ^ (min e 20).toNat : Nat) else m
      let v := if n then -v else v
      let whole := max (-2000) (min 2000 (v / (2 ^ d : Nat)))
      let fr := (v % (2 ^ d : Nat)).toNat
      if fr = 0 then f.round rm false 1 whole false
      else f.round rm false (exp2Frac fr d (2 * 2 ^ expPrec) (2 ^ expPrec)) (whole - expPrec) true

def Fmt.log2 (f : Fmt) (rm a : Nat) : Nat × Nat :=
  match f.decode a with
  | .nan s => (f.qnan, s.toNat)
  | .inf n => if n then f.invalid else (f.inf, 0)
  | .fin n m e =>
    if m = 0 then (f.signed true f.inf, 2)
    else if n then f.invalid
    else
      let l := Nat.log2 m
      let ex : Int := l + e
      if m = 2 ^ l then f.roundInt rm false ex 0
      else
        let digits := 100
        let fr := log2Frac expPrec digits (m * 2 ^ expPrec / 2 ^ l) 0
        if 0 ≤ ex then f.round rm false (ex.toNat * 2 ^ digits + fr) (-100) true
        else f.round rm true ((-ex).toNat * 2 ^ digits - fr - 1) (-100) true

/-! ## Integral values and conversion -/

/-- A dyadic magnitude rounded to an integer under a mode, and whether it changed. -/
def roundIntegral (rm : Nat) (neg : Bool) (m : Nat) (e : Int) : Nat × Bool :=
  if 0 ≤ e then (m * 2 ^ e.toNat, false)
  else
    let k := (-e).toNat
    let n := m / 2 ^ k
    let rem := m % 2 ^ k
    (if roundsUp rm neg (n % 2 = 1) rem (2 ^ (k - 1)) then n + 1 else n, decide (rem ≠ 0))

def Fmt.rint (f : Fmt) (rm a : Nat) : Nat × Nat :=
  match f.decode a with
  | .nan s => (f.qnan, s.toNat)
  | .inf n => (f.signed n f.inf, 0)
  | .fin n m e =>
    let (v, ch) := roundIntegral rm n m e
    if v = 0 then (f.signed n 0, if ch then 16 else 0)
    else ((f.round rm n v 0 false).1, if ch then 16 else 0)

/-- Width in bits of an integer type code, and whether it is signed (R37). -/
def tyBits (ty : Nat) : Nat :=
  match ty with
  | 0 | 1 | 13 => 8
  | 2 | 3 | 8 | 9 => 16
  | 6 | 7 => 64
  | _ => 32
def tySigned (ty : Nat) : Bool := [0, 2, 4, 6].contains ty
def tyFloat (ty : Nat) : Bool := [8, 9, 10].contains ty
/-- Element size in bytes of a type code. -/
def tySize (ty : Nat) : Nat := tyBits ty / 8

def tyMin (ty : Nat) : Int := if tySigned ty then -(2 ^ (tyBits ty - 1) : Nat) else 0
def tyMax (ty : Nat) : Int := if tySigned ty then (2 ^ (tyBits ty - 1) - 1 : Nat) else (2 ^ tyBits ty - 1 : Nat)

/-- The integer that the low bits of a pattern stand for under a type. -/
def tyVal (ty b : Nat) : Int :=
  let b := b % 2 ^ tyBits ty
  if tySigned ty && decide (2 ^ (tyBits ty - 1) ≤ b) then (b : Int) - (2 ^ tyBits ty : Nat) else b

/-- The bits of an integer at a width, modulo. -/
def intBits (w : Nat) (v : Int) : Nat := (v % (2 ^ w : Nat)).toNat

/-- The 32-bit lane of an element pattern (R112): sign-extended for i8 and i16, zero-extended otherwise. -/
def laneExt (ty b : Nat) : Nat :=
  if ty = 0 ∨ ty = 2 then intBits 32 (tyVal ty b) else b % 2 ^ tyBits ty

/-- `VCVT` of one element from type `src` to type `dst` (R125): the element's bits and the flags. -/
def convert (dst src rm a : Nat) : Nat × Nat :=
  let fd := Fmt.ofType dst
  if tyFloat src then
    let x := (Fmt.ofType src).decode a
    if tyFloat dst then
      match x with
      | .nan s => (fd.qnan, s.toNat)
      | .inf n => (fd.signed n fd.inf, 0)
      | .fin n m e => fd.round rm n m e false
    else if dst = 13 then
      match x with
      | .nan _ => (255, 1)
      | .inf n => if n then (0, 1) else (255, 0)
      | .fin n m e =>
        let (v, ch) := roundIntegral rm n m e
        if n && decide (v ≠ 0) then (0, 1)
        else if 255 ≤ v then (255, if ch || decide (v ≠ 255) then 16 else 0)
        else (v, if ch then 16 else 0)
    else
      match x with
      | .nan _ => (0, 1)
      | .inf n => (intBits (tyBits dst) (if n then tyMin dst else tyMax dst), 1)
      | .fin n m e =>
        let (v, ch) := roundIntegral rm n m e
        let i : Int := if n then -(v : Int) else v
        if i < tyMin dst then (intBits (tyBits dst) (tyMin dst), 1)
        else if tyMax dst < i then (intBits (tyBits dst) (tyMax dst), 1)
        else (intBits (tyBits dst) i, if ch then 16 else 0)
  else
    let v := tyVal src a
    if tyFloat dst then
      if src = 13 ∧ v = 255 then (fd.inf, 0) else fd.roundInt rm false v 0
    else if dst = 13 then
      if v < 0 then (0, 1) else if 255 ≤ v then (255, 0) else (v.toNat, 0)
    else if v < tyMin dst then (intBits (tyBits dst) (tyMin dst), 1)
    else if tyMax dst < v then (intBits (tyBits dst) (tyMax dst), 1)
    else (intBits (tyBits dst) v, 0)

/-! ## cb4 -/

/-- The codebook in units of 1/1024 (R109). -/
def codebook (c : Nat) : Int :=
  (([-1024, -712, -536, -404, -294, -189, -93, 0, 81, 164, 252, 346, 452, 576, 739, 1024] : List Int)[c % 16]?).getD 0

/-- A cb4 element: code, block scale and super-scale, rounded to a float type (R109). No flag is raised. -/
def cb4Decode (ty rm code scale super : Nat) : Nat :=
  let f := Fmt.ofType ty
  let v : Int := codebook code * (scale + 1)
  match Fmt.f32.decode super with
  | .nan _ => f.qnan
  | .inf n => if v = 0 then f.qnan else f.signed (n != decide (v < 0)) f.inf
  | .fin n m e => (f.round rm (n != decide (v < 0)) (v.natAbs * m) (e - 18) false).1

end Sys2Proof.Machine
end

