-- ==== Sys2Proof/Config.lean ====
section
/-! DEFINITION. What the manual leaves free. Each constant is opaque: it has no body, so nothing in Lean can
evaluate it or prove a value of it, and a claim holds whatever it is. -/

namespace Sys2Proof.Config

/-- The 16-bit check code of a capability over its 48-bit body and the target cluster and die, under the device
secret (R149, R296). The manual gives no function; the secret is the first argument. Log entry 7. -/
opaque capMac : Nat → Nat → Nat → Nat → BitVec 16

/-- The temperature in degrees C of a physical core at the 1 us boundary that falls in a cycle (R297). Arguments:
cluster, physical core, cycle. Log entry 8. -/
opaque coreTemp : Nat → Nat → Nat → Nat

/-- The module power in W over the interval that ends at a cycle (R326). Log entry 8. -/
opaque modulePower : Nat → Nat

/-- Whether an ML-DSA-44 signature verifies (R328). The standard is outside the manual: arguments are the fused key
digest, the signed digest and the signature bytes. Log entry 9. -/
opaque signatureOk : Nat → Nat → List Byte → Bool

/-- The SHA3-256 digest of a byte string (R328). Log entry 9. -/
opaque sha3 : List Byte → BitVec 256

/-- The digest of the key that is fused into the part, and the fused minimum security version (R328). Log entry 9. -/
opaque fusedKey : Nat
opaque fusedVersion : Nat

/-- The device secret after a reset, which changes only at a reset (R296); the argument counts resets. Log entry 7. -/
opaque deviceSecret : Nat → Nat

/-- The body of the stored firmware image at power-on, empty where the part has none (R328). Log entry 9. -/
opaque storedImage : List Byte

/-- The number of the save-area frame in which the context of a record with CTX waits that no queue entry names a frame for: the
manual gives none (R223, R287). Arguments: the continuation and the kind of frame, 0 slot, 1 V, 2 M. Log entry 57. -/
opaque savedFrame : Nat → Nat → Nat

end Sys2Proof.Config
end

