-- ==== Sys2Proof/Machine/Map.lean ====
section
/-! DEFINITION. Finite maps from Nat as key-sorted lists, and the byte memory built on them. The memory list is in
ONE canonical form: addresses strictly rising and no entry equal to what an unlisted address reads as. -/

namespace Sys2Proof

/-- A finite map: pairs in rising order of key. An unlisted key stands for a default that the reader supplies. -/
abbrev SMap (α : Type) := List (Nat × α)

/-- The value at `k`, or `d` where none is listed. -/
def SMap.get {α : Type} (d : α) : SMap α → Nat → α
  | [], _ => d
  | (j, v) :: m, k => if j = k then v else SMap.get d m k

/-- Whether `k` is listed. -/
def SMap.has {α : Type} : SMap α → Nat → Bool
  | [], _ => false
  | (j, _) :: m, k => j == k || SMap.has m k

/-- Puts `v` at `k`, keeping the keys in rising order. -/
def SMap.set {α : Type} : SMap α → Nat → α → SMap α
  | [], k, v => [(k, v)]
  | (j, u) :: m, k, v =>
    if k < j then (k, v) :: (j, u) :: m
    else if k = j then (k, v) :: m
    else (j, u) :: SMap.set m k v

/-- Removes `k`. -/
def SMap.erase {α : Type} : SMap α → Nat → SMap α
  | [], _ => []
  | (j, u) :: m, k => if j = k then SMap.erase m k else (j, u) :: SMap.erase m k

/-- Changes one entry of a vector, where there is one. -/
def vmod {α : Type} {n : Nat} (v : Vector α n) (i : Nat) (f : α → α) : Vector α n :=
  if h : i < n then v.set i (f v[i]) else v

/-- Byte memory: an address and its byte, canonical in the sense of `Memory.wf`. -/
abbrev Memory := List (Nat × Byte)

/-- What an address that the list does not hold reads as (log entry 1: the manual gives the stores no contents
at reset). DESIGN CHOICE, unsafe. -/
def Memory.unlisted : Byte := 0

/-- The byte at an address. -/
def Memory.read : Memory → Nat → Byte
  | [], _ => Memory.unlisted
  | (j, v) :: m, k => if j = k then v else Memory.read m k

/-- Removes the entry of an address. -/
def Memory.drop : Memory → Nat → Memory
  | [], _ => []
  | (j, u) :: m, k => if k = j then m else if k < j then (j, u) :: m else (j, u) :: Memory.drop m k

/-- Puts a byte that is not the unlisted one. -/
def Memory.put : Memory → Nat → Byte → Memory
  | [], k, v => [(k, v)]
  | (j, u) :: m, k, v =>
    if k < j then (k, v) :: (j, u) :: m
    else if k = j then (k, v) :: m
    else (j, u) :: Memory.put m k v

/-- Writes one byte and keeps the canonical form: writing the unlisted value removes the entry. -/
def Memory.write (m : Memory) (k : Nat) (v : Byte) : Memory :=
  if v = Memory.unlisted then m.drop k else m.put k v

/-- Every entry lies at or above `lo`, rises, and differs from the unlisted value. -/
def Memory.wfFrom : Nat → Memory → Bool
  | _, [] => true
  | lo, (j, v) :: m => decide (lo ≤ j) && decide (v ≠ Memory.unlisted) && Memory.wfFrom (j + 1) m

/-- The canonical form of memory. -/
def Memory.wf (m : Memory) : Bool := Memory.wfFrom 0 m

/-- Little-endian read of `n` bytes as a number (R3). -/
def Memory.readLE (m : Memory) (a : Nat) : Nat → Nat
  | 0 => 0
  | n + 1 => (m.read a).toNat + 256 * Memory.readLE m (a + 1) n

/-- Little-endian write of the low `n` bytes of a number (R3). -/
def Memory.writeLE (m : Memory) (a : Nat) (v : Nat) : Nat → Memory
  | 0 => m
  | n + 1 => (m.write a (BitVec.ofNat 8 v)).writeLE (a + 1) (v / 256) n

/-- `n` bytes in rising address order. -/
def Memory.bytes (m : Memory) (a : Nat) : Nat → List Byte
  | 0 => []
  | n + 1 => m.read a :: Memory.bytes m (a + 1) n

/-- Writes bytes in rising address order. -/
def Memory.writeBytes (m : Memory) (a : Nat) : List Byte → Memory
  | [] => m
  | b :: bs => (m.write a b).writeBytes (a + 1) bs

end Sys2Proof
end

