-- ==== Sys2Proof/Machine/State.lean ====
section
/-! DEFINITION. The state of one FZ-M8 device as plain data: its threads, cores, clusters, dies, stores, packets and
edges. Unit numbers are those of Syntax.lean. Every field's default is its value at reset. -/

namespace Sys2Proof.Machine

/-! ## Places -/

/-- Where a byte lives (R12, R201): `dev` is 0 for this device and `n + 1` for device `n` reached over the fabric;
`kind` is 1 local store, 2 cluster store, 3 common store, 4 DRAM channel; `unit` is the core, cluster, die or channel
number; `off` the offset in it. The numbering is the model's (log entry 2). -/
structure Place where
  dev : Nat
  kind : Nat
  unit : Nat
  off : Nat
  deriving DecidableEq, Repr, Inhabited

/-- The memory address of a place. -/
def Place.key (p : Place) : Nat := ((p.dev * 8 + p.kind) * 65536 + p.unit) * 4294967296 + p.off

/-! ## Traps -/

/-- A trap record (R277), and the PC that `TEPC` receives when it differs from the PC concerned (R278). -/
structure TrapRec where
  cause : Nat := 0
  sub : Nat := 0
  lane : Option Nat := none
  eng : Bool := false
  p : Bool := false
  defd : Bool := false
  /-- The fault of a `TLD` or `TST`, issued or carried (R152): it holds the watchdogs of its group (R153). -/
  tile : Bool := false
  pc : Word := 0
  addr : Word := 0
  info : Word := 0
  deriving DecidableEq, Repr, Inhabited

/-! ## Records and packets -/

/-- A continuation record (R222) as a queue entry or a packet carries it. -/
structure Rec where
  w : Vector Word 24 := Vector.replicate 24 0
  pc : Word := 0
  pw : Word32 := 0
  cls : Nat := 0
  depth : Nat := 0
  prio : Nat := 0
  flags : BitVec 8 := 0
  region : BitVec 28 := 0
  reason : Nat := 0
  link : Word := 0
  home : Word := 0
  resid : Nat := 0
  deriving DecidableEq, Repr, Inhabited

/-- A packet in flight (R160, R161). -/
structure Packet where
  pid : Nat
  kind : Nat
  ddev : Nat := 0
  dst : Nat := 0
  dep : Nat := 0
  sdev : Nat := 0
  src : Nat := 0
  sep : Nat := 0
  region : BitVec 28 := 0
  tenant : Nat := 0
  btag : Nat := 0
  /-- The router it is at, the device it is on, and the cycle from which it may go on. -/
  at' : Nat := 0
  dev : Nat := 0
  due : Nat := 0
  /-- Reached its destination router. -/
  arrived : Bool := false
  place : Place := ⟨0, 0, 0, 0⟩
  size : Nat := 0
  val : Nat := 0
  op : Nat := 0
  cmp : Nat := 0
  /-- The requesting slot and the answer it is owed; or the channel of a cluster. -/
  slot : Nat := 0
  cont : Nat := 0
  owed : Nat := 0
  port : Nat := 0
  last : Bool := false
  /-- The stream it belongs to (R171), by a number that its open was given. -/
  sid : Nat := 0
  ws : List Word := []
  val' : Rec := {}
  ok : Bool := true
  trap : Option TrapRec := none
  lost : Nat := 0
  members : List Nat := []
  /-- A header or link fault that the next router finds (R180): 1 context word, 2 reserved kind, 3 a flit to resend. -/
  fault : Nat := 0
  /-- The router input whose buffer holds it, or that it waits to enter (R163, R165). -/
  inp : Nat := 0
  entered : Bool := false
  /-- The cycles by which its last flit follows its header, where a link has carried them more slowly (R159). -/
  tail : Nat := 0
  /-- Parts of it held on missing turns (R88): the number of the part, and the cycle from which it may be served. -/
  held : List (Nat × Nat) := []
  /-- What the plan unit has still to do for it (R248): the lines to read, or the doublewords to write, by memory address. -/
  plan : List (Nat × Nat) := []
  /-- The router at which it left this device or came back to it. -/
  via : Nat := 0
  /-- The cycle of its injection (R165). -/
  inj : Nat := 0
  deriving DecidableEq, Repr, Inhabited

/-! ## Accesses that wait for turns -/

/-- One element action of an access at a unit of a store: keys are memory addresses. -/
inductive Act where
  /-- Reads `n` bytes at `a` into result `idx`. -/
  | rd (idx a n : Nat)
  /-- Writes the low `n` bytes of `v` at `a`. -/
  | wr (a n v : Nat)
  /-- Read-modify-write of `n` bytes at `a` under operation `op` of R94, operand `x`, compare value `c`; old value to
  result `idx`. -/
  | rmw (idx a n op x c : Nat)
  deriving DecidableEq, Repr, Inhabited

/-- The part of an access that one turn, half-line turn, port cycle or DRAM request serves (R80, R118). Units of a
lower stage are served first (R93). -/
structure MemUnit where
  place : Place
  stage : Nat := 0
  acts : List Act := []
  /-- The ordering kind of its page where the parts of the access differ (R211); `none` where it is that of the access. -/
  ord : Option Nat := none
  /-- A unit held on a missing turn (R88): the cycle, one revolution later, from which it may be served. -/
  due : Nat := 0
  deriving DecidableEq, Repr, Inhabited

/-- What happens when the last unit of an access has been served. -/
inductive AccEnd where
  /-- A posted store. -/
  | store
  /-- A scalar load or atomic: destination, size, sign extension, end marker, and for a cb4 view the element shape. -/
  | reg (d : Spec) (size : Nat) (sx : Bool) (e : Bool) (view : Nat)
  /-- `WAITW`: destination, condition, comparand, and the units of one read, for the next one (R100); whether the word lies on a
  cb4 view. -/
  | waitw (d : Spec) (c : Nat) (x : Word) (us : List MemUnit) (view : Nat)
  /-- `VLD`, `VLDX`: register, type, mask, and whether each lane is a cb4 view element (R117). -/
  | vload (d : Nat) (ty : Nat) (mask : Word) (view : Nat)
  /-- `VATOM`: register and mask where old values are returned (R130). -/
  | vatom (d : Option Nat) (mask : Word)
  /-- `TLD`: tile, type, rows, columns, rounding mode and view (R137). -/
  | tload (t ty rows cols rm view : Nat)
  /-- `TST`, with the semaphore of a post on completion (R140, R151). -/
  | tstore (post : Option Nat)
  /-- `BST` staging: row place and mask (R96). -/
  | stage (row mask : Nat)
  /-- `BLD` pass: row place, mask, local destination key, pass number (R98). -/
  | bld (row mask dst pass : Nat)
  /-- A value that the waiting instruction takes on its next attempt. -/
  | hold
  /-- The last store of `PARK` (R238). -/
  | park
  /-- A remote store or atomic held for its release (R208): its packet. -/
  | remote (p : Packet)
  deriving DecidableEq, Repr, Inhabited

/-- An access waiting for turns (R81), an engine transfer (R78) or a DRAM request (R200). -/
structure Access where
  id : Nat
  issued : Nat := 0
  units : List MemUnit := []
  got : SMap Nat := []
  fin : AccEnd := .store
  pc : Word := 0
  va : Word := 0
  /-- The workspace in which its result lands (R48, R278): that of the thread at issue. -/
  ws : Word := 0
  /-- The ordering kind (R207): 0 strong, 1 release-consistent, 2 unordered. -/
  ord : Nat := 1
  /-- A release: not performed before every earlier access of the thread (R208). -/
  rel : Bool := false
  /-- An acquire: later accesses of the thread wait for it (R208). -/
  acq : Bool := false
  scope : Nat := 4
  /-- Poison met so far, with the lane that met it. -/
  poison : Option Nat := none
  /-- Counters observed by a `BLD` pass at its first and at its last line (R98). -/
  first : Option Nat := none
  last : Option Nat := none
  /-- Held by the footprint table (R192). -/
  job : Option Nat := none
  /-- A `WAITW` that has read once and waits to read again (R100). -/
  again : Bool := false
  /-- A `TLD` that posts a semaphore on completion (R151). -/
  post : Option Nat := none
  /-- Served at the service port, as an isochrone load (R189, R265). -/
  svc : Bool := false
  deriving DecidableEq, Repr, Inhabited

/-- A fence that still holds later accesses of its thread (R209): its kind (0 full, 1 acquire, 2 release), its scope, and the
number of the first access or owed answer after it. -/
structure Fence where
  kind : Nat
  scope : Nat
  first : Nat
  deriving DecidableEq, Repr, Inhabited

/-- An answer owed to a thread (R164, R178): what is done with it when it is delivered. -/
structure Owed where
  id : Nat
  /-- 0 load to a register, 1 store, 2 line load, 3 line store, 4 atomic, 5 multicast, 6 call, 7 matrix command,
  8 migration, 9 record sent by `ENQ`, 10 plan request, 11 plain load, 12 plain store, 13 plain atomic, 14 plan request of the
  own cluster, 15 a doubleword that the waiting instruction takes. -/
  what : Nat := 0
  d : Spec := 50
  size : Nat := 8
  sx : Bool := false
  e : Bool := false
  lcl : Nat := 0
  pc : Word := 0
  va : Word := 0
  /-- The workspace in which its result lands. -/
  ws : Word := 0
  place : Place := ⟨0, 0, 0, 0⟩
  ord : Nat := 1
  acq : Bool := false
  scope : Nat := 4
  mask : Word := 0
  lost : Word := 0
  left : Nat := 1
  count : Nat := 0
  deriving DecidableEq, Repr, Inhabited

/-! ## Threads -/

/-- One port of a slot (R169). -/
structure Port where
  bound : Bool := false
  dest : Word := 0
  isOpen : Bool := false
  /-- An open packet has been sent and has not yet taken the destination port (R171). -/
  opening : Bool := false
  /-- The number of the stream whose route is held or being opened (R171). -/
  sid : Nat := 0
  /-- The cycles the route has been open (R174), and those since the issue of the write that opened it (R175). -/
  age : Nat := 0
  since : Nat := 0
  /-- A packet of the stream was lost (R181). -/
  lost : Bool := false
  /-- The words of loads that have been performed and wait for the route or a credit, each with its end marker (R23, R171). -/
  pend : List (Word × Bool) := []
  queue : List (Word × Bool) := []
  spill : List (Word × Bool) := []
  inOpen : Bool := false
  lastE : Bool := false
  abort : Bool := false
  deriving DecidableEq, Repr, Inhabited

/-- The C-class shadow set (R183). -/
structure CopySet where
  src : Word := 0
  dst : Word := 0
  len : Word := 0
  rows : Word := 0
  sstr : Word := 0
  dstr : Word := 0
  flags : Word := 0
  stamp : Word := 0
  next : Word := 0
  deriving DecidableEq, Repr, Inhabited

/-- The plan staging set (R247). -/
structure PlanSet where
  dims : Word := 0
  bound : Vector Word 4 := Vector.replicate 4 0
  tile : Vector Word 4 := Vector.replicate 4 0
  order : Word := 0
  place : Word := 0
  cover : Word := 0
  deriving DecidableEq, Repr, Inhabited

/-- Vector state of a V slot (R111). -/
structure VecState where
  v : Vector (BitVec 2048) 32 := Vector.replicate 32 0
  k : Vector Word 8 := Vector.replicate 8 0
  vf : BitVec 320 := 0
  deriving DecidableEq, Repr, Inhabited

/-- Tile state of an M slot (R132). -/
structure TileState where
  t : Vector (BitVec 32768) 8 := Vector.replicate 8 0
  shape : Vector Word 8 := Vector.replicate 8 0
  flags : Word := 0
  deriving DecidableEq, Repr, Inhabited

/-- The trap registers of a slot (R276, R277). -/
structure TrapRegs where
  tmode : Bool := false
  priv : Bool := false
  wskip : Bool := false
  ovf : Bool := false
  tepc : Word := 0
  tepw : Word32 := 0
  tewp : Word := 0
  trec0 : Word := 0
  trec1 : Word := 0
  trec2 : Word := 0
  trec3 : Word := 0
  /-- The cause being served is one of R152. -/
  tile : Bool := false
  deriving DecidableEq, Repr, Inhabited

/-- An effective region control block (R225, R226): own ID first in `chain`, then the ancestors'. -/
structure Eff where
  rcb : Nat := 0
  parent : Nat := 0
  id : BitVec 28 := 0
  chain : List (BitVec 28) := []
  rcbs : List Nat := []
  troot : Word := 0
  plan : Word := 0
  fault : Word := 0
  part : List Word32 := []
  cmask : Word := 0
  budget : Nat := 0
  quantum : Nat := 0
  quota : List Nat := []
  lsbound : Nat := 0
  wsbase : Nat := 0
  save : Word32 := 0
  tenant : Nat := 0
  prio : Nat := 0
  ord : Nat := 1
  deriving DecidableEq, Repr, Inhabited

/-- The resources whose results become available at a later cycle (R46, R115). -/
inductive Res where
  | spec (x : Spec)
  | pred (p : BitVec 5)
  | vreg (v : BitVec 5)
  | mask (k : BitVec 3)
  | flags
  | tile (t : BitVec 3)
  deriving DecidableEq, Repr, Inhabited

/-- One thread slot of a core. -/
structure Slot where
  live : Bool := false
  cls : Nat := 0
  /-- The number of the continuation in the slot: new at each placement, kept through pre-emption, so that reports,
  claims and waits name one continuation. -/
  cont : Nat := 0
  pc : Word := 0
  pw : Word32 := 0
  wp : Word := 0
  w : Vector Word 32 := Vector.replicate 32 0
  dirty : BitVec 32 := 0
  /-- The cached words are absent and are refilled at the next use (R48). -/
  absent : Bool := false
  pv : Option Word := none
  pvAt : Nat := 0
  /-- A load of the slot before whose destination is `nx` has claimed this `pv` (R69): the number of its access or answer. -/
  pvClaim : Option Nat := none
  /-- The region's control block (R225), as a memory address, and its ID. -/
  rcb : Nat := 0
  region : BitVec 28 := 0
  depth : Nat := 0
  prio : Nat := 0
  reason : Nat := 0
  home : Word := 0
  link : Word := 0
  hdl : Bool := false
  /-- The escalated record that this handler received (R285), as a memory address. -/
  escRec : Nat := 0
  timer : Nat := 0
  avail : List (Res × Nat) := []
  notBefore : Nat := 0
  yieldUntil : Nat := 0
  /-- The place whose turn the latest `WTURN` waits for, and the cycle that it computed (R86, R104). -/
  wturn : Option (Place × Nat) := none
  /-- The fetch buffer (R63): block address, its 64 bytes as a number, and the cycle from which they may issue. -/
  fbuf : List (Word × Nat × Nat) := []
  /-- The block requested: its address, the cycle of the request, and the memory address that it was translated to. -/
  freq : Option (Word × Nat × Nat) := none
  acc : List Access := []
  owed : List Owed := []
  accNext : Nat := 0
  /-- Fences that hold later accesses (R209). -/
  fences : List Fence := []
  /-- Why the thread waits (R309): 0 not waiting, 2 on a message, 3 on memory. -/
  waiting : Nat := 0
  /-- Progress of a blocking instruction, and what its accesses have returned. -/
  phase : Nat := 0
  buf : List Nat := []
  ports : Vector Port 8 := Vector.replicate 8 {}
  copy : CopySet := {}
  /-- `CP_WP` (R183): STOP and BYTES of the slot's most recent launch, once it is over. -/
  copyWp : Word := 0
  /-- The transfer of the slot's most recent launch (`CP_WP`, R183): channel and sequence word. -/
  lastCopy : Option Word := none
  plan : PlanSet := {}
  vec : VecState := {}
  tiles : TileState := {}
  trap : TrapRegs := {}
  reports : List TrapRec := []
  /-- Tokens of the thread's armed `w` registers (R73), each with the workspace of the register, and its calls sent and not
  completed (R70): the address of the `CALLRM`, its token, what has been lost (1 the call, 2 its reply, R181), and the address of
  the next instruction. -/
  armed : List (Word × Word) := []
  calls : List (Word × Word × Nat × Word) := []
  callSeq : BitVec 16 := 0
  capIn : Word := 0
  capTgt : Word := 0
  capAt : Nat := 0
  debsel : Word := 0
  dbgAddr : Word := 0
  chgWidx : Word := 0
  telIdx : Word := 0
  /-- The group watchdog (R153), and the port whose word the thread waits for. -/
  watchdog : Nat := 0
  rxWait : Option Nat := none
  /-- A pre-emption has begun or is due, with its REASON (R241). -/
  preempt : Option Nat := none
  /-- The pre-emption runs: the thread issues nothing. -/
  leaving : Bool := false
  /-- The cycle at which the save of its context is complete (R241), 0 before the save. -/
  saveEnd : Nat := 0
  /-- A part of a saved context that is being restored (R346), and the cycle at which it is whole. -/
  restore : Option (Nat × Nat) := none
  /-- A migration packet of the thread is in flight (R246): the thread issues nothing. -/
  moving : Bool := false
  /-- Save area frames held: the region whose save area they lie in, and the slot, V and M frame numbers. -/
  frameRegion : BitVec 28 := 0
  frame : Option Nat := none
  vframe : Option Nat := none
  mframe : Option Nat := none
  /-- Parts of a saved context not yet restored (R346): 0 reports, 1 slot frame, 2 V, 3 M. -/
  unrestored : List Nat := []
  /-- The effective block that an instruction in progress has sampled, which it keeps to its completion (R226). -/
  sampled : Option Eff := none
  /-- A cause raised in trap service waits for a free frame (R283, R285). -/
  escal : Option TrapRec := none
  /-- Engine jobs launched by the thread that a fence with the engine bit waits for (R209). -/
  jobs : List Nat := []
  deriving DecidableEq, Repr, Inhabited

/-- A ready-queue entry (R230). -/
structure QEntry where
  val : Rec
  since : Nat := 0
  /-- Holds a general entry, or the one reserved for its depth. -/
  general : Bool := true
  frame : Option Nat := none
  vframe : Option Nat := none
  mframe : Option Nat := none
  /-- The frame of an escalated record that this handler received (R285), as a memory address. -/
  escRec : Nat := 0
  armed : Option Word := none
  /-- The token that a pre-empted `CALLRM` waits for (R241). -/
  await : Option Word := none
  /-- Words that arrived for the pre-empted continuation (R172): port, word and end bit; the slot it left, and the ports
  whose inbound stream was aborted meanwhile. -/
  spill : List (Nat × Word × Bool) := []
  slotNo : Nat := 0
  aborts : List Nat := []
  /-- The ports whose outbound stream has lost a packet meanwhile (R181). -/
  losses : List Nat := []
  /-- Accesses that no turn of the active tables serves (R82), with the fences that count them, and the workspace that the thread had. -/
  accs : List Access := []
  fences : List Fence := []
  wp : Word := 0
  /-- The number of the continuation where it has been placed before and keeps its context (R261). -/
  cont : Option Nat := none
  deriving DecidableEq, Repr, Inhabited

/-! ## Cores -/

/-- A circular-buffer handle (R193). -/
structure Handle where
  base : Nat := 0
  ssize : Nat := 0
  scount : Nat := 0
  head : Nat := 0
  tail : Nat := 0
  fill : Nat := 0
  deriving DecidableEq, Repr, Inhabited

/-- A write to a core-shared register still in flight (R68). -/
structure SPend where
  reg : Nat
  val : Word
  at' : Nat
  slot : Nat
  deriving DecidableEq, Repr, Inhabited

/-- A park-table entry (R239): record address, wake cycle, armed token. -/
structure ParkEntry where
  rcd : Place
  wake : Option Nat := none
  token : Option Word := none
  entry : QEntry := { val := {} }
  saved : Bool := false
  /-- A deposit that came before the record was whole: the register and the value. -/
  late : Option (Nat × Word) := none
  deriving DecidableEq, Repr, Inhabited

/-- A TLB entry (R292): root table address, page number in units of 64 KiB, whether it is a 32 MiB page, and the
page-table entry. -/
structure TlbEntry where
  root : Nat
  page : Nat
  big : Bool
  pte : Word
  deriving DecidableEq, Repr, Inhabited

/-- A `SETC` that has not yet taken effect (R75): slot, continuation and region of the writer, register, value, and the
cycle in which it takes effect. -/
structure CtlWrite where
  slot : Nat
  cont : Nat
  region : BitVec 28
  reg : Nat
  val : Word
  at' : Nat
  deriving DecidableEq, Repr, Inhabited

/-- A matrix-unit command accepted and not complete (R135). -/
structure UnitCmd where
  slot : Nat
  /-- 0 `TMMA`, 1 `TZERO`, 2 `TSCALE`, 3 `TADD`, 4 `TMASK`. -/
  op : Nat
  d : Nat := 0
  a : Nat := 0
  b : Nat := 0
  /-- `TMMA`: input kind and clear bit. -/
  kind : Nat := 0
  clr : Bool := false
  q : Bool := false
  rm : Nat := 0
  x : Word := 0
  parents : List Nat := []
  cycles : Nat := 1
  /-- The cycle at which it completes, once it executes; 0 before. -/
  doneAt : Nat := 0
  /-- A post on completion (R151): semaphore. -/
  post : Option Nat := none
  net : Bool := false
  shapes : List Word := []
  deriving DecidableEq, Repr, Inhabited

/-- A save-area frame in use (R286): region, kind (0 slot, 1 V, 2 M), number; and the memory address of the escalated
record that it holds, 0 for none. -/
structure Frame where
  region : BitVec 28
  kind : Nat
  num : Nat
  escal : Nat := 0
  /-- No handler received that record: only a privileged thread's `ENQ` frees the frame (R284). -/
  mgmt : Bool := false
  deriving DecidableEq, Repr, Inhabited

/-- The lines that the block buffer of a core has still to move (R78, R96, R98): those of a `BST`, read for the access `acc` of a
slot, or those of a `BLD`, written. Each line is its bank, its local offset and, for a `BLD`, its value. -/
structure BlockRun where
  slot : Nat
  load : Bool
  acc : Nat
  lines : List (Nat × Nat × Nat)
  deriving DecidableEq, Repr, Inhabited

/-- The units that the slots of one core share (R9). -/
structure Core where
  last : Nat := 7
  sems : Vector (BitVec 16) 16 := Vector.replicate 16 0
  s : Vector Word 4 := Vector.replicate 4 0
  spend : List SPend := []
  /-- Reply registers `s0` to `s3` that are armed: register and token (R73). -/
  armedS : List (Nat × Word) := []
  handles : Vector Handle 8 := Vector.replicate 8 {}
  watch : Vector Word 4 := Vector.replicate 4 0
  watchRegion : Vector (BitVec 28) 4 := Vector.replicate 4 0
  twsbase : Word := 0
  park : List ParkEntry := []
  tlb : List TlbEntry := []
  divFree : Nat := 0
  vdivFree : Nat := 0
  vecFree : Nat := 0
  normFree : Nat := 0
  resp : Nat := 8
  /-- Response slots that are free again from the next cycle (R164). -/
  respBack : Nat := 0
  credits : Nat := 64
  munit : List UnitCmd := []
  /-- The local-store port (R78): the block-buffer transfers still to make, in order; one more than the last cycle claimed by
  write-back and refill, by an instruction and by an engine; the engine that it served last, slots 0–7, channels 8–11, `RLDV` lines
  12 and debuggers 13; and how many cycles each waiting engine has been passed over. -/
  blocks : List BlockRun := []
  portClaim : Nat := 0
  portIssue : Nat := 0
  portEng : Nat := 0
  engLast : Nat := 13
  engWait : List (Nat × Nat) := []
  frames : List Frame := []
  clkCur : Nat := 0
  clkTgt : Nat := 0
  clkReq : Nat := 0
  /-- Waypoint records (R309): the last logged state; the state of the last cycle, its instruction and slot; the first of
  the cycles since which the state has differed; the date of the last record. -/
  wayState : Nat := 0
  wayNew : Nat := 0
  wayPc : Word := 0
  waySlot : Nat := 0
  waySince : Option Nat := none
  wayDate : Nat := 0
  /-- Software records that wait for the state record of an earlier cycle (R310): date, slot, payload. -/
  wayHeld : List (Nat × Nat × Nat) := []
  issued : Bool := false
  issuedSlot : Nat := 0
  issuedPc : Word := 0
  deriving DecidableEq, Repr, Inhabited

/-! ## Clusters -/

/-- A wheel (R79): active and shadow tables, the cycle at which the active table took effect, and an armed swap with
the slot that waits for it. The inner table's entry is the list of holders of banks 0–15; the outer table's entry is
the list of groups of clusters 0–31. -/
structure Wheel where
  table : List (List Nat) := []
  len : Nat := 0
  dwell : Nat := 1
  shadow : List (List Nat) := []
  slen : Nat := 0
  sdwell : Nat := 1
  base : Nat := 0
  armed : Bool := false
  deriving DecidableEq, Repr, Inhabited

/-- The default inner wheel (R14): at step `e` bank `b` is paired with requester `(b + e) mod 18`. DESIGN CHOICE (log entry 61): the
entries past its length of 18 hold 31, idle, for every bank. -/
def Wheel.innerDefault : Wheel :=
  let t := (List.range 64).map fun e => (List.range 16).map fun b => if e < 18 then (b + e) % 18 else 31
  { table := t, len := 18, dwell := 1, shadow := t, slen := 18, sdwell := 1 }

/-- The default outer wheel (R14): at step `f` cluster `c` is paired with group `(c + f) mod 32`, dwell 18. DESIGN CHOICE (log entry
61): the entries past its length of 32 hold 0. -/
def Wheel.outerDefault : Wheel :=
  let t := (List.range 64).map fun f => (List.range 32).map fun c => if f < 32 then (c + f) % 32 else 0
  { table := t, len := 32, dwell := 18, shadow := t, slen := 32, sdwell := 18 }

/-- A bank retirement (R88, R294): phase 0 none, 1 copy, 2 swap, 3 retired. -/
structure Retire where
  phase : Nat := 0
  bank : Nat := 0
  group : Nat := 0
  done : Nat := 0
  /-- The spare is unused. -/
  spare : Bool := true
  swapEnd : Nat := 0
  deriving DecidableEq, Repr, Inhabited

/-- A barrier (R214). -/
structure Barrier where
  count : Nat := 0
  arrivals : Nat := 0
  counter : Int := 0
  phase : Nat := 0
  region : Option (BitVec 28) := none
  rcb : Nat := 0
  broken : Bool := false
  /-- Tagged subtractions of the present cycle have still to be followed by `Complete()` (R221). -/
  tagged : Bool := false
  deriving DecidableEq, Repr, Inhabited

/-- A transfer on a copy channel (R184): the shadow set as sampled, the pages it was resolved to, and its progress. -/
structure Transfer where
  seq : Word := 0
  slot : Nat := 0
  cont : Nat := 0
  region : BitVec 28 := 0
  tenant : Nat := 0
  /-- The address of the launching instruction. -/
  pc : Word := 0
  set : CopySet := {}
  /-- Resolved 64 KiB pages: page number and the place of its first byte. -/
  pages : List (Nat × Place) := []
  stamp : Place := ⟨0, 0, 0, 0⟩
  /-- The channel has started it (R182). -/
  started : Bool := false
  /-- Payload bytes of the transfer, and bytes delivered of it (R185). -/
  total : Nat := 0
  bytes : Nat := 0
  /-- The hop being delivered, 0 for the transfer itself, and the bytes of that hop written or sent. -/
  hop : Nat := 0
  pos : Nat := 0
  /-- Source lines fetched ahead of the writes (R189), by the address of the line: the value, a bit for each poisoned
  doubleword, and the cycle from which it is there (R200). -/
  got : SMap (Nat × Nat × Nat) := []
  /-- The lines asked for over the network, and those that wait in a DRAM channel's queue to be read or written, by address. -/
  asked : List Nat := []
  /-- Source lines that cannot be read: the address and the cause (R190). -/
  bad : List (Nat × Nat) := []
  /-- The parts written or sent from the first that is not acknowledged on: position, length, and whether it is delivered
  (R185). -/
  sent : List (Nat × Nat × Bool) := []
  /-- The stamp is in flight, or has been acknowledged. -/
  stampSent : Bool := false
  stampDone : Bool := false
  /-- A cause that stops the transfer (R190): 0x0D or 0x0E, and the address of the line; 0 for none. -/
  stop : Nat := 0
  stopAt : Place := ⟨0, 0, 0, 0⟩
  /-- Lowest address and length of the destination bound, and the clusters of the hops (R187). -/
  lo : Nat := 0
  len : Nat := 0
  hops : List Nat := []
  /-- Launched by `CPFWD` (R187). -/
  fwd : Bool := false
  job : Nat := 0
  /-- A `KVCOMMIT` job (R147): the line moves still to make, each with source, destination, size, entry and address. -/
  kv : Bool := false
  moves : List (Place × Place × Nat × Nat × Word) := []
  path : Word := 0
  reg : Spec := 0
  newLen : Nat := 0
  deriving DecidableEq, Repr, Inhabited

/-- A completed transfer that the channel keeps (R187): where its destination bound lies, its stamp, its payload. -/
structure CopyDone where
  seq : Word
  pages : List (Nat × Place)
  lo : Nat
  len : Nat
  stamp : Place
  /-- Its destination and stamp lie in the own cluster store. -/
  own : Bool
  total : Nat
  bytes : Nat
  deriving DecidableEq, Repr, Inhabited

/-- A copy channel (R182). -/
structure Channel where
  count : Nat := 0
  queue : List Transfer := []
  done : List CopyDone := []
  lastDone : Word := 0
  deriving DecidableEq, Repr, Inhabited

/-- A footprint-table entry (R191): ranges as first and last line address. -/
structure Job where
  id : Nat
  region : BitVec 28
  slot : Nat
  cont : Nat := 0
  reads : List (Nat × Nat) := []
  writes : List (Nat × Nat) := []
  held : Bool := false
  /-- A `KVCOMMIT` job (R147). -/
  kv : Bool := false
  /-- The cycle at which the tile of a `TLD` is written and its job is over (R138, R191); 0 before it is known. -/
  endAt : Nat := 0
  deriving DecidableEq, Repr, Inhabited

/-- The isochrone array (R254). -/
structure Iso where
  dl : Vector (BitVec 512) 64 := Vector.replicate 64 (BitVec.allOnes 512)
  a : BitVec 512 := BitVec.allOnes 512
  o : BitVec 512 := BitVec.allOnes 512
  win : Nat := 255
  mode : Word := 0
  holder : Option (Nat × Nat) := none
  hslot : Nat := 0
  away : Bool := false
  lastRegion : Option (BitVec 28) := none
  pleft : Nat := 0
  pdone : Nat := 0
  /-- The cycle at which the pass in progress ends, its window and modes as sampled. -/
  nextPass : Nat := 0
  gwin : Nat := 255
  gmode : Word := 0
  lastEnd : Nat := 0
  deriving DecidableEq, Repr, Inhabited

/-- An entry of the race ring (R213). -/
structure Race where
  cycle : Nat
  src : Nat
  prev : Nat
  offset : Nat
  common : Bool
  deriving DecidableEq, Repr, Inhabited

/-- A `BST` whose lines are all staged (R96), and a `BLD` pass in progress (R97). -/
structure Commit where
  slot : Nat
  ready : Nat
  row : Nat
  lines : List (Nat × Nat) := []
  deriving DecidableEq, Repr, Inhabited

/-- A `BLD` pass in progress on a row: commits applied since its first line (R97). -/
structure Pass where
  slot : Nat
  row : Nat
  since : Nat := 0
  started : Bool := false
  holds : Bool := false
  deriving DecidableEq, Repr, Inhabited

/-- The request of a core for a page that its TLB does not hold (R292): it looks in the cluster TLB, and what it does not find there
is walked. -/
structure Walk where
  core : Nat
  root : Nat
  rootEntry : Word
  va : Nat
  level : Nat := 3
  entry : Word := 0
  /-- The fault it met: cause, sub-code and the entry read. -/
  bad : Option (Nat × Nat × Word) := none
  /-- The cycle in which its lookup is over, 0 before its turn; and whether it has missed and is walked. -/
  look : Nat := 0
  walking : Bool := false
  deriving DecidableEq, Repr, Inhabited

/-- A read that a cluster's service port has sent for: a table entry of a walk, or the block of an instruction-cache refill, in a DRAM
channel or another store (R63, R292). -/
structure PortRead where
  seq : Nat
  key : Nat
  code : Bool := false
  /-- Its value, whether it is poisoned, and the cycle from which it is there: 0 until it has been served. -/
  val : Nat := 0
  bad : Bool := false
  due : Nat := 0
  deriving DecidableEq, Repr, Inhabited

/-- The debug module of a cluster (R302). -/
structure Debug where
  tmask : BitVec 20 := 0
  dwell : Nat := 4
  whalt : Bool := false
  xin : Bool := false
  swbrk : Bool := false
  hcyc : Nat := 0
  hslot : Nat := 0
  hcore : Nat := 0
  why : Nat := 0
  halted : Bool := false
  /-- A halt event has fallen and is not complete. -/
  halting : Option Nat := none
  /-- The cycle from which a RESUME takes effect (R306). -/
  resumeAt : Option Nat := none
  /-- The slot that a STEP lets issue, and the cycle from which it may (R306). -/
  step : Option (Nat × Nat) := none
  deriving DecidableEq, Repr, Inhabited

/-- A move of a core's role to the spare (R298): logical core, and the cycle at which its copy is complete. -/
structure Move where
  core : Nat
  /-- It has begun: no slot of the core issues. It has not while a thread of the core is in trap service (R283). -/
  begun : Bool := false
  copied : Bool := false
  doneAt : Nat := 0
  wear : Bool := false
  deriving DecidableEq, Repr, Inhabited

/-- Event and telemetry counts of a cluster (R330). -/
structure Telemetry where
  live : Vector Nat 16 := Vector.replicate 16 0
  /-- As they stood at the last 1 us boundary. -/
  last : Vector Nat 16 := Vector.replicate 16 0
  deriving DecidableEq, Repr, Inhabited

/-- The units of one cluster (R9). -/
structure Cluster where
  wheel : Wheel := Wheel.innerDefault
  retire : Retire := {}
  /-- Bank indices lost (R89). -/
  absent : BitVec 16 := 0
  commitCount : SMap Nat := []
  commits : List Commit := []
  passes : List Pass := []
  bars : SMap Barrier := []
  queues : Vector (List QEntry) 4 := Vector.replicate 4 []
  binds : Vector Word 16 := Vector.replicate 16 0
  chans : Vector Channel 4 := Vector.replicate 4 {}
  jobs : List Job := []
  jobNext : Nat := 1
  iso : Iso := {}
  race : Vector (Option Race) 64 := Vector.replicate 64 none
  raceNext : Nat := 0
  /-- The doublewords most recently stored through the network port: place, source, cycle (R213). -/
  history : List (Nat × Nat × Nat) := []
  /-- Physical core of logical core 0–15 and of the spare role 16 (R297). -/
  phys : Vector Nat 17 := Vector.ofFn fun i => i.val
  down : BitVec 17 := 0
  temp : Vector Nat 17 := Vector.replicate 17 0
  thermlim : Nat := 100
  thermcnt : Nat := 0
  move : Option Move := none
  lastWear : Nat := 0
  moved : Bool := false
  trapbase : Word := 0
  whlSel : Word := 0
  raceIdx : Word := 0
  bindIdx : Word := 0
  datumIdx : Word := 0
  gsSel : Word := 0
  tel : Telemetry := {}
  chgLvl : Nat := 65536
  chgFrac : Nat := 0
  chgCur : Nat := 10560
  chgTgt : Nat := 10560
  boost : Bool := false
  boostReq : Bool := false
  cthr : Bool := false
  tthr : Bool := false
  rowCur : Nat := 850
  rowTgt : Nat := 850
  ramp : Bool := false
  rampDiv : List Nat := []
  pending : Option (List Nat) := none
  pwrChg : Bool := true
  pwrRgate : Bool := true
  dbg : Debug := {}
  pmsel : Word := 0
  pmc : Vector Word 4 := Vector.replicate 4 0
  /-- Event counts of the present cycle, by event code (R315). -/
  events : List Nat := []
  tq : List (Word × BitVec 16) := []
  tlost : Nat := 0
  tlb : List TlbEntry := []
  walks : List Walk := []
  /-- The instruction cache (R63): memory address of a block and its 64 bytes, most recently used first; and the blocks
  that wait for a refill. -/
  icache : List (Nat × Nat) := []
  misses : List Nat := []
  /-- What the service port has sent for, and the number of the next of these reads. -/
  reads : List PortRead := []
  readNext : Nat := 0
  /-- Router: the last cycle with traffic, gated or not, and the cycle from which a woken router forwards (R167). -/
  rlast : Nat := 0
  gated : Bool := false
  rready : Nat := 0
  /-- Fabric lane attached to the router (R158); the lanes lost on the ring links of its outputs 1, 3 and 5, and the cycles of the
  resends charged to them and to the fabric lane, 7 (R180). -/
  laneDown : Bool := false
  ringLost : Vector Nat 8 := Vector.replicate 8 0
  resends : Vector (List Nat) 8 := Vector.replicate 8 []
  /-- The cycle from which each output link, and the inbound direction of the fabric lane, is free (R156, R165). -/
  linkFree : Vector Nat 8 := Vector.replicate 8 0
  laneIn : Nat := 0
  /-- Hop time of the fabric lane, fixed at training (R159). -/
  hopTime : Nat := 0
  /-- Region slot-occupancy cycles in this slice, and regions whose budget has run out (R243). -/
  occ : List (BitVec 28 × Nat) := []
  spent : List (BitVec 28) := []
  /-- Fault-domain handler entries that wait for queue room (R284). -/
  handlers : List QEntry := []
  /-- Pre-empted continuations whose save runs, or that wait in their frames for queue room (R241). -/
  leaving : List QEntry := []
  /-- Requester last served at each bank by the service port (R189): banks 0–15 of the cluster store, 16–31 of the common
  store; requesters 0–3 the memory cores, 4–7 the channels, 8 the plan unit, 9 isochrone loads, 10 the background scrub, 11 the
trace core's ring. -/
  svcLast : SMap Nat := []
  /-- The requesters of classes 3 to 5 that a bank has passed over, and the cycle of the first time (R189): the key is 16 times the
  bank's number there, plus the requester. -/
  svcWait : SMap Nat := []
  /-- The lines of the service port held on missing turns (R88), by address, and the cycle from which each may be served. -/
  held : SMap Nat := []
  deriving DecidableEq, Repr, Inhabited

/-! ## Steps that are due -/

/-- A step of the device that no instruction word issues, as the state holds it until its turn comes: each is the constructor of
`Instr` of the same name, with the same operands. -/
inductive Event where
  /-- `TRACE_RECORD` (R311). -/
  | traceRecord (die : Nat)
  /-- `WAYPOINT_RECORD` (R309). -/
  | waypointRecord (core : Nat)
  /-- `HALT` (R303). -/
  | halt (clu : Nat)
  /-- `HALT_EVENT` (R304). -/
  | haltEvent (clu why core slot : Nat)
  /-- `HALTED` (R304). -/
  | halted (clu : Nat)
  /-- `RESUME` (R306). -/
  | resume (clu : Nat)
  /-- `STEP` (R306). -/
  | stepOne (clu core slot : Nat)
  /-- `STEP_DONE` (R306). -/
  | stepDone (clu : Nat)
  /-- `RESYNC` (R322). -/
  | resync
  /-- `LOADFW` (R328). -/
  | loadfw
  /-- `LAUNCH` (R321). -/
  | launch
  /-- `RESET` (R321). -/
  | reset
  /-- `BAD_OPCODE` (R321). -/
  | badOpcode
  /-- `BOOT` (R328). -/
  | boot
  /-- `HOST_READ` (R323). -/
  | hostRead (link off len : Nat)
  /-- `HOST_WRITE` (R323). -/
  | hostWrite (link off : Nat) (data : List Byte)
  /-- `LINK_TRAINING` (R324). -/
  | linkTraining (n0 n1 n2 n3 : Nat) (hops : List (Nat × Nat))
  /-- `PTP_LOCK` (R319). -/
  | ptpLock (t : Nat)
  /-- `SLICE_INSTANT` (R244). -/
  | sliceInstant
  /-- `INTERVAL_BOUNDARY` (R326). -/
  | intervalBoundary
  /-- `THERMAL_COPY` (R298). -/
  | thermalCopy (clu : Nat)
  /-- `THERMAL_REMAP` (R298). -/
  | thermalRemap (clu : Nat)
  /-- `TIMER_EXPIRY` (R240). -/
  | timerExpiry (slot : Nat)
  /-- `BUDGET_EXHAUSTED` (R243). -/
  | budgetExhausted (clu region : Nat)
  /-- `PREEMPTION` (R241). -/
  | preemption (slot reason : Nat)
  /-- `PREEMPT_SAVE` (R241). -/
  | preemptSave (slot : Nat)
  /-- `PREEMPT_ENQUEUE` (R241). -/
  | preemptEnqueue (slot : Nat)
  /-- `QUEUE_AGING` (R233). -/
  | queueAging (clu : Nat)
  /-- `DISPATCH` (R235). -/
  | dispatch (clu : Nat)
  /-- `CONTEXT_RESTORE` (R346). -/
  | contextRestore (slot part : Nat)
  /-- `PARK_WAKE` (R239). -/
  | parkWake (core : Nat)
  /-- `DEPOSIT` (R72). -/
  | deposit (pid : Nat)
  /-- `REMOTE_CALL` (R70). -/
  | remoteCall (pid : Nat)
  /-- `MATRIX_COMMAND` (R151). -/
  | matrixCommand (pid : Nat)
  /-- `MIGRATION_ARRIVAL` (R246). -/
  | migrationArrival (pid : Nat)
  /-- `MIGRATION_RESEND` (R246). -/
  | migrationResend (pid : Nat)
  /-- `REMOTE_ACCESS` (R178). -/
  | remoteAccess (pid : Nat)
  /-- `RESPONSE_DELIVERY` (R178). -/
  | responseDelivery (pid : Nat)
  /-- `LOSS_NOTICE` (R181). -/
  | lossNotice (pid : Nat)
  /-- `MCAST_DELIVERY` (R176). -/
  | mcastDelivery (pid : Nat)
  /-- `STREAM_OPEN` (R171). -/
  | streamOpen (pid : Nat)
  /-- `STREAM_WORD` (R172). -/
  | streamWord (pid : Nat)
  /-- `STREAM_END` (R173). -/
  | streamEnd (pid : Nat)
  /-- `STREAM_TIMEOUT` (R175). -/
  | streamTimeout (slot port : Nat)
  /-- `STREAM_ABORT` (R175). -/
  | streamAbort (pid : Nat)
  /-- `GROUP_WATCHDOG` (R153). -/
  | groupWatchdog (slot : Nat)
  /-- `PACKET_FORWARD` (R159). -/
  | packetForward (pid : Nat)
  /-- `LANE_DROP` (R158). -/
  | laneDrop (clu dir : Nat)
  /-- `ROUTER_GATE` (R167). -/
  | routerGate (clu : Nat)
  /-- `ROUTER_WAKE` (R167). -/
  | routerWake (clu : Nat)
  /-- `TURN_SERVICE` (R81). -/
  | turnService (slot acc : Nat)
  /-- `WAITW_REREAD` (R100). -/
  | waitwReread (slot : Nat)
  /-- `WHEEL_SWAP` (R85). -/
  | wheelSwap (outer : Bool) (unit : Nat)
  /-- `STRIPE_COMMIT` (R96). -/
  | stripeCommit (slot : Nat)
  /-- `BLD_PASS` (R98). -/
  | bldPass (slot : Nat)
  /-- `RETIREMENT_SWAP` (R88). -/
  | retirementSwap (common : Bool) (unit : Nat)
  /-- `RETIREMENT_DONE` (R88). -/
  | retirementDone (common : Bool) (unit : Nat)
  /-- `ERROR_THRESHOLD` (R329). -/
  | errorThreshold (kind unit group bank : Nat)
  /-- `BANK_LOSS` (R89). -/
  | bankLoss (common : Bool) (unit group bank : Nat)
  /-- `SCRUB` (R329). -/
  | scrub (clu bank : Nat)
  /-- `DRAM_REQUEST` (R200). -/
  | dramRequest (chan : Nat)
  /-- `REFRESH_WINDOW` (R200). -/
  | refreshWindow (chan : Nat)
  /-- `COPY_TRANSFER_START` (R182). -/
  | copyTransferStart (clu ch : Nat)
  /-- `COPY_LINE` (R185). -/
  | copyLine (clu ch : Nat)
  /-- `COPY_STAMP` (R185). -/
  | copyStamp (clu ch : Nat)
  /-- `CHAIN_HOP` (R187). -/
  | chainHop (clu ch : Nat)
  /-- `COPY_STOP` (R190). -/
  | copyStop (clu ch cause : Nat)
  /-- `FOOTPRINT_RELEASE` (R192). -/
  | footprintRelease (clu job : Nat)
  /-- `KVCOMMIT_HOLD_END` (R147). -/
  | kvcommitHoldEnd (slot : Nat)
  /-- `UNIT_COMMAND` (R135). -/
  | unitCommand (core : Nat)
  /-- `ISOCHRONE_PASS` (R255). -/
  | isochronePass (clu : Nat)
  /-- `FETCH_SERVE` (R63). -/
  | fetchServe (clu : Nat)
  /-- `ICACHE_REFILL` (R63), of a cluster and the key of a block. -/
  | icacheRefill (block : Nat × Nat)
  /-- `TABLE_WALK` (R292), of a cluster, a root and a page. -/
  | tableWalk (walk : Nat × Nat × Nat)
  /-- `REPORT_TAKEN` (R279). -/
  | reportTaken (slot : Nat)
  /-- `ESCALATION` (R285). -/
  | escalation (slot : Nat)
  /-- `BIND_RECORD_WRITE` (R234). -/
  | bindRecordWrite (clu idx : Nat) (val : Word)
  /-- `WEAR_ROTATION` (R329). -/
  | wearRotation (clu core : Nat)
  /-- `UNCORRECTABLE_ERROR` (R92). -/
  | uncorrectableError (key : Nat)
  deriving DecidableEq, Repr

/-! ## Dies, network and the device -/

/-- A filter run on the trace core (R311). -/
structure FilterRun where
  word : Word
  tag : BitVec 16
  f : Vector Word 8 := Vector.replicate 8 0
  label : BitVec 12 := 0
  idx : Nat := 0
  deriving DecidableEq, Repr, Inhabited

/-- The units of one die (R9): outer wheel, common-store retirement and losses by group, trace core. -/
structure Die where
  wheel : Wheel := Wheel.outerDefault
  retire : SMap Retire := []
  /-- The group that `RET_GS` shows: that of the latest retirement. -/
  retGroup : Nat := 0
  absent : SMap (BitVec 16) := []
  en : Bool := false
  fen : Bool := false
  flen : Nat := 0
  tbase : Word := 0
  twp : Nat := 0
  fidx : Nat := 0
  fmem : Vector (BitVec 16) 64 := Vector.replicate 64 0
  fconst : Vector Word 8 := Vector.replicate 8 0
  fcnt : Vector Word 8 := Vector.replicate 8 0
  run : Option FilterRun := none
  rot : Nat := 0
  /-- Kept entries that the trace core has still to write into the ring (R311), the oldest first. -/
  kept : List (List Byte) := []
  /-- DRAM channels moved to spares, and channels lost with no spare (R331). -/
  spareChans : Nat := 0
  failed : List Nat := []
  deriving DecidableEq, Repr, Inhabited

/-- A host access through BAR2 or to a register of BAR0 that is not complete (R323). -/
structure HostOp where
  id : Nat
  link : Nat
  wr : Bool
  /-- What is still to be done, a line at a time: the place, the number of bytes, and for a write their value. -/
  lines : List (Place × Nat × Nat) := []
  /-- The first of these stands in the queue of its channel. -/
  queued : Bool := false
  /-- The bytes read so far; for a register of BAR0 its offset, and the bytes asked for. -/
  got : List Byte := []
  reg : Option (Nat × Nat) := none
  deriving DecidableEq, Repr, Inhabited

/-- A DRAM channel (R200): requests in arrival order, open rows by bank, and the cycle at which the bus is free. -/
structure Dram where
  queue : List (Nat × Nat) := []
  rows : SMap Nat := []
  busFree : Nat := 0
  lineSeq : Nat := 0
  acts : SMap Nat := []
  deriving DecidableEq, Repr, Inhabited

/-- The mailbox of BAR0 (R321). -/
structure Mailbox where
  cmd : Word := 0
  arg0 : Word := 0
  arg1 : Word := 0
  busy : Bool := false
  done : Bool := false
  tag : BitVec 8 := 0
  result : Nat := 0
  deriving DecidableEq, Repr, Inhabited

/-- An event sent to the management core (R284, R89): code, cluster, core in the cluster, record, address of the escalated record. -/
structure MgmtEvent where
  code : Nat
  clu : Nat
  core : Nat := 0
  trap : TrapRec := {}
  addr : Nat := 0
  deriving DecidableEq, Repr, Inhabited

/-- The state of the device. -/
structure State where
  /-- `CYC` (R274). -/
  cyc : Nat
  /-- Every store and DRAM channel, by the address of a place. -/
  mem : Memory
  /-- Poisoned units (R92), by the address of the unit, in rising order. -/
  poison : List Nat
  slots : SMap Slot
  cores : SMap Core
  clus : SMap Cluster
  dies : SMap Die
  chans : SMap Dram
  net : List Packet
  pidNext : Nat
  /-- Stream lanes held (R166): lane number and stream. -/
  lanes : List (Nat × Nat)
  /-- Open streams (R171): their number, the continuation that receives, and its port. -/
  streams : List (Nat × Nat × Nat)
  /-- Faults that are to strike links (R180): router, output, and what the next router finds, as in `Packet.fault`. -/
  linkFaults : List (Nat × Nat × Nat)
  /-- The region directory of firmware (log entry 4): region ID and RCB address. -/
  dir : SMap Nat
  /-- Cached copies of effective blocks (R226), by RCB address. -/
  effs : SMap Eff
  /-- Control blocks found to break a limit and reported (R226), and those whose report is due, each with the core that sampled
  it. -/
  bads : List Nat
  badNew : List (Nat × Nat)
  /-- `DEVICE` (R224), `FABDIM` (R318). -/
  device : Nat
  fabValid : Bool
  fabN : Vector Nat 4
  /-- `TIME`: whether the clock has locked, and grandmaster time less `CYC` time (R319). -/
  locked : Bool
  timeOff : Nat
  /-- `SLICE` (R318): length, count - 1, a write that waits for the next slice instant, and the writes that the management core will
  make, each with its cycle (log entry 13). -/
  sliceLen : Nat
  sliceCnt : Nat
  slicePend : Option (Nat × Nat)
  sliceIn : List (Nat × Nat × Nat)
  /-- The slice bits consulted by dispatch: the current slice as of the last instant. -/
  slice : Nat
  sliceNext : Nat
  privt : Vector Word 8
  fwid : BitVec 256
  bootstat : Nat
  /-- A body loaded by LOADFW for the next reset (R321), none where the fused part's stored image stands. -/
  image : Option (List Byte)
  resets : Nat
  mbox : Mailbox
  msix : List Nat
  /-- Host memory, as the host's own bytes (log entry 10). -/
  host : Memory
  /-- Host accesses answered as Unsupported Request or discarded (R323), and the last read completion. -/
  hostBad : Nat
  hostRead : List Byte
  /-- The host's accesses that are not complete, in order of arrival, and the number of the next (R323). -/
  hostOps : List HostOp
  hostNext : Nat
  mgmt : List MgmtEvent
  /-- Hardware steps due in this cycle, in order. -/
  agenda : List Event
  /-- Steps from outside or scheduled for a later cycle. -/
  inputs : List (Nat × Event)
  /-- Slots that the issue stages have still to examine in this cycle, in order (R45). -/
  sched : List Nat
  /-- The slot whose instruction runs. -/
  cur : Nat
  /-- The die whose trace core runs a filter instruction. -/
  fdie : Nat
  contNext : Nat
  /-- What the present cycle does once the agenda is empty: 0 it is over, 1 its turns, 2 its issue, 3 the slots of `sched`, then
  the turns that the accesses issued in it find free, 4 its end. -/
  stage : Nat
  /-- Control-register writes that have not yet taken effect (R75). -/
  setcs : List CtlWrite
  /-- Dies whose trace core has still to run its filter instruction of this cycle (R311). -/
  frun : List Nat
  /-- Requesters whose turn at a store has been used in this cycle (R81): twice the number of the core, or of the first memory
  core for the service port of a cluster, with 1 for the common store. -/
  turned : List Nat
  deriving DecidableEq, Repr, Inhabited

/-- The state right after reset: every unit at its defaults, `CYC` 0, and the boot ROM about to check the stored
image (R328). -/
def State.reset : State where
  cyc := 0
  mem := []
  poison := []
  slots := []
  cores := []
  clus := []
  dies := []
  chans := []
  net := []
  pidNext := 0
  lanes := []
  streams := []
  linkFaults := []
  dir := []
  effs := []
  bads := []
  badNew := []
  device := 0
  fabValid := false
  fabN := Vector.replicate 4 0
  locked := false
  timeOff := 0
  sliceLen := 1000000
  sliceCnt := 0
  slicePend := none
  sliceIn := []
  slice := 0
  sliceNext := 1000000
  privt := Vector.replicate 8 0
  fwid := 0
  bootstat := 0
  image := none
  resets := 0
  mbox := {}
  msix := []
  host := []
  hostBad := 0
  hostRead := []
  hostOps := []
  hostNext := 0
  mgmt := []
  agenda := [.boot]
  inputs := []
  sched := []
  cur := 0
  fdie := 0
  contNext := 0
  stage := 0
  setcs := []
  frun := []
  turned := []

/-- The reasons a step stops with a fault. No step of this model does: the device reports every fault of a program
as a trap, which is a next state (R278). -/
inductive Fault where
  /-- Raised by no step: kept so that the type names what a fault would be. Safe. -/
  | none
  deriving DecidableEq, Repr

/-- The reasons a step is refused. -/
inductive Refusal where
  /-- An instruction that the model gives no meaning, rejected by name in the dispatch. Safe. -/
  | notModelled (mnemonic : String)
  /-- `exec` of a machine instruction while the current slot holds no thread (log entry 14): no thread issues it, so
  the manual gives it no effect. `step` never does this. Safe. -/
  | noThread
  /-- `exec` of a filter instruction while no filter run is in progress on the current die (log entry 14). `step` never
  does this. Safe. -/
  | noFilterRun
  deriving DecidableEq, Repr

end Sys2Proof.Machine
end

