-- ==== Sys2Proof/Machine/Ops.lean ====
section
/-! DEFINITION. The named operations over the state: unit numbers, reading and writing one unit, memory by place, the
monad of a meaning, taking an exception and returning from one. -/

namespace Sys2Proof.Machine

/-! ## Unit numbers -/

def slotCore (n : Nat) : Nat := n / 8
def slotIdx (n : Nat) : Nat := n % 8
def coreClu (c : Nat) : Nat := c / 20
/-- The core's number in its cluster, 16 to 19 for memory cores 0 to 3. -/
def coreIdx (c : Nat) : Nat := c % 20
def isMemCore (c : Nat) : Bool := 16 ≤ coreIdx c
def cluDie (c : Nat) : Nat := c / 32
def cluIdx (c : Nat) : Nat := c % 32
def slotClu (n : Nat) : Nat := coreClu (slotCore n)
def slotDie (n : Nat) : Nat := cluDie (slotClu n)
/-- The DRAM channel that a memory core owns (R199): memory core `i` of cluster `c` owns channel `4c + i` of the die
(log entry 2). -/
def coreChan (c : Nat) : Nat := cluDie (coreClu c) * 128 + cluIdx (coreClu c) * 4 + (coreIdx c - 16)
/-- The cluster whose memory core owns a channel. -/
def chanClu (ch : Nat) : Nat := (ch / 128) * 32 + (ch % 128) / 4

/-! ## Units of the state -/

def State.slot (s : State) (n : Nat) : Slot := SMap.get {} s.slots n
def State.core (s : State) (n : Nat) : Core := SMap.get {} s.cores n
def State.clu (s : State) (n : Nat) : Cluster := SMap.get {} s.clus n
def State.die (s : State) (n : Nat) : Die := SMap.get {} s.dies n
def State.dram (s : State) (n : Nat) : Dram := SMap.get {} s.chans n

def State.setSlot (s : State) (n : Nat) (x : Slot) : State := { s with slots := SMap.set s.slots n x }
def State.setCore (s : State) (n : Nat) (x : Core) : State := { s with cores := SMap.set s.cores n x }
def State.setClu (s : State) (n : Nat) (x : Cluster) : State := { s with clus := SMap.set s.clus n x }
def State.setDie (s : State) (n : Nat) (x : Die) : State := { s with dies := SMap.set s.dies n x }
def State.setDram (s : State) (n : Nat) (x : Dram) : State := { s with chans := SMap.set s.chans n x }

def State.modSlot (s : State) (n : Nat) (f : Slot → Slot) : State := s.setSlot n (f (s.slot n))
def State.modCore (s : State) (n : Nat) (f : Core → Core) : State := s.setCore n (f (s.core n))
def State.modClu (s : State) (n : Nat) (f : Cluster → Cluster) : State := s.setClu n (f (s.clu n))
def State.modDie (s : State) (n : Nat) (f : Die → Die) : State := s.setDie n (f (s.die n))
def State.modDram (s : State) (n : Nat) (f : Dram → Dram) : State := s.setDram n (f (s.dram n))

/-- The divider of a code (R47, R297): 1, 2, 3, 4, 6 or 8. -/
def dividerOf (code : Nat) : Nat := [1, 2, 3, 4, 6, 8][code]?.getD 8

/-- What a halted cluster holds is held (R305): while it is halted, and throughout a step. -/
def Debug.still (d : Debug) : Bool := d.halted || d.step.isSome

/-- `TIME` (R319): whole nanoseconds of `CYC` until the clock locks, grandmaster time from then on. -/
def State.time (s : State) : Nat := s.cyc * 10 / 13 + (if s.locked then s.timeOff else 0)

/-- The current slot. -/
def State.me (s : State) : Slot := s.slot s.cur

/-- Adds one to telemetry counter `i` of a cluster (R330). -/
def State.tel (s : State) (c i : Nat) : State :=
  s.modClu c fun x => { x with tel := { x.tel with live := x.tel.live.set! i (x.tel.live[i]?.getD 0 + 1) } }

/-- Notes an event of the present cycle for the counters of a cluster (R315). -/
def State.event (s : State) (c code : Nat) : State := s.modClu c fun x => { x with events := code :: x.events }

/-! ## Memory by place -/

def State.readMem (s : State) (k n : Nat) : Nat := s.mem.readLE k n
def State.writeMem (s : State) (k v n : Nat) : State := { s with mem := s.mem.writeLE k v n }
def State.readBytes (s : State) (k n : Nat) : List Byte := s.mem.bytes k n
def State.writeBytes (s : State) (k : Nat) (bs : List Byte) : State := { s with mem := s.mem.writeBytes k bs }

/-- A place in a core's local store. -/
def localPlace (core off : Nat) : Place := ⟨0, 1, core, off⟩
def cluPlace (clu off : Nat) : Place := ⟨0, 2, clu, off⟩
def comPlace (die off : Nat) : Place := ⟨0, 3, die, off⟩
def dramPlace (chan off : Nat) : Place := ⟨0, 4, chan, off⟩

/-- A place further along the same store. -/
def Place.add (p : Place) (n : Nat) : Place := { p with off := p.off + n }

/-- The place of a memory address. -/
def Place.ofKey (k : Nat) : Place :=
  ⟨k / 4294967296 / 65536 / 8, k / 4294967296 / 65536 % 8, k / 4294967296 % 65536, k % 4294967296⟩

/-- The bytes that a read of the service port covers: eight, or the line in which a block lies. -/
def PortRead.span (r : PortRead) : Place × Nat :=
  if r.code then (Place.ofKey (r.key / 128 * 128), 128) else (Place.ofKey r.key, 8)

/-- The unit of a store in which poison is held (R92), also one turn's grain in the cluster and common store (R80). -/
def Place.grain (p : Place) : Nat :=
  match p.kind with
  | 1 => 8
  | 3 => 64
  | _ => 128

/-- The start of the poison unit that holds a place. -/
def Place.unitBase (p : Place) : Place := { p with off := p.off / p.grain * p.grain }

/-- Inserts into a list in rising order without repeats. -/
def insertNat (k : Nat) : List Nat → List Nat
  | [] => [k]
  | j :: l => if k < j then k :: j :: l else if k = j then j :: l else j :: insertNat k l

/-- Marks the unit of a place as poisoned. -/
def State.poisonAt (s : State) (p : Place) : State := { s with poison := insertNat p.unitBase.key s.poison }

/-- Whether a place lies in a DRAM channel lost with no spare (R331): its reads return poison, its writes are discarded. -/
def State.chanFailed (s : State) (p : Place) : Bool :=
  p.dev = 0 && p.kind = 4 && (s.die (p.unit / 128)).failed.contains p.unit

/-- Whether any poisoned unit meets the `n` bytes at a place. -/
def State.isPoisoned (s : State) (p : Place) (n : Nat) : Bool :=
  let lo := p.unitBase.key
  let hi := p.key + n
  s.chanFailed p || s.poison.any fun k => decide (lo ≤ k ∧ k < hi)

/-- A write of `n` bytes at a place has covered whole units: their poison is cleared (R92). -/
def State.unpoison (s : State) (p : Place) (n : Nat) : State :=
  { s with poison := s.poison.filter fun k => !(decide (p.key ≤ k ∧ k + p.grain ≤ p.key + n)) }

/-- A store of `n` bytes (R92): a store narrower than its unit leaves the unit's poison. -/
def State.store (s : State) (p : Place) (v n : Nat) : State :=
  if s.chanFailed p then s else (s.writeMem p.key v n).unpoison p n

/-- A store of a byte string. -/
def State.storeBytes (s : State) (p : Place) (bs : List Byte) : State :=
  if s.chanFailed p then s else (s.writeBytes p.key bs).unpoison p bs.length

/-- The number that bytes stand for, little-endian (R3). -/
def leNat : List Byte → Nat
  | [] => 0
  | b :: bs => b.toNat + 256 * leNat bs

/-- The `n` bytes of a number, little-endian (R3). -/
def leBytes : Nat → Nat → List Byte
  | 0, _ => []
  | n + 1, v => BitVec.ofNat 8 v :: leBytes n (v / 256)

/-! ## The monad of a meaning -/

/-- How the meaning of an instruction ends other than by completing. -/
inductive Halt where
  /-- A cause raised with no effect (R7). -/
  | trap (t : TrapRec)
  /-- A cause raised after the part that the state holds has been performed (R7). -/
  | trapWith (t : TrapRec) (s : State)
  /-- Not ready, or still waiting (R45): the state holds what the attempt has begun; the reason is that of R309. -/
  | wait (s : State) (why : Nat)
  /-- Done, with the program counter already placed or the thread gone. -/
  | quit (s : State)
  deriving Repr

/-- A meaning: it reads and changes the state, and may end in a `Halt`. -/
abbrev M := StateT State (Except Halt)

/-- The current slot. -/
def me : M Slot := do return (← get).me
def modMe (f : Slot → Slot) : M Unit := modify fun s => s.modSlot s.cur f
def myCore : M Core := do let s ← get; return s.core (slotCore s.cur)
def modCore (f : Core → Core) : M Unit := modify fun s => s.modCore (slotCore s.cur) f
def myClu : M Cluster := do let s ← get; return s.clu (slotClu s.cur)
def modClu (f : Cluster → Cluster) : M Unit := modify fun s => s.modClu (slotClu s.cur) f
def myDie : M Die := do let s ← get; return s.die (slotDie s.cur)
def modDie (f : Die → Die) : M Unit := modify fun s => s.modDie (slotDie s.cur) f

/-- Ends with a trap whose record names the present instruction (R277). -/
def trapRec {α : Type} (t : TrapRec) : M α := do throw (Halt.trap { t with pc := (← me).pc })

/-- Ends with a cause, its sub-code, address and information (R277). -/
def raise {α : Type} (cause sub : Nat) (addr info : Word) : M α :=
  trapRec { cause := cause, sub := sub, addr := addr, info := info }

/-- Ends with the cause when the condition holds. -/
def raiseIf (b : Bool) (cause sub : Nat) (addr info : Word) : M Unit :=
  if b then raise cause sub addr info else pure ()

/-- The instruction is not ready, for a reason of R309: 2 a message, 3 memory, 0 neither. Reason 4 is the local-store port (R48), and
from 8 on a part of a saved context (R346); both count as memory. -/
def wait {α : Type} (why : Nat) : M α := do throw (Halt.wait (← get) why)

def waitIf (b : Bool) (why : Nat) : M Unit := if b then wait why else pure ()

/-- The instruction has finished in the present state, which holds its program counter. -/
def quit {α : Type} : M α := do throw (Halt.quit (← get))

/-! ## Trap registers -/

/-- `TREC0` of a record (R277). -/
def TrapRec.word0 (t : TrapRec) : Word :=
  BitVec.ofNat 64 (t.cause + 512 * t.defd.toNat + 1024 * t.p.toNat + 2048 * t.eng.toNat
    + 65536 * t.lane.isSome.toNat + 131072 * (t.lane.getD 0) + 16777216 * t.sub)

/-- Whether a thread is privileged (R272): in trap service, or its region was privileged when last sampled. -/
def Slot.privileged (x : Slot) : Bool := x.trap.tmode || x.trap.priv

/-- `TSTAT` (R276). -/
def Slot.tstat (x : Slot) : Word :=
  BitVec.ofNat 64 (x.trap.tmode.toNat + 2 * x.trap.wskip.toNat + 4 * x.privileged.toNat + 8 * x.trap.ovf.toNat
    + 256 * x.reports.length)

/-- Whether write-back or refill has claimed the local-store port of a core for a cycle (R78, claim 1). -/
def Core.portFirst (c : Core) (cyc : Nat) : Bool := decide (cyc < c.portClaim)

/-- Whether the port is claimed ahead of the issue stage (R78): by write-back and refill, or by block-buffer transfers. -/
def Core.portHeld (c : Core) (cyc : Nat) : Bool := c.portFirst cyc || !c.blocks.isEmpty

/-- Claims the local-store port of a core ahead of issue for `n` cycles (R78): from this cycle on, or from the one after those
already claimed. -/
def State.claimPort (s : State) (core : Nat) (n : Nat := 1) : State :=
  s.modCore core fun c => { c with portClaim := max s.cyc c.portClaim + n }

/-- An instruction needs the local-store port (R78): it is not ready while the port is claimed. A claim ahead of issue gives the
reason 4, by which a refill of its own is known (R48). -/
def needPort : M Unit := do
  let s ← get
  let c := s.core (slotCore s.cur)
  waitIf (!c.blocks.isEmpty) 3
  waitIf (c.portFirst s.cyc) 4
  modCore fun c => { c with portIssue := s.cyc + 1 }

/-- The words of the register cache that are dirty go to the workspace (R48). -/
def State.writeBack (s : State) (n : Nat) : State :=
  let x := s.slot n
  let s := (List.range 32).foldl (fun s i =>
    if x.dirty.getLsbD i then
      s.store (localPlace (slotCore n) (x.wp.toNat + 8 * i)) (x.w[i]?.getD 0).toNat 8
    else s) s
  (s.claimPort (slotCore n)).modSlot n fun x => { x with dirty := 0 }

/-- Words of a workspace read from the local store into the register cache (R48). -/
def State.refill (s : State) (n : Nat) : State :=
  (s.claimPort (slotCore n)).modSlot n fun x =>
    { x with absent := false, dirty := 0
             w := Vector.ofFn fun i => BitVec.ofNat 64 (s.readMem (localPlace (slotCore n) (x.wp.toNat + 8 * i.val)).key 8) }

/-- The slot goes on at an address: the fetch buffer is discarded (R63), and nothing issues before a cycle. -/
def Slot.goto (x : Slot) (pc : Word) (notBefore : Nat) : Slot :=
  { x with pc := pc, fbuf := [], freq := none, notBefore := notBefore, phase := 0, buf := [], sampled := none, waiting := 0 }

/-- TAKING AN EXCEPTION (R278): the saved registers, the record, trap service, the write-back, the trap workspace and
the handler's address. A cause raised in trap service escalates instead (R283). -/
def State.takeTrap (s : State) (n : Nat) (t : TrapRec) (tepc : Word) : State :=
  let x := s.slot n
  if x.trap.tmode then
    s.modSlot n fun x => { x with escal := some t, waiting := 2, phase := 0, buf := [] }
  else
    let s := s.writeBack n
    let core := s.core (slotCore n)
    let clu := s.clu (slotClu n)
    s.modSlot n fun x =>
      { (x.goto (clu.trapbase + BitVec.ofNat 64 (64 * t.cause)) (s.cyc + 4)) with
          wp := core.twsbase + BitVec.ofNat 64 (256 * slotIdx n), absent := true, dirty := 0
          trap := { x.trap with
                      tmode := true, tepc := tepc, tepw := x.pw, tewp := x.wp
                      trec0 := t.word0, trec1 := t.pc, trec2 := t.addr, trec3 := t.info, tile := t.tile } }

/-- RETURNING FROM AN EXCEPTION (R282), after its checks: the write-back, the saved workspace, status and address, the
watchpoint exemption, and the privilege sampled again. -/
def State.leaveTrap (s : State) (n : Nat) (priv : Bool) : State :=
  let s := s.writeBack n
  s.modSlot n fun x =>
    { (x.goto x.trap.tepc (s.cyc + 4)) with
        wp := x.trap.tewp, absent := true, dirty := 0, pw := x.trap.tepw ||| 0x80000000#32
        trap := { x.trap with tmode := false, priv := priv, wskip := x.trap.trec0.extractLsb' 0 8 = 0x0F } }

/-- A deferred report for a slot (R279): queued, or lost with OVF set when eight wait. -/
def State.report (s : State) (n : Nat) (t : TrapRec) : State :=
  if (s.slot n).reports.length < 8 then
    s.modSlot n fun x => { x with reports := x.reports ++ [{ t with defd := true }] }
  else (s.modSlot n fun x => { x with trap := { x.trap with ovf := true } }).tel (slotClu n) 5

end Sys2Proof.Machine
end

