-- ==== Sys2Proof/Machine/Translate.lean ====
section
/-! DEFINITION. Regions and addresses: effective region blocks (R225, R226), translation (R289 to R292), and where an
address is served (R76, R93). -/

namespace Sys2Proof.Machine

/-! ## Windows and frames -/

/-- The place of a cluster-store or common-store window address (R76); `dev` as in `Place`. -/
def windowPlace (dev : Nat) (va : Nat) : Option Place :=
  if 0x40000000 ≤ va ∧ va < 0x50000000 then
    some ⟨dev, 2, (va - 0x40000000) / 0x100000, va % 0x100000⟩
  else if 0x80000000 ≤ va ∧ va < 0xA0000000 then
    some ⟨dev, 3, (va - 0x80000000) / 0x4000000, va % 0x4000000⟩
  else none

/-- The place of an address that hardware follows (a PARENT, FAULT, PART or table address): a memory key, 0 for none
(log entry 16). -/
def hwKey (va : Nat) : Nat := ((windowPlace 0 va).map Place.key).getD 0

/-! ## Region blocks -/

/-- The fields of a region control block in memory (R225). -/
structure RcbRaw where
  parent : Nat
  eff : Eff
  inherit : BitVec 32
  ok : Bool
  partAt : Nat
  pcount : Nat
  deriving Repr

/-- Words of a partition list (R225). -/
def readPart (s : State) (at' : Nat) (n : Nat) : List Word32 :=
  (List.range n).map fun i => BitVec.ofNat 32 (s.readMem (at' + 4 * i) 4)

/-- A block as it stands in memory, with the limits of R225 that concern it alone. -/
def readRcb (s : State) (k : Nat) : RcbRaw :=
  let r (o n : Nat) := s.readMem (k + o) n
  let pcount := r 79 1
  let inh := BitVec.ofNat 32 (r 84 4)
  let partVa := r 32 8
  { parent := r 0 8
    inherit := inh
    partAt := partVa
    pcount := pcount
    ok := r 0 8 % 128 = 0 && r 16 8 % 256 = 0 && r 24 8 % 256 = 0 && partVa % 4 = 0 && r 61 3 = 0
      && r 76 2 < 4096 && r 78 1 < 16 && r 80 4 < 2 ^ 28 && inh.toNat < 16384 && (s.readBytes (k + 88) 40).all (· = 0)
    eff :=
      { rcb := k, parent := hwKey (r 0 8), id := BitVec.ofNat 28 (r 80 4), troot := BitVec.ofNat 64 (r 8 8)
        plan := BitVec.ofNat 64 (r 16 8), fault := BitVec.ofNat 64 (r 24 8)
        part := readPart s (hwKey partVa) (if pcount ≤ 64 then pcount else 0)
        cmask := BitVec.ofNat 64 (r 40 8), budget := r 48 4, quantum := r 52 4
        quota := [r 56 1, r 57 1, r 58 1, r 59 1, r 60 1], lsbound := r 64 4, wsbase := r 68 4
        save := BitVec.ofNat 32 (r 72 4), tenant := r 76 2 % 4096, prio := r 78 1 % 4, ord := r 78 1 / 4 % 4 } }

/-- Slot frames, V frames and M frames of a save area (R286). -/
def Eff.ns (e : Eff) : Nat := (e.save.extractLsb' 0 3).toNat
def Eff.nv (e : Eff) : Nat := (e.save.extractLsb' 3 3).toNat
def Eff.nm (e : Eff) : Nat := (e.save.extractLsb' 6 2).toNat
def Eff.saveBase (e : Eff) : Nat := (e.save.extractLsb' 8 10).toNat * 256
def Eff.saveSize (e : Eff) : Nat := (e.ns + 1) * 5632 + e.nv * 8448 + e.nm * 33024

/-- The limits of R225 and R286 on effective values. -/
def Eff.ok (e : Eff) : Bool :=
  decide (e.quota.all (· ≤ 128)) && e.lsbound % 256 = 0 && e.lsbound ≤ 0x40000 && e.wsbase % 2048 = 0
    && e.wsbase + 2048 ≤ e.lsbound && e.ord ≤ 2 && 1 ≤ e.part.length && e.save.extractLsb' 18 14 = 0
    && e.nv ≤ 4 && e.nm ≤ 2 && e.saveBase + e.saveSize ≤ 0x40000
    && (e.saveBase + e.saveSize ≤ e.wsbase || e.wsbase + 2048 ≤ e.saveBase)

/-- One block under its parent's effective block: a field whose inherit bit is set is the parent's (R225). -/
def RcbRaw.under (r : RcbRaw) (p : Eff) : Eff :=
  let b (n : Nat) := r.inherit.getLsbD n
  let e := r.eff
  { e with
      chain := e.id :: p.chain
      rcbs := e.rcb :: p.rcbs
      troot := if b 0 then p.troot else e.troot
      plan := if b 1 then p.plan else e.plan
      fault := if b 2 then p.fault else e.fault
      part := if b 3 then p.part else e.part
      cmask := if b 4 then p.cmask else e.cmask
      budget := if b 5 then p.budget else e.budget
      quantum := if b 6 then p.quantum else e.quantum
      quota := if b 7 then p.quota else e.quota
      lsbound := if b 8 then p.lsbound else e.lsbound
      wsbase := if b 9 then p.wsbase else e.wsbase
      save := if b 10 then p.save else e.save
      tenant := if b 11 then p.tenant else e.tenant
      prio := if b 12 then p.prio else e.prio
      ord := if b 13 then p.ord else e.ord }

/-- The effective block of a region found by walking PARENT, at most 15 levels below its root (R226): none where a
block breaks a limit. -/
def sampleEff (s : State) : Nat → Nat → Option Eff
  | 0, _ => none
  | fuel + 1, k =>
    let r := readRcb s k
    if !r.ok || k = 0 then none
    else if r.parent = 0 then
      let e := { r.eff with chain := [r.eff.id], rcbs := [k] }
      if e.ok then some e else none
    else
      match sampleEff s fuel (hwKey r.parent) with
      | none => none
      | some p =>
        let e := r.under p
        if e.ok then some e else none

/-- The effective block of an RCB as units hold it: the cached copy, or a fresh sample (R226). -/
def State.eff? (s : State) (k : Nat) : Option Eff :=
  if SMap.has s.effs k then some (SMap.get {} s.effs k) else sampleEff s 16 k

/-- The same, and the state that keeps the copy. -/
def State.cacheEff (s : State) (k : Nat) (e : Eff) : State := { s with effs := SMap.set s.effs k e }

/-- Samples an effective block, which is kept as a cached copy. A block that breaks a limit makes the sampling instruction trap,
and is reported once (R226). -/
def sampleBlock (k : Nat) : M Eff := do
  let s ← get
  match s.eff? k with
  | some e => do set (s.cacheEff k e); return e
  | none => do
    let s : State := if k = 0 || s.bads.contains k then s else { s with bads := k :: s.bads, badNew := s.badNew ++ [(k, slotCore s.cur)] }
    throw (Halt.trapWith { cause := 0x06, pc := s.me.pc } s)

/-- The current thread's effective block: as an instruction in progress has sampled it, or sampled now (R226). -/
def myEff : M Eff := do
  let x ← me
  match x.sampled with
  | some e => if x.phase ≠ 0 then return e else sampleBlock x.rcb
  | none => sampleBlock x.rcb

/-- Whether a region ID lies in a valid entry of the privileged region table (R272, R276). -/
def State.privRegion (s : State) (id : BitVec 28) : Bool :=
  s.privt.any fun w => w.getLsbD 31 && w.extractLsb' 0 28 = id

/-- Privilege sampled for a region: its own ID or an ancestor's is in the table (R272). -/
def State.effPriv (s : State) (e : Eff) : Bool := e.chain.any s.privRegion

/-- The logical number of a cluster in a region's partition, by device, die and cluster (R225). -/
def Eff.logical (e : Eff) (dev clu : Nat) : Option Nat :=
  e.part.findIdx? fun w => decide ((w.extractLsb' 8 9).toNat = dev ∧ (w.extractLsb' 0 8).toNat = clu)

/-- The device and cluster number of a partition word (R225). -/
def partDev (w : Word32) : Nat := (w.extractLsb' 8 9).toNat
def partClu (w : Word32) : Nat := (w.extractLsb' 0 8).toNat

/-! ## Page tables -/

/-- The place of a table or page that an entry's FRAME names (R291): none for a frame outside the named windows. -/
def framePlace (pte : Word) : Option Place :=
  let f := pte.extractLsb' 32 32
  match (pte.extractLsb' 12 2).toNat with
  | 0 => windowPlace 0 (f.toNat * 1024)
  | 1 => some ⟨0, 4, (f.extractLsb' 25 3).toNat * 128 + (f.extractLsb' 18 7).toNat, (f.extractLsb' 0 18).toNat * 1024⟩
  | 2 => windowPlace ((f.extractLsb' 23 9).toNat + 1) ((f.extractLsb' 0 23).toNat * 1024)
  | _ => none

/-- The index of a virtual address at a table level, and the alignment of that level's table (R289). -/
def levelIndex (lvl va : Nat) : Nat :=
  match lvl with
  | 3 => va / 2 ^ 41 % 128
  | 2 => va / 2 ^ 33 % 256
  | 1 => va / 2 ^ 25 % 256
  | _ => va / 2 ^ 16 % 512

def levelAlign (lvl : Nat) : Nat :=
  match lvl with
  | 3 => 1024
  | 0 => 4096
  | _ => 2048

/-- Whether a table entry is well formed, and the place of the table of a level that it names (R290, R291). -/
def tablePlace (e : Word) (lvl : Nat) : Option Place :=
  if e.extractLsb' 14 14 ≠ 0 || e.extractLsb' 2 10 ≠ 0 || (e.extractLsb' 12 2).toNat > 1 then none
  else match framePlace e with
    | some p => if p.off % levelAlign lvl = 0 then some p else none
    | none => none

/-- Whether a leaf at level 0 or 1 is well formed (R291). -/
def leafOk (e : Word) (lvl : Nat) : Bool :=
  let size := if lvl = 1 then 0x2000000 else 0x10000
  let home := (e.extractLsb' 12 2).toNat
  let view := e.extractLsb' 7 3 ≠ 0
  if home = 3 then true
  else match framePlace e with
    | none => false
    | some p =>
      (view || (if p.kind = 2 then (p.unit * 0x100000 + p.off) % size = 0 else p.off % size = 0))
        && (home ≠ 1 || (p.off + size ≤ 0xC000000 && p.unit < 1024))

/-- What reading one entry of a walk yields: a leaf, the next table, or a fault sub-code of R277. -/
inductive Walked where
  | leaf (pte : Word) (big : Bool)
  | table (e : Word)
  | bad (kind : Nat) (e : Word)
  deriving Repr

/-- What an entry read at a level says (R289 to R291), where it is not poisoned. -/
def walkEntry (x : Word) (poisoned : Bool) (lvl : Nat) : Walked :=
  if poisoned then .bad 3 0
  else if !x.getLsbD 0 then .bad 0 x
  else if x.getLsbD 1 then
    if 2 ≤ lvl then .bad 1 x else if leafOk x lvl then .leaf x (lvl = 1) else .bad 1 x
  else if lvl = 0 then .bad 1 x
  else match tablePlace x (lvl - 1) with
    | none => .bad 1 x
    | some _ => .table x

/-- The place that a walk reads next, none where its table is malformed. -/
def Walk.place (w : Walk) : Option Place := (tablePlace w.entry w.level).map fun p => p.add (8 * levelIndex w.level w.va)

/-- Whether two walks are for one root and page, which they share (R292). -/
def Walk.joins (w v : Walk) : Bool := w.root = v.root && w.va / 65536 = v.va / 65536

/-- The step of a walk that reads the entry of level `lvl` in the table that entry `e` names (R289 to R292), as memory holds it. -/
def walkLevel (s : State) (e : Word) (lvl va : Nat) : Walked :=
  match tablePlace e lvl with
  | none => .bad 1 e
  | some p =>
    let q := p.add (8 * levelIndex lvl va)
    walkEntry (BitVec.ofNat 64 (s.readMem q.key 8)) (s.isPoisoned q 8) lvl

/-- A whole walk from a root entry: the leaf, or the level, the kind and the entry of a fault. -/
def walkFrom (s : State) (va : Nat) : Nat → Word → Except (Nat × Nat × Word) (Word × Bool)
  | 0, e => match walkLevel s e 0 va with
    | .leaf p b => .ok (p, b)
    | .bad k x => .error (0, k, x)
    | .table x => .error (0, 1, x)
  | l + 1, e => match walkLevel s e (l + 1) va with
    | .leaf p b => .ok (p, b)
    | .bad k x => .error (l + 1, k, x)
    | .table x => walkFrom s va l x

/-- The root of a translation as a memory key (R292): the table that a root entry names, 0 for none. -/
def rootKey (troot : Word) : Nat := ((framePlace troot).map Place.key).getD 0

/-- Looks a page up in a TLB (R292). -/
def tlbFind (t : List TlbEntry) (root va : Nat) : Option TlbEntry :=
  t.find? fun e => decide (e.root = root ∧ (if e.big then e.page / 512 = va / 2 ^ 25 else e.page = va / 2 ^ 16))

/-- Puts an entry first, with least-recently-used replacement at a capacity (R292). -/
def tlbPut (cap : Nat) (t : List TlbEntry) (e : TlbEntry) : List TlbEntry := (e :: t.filter (· ≠ e)).take cap

/-- Puts an entry into the cluster TLB, of 8 ways in each of 512 sets (R292). -/
def tlbPutClu (t : List TlbEntry) (e : TlbEntry) : List TlbEntry :=
  let setOf (x : TlbEntry) := if x.big then x.page / 512 % 512 else x.page % 512
  let same := (t.filter fun x => setOf x = setOf e ∧ x ≠ e).take 7
  e :: same ++ t.filter fun x => setOf x ≠ setOf e

/-- A core's TLB, and that of its cluster, hold an entry (R292). -/
def State.fillTlb (s : State) (core : Nat) (e : TlbEntry) : State :=
  (s.modCore core fun x => { x with tlb := tlbPut 96 x.tlb e }).modClu (coreClu core) fun x => { x with tlb := tlbPutClu x.tlb e }

/-- The cycle in which a lookup of the cluster TLB is over whose request comes now (R292): two requests are looked up in a cycle, and
the result is there six cycles later; 0 for one that waits for its turn. -/
def Cluster.lookAt (c : Cluster) (cyc : Nat) : Nat :=
  if (c.walks.any fun w => w.look = 0) || 2 ≤ (c.walks.filter fun w => w.look = cyc + 6).length then 0 else cyc + 6

/-- The page-table entry of a paged address for the current core and a root: from the core TLB; otherwise the instruction waits for
the cluster TLB and a walk (R292), unless `inline'` says that the engine looks up many pages at once.
A faulting walk fills nothing and traps with cause 0x05. -/
def translate (troot : Word) (va : Nat) (inline' : Bool) : M (Word × Bool) := do
  let s ← get
  let root := rootKey troot
  let c := slotCore s.cur
  match tlbFind (s.core c).tlb root va with
  | some e =>
    modCore fun x => { x with tlb := tlbPut 96 x.tlb e }
    return (e.pte, e.big)
  | none =>
    let fault (l k : Nat) (x : Word) : M (Word × Bool) := raise 0x05 (l + 4 * k) (BitVec.ofNat 64 va) x
    let clu := s.clu (coreClu c)
    let fill (e : TlbEntry) : M (Word × Bool) := do
      modify fun s => s.fillTlb c e
      return (e.pte, e.big)
    let mine (w : Walk) := decide (w.core = c ∧ w.root = root ∧ w.va / 65536 = va / 65536)
    match clu.walks.find? mine, inline' with
    | some w, false =>
      match w.bad with
      | none => wait 3
      | some (l, k, x) => fault l k x
    | none, false =>
      modClu fun y => { y with walks := y.walks ++ [{ core := c, root := root, rootEntry := troot, va := va, entry := troot
                                                      look := y.lookAt s.cyc }] }
      wait 3
    | _, true =>
      match tlbFind clu.tlb root va with
      | some e => fill e
      | none =>
        match (if troot.getLsbD 0 then walkFrom s va 3 troot else .error (3, 0, troot)) with
        | .error (l, k, x) => fault l k x
        | .ok (p, big) => fill ⟨root, va / 65536, big, p⟩

/-! ## Where an address is served -/

/-- What an access does to the bytes it names (R93). -/
inductive Acc where
  | load
  | store
  | atomic
  deriving DecidableEq, Repr

/-- A resolved address: its place, the ordering kind, the cb4 view it lies on (`GEO` + 1, 0 for none), whether the page
migrates a thread, and whether it was translated. For a view, the place is that of the element's code byte. -/
structure Target where
  place : Place
  ord : Nat := 1
  view : Nat := 0
  mig : Bool := false
  paged : Bool := false
  elem : Nat := 0
  frame : Place := ⟨0, 0, 0, 0⟩
  deriving DecidableEq, Repr, Inhabited

/-- Protection (cause 0x06) with a sub-code (R277). -/
def deny {α : Type} (sub : Nat) (va : Word) : M α := raise 0x06 sub va 0

/-- The local-store bound of the current thread (R76, R272): its region's, or the whole store in trap service. -/
def localBound : M Nat := do
  let x ← me
  if x.trap.tmode then return 0x40000 else return (← myEff).lsbound

/-- The frame of the 64 KiB page of `va` under a leaf, with raw pages contiguous and view frames laid end to end
(R110, R291). -/
def pageFrame (pte : Word) (big : Bool) (va : Nat) : Option Place :=
  let home := (pte.extractLsb' 12 2).toNat
  let f := pte.extractLsb' 32 32
  let view := pte.extractLsb' 7 3 ≠ 0
  let sub := if big then va / 65536 % 512 else 0
  let step := if view then (if pte.extractLsb' 10 2 = 0 then 17408 else 18432) else 65536
  match home with
  | 0 => windowPlace 0 (f.toNat * 1024 + sub * step)
  | 2 => windowPlace ((f.extractLsb' 23 9).toNat + 1) ((f.extractLsb' 0 23).toNat * 1024 + sub * step)
  | _ => (framePlace pte).map (·.add (sub * step))

/-- Checks of a leaf against an access, in the order of R280 (R93): 0x06 then 0x07. -/
def checkLeaf (e : Eff) (pte : Word) (k : Acc) (va : Word) : M Unit := do
  if pte.extractLsb' 12 2 = 3 || 2 ≤ (pte.extractLsb' 7 3).toNat || 2 ≤ (pte.extractLsb' 10 2).toNat
      || pte.extractLsb' 5 2 = 3 then deny 6 va
  if (pte.extractLsb' 16 12).toNat ≠ e.tenant then deny 1 va
  if (k ≠ .store && !pte.getLsbD 2) || (k ≠ .load && !pte.getLsbD 3) then deny 0 va
  if k ≠ .load && pte.getLsbD 15 then deny 2 va
  if k ≠ .load && pte.extractLsb' 7 3 = 1 then raise 0x07 0 va 0

/-- Resolves an address under a region (R76, R93): the windows and the paged space. -/
def resolveIn (e : Eff) (k : Acc) (va : Word) (inline' : Bool) : M Target := do
  let s ← get
  let x := s.me
  let n := va.toNat
  let clu := slotClu s.cur
  if 2 ^ 48 ≤ n then raise 0x05 8 va 0
  else if n < 0x40000 then
    let b ← localBound
    if n < b then return { place := localPlace (slotCore s.cur) n, ord := e.ord } else deny 3 va
  else if 0x100000 ≤ n ∧ n < 0x200000 then
    return { place := cluPlace clu (n - 0x100000), ord := e.ord }
  else if n < 2 ^ 32 then
    match windowPlace 0 n with
    | none => raise 0x05 8 va 0
    | some p =>
      if p.kind = 2 && !x.trap.tmode then
        match e.logical s.device p.unit with
        | some i => if e.cmask.getLsbD i then return { place := p, ord := e.ord } else deny 3 va
        | none => deny 4 va
      else return { place := p, ord := e.ord }
  else
    let (pte, big) ← translate e.troot n inline'
    checkLeaf e pte k va
    match pageFrame pte big n with
    | none => raise 0x05 (4 + big.toNat) va pte
    | some f =>
      let ord := (pte.extractLsb' 5 2).toNat
      let mig := pte.getLsbD 14
      if pte.extractLsb' 7 3 = 1 then
        let el := n % 65536 / 2
        return { place := f.add (el / 2), ord := ord, view := (pte.extractLsb' 10 2).toNat + 1, mig := mig, paged := true
                 elem := el, frame := f }
      else return { place := f.add (n % 65536), ord := ord, mig := mig, paged := true, frame := f }

def resolve (k : Acc) (va : Word) : M Target := do resolveIn (← myEff) k va false

/-- Where a place is served for the current thread: 0 own local store, 1 own cluster store, 2 own die's common store,
3 the DRAM channel that the thread's memory core owns, 4 another place reached by a remote access, 5 DRAM with no path,
6 another core's local store. -/
def servedBy (s : State) (p : Place) : Nat :=
  let c := slotCore s.cur
  if p.dev ≠ 0 then 4
  else match p.kind with
    | 1 => if p.unit = c then 0 else 6
    | 2 => if p.unit = coreClu c then 1 else 4
    | 3 => if p.unit = cluDie (coreClu c) then 2 else 4
    | _ => if isMemCore c && coreChan c = p.unit then 3 else 5

/-- The bank of a place in a cluster or common store, and the group in a common store (R76). -/
def Place.bank (p : Place) : Nat := p.off / 128 % 16
def Place.group (p : Place) : Nat := p.off / 2048 % 32

/-- Whether a place lies in a bank that is absent (R89). -/
def State.bankAbsent (s : State) (p : Place) : Bool :=
  if p.dev ≠ 0 then false
  else match p.kind with
    | 2 => (s.clu p.unit).absent.getLsbD p.bank
    | 3 => (SMap.get 0 (s.die p.unit).absent p.group).getLsbD p.bank
    | _ => false

/-- Absent bank (cause 0x0D) at an own store (R89, R277). -/
def checkBank (p : Place) (va : Word) : M Unit := do
  let s ← get
  if s.bankAbsent p then
    raise 0x0D (if p.kind = 3 then 1 else 0) va (BitVec.ofNat 64 (if p.kind = 3 then p.bank + 16 * p.group else p.bank))

/-! ## Watchpoints -/

/-- The watchpoint of the current core that an access of `n` bytes matches, of a kind 1 load or 2 store (R307, R308). -/
def watchHit (s : State) (kind : Nat) (va : Word) (n : Nat) : Option Nat :=
  let c := s.core (slotCore s.cur)
  (List.range 4).find? fun i =>
    let w := c.watch[i]?.getD 0
    let lg := (w.extractLsb' 50 6).toNat
    let blk := (w.extractLsb' 3 45).toNat * 8 / 2 ^ lg
    let wk := (w.extractLsb' 48 2).toNat
    decide (wk ≠ 0) && (wk &&& kind) ≠ 0 && (w.extractLsb' 56 8).getLsbD (slotIdx s.cur)
      && c.watchRegion[i]?.getD 0 = s.me.region
      && decide (va.toNat / 2 ^ lg ≤ blk ∧ blk ≤ (va.toNat + n - 1) / 2 ^ lg)

/-- A halt event of a cluster (R303): the first one stands, and its attributes are kept. -/
def State.haltEvent (s : State) (clu why core slot : Nat) : State :=
  s.modClu clu fun x =>
    if x.dbg.halted || x.dbg.halting.isSome then x
    else { x with dbg := { x.dbg with halting := some s.cyc, hcyc := s.cyc % 2 ^ 48, why := why, hcore := core
                                      hslot := slot } }

/-- Checks watchpoints on an access (R280, R308), after every other cause: a match traps with cause 0x0F, or halts the
cluster when WHALT is set (R303), in which case the instruction has no effect and issues unchecked later (R304). -/
def checkWatch (kind : Nat) (va : Word) (n : Nat) : M Unit := do
  let s ← get
  if s.me.trap.wskip then return ()
  match watchHit s kind va n with
  | none => return ()
  | some i =>
    let clu := slotClu s.cur
    if (s.clu clu).dbg.whalt then
      let s := s.haltEvent clu 3 (coreIdx (slotCore s.cur)) (slotIdx s.cur)
      throw (Halt.wait (s.modSlot s.cur fun x => { x with trap := { x.trap with wskip := true } }) 3)
    else raise 0x0F i va 0

end Sys2Proof.Machine
end

