-- ==== Sys2Proof/Machine/Gates.lean ====
section
/-! DEFINITION. What an access waits for before it issues: the order of its thread's accesses (R204, R206 to R210), the lines
that a tile load has still to read (R120, R141), the local-store port (R78), the packets that precede it (R162). -/

namespace Sys2Proof.Machine

/-! ## Lines -/

/-- Bytes that one turn or transfer covers (R78, R80, R118). -/
def Place.span (p : Place) : Nat :=
  match p.kind with
  | 1 => 256
  | 3 => 64
  | _ => 128

/-- The start of the line, half-line or block that a place lies in. -/
def Place.line (p : Place) : Place := { p with off := p.off / p.span * p.span }

/-- Whether `n` bytes at one place meet `m` bytes at another. -/
def Place.meets (p : Place) (n : Nat) (q : Place) (m : Nat) : Bool :=
  p.dev = q.dev && p.kind = q.kind && p.unit = q.unit && decide (q.off < p.off + n ∧ p.off < q.off + m)

/-! ## Scopes -/

/-- Whether a place lies within a scope for a thread of a core (R210). -/
def inScope (core scope : Nat) (p : Place) : Bool :=
  let clu := coreClu core
  let own := p.dev = 0
  match scope with
  | 0 => false
  | 1 => own && p.kind = 1 && p.unit = core
  | 2 => own && ((p.kind = 1 && p.unit = core) || (p.kind = 2 && p.unit = clu)
      || (p.kind = 4 && chanClu p.unit = clu))
  | 3 => own && ((p.kind = 1 && p.unit = core) || (p.kind = 2 && cluDie p.unit = cluDie clu)
      || (p.kind = 3 && p.unit = cluDie clu) || (p.kind = 4 && chanClu p.unit = clu))
  | 4 => own
  | _ => true

/-- Whether an access of a slot has a unit still to be served within a scope. -/
def Access.inScope (core scope : Nat) (a : Access) : Bool := a.units.any fun u => Machine.inScope core scope u.place

/-- Whether every earlier access of the thread to a place within a scope has been performed, with remote ones answered
(R208, R209). -/
def Slot.performed (x : Slot) (core scope : Nat) : Bool :=
  !(x.acc.any fun a => a.inScope core scope) && !(x.owed.any fun o => Machine.inScope core scope o.place)

/-! ## Stores -/

/-- Whether an access stores: a posted store, a staged block, an atomic. -/
def Access.isStore (a : Access) : Bool :=
  match a.fin with
  | .store | .tstore _ | .stage _ _ | .park | .vatom _ _ | .remote _ => true
  | _ => a.units.any fun u => u.acts.any fun b => match b with
    | .rd _ _ _ => false
    | _ => true

/-- Whether an owed answer is that of a store; a line load counts as one (R178). -/
def Owed.isStore (o : Owed) : Bool := [1, 2, 3, 4, 5, 12, 13].contains o.what

/-- Whether every earlier store of the thread has been performed (R67, R205): posted stores, remote stores, and line
loads, which count as stores. -/
def Slot.storesDone (x : Slot) : Bool := !(x.acc.any Access.isStore) && !(x.owed.any Owed.isStore)

/-- The same for stores to the core's own local store (R67, R155, R178). -/
def Slot.localStoresDone (x : Slot) (core : Nat) : Bool :=
  !(x.acc.any fun a => a.isStore && a.inScope core 1) && !(x.owed.any fun o => o.what = 2)

/-! ## Fences -/

/-- Whether an access returns a value or has applied its lanes, as an acquire condition counts it (R209). -/
def Access.returns (a : Access) : Bool :=
  match a.fin with
  | .store | .tstore _ | .stage _ _ | .park | .remote _ => false
  | _ => true

/-- Whether a condition of a fence still fails (R209): an acquire or full one waits for earlier loads and atomics, a release or
full one for every earlier access, within its scope. -/
def Slot.fenceOpen (x : Slot) (core : Nat) (f : Fence) : Bool :=
  (x.acc.any fun a => decide (a.id < f.first) && a.inScope core f.scope && (f.kind ≠ 1 || a.returns))
    || x.owed.any fun o => decide (o.id < f.first) && Machine.inScope core f.scope o.place
        && (f.kind ≠ 1 || [0, 2, 4, 11, 13].contains o.what)

/-- Whether a fence holds an access of the current thread (R209): a release only stores, atomics and engine launches, and none an
access to a place outside its scope (R210). -/
def State.fenced (s : State) (p : Place) (st : Bool) : Bool :=
  let core := slotCore s.cur
  s.me.fences.any fun f => (f.kind ≠ 2 || st) && Machine.inScope core f.scope p && s.me.fenceOpen core f

/-- A release fence holds an engine launch whose places the launching instruction does not name (R209). -/
def launchGate : M Unit := do
  let s ← get
  waitIf (s.me.fences.any fun f => f.kind ≠ 1 && s.me.fenceOpen (slotCore s.cur) f) 3

/-! ## Order -/

/-- Whether an access has a part on a strong page still to be performed (R207, R211). -/
def Access.strong (a : Access) : Bool :=
  (a.units.isEmpty && a.ord = 0) || a.units.any fun u => u.ord.getD a.ord = 0

/-- The ordering kind of the untranslated windows of the current thread (R207): that of its region. -/
def State.windowOrd (s : State) : Nat := ((s.eff? s.me.rcb).map Eff.ord).getD 1

/-- Whether the order of a thread's accesses holds an access of `n` bytes at a place, a store, atomic or launch where `st` says
so: an acquire that has not returned (R208), a fence (R209), a strong access before a strong one (R207), a line that an `RLDV`
will still write (R178), a local block that an engine transfer of the thread has still to move (R206). -/
def State.ordered (s : State) (p : Place) (ord n : Nat) (st : Bool) : Bool :=
  let x := s.me
  let core := slotCore s.cur
  s.fenced p st
    || (x.acc.any fun a =>
      a.acq && (a.units.isEmpty || a.units.any fun u => u.ord.getD 1 = 1) && Machine.inScope core a.scope p)
    || (x.owed.any fun o => o.acq && Machine.inScope core o.scope p)
    || (ord = 0 && ((x.acc.any Access.strong) || x.owed.any fun o => o.ord = 0))
    || (p.kind = 1 && ((x.owed.any fun o => o.what = 2 && decide (o.lcl < p.off + n ∧ p.off < o.lcl + 128))
      || x.acc.any fun a => a.units.any fun u => u.place.meets 256 p n))

/-- An access waits for the order of its thread's accesses. -/
def orderGate (p : Place) (ord n : Nat) (st : Bool := false) : M Unit := do waitIf ((← get).ordered p ord n st) 3

/-- Whether a `TLD` issued on the core has still to read a local line that a store at issue would write (R120, R141). -/
def State.tileHolds (s : State) (p : Place) (n : Nat) : Bool :=
  (List.range 8).any fun i => (s.slot (slotCore s.cur * 8 + i)).acc.any fun a =>
    (match a.fin with | .tload _ _ _ _ _ _ => true | _ => false) && a.units.any fun u => u.place.meets u.place.span p n

/-- A store at issue waits for such a `TLD`. -/
def tileGate (p : Place) (n : Nat) : M Unit := do waitIf ((← get).tileHolds p n) 3

/-- The qualifier of an access as its page's kind takes it (R207, R208): only a release-consistent page honours it. -/
def qualOf (q ord : Nat) : Nat := if ord = 1 then q else 0

/-- A release to the own local store waits until every earlier access within scope is performed (R208). -/
def releaseGate (q scope ord : Nat) : M Unit := do
  let s ← get
  if 2 ≤ qualOf q ord then waitIf (!s.me.performed (slotCore s.cur) scope) 3

/-- Whether the present access is a release that its thread's earlier accesses hold (R208). -/
def State.relHeld (s : State) (q scope ord : Nat) : Bool :=
  decide (2 ≤ qualOf q ord) && !s.me.performed (slotCore s.cur) scope

/-- Requests of one core to one line are sent in the order of their issue (R162): one that follows a held release to its line
is not ready. A request to several clusters names the offset of its lines alone. -/
def remoteGate (p : Place) (anywhere : Bool) : M Unit := do
  let s ← get
  let same (q : Place) : Bool := q.off / 128 = p.off / 128 && q.kind = p.kind && (anywhere || (q.dev = p.dev && q.unit = p.unit))
  waitIf ((List.range 8).any fun i => (s.slot (slotCore s.cur * 8 + i)).acc.any fun a => match a.fin with
    | .remote q => same q.place
    | _ => false) 3

end Sys2Proof.Machine
end

