-- ==== Sys2Proof/Machine/Operands.lean ====
section
/-! DEFINITION. Operands: the role of every operand field (R34 to R36), reading and writing each specifier, ports and
packets as far as an operand needs them (R23, R171), availability (R46, R115), and the frame of every machine
instruction's meaning: encoding, class, privilege, guard, operands, charge, completion (R19, R43, R44). -/

namespace Sys2Proof
open Machine

/-! ## Roles -/

/-- What an operand field names. -/
inductive Role where
  | src | dst | both
  /-- An address base that may name a buffer, read at HEAD or written at TAIL (R195). -/
  | baseHead | baseTail
  | pred | vreg | mask | tile | port | handle
  /-- A reply register (R70), a remote destination (R177), `w0`-`w23` (R232), `w0`-`w31` (R146). -/
  | reply | remote | w24 | w32
  deriving DecidableEq, Repr

/-- Whether the words carry a literal in place of B (R33). -/
def Form.hasLit : Form → Bool
  | .lit _ | .extLit _ _ _ => true
  | _ => false

/-- The extension word, if there is one (R30). -/
def Form.ext? : Form → Option Ext
  | .ext x _ | .extLit x _ _ => some x
  | _ => none

/-- IMM32, zero where there is none (R32). -/
def Form.imm : Form → Word32
  | .ext _ i | .extLit _ i _ => i
  | _ => 0

/-- The literal, zero where there is none (R33). -/
def Form.litVal : Form → Word
  | .lit l | .extLit _ _ l => l
  | _ => 0

/-- Field C of the extension word. -/
def Form.c (f : Form) : Spec := (f.ext?.map Ext.c).getD 0
def Form.xfn (f : Form) : BitVec 6 := (f.ext?.map Ext.xfn).getD 0
/-- RM: round to nearest even in the base form (R38). -/
def Form.rm (f : Form) : Nat := ((f.ext?.map Ext.rm).getD 0).toNat
def Form.quiet (f : Form) : Bool := f.ext?.any fun x => x.q = 1
def Form.endMark (f : Form) : Bool := f.ext?.any fun x => x.e = 1
def Form.cb (f : Form) : Bool := f.ext?.any fun x => x.cb = 1
/-- The governing mask register of a vector instruction (R113). -/
def Form.mask (f : Form) : BitVec 3 := f.xfn.extractLsb' 0 3
/-- TYPE, or the default of the base form (R37). -/
def Form.ty (f : Form) (dflt : Nat) : Nat := (f.ext?.map fun x => x.ty.toNat).getD dflt
/-- The ordering qualifier: 0 none, 1 acquire, 2 release, 3 both; and its scope, device where the field is 0 (R40). -/
def Form.qual (f : Form) : Nat := (f.xfn.extractLsb' 4 2).toNat
def Form.scope (f : Form) : Nat :=
  let x := ((f.ext?.map Ext.scope).getD 0).toNat
  if x = 0 then 4 else x

/-- The operand fields of an instruction, with the operand number that a trap names (R277): 1 D, 2 A, 3 B, 4 C. -/
def Raw.roles (r : Raw) : List (Nat × Spec × Role) :=
  let b : List (Nat × Spec × Role) := if r.f.hasLit then [] else [(3, r.b, .src)]
  let c : List (Nat × Spec × Role) := [(4, r.f.c, .src)]
  let d (x : Role) : Nat × Spec × Role := (1, r.d, x)
  let a (x : Role) : Nat × Spec × Role := (2, r.a, x)
  let bb (x : Role) : Nat × Spec × Role := (3, r.b, x)
  match r.maj.toNat with
  | 0x01 => if 21 ≤ r.fn.toNat then [d .dst, a .src] else d .dst :: a .src :: b
  | 0x02 | 0x03 | 0x04 | 0x05 | 0x06 => [d .dst, a .src]
  | 0x07 => [d .dst]
  | 0x08 => d .pred :: a .src :: b
  | 0x09 => [d .pred, a .src]
  | 0x0A => match r.fn.toNat with
    | 4 => [d .pred, a .pred]
    | 5 | 6 => [d .pred]
    | 7 => [d .dst]
    | 8 => [a .src]
    | _ => [d .pred, a .pred, bb .pred]
  | 0x0B | 0x0C => d .dst :: a .src :: b
  | 0x0D => (if r.f.imm.getLsbD 9 then d .both else d .dst) :: b
  | 0x10 => match r.fn.toNat with
    | 0 | 2 | 5 => [a .src]
    | 1 => [d .dst, a .src]
    | 3 => [d .reply, a .src, bb .src]
    | 4 => [a .src, bb .src]
    | _ => []
  | 0x11 | 0x12 => [d .dst, a .baseHead]
  | 0x13 => [d .src, a .baseTail]
  | 0x14 => if r.fn.getLsbD 2 then [d .src, a .baseTail, bb .src] else [d .dst, a .baseHead, bb .src]
  | 0x15 => (d .dst :: a .src :: b) ++ (if r.fn.extractLsb' 0 4 = 9 then c else [])
  | 0x16 => if r.fn = 0 then [a .src, bb .baseHead] else [a .baseTail, bb .src]
  | 0x17 => d .dst :: a .src :: b
  | 0x18 => match r.fn.toNat with
    | 0 | 1 => [a .src, bb .src]
    | 2 => [a .src]
    | _ => [d .dst, a .src]
  | 0x19 => match r.fn.toNat with
    | 0 => [d .remote, a .src]
    | 1 | 3 => [a .src, bb .src]
    | 2 => [d .src, a .src]
    | _ => [d .remote, a .src, bb .src] ++ (if r.f.xfn.extractLsb' 0 4 = 9 then c else [])
  | 0x1A => match r.fn.toNat with
    | 0 => [d .port, a .src]
    | 1 => [d .both, a .src, bb .src]
    | 2 => [a .port]
    | _ => [d .dst, a .port]
  | 0x1B => match r.fn.toNat with
    | 0 | 1 => [d .dst, a .src, bb .src]
    | 2 => [d .src, a .handle, bb .src]
    | 3 | 4 => [d .dst, a .handle, bb .src]
    | _ => [d .dst, a .handle]
  | 0x1C => match r.fn.toNat with
    | 1 | 3 => [a .src, bb .src]
    | 2 => [d .dst, a .src, bb .src]
    | 4 => [d .dst, a .src]
    | _ => []
  | 0x1D => match r.fn.toNat with
    | 0 => [d .w24, a .src, bb .src]
    | 1 | 2 => [a .src, bb .src]
    | 5 | 8 => [d .dst]
    | 3 | 11 => []
    | _ => [a .src]
  | 0x1E => match r.fn.toNat with
    | 0 => [d .dst]
    | 1 | 8 => []
    | 7 => [a .src, bb .src]
    | _ => [a .src]
  | 0x1F => [d .dst]
  | 0x20 => [a .src]
  | 0x21 => match r.fn.toNat with
    | 2 | 3 => [a .src, bb .src]
    | 1 | 6 => []
    | _ => [a .src]
  | 0x24 => d .vreg :: a .baseHead :: (if r.f.xfn.getLsbD 3 then c else [])
  | 0x25 => d .vreg :: a .baseTail :: (if r.f.xfn.getLsbD 3 then c else [])
  | 0x26 => if r.fn.getLsbD 0 then [d .vreg, a .baseTail, bb .vreg] else [d .vreg, a .baseHead, bb .vreg]
  | 0x27 => if r.fn.toNat ≤ 5 then [d .vreg, a .vreg, bb .vreg] else [d .vreg, a .vreg]
  | 0x28 => [d .vreg, a .vreg, bb .vreg] ++ (if r.f.ext?.isSome then [(4, r.f.c, .vreg)] else [])
  | 0x29 => [d .vreg, a .vreg, bb .vreg]
  | 0x2A => [d .vreg, a .vreg]
  | 0x2B => [d .mask, a .vreg, bb .vreg]
  | 0x2C => match r.fn.toNat with
    | 3 => [d .mask, a .mask]
    | 4 | 5 => [d .dst, a .mask]
    | 6 => [d .mask, a .src]
    | 7 => [d .vreg, a .vreg, bb .vreg, (4, r.f.c, .mask)]
    | _ => [d .mask, a .mask, bb .mask]
  | 0x2D => [d .dst, a .vreg]
  | 0x2E => match r.fn.toNat with
    | 0 | 5 => [d .vreg, a .src]
    | 1 => [d .vreg, a .vreg, bb .vreg]
    | 2 => [d .vreg, a .vreg, bb .src]
    | 3 => [d .dst, a .vreg, bb .src]
    | 4 => [d .vreg, a .src, bb .src]
    | 6 => [d .vreg]
    | _ => []
  | 0x2F => [d .vreg, a .src, bb .vreg] ++ (if r.f.ext?.isSome then [(4, r.f.c, .vreg)] else [])
  | 0x30 => [d .tile, a .baseHead, bb .src] ++ (if r.fn.getLsbD 2 then c else [])
  | 0x31 => [d .tile, a .baseTail, bb .src]
  | 0x32 => [d .tile, a .tile, bb .tile]
  | 0x33 => match r.fn.toNat with
    | 0 => [d .tile]
    | 1 => [d .tile, a .tile, bb .src]
    | 2 => [d .tile, a .tile, bb .tile]
    | 3 => [d .dst, a .tile, bb .src]
    | 4 | 5 => [d .tile, a .src, bb .src]
    | _ => []
  | 0x34 => [a .src, bb .src]
  | 0x35 => [d .dst, a .src, bb .w32]
  | _ => []

/-- Majors whose scalar operands may be buffer slots (R195). -/
def Raw.bufferValue (r : Raw) : Bool := [0x01, 0x02, 0x03, 0x04, 0x05, 0x06, 0x07, 0x0B, 0x0C].contains r.maj.toNat

/-- Whether a specifier may stand in a role (R34, R35); a handle needs CB = 1 and one of the uses of R195 (R36). -/
def Raw.roleOk (r : Raw) (x : Spec) (k : Role) : Bool :=
  let n := x.toNat
  match k with
  | .src => n < 40 || (isHandle x && r.f.cb && r.bufferValue) || n = 48 || (50 ≤ n && n ≤ 55)
  | .dst => n < 40 || (isHandle x && r.f.cb && r.bufferValue) || n = 49 || n = 50 || (52 ≤ n && n ≤ 55)
  | .both => n < 40 || n = 50 || (52 ≤ n && n ≤ 55)
  | .baseHead | .baseTail => n < 40 || (isHandle x && r.f.cb) || n = 48 || (50 ≤ n && n ≤ 55)
  | .pred | .vreg | .w32 => n < 32
  | .mask | .tile => n < 8
  | .port => isPort x
  | .handle => isHandle x
  | .reply => n < 24 || (52 ≤ n && n ≤ 55)
  | .remote => n < 32 || n = 50 || (52 ≤ n && n ≤ 55)
  | .w24 => n < 24

/-- Numbers of control registers that `GETC` may read (R42, R275, R301, R317). -/
def ctlReadable (n : Nat) : Bool :=
  n ≤ 0x008 || (0x010 ≤ n && n ≤ 0x018) || (0x020 ≤ n && n ≤ 0x029) || n = 0x02F || (0x030 ≤ n && n ≤ 0x03B)
    || (0x040 ≤ n && n ≤ 0x042) || (0x060 ≤ n && n ≤ 0x064) || (0x100 ≤ n && n ≤ 0x107) || n = 0x110 || n = 0x120
    || (0x128 ≤ n && n ≤ 0x135) || (0x138 ≤ n && n ≤ 0x13C) || (0x140 ≤ n && n ≤ 0x142) || n = 0x148 || n = 0x149
    || (0x150 ≤ n && n ≤ 0x153) || (0x158 ≤ n && n ≤ 0x15A) || (0x180 ≤ n && n ≤ 0x185) || (0x188 ≤ n && n ≤ 0x18C)
    || (0x190 ≤ n && n ≤ 0x193) || (0x198 ≤ n && n ≤ 0x1A7) || (0x1C0 ≤ n && n ≤ 0x1CE)

/-- Numbers of control registers that `SETC` may write. -/
def ctlWritable (n : Nat) : Bool :=
  (0x010 ≤ n && n ≤ 0x018) || (0x020 ≤ n && n ≤ 0x028) || (0x030 ≤ n && n ≤ 0x03B) || n = 0x040 || n = 0x041
    || (0x060 ≤ n && n ≤ 0x064) || (0x100 ≤ n && n ≤ 0x107) || n = 0x110 || n = 0x120 || n = 0x132 || n = 0x13B || n = 0x140
    || n = 0x143 || n = 0x148 || n = 0x150 || n = 0x152 || n = 0x158 || n = 0x159 || n = 0x180 || n = 0x181
    || (0x183 ≤ n && n ≤ 0x185) || (0x188 ≤ n && n ≤ 0x191 && n ≠ 0x18D && n ≠ 0x18E && n ≠ 0x18F) || n = 0x193 || n = 0x194
    || (0x198 ≤ n && n ≤ 0x1A7) || n = 0x1C6 || n = 0x1C8

/-- Whether an instruction names a control register that it may not access (R42). -/
def Raw.badNumber (r : Raw) : Bool :=
  (r.maj = 0x1F && !ctlReadable r.number) || (r.maj = 0x20 && !ctlWritable r.number)

/-- The field that `BITF` reads or writes (R59): position and width. -/
def Form.field (f : Form) : Nat × Nat :=
  (f.xfn.toNat, if f.imm.extractLsb' 0 6 = 0 then 64 else (f.imm.extractLsb' 0 6).toNat)

/-- The bank mask of a block instruction (R95). -/
def Form.banks (f : Form) : Nat := if f.ext?.isSome then (f.imm.extractLsb' 0 16).toNat else 0xFFFF

/-- The barrier tag of a remote store (R177). -/
def Form.tag (f : Form) : Nat := (f.imm.extractLsb' 0 16).toNat

/-- Whether an operand value is one that the opcode map declares illegal (R43 order 4): a bit field past bit 63 (R59), an empty
bank mask (R95), a barrier tag above 255 (R177). -/
def Raw.badValue (r : Raw) : Bool :=
  match r.maj.toNat with
  | 0x0D => decide (64 < r.f.field.1 + r.f.field.2)
  | 0x16 => r.f.banks = 0
  | 0x19 => (r.fn = 1 || r.fn = 3) && decide (256 ≤ r.f.tag)
  | _ => false

/-- The operand number of the first misused operand (R43 order 4), and 5 for an illegal value or for a control register that may
not be accessed. -/
def Raw.badOperand (r : Raw) : Option Nat :=
  match r.roles.find? fun p => !r.roleOk p.2.1 p.2.2 with
  | some p => some p.1
  | none =>
    if r.badNumber || r.badValue then some 5
    else if r.f.cb && (r.f.c = 0 || 2 ≤ (r.dataOps.filter isHandle).length) then some 4 else none

/-- Whether a role reads its operand. -/
def Role.reads : Role → Bool
  | .src | .both | .baseHead | .baseTail | .w32 => true
  | _ => false

/-- Whether a role takes a scalar specifier, which may name a `w` register or `wp` (R34). -/
def Role.scalar : Role → Bool
  | .pred | .vreg | .mask | .tile | .port | .handle => false
  | _ => true

/-- The register that an operand names, as a resource of R46. -/
def roleRes (x : Spec) (k : Role) : List Res :=
  match k with
  | .pred => [.pred (x.extractLsb' 0 5)]
  | .vreg => [.vreg (x.extractLsb' 0 5)]
  | .mask => [.mask (x.extractLsb' 0 3)]
  | .tile => [.tile (x.extractLsb' 0 3)]
  | .port | .handle => []
  | _ => if x.toNat < 32 || (52 ≤ x.toNat && x.toNat ≤ 55) then [.spec x] else []

/-- The predicates, which `PMOVR`, `PMOVW` and `SPAWN` name together (R56, R232). -/
def allPreds : List Res := (List.range 31).map fun i => .pred (BitVec.ofNat 5 i)

/-- The first words of the workspace, which `CALLRM` and `SPAWN` send (R70, R232). -/
def firstWords (n : Nat) : List Res := (List.range n).map fun i => .spec (BitVec.ofNat 6 i)

/-- Every register an instruction reads or writes (R45): its operands, the guard, the governing mask and the flags, and those
that its meaning names without a field. -/
def Raw.resources (r : Raw) : List Res :=
  (r.roles.flatMap fun p => roleRes p.2.1 p.2.2)
    ++ (match r.maj.toNat with
        | 0x0B => [.pred (r.fn.extractLsb' 0 5)]
        | 0x0E | 0x0F => Res.pred (r.d.extractLsb' 0 5) :: (if r.maj = 0x0F then [.spec 23] else [])
        | 0x24 | 0x25 | 0x26 | 0x29 | 0x2F => [.mask r.f.mask]
        | 0x2E => (if r.fn = 6 || r.fn = 7 then [.flags] else []) ++ [.mask r.f.mask]
        | 0x27 | 0x28 | 0x2A | 0x2B | 0x2D => [.mask r.f.mask]
        | 0x0A => if r.fn = 7 || r.fn = 8 then allPreds else []
        | 0x10 => if r.fn = 3 then firstWords 8 else []
        | 0x1D => if r.fn = 0 then firstWords 24 ++ allPreds else []
        | _ => [])
    ++ (match r.f.ext? with
        | some x => if x.g = 1 then [.pred x.gp] else []
        | none => [])

/-- The ports and the forwarding register that an instruction takes a value from. -/
def Raw.taken (r : Raw) : List Spec :=
  ((r.roles.filter fun p => p.2.2.reads).map (·.2.1)).filter fun x => isPort x || x = 48

/-- The registers that an instruction writes as its destination, as resources of R46; a unit command's tile is not among them
(R19). -/
def Raw.dests (r : Raw) : List Res :=
  let m := r.maj.toNat
  if m = 0x0F then [.spec 23]
  else if m = 0x0A && r.fn = 8 then allPreds
  else if m = 0x2E && r.fn = 7 then [.flags]
  else
    match r.roles.find? fun p => p.1 = 1 with
    | some (_, x, .dst) | some (_, x, .both) | some (_, x, .reply) | some (_, x, .remote) | some (_, x, .w24) => roleRes x .dst
    | some (_, x, .pred) => roleRes x .pred
    | some (_, x, .mask) => roleRes x .mask
    | some (_, x, .vreg) =>
      if m = 0x25 || (m = 0x26 && r.fn.getLsbD 0) || (m = 0x2F && !r.fn.getLsbD 5) then [] else roleRes x .vreg
    | some (_, x, .tile) => if m = 0x30 then roleRes x .tile else []
    | _ => []

/-- The cycles after which the destination of an instruction with a false guard is available (R19): three for a load, else the
figure of R46 or R115. -/
def Raw.falseLat (r : Raw) : Nat :=
  let n := r.fn.toNat
  match r.maj.toNat with
  | 0x01 => if 14 ≤ n ∧ n ≤ 16 then 5 else if 17 ≤ n ∧ n ≤ 20 then 22 else 3
  | 0x27 => if n = 3 ∨ n = 6 then 14 else if 7 ≤ n ∧ n ≤ 10 then 8 else if n = 11 ∨ n = 12 then 3 else 4
  | 0x28 | 0x2A | 0x2B => 4
  | 0x29 => if n = 2 ∨ n = 3 ∨ n = 14 then 4 else 3
  | 0x2D => if n ≤ 2 then 10 else 6
  | 0x2E => if n = 1 then 4 else 3
  | _ => 3

/-! ## Classes, privilege and charges -/

/-- The class code that an instruction needs (R11, R41): none for an instruction of every class. -/
def Raw.needsClass (r : Raw) : Option Nat :=
  let m := r.maj.toNat
  if m = 0x1B then (if r.fn = 0 || r.fn = 2 then some 3 else none)
  else if m = 0x1E then some 4
  else if 0x24 ≤ m ∧ m ≤ 0x2F then some 1
  else if 0x30 ≤ m ∧ m ≤ 0x35 then some 2
  else if m = 0x1F ∨ m = 0x20 then
    let n := r.number
    if 0x10 ≤ n ∧ n ≤ 0x18 then some 2
    else if (0x20 ≤ n ∧ n ≤ 0x29) ∨ n = 0x2F then some 3
    else none
  else none

/-- Whether an instruction needs privilege (R42, R272). -/
def Raw.needsPriv (r : Raw) : Bool :=
  match r.maj.toNat with
  | 0x1D => r.fn = 9
  | 0x1F | 0x20 => 0x100 ≤ r.number
  | 0x21 => 2 ≤ r.fn.toNat && r.fn.toNat ≤ 5
  | _ => false

/-- The weight charged at issue (R327); unit commands and `ISGO` are charged by their own meanings. -/
def Raw.charge (r : Raw) : Nat :=
  match r.maj.toNat with
  | 0x11 | 0x12 | 0x13 | 0x14 | 0x15 | 0x16 | 0x17 | 0x19 | 0x1A => 1
  | 0x27 => match r.fn.toNat with
    | 3 | 6 => 6
    | 7 | 8 | 9 | 10 => 4
    | _ => 3
  | 0x28 => 3
  | 0x29 | 0x2A | 0x2B | 0x2C | 0x2E => 2
  | 0x2D => 4
  | 0x24 | 0x25 | 0x26 | 0x2F => 3
  | 0x30 | 0x31 => 4
  | 0x32 => 0
  | 0x33 => if r.fn.toNat = 3 || r.fn.toNat = 4 || r.fn.toNat = 6 then 1 else 0
  | 0x1E => if r.fn = 6 then 0 else 1
  | _ => 1

/-- The part of a saved context that an instruction names (R346): 1 the slot-frame state, 2 vector state, 3 tile state. -/
def Raw.touches (r : Raw) : Option Nat :=
  let m := r.maj.toNat
  let ctl := m = 0x1F || m = 0x20
  let n := r.number
  if 0x24 ≤ m ∧ m ≤ 0x2F then some 2
  else if (0x30 ≤ m ∧ m ≤ 0x33) || (ctl && decide (0x10 ≤ n ∧ n ≤ 0x18)) then some 3
  else if (ctl && (decide (0x20 ≤ n ∧ n ≤ 0x3B) || n = 0x100)) || (m = 0x1D && r.fn = 7)
      || r.roles.any (fun p => p.2.2 = .port || isPort p.2.1) then some 1
  else none

/-- The control registers that an instruction of the plan or isochrone family samples: it waits for an earlier `SETC` of its
thread to take effect on them (R257, R299). -/
def Raw.ctlRegs (r : Raw) : List Nat :=
  match r.maj.toNat with
  | 0x1D => if [5, 6, 7, 8, 12].contains r.fn.toNat then (List.range 12).map (0x30 + ·) else []
  | 0x1E => if r.fn = 6 then [0x40, 0x41] else []
  | _ => []

/-- The control register that `GETC` and `SETC` name (R75): by IMM12, or by IMM32 in the extended form. -/
def ctlNumber (r : BitVec 12) (f : Form) : Nat := if f.ext?.isSome then f.imm.toNat else r.toNat

/-- Whether an instruction is `ERET`. -/
def Raw.isEret (r : Raw) : Bool := r.maj = 0x21 && r.fn = 1

/-- Whether the register cache must be refilled before an instruction uses it (R48): it is absent, and the instruction names a
`w` register or `wp`. -/
def Raw.needsCache (r : Raw) (x : Slot) : Bool :=
  x.absent && (r.roles.any (fun p => p.2.2.scalar && (p.2.1.toNat < 32 || p.2.1 = 51)) || r.maj = 0x0F)

/-- The length of an instruction in bytes (R24). -/
def Form.size (f : Form) : Nat := 4 * lenWords f.len

end Sys2Proof

namespace Sys2Proof.Machine

/-! ## Reading -/

/-- A predicate; `p31` reads as 1 (R50). -/
def Slot.pred (x : Slot) (p : BitVec 5) : Bool := p = 31 || x.pw.getLsbD p.toNat

/-- A mask; `k0` reads as all ones (R35). -/
def Slot.kmask (x : Slot) (k : BitVec 3) : Word := if k = 0 then BitVec.allOnes 64 else x.vec.k[k.toNat]

/-- A general register. -/
def Slot.reg (x : Slot) (i : Spec) : Word := x.w[i.toNat % 32]?.getD 0

/-- The value of a source that waits for nothing: none for a port, `pv`, a handle or a fault of R34. -/
def State.value? (s : State) (n : Nat) (x : Spec) : Option Word :=
  let v := x.toNat
  if v < 32 then some ((s.slot n).reg x)
  else if v = 50 then some 0
  else if v = 51 then some (s.slot n).wp
  else if 52 ≤ v ∧ v ≤ 55 then some (((s.core (slotCore n)).s[v - 52]?).getD 0)
  else none

/-- Poison in local-store bytes found at issue: precise, cause 0x08 (R92). -/
def localPoison (p : Place) (n : Nat) (va : Word) : M Unit := do
  let s ← get
  raiseIf (s.isPoisoned p n) 0x08 0 va 0

/-- The handle that a specifier names. -/
def handleOf (s : State) (x : Spec) : Handle := ((s.core (slotCore s.cur)).handles[x.toNat % 8]?).getD {}

/-- The slot address of a buffer operand, once enough slots are filled or free (R195). -/
def bufferAddr (f : Form) (x : Spec) (tail : Bool) : M Nat := do
  let s ← get
  let h := handleOf s x
  let c := f.c.toNat
  if h.scount = 0 || h.scount < c then raise 0x02 4 0 0
  else if (if tail then h.scount - h.fill else h.fill) < c then wait 2
  else return h.base + (if tail then h.tail else h.head) * h.ssize

/-- Reads a source operand (R34), waiting while it has no value. -/
def src (f : Form) (x : Spec) : M Word := do
  let s ← get
  match s.value? s.cur x with
  | some v => return v
  | none =>
    let sl := s.me
    if isPort x then
      match (sl.ports[x.toNat % 8]?).map Port.queue with
      | some ((v, _) :: _) => return v
      | _ => do
        modMe fun y => { y with rxWait := some (x.toNat % 8) }
        wait 2
    else if x = 48 then
      match sl.pv with
      | some v => if s.cyc < sl.pvAt then wait 2 else return v
      | none => wait 2
    else if isHandle x then
      let a ← bufferAddr f x false
      let p := localPlace (slotCore s.cur) a
      orderGate p s.windowOrd 8
      localPoison p 8 (BitVec.ofNat 64 a)
      needPort
      return BitVec.ofNat 64 (s.readMem p.key 8)
    else raise 0x02 2 0 0

/-- The B operand: the literal where the form has one (R33). -/
def srcB (f : Form) (b : Spec) : M Word := if f.hasLit then pure f.litVal else src f b

/-- Takes the words that the instruction has read from its ports and its `pv` (R69, R172). -/
def State.take (s : State) (n : Nat) (xs : List Spec) : State :=
  xs.eraseDups.foldl (fun s x =>
    if x = 48 then s.modSlot n fun y => { y with pv := none }
    else s.modSlot n fun y =>
      { y with ports := vmod y.ports (x.toNat % 8) fun p =>
          match p.queue with
          | (_, e) :: q => { p with queue := q ++ p.spill.take 1, spill := p.spill.drop 1, lastE := e }
          | [] => p }) s

/-! ## Packets -/

/-- The network endpoint of a core (R160). -/
def coreEp (c : Nat) : Nat := coreIdx c

/-- A wake signal to a router (R167): a gated one becomes able to forward 20 cycles later. -/
def State.wakeRouter (s : State) (c : Nat) : State :=
  s.modClu c fun x =>
    if x.gated then (if x.rready = 0 then { x with rready := s.cyc + 20 } else x) else { x with rlast := s.cyc }

/-- Gives a packet its number and places it at a router, which it enters in the next cycle (R159). The router is woken
(R167), and the event is counted (R315). -/
def State.send (s : State) (p : Packet) : State :=
  let s := (s.event p.src 6).wakeRouter p.src
  { s with net := s.net ++ [{ p with pid := s.pidNext, at' := p.src, dev := s.device, sdev := s.device, due := s.cyc + 1,
                                     inj := s.cyc }]
           pidNext := s.pidNext + 1 }

/-- A packet from a slot: source endpoint and context word (R160). -/
def State.packetOf (s : State) (n : Nat) (kind : Nat) : Packet :=
  let x := s.slot n
  { pid := 0, kind := kind, src := slotClu n, sep := coreEp (slotCore n), region := x.region
    tenant := ((s.eff? x.rcb).map Eff.tenant).getD 0, slot := n, cont := x.cont }

/-- A destination word's fields (R168). -/
def destDev (w : Word) : Nat := (w.extractLsb' 55 9).toNat
def destClu (w : Word) : Nat := (w.extractLsb' 47 8).toNat
def destMc (w : Word) : Bool := w.getLsbD 46
def destCore (w : Word) : Nat := (w.extractLsb' 42 4).toNat
def destSlot (w : Word) : Nat := (w.extractLsb' 39 3).toNat
def destPort (w : Word) : Nat := (w.extractLsb' 36 3).toNat
/-- The endpoint, core and slot numbers of a destination word. -/
def destEp (w : Word) : Nat := destCore w + (if destMc w then 16 else 0)
def destSlotNo (w : Word) : Nat := (destClu w * 20 + destEp w) * 8 + destSlot w

/-- A stream packet of a port: open 6, word 7, end 8, abort 9 (R161, R171). -/
def State.streamPacket (s : State) (n port kind : Nat) (v : Word) (last : Bool) : State :=
  let p := (s.slot n).ports[port]?.getD {}
  let d := p.dest
  s.send { s.packetOf n kind with ddev := destDev d, dst := destClu d, dep := destEp d, port := port
                                  sid := p.sid, ws := [v, d], last := last }

/-- Sends the open packet of a port, which begins a stream of a number of its own (R171). -/
def State.openRoute (s : State) (n q : Nat) : State :=
  (s.modSlot n fun x => { x with ports := vmod x.ports q fun p =>
    { p with opening := true, age := 0, since := 0, sid := s.pidNext } }).streamPacket n q 6 0 false

/-- Whether the first hop of a route has a credit (R166, R171): the input of the sender's own router holds four flits of a
stream. -/
def State.hopRoom (s : State) (n q : Nat) : Bool :=
  let p := (s.slot n).ports[q]?.getD {}
  decide ((s.net.filter fun k =>
    k.kind = 7 && k.sid = p.sid && k.dev = s.device && k.at' = slotClu n && k.inp = 0).length < 4)

/-- The checks of a write to a port, made at issue and precise (R23, R171): bound, and no packet of the stream lost. -/
def portCheck (q : Nat) : M Unit := do
  let p := (← me).ports[q]?.getD {}
  raiseIf (!p.bound) 0x02 1 0 0
  if p.lost then
    let s ← get
    let t : TrapRec := { cause := 0x0E, pc := s.me.pc }
    throw (Halt.trapWith t (s.modSlot s.cur fun x =>
      { x with ports := vmod x.ports q fun p => { p with lost := false, isOpen := false, opening := false, pend := [] } }))

/-- Waits until the route of a port is held, opening it first (R171). -/
def portOpen (q : Nat) : M Unit := do
  portCheck q
  let s ← get
  let p := s.me.ports[q]?.getD {}
  if p.isOpen then return ()
  else if p.opening then wait 2
  else throw (Halt.wait (s.openRoute s.cur q) 2)

/-- Sends one word from a port whose route is held: the end marker releases the route (R171). -/
def State.portWord (s : State) (n q : Nat) (v : Word) (e : Bool) : State :=
  let s := s.streamPacket n q 7 v e
  s.modSlot n fun x =>
    { x with ports := vmod x.ports q fun p =>
        { p with isOpen := p.isOpen && !e, age := if e then 0 else p.age, since := if e then 0 else p.since } }

/-- Whether an earlier write of a thread to a port has still to send its word (R171). -/
def Slot.portPending (x : Slot) (q : Nat) : Bool :=
  let mine (d : Spec) : Bool := isPort d && decide (d.toNat % 8 = q)
  !((x.ports[q]?).getD {}).pend.isEmpty
  || (x.acc.any fun a => match a.fin with
    | .reg d _ _ _ _ => mine d
    | _ => false)
  || x.owed.any fun o => mine o.d

/-- Sends what a port owes of performed loads (R23): its route is opened first, and a word needs a credit (R171). -/
def State.pumpPort (s : State) (n q : Nat) : State :=
  let p := ((s.slot n).ports[q]?).getD {}
  match p.pend with
  | [] => s
  | (v, e) :: rest =>
    if p.lost || p.opening then s
    else if !p.isOpen then s.openRoute n q
    else if !s.hopRoom n q then s
    else (s.modSlot n fun x => { x with ports := vmod x.ports q fun p => { p with pend := rest } }).portWord n q v e

/-- Sends what the ports of a slot owe. -/
def State.pumpPorts (s : State) (n : Nat) : State :=
  (List.range 8).foldl (fun s q => if (((s.slot n).ports[q]?).getD {}).pend.isEmpty then s else s.pumpPort n q) s

/-! ## Writing -/

/-- Notes that a resource becomes available at a cycle (R46). -/
def Slot.later (x : Slot) (r : Res) (c : Nat) : Slot := { x with avail := (r, c) :: x.avail.filter (·.1 ≠ r) }

/-- Writes a general register in the register cache: the word becomes dirty (R48). -/
def Slot.setReg (x : Slot) (i : Spec) (v : Word) : Slot :=
  { x with w := x.w.set! (i.toNat % 32) v, dirty := x.dirty ||| (1#32 <<< (i.toNat % 32)) }

/-- A general register of a workspace takes a value that was in flight (R46, R278): in the register cache while it holds that
workspace, and in the local store otherwise. -/
def State.land (s : State) (n : Nat) (ws : Word) (i : Spec) (v : Word) : State :=
  let x := s.slot n
  if x.wp = ws && !x.absent then s.modSlot n fun x => x.setReg i v
  else s.store (localPlace (slotCore n) (ws.toNat + 8 * (i.toNat % 32))) v.toNat 8

/-- The slot that a write to `nx` deposits into (R69). -/
def nextSlot (n : Nat) : Nat := slotCore n * 8 + (slotIdx n + 1) % 8

/-- A write to a core-shared register, available to every thread at a later cycle (R68). -/
def State.setShared (s : State) (n r : Nat) (v : Word) (at' : Nat) : State :=
  s.modCore (slotCore n) fun c => { c with spend := c.spend ++ [⟨r, v, at', n⟩] }

/-- Whether a specifier is armed for a reply on the current core (R73): the thread's own register or `s0`-`s3`. -/
def isArmed (s : State) (x : Spec) : Bool :=
  (s.me.armed.any fun t => t.1.extractLsb' 42 6 = x) || (s.core (slotCore s.cur)).armedS.any fun p => p.1 + 52 = x.toNat

/-- What a register asks for before it is written (R69, R73): an empty `pv`, an unarmed register. -/
def dstReady (x : Spec) : M Unit := do
  let s ← get
  if x = 49 then
    let t := s.slot (nextSlot s.cur)
    waitIf (t.live && (t.pv.isSome || t.pvClaim.isSome)) 2
  else raiseIf (isArmed s x) 0x0C x.toNat 0 0

/-- What a destination asks for before the instruction does anything (R34, R69, R73, R171, R195): of a port its thread's earlier
words, the route and a credit of its first hop; of a buffer slot its order and the local-store port. -/
def dstGate (f : Form) (x : Spec) : M Unit := do
  let q := x.toNat % 8
  if isPort x then
    portCheck q
    waitIf ((← me).portPending q) 2
    portOpen q
    let s ← get
    waitIf (!s.hopRoom s.cur q) 2
  else if isHandle x then
    let a ← bufferAddr f x true
    let s ← get
    let p := localPlace (slotCore s.cur) a
    orderGate p s.windowOrd 8 true
    tileGate p 8
    needPort
  else dstReady x

/-- What the destination of a load performed at a later turn asks for at issue (R23, R69, R73): of a port that holds a route, a
credit. -/
def loadReady (x : Spec) : M Unit := do
  if isPort x then
    portCheck (x.toNat % 8)
    let p := (← me).ports[x.toNat % 8]?.getD {}
    let s ← get
    waitIf (p.isOpen && !s.hopRoom s.cur (x.toNat % 8)) 2
  else dstReady x

/-- Writes a destination operand (R34) with a result available after `lat` cycles (R46), in `nx` too (log entry 62). -/
def dst (f : Form) (x : Spec) (v : Word) (lat : Nat) : M Unit := do
  dstGate f x
  let s ← get
  let n := x.toNat
  if isPort x then set (s.portWord s.cur (n % 8) v f.endMark)
  else if isHandle x then
    let a ← bufferAddr f x true
    set (s.store (localPlace (slotCore s.cur) a) v.toNat 8)
  else if n < 32 then modMe fun y => (y.setReg x v).later (.spec x) (s.cyc + lat)
  else if x = 49 then
    let t := nextSlot s.cur
    if (s.slot t).live then set (s.modSlot t fun y => { y with pv := some v, pvAt := s.cyc + lat })
  else if 52 ≤ n ∧ n ≤ 55 then
    set ((s.setShared s.cur (n - 52) v (s.cyc + lat)).modSlot s.cur fun y => y.later (.spec x) (s.cyc + lat))
  else return ()

/-- Writes a predicate (R50): a write to `p31` is discarded. -/
def setPred (p : BitVec 5) (v : Bool) (lat : Nat) : M Unit := do
  let s ← get
  if p = 31 then return ()
  else
    modMe fun x =>
      Slot.later { x with pw := if v then x.pw ||| (1#32 <<< p.toNat) else x.pw &&& ~~~(1#32 <<< p.toNat) } (.pred p)
        (s.cyc + lat)

/-! ## Readiness -/

/-- Whether a pending access or an owed answer of a slot will write a register (R20, R178). -/
def Slot.pendingFor (x : Slot) (r : Res) : Bool :=
  (x.acc.any fun a => match a.fin with
    | .reg d _ _ _ _ => r = .spec d
    | .vload v _ _ _ => r = .vreg (BitVec.ofNat 5 v)
    | .vatom (some v) _ => r = .vreg (BitVec.ofNat 5 v)
    | .tload t _ _ _ _ _ => r = .tile (BitVec.ofNat 3 t)
    | _ => false)
  || x.owed.any fun o => r = .spec o.d && decide (o.d.toNat ≠ 50)

/-- Whether a resource is available to an instruction that issues now (R46, R136). -/
def Slot.ready (x : Slot) (cyc : Nat) (r : Res) : Bool :=
  !x.pendingFor r && !(x.avail.any fun p => p.1 = r && decide (cyc < p.2))

/-- Whether a write to a core-shared register issued by any thread of the core is in flight (R68), a load or remote access that
has still to deliver it included. -/
def sharedBusy (s : State) (x : Spec) : Bool :=
  (52 ≤ x.toNat && x.toNat ≤ 55) &&
    (((s.core (slotCore s.cur)).spend.any fun p => p.reg + 52 = x.toNat && decide (s.cyc < p.at'))
      || (List.range 8).any fun i => (s.slot (slotCore s.cur * 8 + i)).pendingFor (.spec x))

/-- Waits for every register the instruction reads or writes (R45, R46, R68). The register cache is refilled first
where a `w` register or `wp` is named, at claim 1 of the local-store port (R48, R78). -/
def waitOperands (r : Raw) : M Unit := do
  let s ← get
  let x := s.me
  waitIf (r.resources.any fun q => !x.ready s.cyc q) 1
  waitIf (s.setcs.any fun w => w.slot = s.cur && w.cont = x.cont && r.ctlRegs.contains w.reg) 1
  waitIf (r.roles.any fun p => (p.2.2 = .dst || p.2.2 = .both || p.2.2 = .reply || p.2.2 = .remote)
      && sharedBusy s p.2.1) 1
  if r.needsCache x then
    waitIf (!x.ready s.cyc (.spec 51) || (s.core (slotCore s.cur)).portFirst s.cyc) 1
    set (s.refill s.cur)

/-- Waits for one more resource. -/
def waitRes (q : Res) : M Unit := do
  let s ← get
  waitIf (!s.me.ready s.cyc q) 1

/-- Whether the cluster's bucket covers a charge of the current slot (R327): memory cores are not charged. -/
def State.covers (s : State) (n : Nat) : Bool :=
  let x := s.clu (slotClu s.cur)
  isMemCore (slotCore s.cur) || !x.pwrChg || n ≤ x.chgLvl

/-- Takes a charge of a slot from its cluster's bucket (R327). -/
def State.takeCharge (s : State) (slot n : Nat) : State :=
  let c := slotClu slot
  if isMemCore (slotCore slot) || !(s.clu c).pwrChg then s
  else s.modClu c fun x => { x with chgLvl := x.chgLvl - n
                                    tel := { x.tel with live := x.tel.live.set! 0 (x.tel.live[0] + n) } }

/-- A charge that an instruction takes itself: it is not ready while the bucket does not cover it. -/
def charge (n : Nat) : M Unit := do
  let s ← get
  waitIf (!s.covers n) 1
  set (s.takeCharge s.cur n)

/-! ## The frame of a meaning -/

/-- The guard: whether the instruction executes (R29, R31). -/
def guardHolds (r : Raw) (x : Slot) : Bool :=
  if r.maj = 0x0E || r.maj = 0x0F then x.pred (r.d.extractLsb' 0 5) != r.d.getLsbD 5
  else match r.f.ext? with
    | some e => if e.g = 1 then x.pred e.gp != (e.gn = 1) else true
    | none => true

/-- The address of the next instruction (R25). -/
def nextPc (f : Form) : M Word := do return (← me).pc + BitVec.ofNat 64 f.size

/-- An instruction has issued: what the core and the slot keep of it (R45, R315). Its issue clears WSKIP (R280), but for
`ERET`, which has just set it (R282). -/
def State.issuedBy (s : State) (n : Nat) (pc : Word) (keep : Bool) : State :=
  let s := s.modCore (slotCore n) fun c => { c with last := slotIdx n, issued := true, issuedSlot := slotIdx n
                                                    issuedPc := pc }
  s.modSlot n fun x => { x with waiting := 0, trap := { x.trap with wskip := x.trap.wskip && keep } }

/-- An instruction has completed: the program counter moves past its words (R25). -/
def Slot.advance (x : Slot) (f : Form) : Slot :=
  { x with pc := x.pc + BitVec.ofNat 64 f.size, phase := 0, buf := [], sampled := none }

/-- Whether the instruction at the PC has begun and waits (R45): a blocking instruction issues once, however long it waits. -/
def Slot.begun (x : Slot) : Bool :=
  x.phase ≠ 0 || (x.calls.any fun c => c.1 = x.pc) || x.acc.any fun a => match a.fin with
    | .waitw _ _ _ _ _ => true
    | _ => false

/-- The cycles in which a part of a saved context is saved and restored (R241, R346): 0 the pending reports, 1 the slot-frame state,
2 the vector state, 3 the tile state. -/
def partCycles (part : Nat) : Nat :=
  match part with
  | 0 => 1
  | 1 => 3
  | 2 => 33
  | _ => 129

/-- The restoration of a part of the saved context of a slot begins (R346): it takes the local-store port at claim 1. -/
def State.startRestore (s : State) (n part : Nat) : State :=
  let s := s.claimPort (slotCore n) (partCycles part)
  s.modSlot n fun x => { x with restore := some (part, (s.core (slotCore n)).portClaim) }

/-- Waits for the restoration of a part of the thread's saved context, which begins where none runs (R346). -/
def restoreContext {α : Type} (part : Nat) : M α := wait (8 + part)

/-- Waits until the part of a saved context that an instruction names has been restored (R346). -/
def touchContext (r : Raw) : M Unit := do
  let x ← me
  match r.touches with
  | none => pure ()
  | some p =>
    if x.unrestored.contains p then
      restoreContext p

/-- Reads the forwarding registers and ports of a list, waiting while one has no value. -/
def waitTaken : List Spec → M Unit
  | [] => pure ()
  | x :: xs => do
    let _ ← src .base x
    waitTaken xs

/-- An instruction whose guard is false waits for its registers as an unguarded one does (R19): for a word of each port and for
`pv` where it reads them, and for an empty `pv` where it writes `nx`. -/
def falseWaits (r : Raw) : M Unit := do
  waitTaken r.taken
  if r.roles.any fun p => p.2.1 = 49 && (p.2.2 = .dst || p.2.2 = .both) then dstReady 49

/-- What comes before an instruction's own effect, in the order of R43 and R44: encoding and class, privilege, the
registers it waits for, the guard, the operand specifiers, the charge. Answers whether the guard holds. A thread whose
plain access has gone to another cluster or device issues nothing until it is answered (R83). -/
def prologue (i : Instr) (r : Raw) : M Bool := do
  modMe fun x => { x with rxWait := none }
  let s ← get
  let x := s.me
  let base := (r.base.setWidth 64 : Word)
  raiseIf (!i.wf || (r.needsClass.any (· ≠ x.cls))) 0x01 0 0 base
  raiseIf ((r.needsPriv && !x.privileged) || (r.maj = 0x21 && r.fn = 1 && !x.trap.tmode)) 0x03 0 0 base
  waitIf (decide (s.cyc < x.notBefore)) 1
  waitIf (x.owed.any fun o => decide (11 ≤ o.what ∧ o.what ≤ 13)) 3
  let go ← (do
    if r.maj = 0x0E || r.maj = 0x0F then waitRes (.pred (r.d.extractLsb' 0 5))
    match r.f.ext? with
    | some e => if e.g = 1 then waitRes (.pred e.gp)
    | none => pure ()
    return guardHolds r (← me) : M Bool)
  if go then
    match r.badOperand with
    | some k => raise 0x02 k 0 base
    | none => pure ()
    touchContext r
  else falseWaits r
  waitOperands r
  let s ← get
  waitIf (!s.me.begun && !s.covers r.charge) 1
  return go

/-- The record of a cause that an instruction raises: an illegal instruction, an illegal operand and a privilege trap
carry the base word (R277). -/
def TrapRec.named (t : TrapRec) (r : Raw) : TrapRec :=
  let t := { t with tile := t.tile || r.maj = 0x30 || r.maj = 0x31 }
  if t.cause = 1 || t.cause = 2 || t.cause = 3 then { t with info := r.base.setWidth 64 } else t

/-- A trap takes with it the failed walks of its core: a fault fills nothing, and a retry walks afresh (R292). -/
def State.dropBadWalks (s : State) : State :=
  let c := slotCore s.cur
  s.modClu (coreClu c) fun y => { y with walks := y.walks.filter fun w => w.core ≠ c || w.bad.isNone }

/-- The charge at issue (R327), taken once: when the instruction completes, or when a blocking one begins. -/
def State.chargeOnce (s' s : State) (n : Nat) : State := if s.me.begun then s' else s'.takeCharge s.cur n

/-- Whether the instruction at the PC has issued and waits: an `ISCLAIM` that waits for the array has not issued (R260). -/
def Slot.hasIssued (x : Slot) : Bool := x.begun && x.phase ≠ 20

/-- The end of an attempt at an instruction: its issue, unless it issued when it began. -/
def State.ends (s' s : State) (pc : Word) (keep : Bool) : State :=
  if s.me.hasIssued then s'.modSlot s.cur fun x => { x with waiting := 0 }
  else s'.issuedBy s.cur pc keep

/-- A core without the claims of an instruction that did not issue (R45): the port, the dividers, the vector unit and the
normaliser, response slots and credits are as before. -/
def Core.unclaim (c' c : Core) : Core :=
  { c' with
      portClaim := c.portClaim, portIssue := c.portIssue, divFree := c.divFree, vdivFree := c.vdivFree, vecFree := c.vecFree
      normFree := c.normFree, resp := c.resp, credits := c.credits }

/-- An instruction that is not ready leaves none of its claims; the register cache that it has refilled is kept only where it was
selected but for the port (R48). -/
def State.notReady (s' s : State) (refill : Bool) : State :=
  let k := slotCore s.cur
  let c := s.core k
  let t := s'.modCore k fun c' => c'.unclaim (if refill then { c with portClaim := (s'.core k).portClaim } else c)
  t.modSlot s.cur fun x =>
    if refill then { x with notBefore := s.me.notBefore }
    else { x with w := s.me.w, dirty := s.me.dirty, absent := s.me.absent, notBefore := s.me.notBefore }

/-- How a halted meaning leaves the machine; `refill` says that a register cache refilled by the attempt is kept. -/
def State.settle (s : State) (r : Raw) (pc : Word) (refill : Bool) : Halt → State
  | .trap t => (s.dropBadWalks.takeTrap s.cur (t.named r) (s.slot s.cur).pc).ends s pc false
  | .trapWith t s' =>
    (s'.dropBadWalks.takeTrap s.cur (t.named r) (s'.slot s.cur).pc).ends s pc false
  | .wait s' why =>
    let x := s'.slot s.cur
    let s' :=
      if s.me.begun then s'
      else if x.begun then
        let t := s'.takeCharge s.cur r.charge
        if x.phase = 20 then t else t.issuedBy s.cur pc false
      else s'.notReady s refill
    let s' := if 8 ≤ why ∧ (s'.slot s.cur).restore.isNone then s'.startRestore s.cur (why - 8) else s'
    s'.modSlot s.cur fun x =>
      { x with waiting := if 4 ≤ why then 3 else max why 1
               sampled := if x.phase = 0 then none else if x.sampled.isSome then x.sampled else s'.eff? x.rcb }
  | .quit s' => (s'.chargeOnce s r.charge).ends s pc r.isEret

/-- Whether an instruction that waited for the port alone would have been selected: its meaning, with the register cache refilled
and the port free, does not wait (R48). -/
def State.selected (s : State) (r : Raw) (body : M Unit) : Bool :=
  r.needsCache s.me &&
    match body ((s.refill s.cur).modCore (slotCore s.cur) fun c => { c with portClaim := (s.core (slotCore s.cur)).portClaim }) with
    | .error (.wait t _) => (t.slot s.cur).begun
    | _ => true

/-- The refill that an instruction keeps which waits for the port that its own refill has taken (R48). -/
def State.keeps (s : State) (r : Raw) (body : M Unit) : Halt → Bool
  | .wait _ 4 => s.selected r body
  | _ => false

/-- What an instruction whose guard is false leaves (R19): its destination is waited for as if it had been written. -/
def skipped (r : Raw) : M Unit := do
  let s ← get
  let more := if isMemCore (slotCore s.cur) && decide (0x27 ≤ r.maj.toNat ∧ r.maj.toNat ≤ 0x2E) then 3 else 0
  modMe fun x => r.dests.foldl (fun x d => x.later d (s.cyc + r.falseLat + more)) x

/-- The meaning of a machine instruction from its own effect: a false guard changes nothing but the program counter
and when the destination is available (R19, R44); a completed effect takes its port words and moves the program counter. -/
def issue (i : Instr) (body : M Unit) (s : State) : Host.Outcome State Fault Refusal :=
  match i.raw with
  | none => .refused .noThread
  | some r =>
    if !s.me.live then .refused .noThread
    else
      let pc := s.me.pc
      match (do
          if ← prologue i r then
            body
            modify fun s => s.take s.cur r.taken
          else skipped r : M Unit) s with
      | .ok (_, s') => .next (((s'.chargeOnce s r.charge).ends s pc false).modSlot s.cur fun x => x.advance r.f)
      | .error h => .next (s.settle r pc (s.keeps r body h) h)

/-- Takes the port words and the `pv` that an instruction has read, for one that ends by `quit`. -/
def takeOps (i : Instr) : M Unit := modify fun s => s.take s.cur ((i.raw.map Raw.taken).getD [])

/-- Ends an instruction that has already taken its operands: the program counter moves past its words. -/
def completed {α : Type} (f : Form) : M α := do
  modMe fun x => x.advance f
  quit

/-- Ends an instruction that places the program counter itself (R62): the target issues three cycles later. -/
def jump (i : Instr) (target : Word) : M Unit := do
  takeOps i
  let s ← get
  throw (Halt.quit (s.modSlot s.cur fun x => x.goto target (s.cyc + 3)))

end Sys2Proof.Machine
end

