-- ==== Sys2Proof/Machine/Traverse.lean ====
section
/-! DEFINITION. The wheels and their turns (R79 to R82), the accesses that wait for them, and what serving one unit of
an access does (R80, R92, R94, R201), with the order of a thread's accesses (R204, R206 to R210). -/

namespace Sys2Proof.Machine

/-! ## Turns -/

/-- The step of a wheel at a cycle (R79); the inner wheel's dwell is 1. -/
def Wheel.step (w : Wheel) (n : Nat) : Nat := (n - w.base) / w.dwell % max w.len 1

/-- What an active table holds for a bank or cluster at a cycle (R79): the holder, or the group; 31 where it holds
nothing. -/
def Wheel.holds (w : Wheel) (b n : Nat) : Nat := ((w.table[w.step n]?.getD [])[b]?).getD 31

/-- The cycles of one revolution of a wheel. -/
def Wheel.revolution (w : Wheel) : Nat := max w.len 1 * w.dwell

/-- The requester ID of a core (R79, R198): memory cores use the service port. -/
def requester (core : Nat) : Nat := if isMemCore core then 17 else coreIdx core

/-- The retirement that concerns the bank of a place (R88), and the wheel whose turns it takes. -/
def State.retiring (s : State) (clu : Nat) (p : Place) : Retire × Wheel :=
  if p.kind = 2 then ((s.clu clu).retire, (s.clu clu).wheel)
  else (SMap.get {} (s.die (cluDie clu)).retire p.group, (s.die (cluDie clu)).wheel)

/-- Whether the turns at the bank of a place are missing (R88): its retirement is in the swap phase. -/
def State.missing (s : State) (clu : Nat) (p : Place) : Bool :=
  let r := (s.retiring clu p).1
  r.phase = 2 && r.bank = p.bank

/-- The cycles of one revolution of the wheel that serves a place, by which a missing turn is made good (R88). -/
def State.revolution (s : State) (clu : Nat) (p : Place) : Nat := (s.retiring clu p).2.revolution

/-- Whether requester `k` of a cluster holds the turn that a place needs at a cycle under the active tables (R80), a missing turn
(R88) included. -/
def State.turnAt (s : State) (clu k : Nat) (p : Place) (n : Nat) : Bool :=
  let c := s.clu clu
  c.wheel.holds p.bank n = k
    && (p.kind = 2 || (s.die (cluDie clu)).wheel.holds (cluIdx clu) n = p.group)

/-- The first cycle from `n` on at which requester `k` holds the turn that a place needs under the active tables,
searched over `fuel` cycles (R103). -/
def State.nextTurn (s : State) (clu k : Nat) (p : Place) : Nat → Nat → Option Nat
  | 0, _ => none
  | fuel + 1, n => if s.turnAt clu k p n then some n else s.nextTurn clu k p fuel (n + 1)

/-- Cycles after which the two wheels of a cluster have gone through every pairing: the product of their periods. -/
def State.turnPeriod (s : State) (clu : Nat) : Nat :=
  let c := s.clu clu
  let d := s.die (cluDie clu)
  max c.wheel.len 1 * (max d.wheel.len 1 * d.wheel.dwell)

/-! ## Grouping an access into units -/

/-- Adds an action to the unit of its line and stage, in order of first touch. -/
def putUnit (us : List MemUnit) (p : Place) (stage : Nat) (a : Act) : List MemUnit :=
  match us with
  | [] => [{ place := p.line, stage := stage, acts := [a] }]
  | u :: us =>
    if u.place = p.line ∧ u.stage = stage then { u with acts := u.acts ++ [a] } :: us
    else u :: putUnit us p stage a

/-- The places of the block scale and super-scale of a cb4 element (R110). -/
def Target.scalePlace (t : Target) : Place :=
  t.frame.add (16384 + t.elem / (if t.view = 1 then 64 else 32))
def Target.superPlace (t : Target) : Place :=
  if t.view = 1 then t.frame.add (16896 + 4 * (t.elem / 64 / 256)) else t.frame.add (17408 + 4 * (t.elem / 32 / 256))

/-- The reads of element `i`, of `n` bytes, at a target: plain, or code, scale and super-scale in that order (R93). -/
def readUnits (us : List MemUnit) (t : Target) (i n : Nat) : List MemUnit :=
  if t.view = 0 then putUnit us t.place 0 (.rd (4 * i) t.place.key n)
  else
    putUnit (putUnit (putUnit us t.place 0 (.rd (4 * i) t.place.key 1)) t.scalePlace 1
      (.rd (4 * i + 1) t.scalePlace.key 1)) t.superPlace 2 (.rd (4 * i + 2) t.superPlace.key 4)

/-- What is kept of element `i` before its reads: for a cb4 element, which nibble of the code byte is its own. -/
def readMarks (g : SMap Nat) (t : Target) (i : Nat) : SMap Nat :=
  if t.view = 0 then g else SMap.set g (4 * i + 3) (t.elem % 2)

/-- The value read for element `i`: decoded where it lies on a cb4 view (R109). -/
def elemValue (g : SMap Nat) (i ty rm : Nat) : Nat :=
  if SMap.has g (4 * i + 3) then
    let code := SMap.get 0 g (4 * i)
    cb4Decode ty rm (if SMap.get 0 g (4 * i + 3) = 1 then code / 16 else code % 16) (SMap.get 0 g (4 * i + 1))
      (SMap.get 0 g (4 * i + 2))
  else SMap.get 0 g (4 * i)

/-! ## Entering an access -/

/-- Puts an access among those that wait for turns: a slot has at most four (R81). Its DRAM units join their channel's queue of 16
while there is room, and wait where it is full (R200): those left over enter as others leave. -/
def addAccess (a : Access) : M Unit := do
  let s ← get
  let x := s.me
  waitIf (4 ≤ x.acc.length) 3
  let a := { a with id := x.accNext, issued := max a.issued s.cyc, pc := x.pc, ws := x.wp }
  let drams := a.units.filter fun u => u.place.kind = 4
  waitIf (drams.any fun u => decide (16 ≤ (s.dram u.place.unit).queue.length)) 3
  modMe fun x => { x with acc := x.acc ++ [a], accNext := x.accNext + 1 }
  modify fun s => drams.foldl (fun s u => s.modDram u.place.unit fun d =>
    if d.queue.length < 16 then { d with queue := d.queue ++ [(s.cur, a.id)] } else d) s

/-! ## Serving -/

/-- The update of one bank atomic (R94): 0 to 11 as FN[3:0]; `n` bytes, operand `x`, compare value `c`. -/
def atomicOp (op n old x c : Nat) : Nat :=
  let w := 8 * n
  let sg (v : Nat) : Int := if 2 ^ (w - 1) ≤ v % 2 ^ w then (v % 2 ^ w : Nat) - (2 ^ w : Nat) else (v % 2 ^ w : Nat)
  let x := x % 2 ^ w
  match op with
  | 0 => (old + x) % 2 ^ w
  | 1 => old &&& x
  | 2 => old ||| x
  | 3 => old ^^^ x
  | 4 => if sg old ≤ sg x then old else x
  | 5 => if sg old ≤ sg x then x else old
  | 6 => min old x
  | 7 => max old x
  | 8 => x
  | 9 => if old = c % 2 ^ w then x else old
  | 10 => (Fmt.f32.add 0 old x).1
  | _ => (Fmt.bf16.add 0 (old % 65536) (x % 65536)).1 + 65536 * (Fmt.bf16.add 0 (old / 65536) (x / 65536)).1

/-- `FADD` under a rounding mode, for `VATOM` (R130); other operations as in R94. -/
def atomicOpRm (op n old x c : Nat) : Nat :=
  if op < 32 then atomicOp op n old x c
  else
    let rm := op / 32 - 1
    match op % 32 with
    | 10 => (Fmt.f32.add rm old x).1
    | 11 => (Fmt.bf16.add rm (old % 65536) (x % 65536)).1 + 65536 * (Fmt.bf16.add rm (old / 65536) (x / 65536)).1
    | o => atomicOp o n old x c

/-- Performs one action of an access (R92, R94): a poisoned datum changes nothing and is noted with its lane. -/
def serveAct (p : Place) (s : State × Access) (a : Act) : State × Access :=
  let (s, x) := s
  let at' (k : Nat) : Place := { p with off := p.off + (k - p.key) }
  match a with
  | .rd i k n =>
    if s.isPoisoned (at' k) n then (s, { x with poison := some (x.poison.getD (i / 4)) })
    else (s, { x with got := SMap.set x.got i (s.readMem k n) })
  | .wr k n v => (s.store (at' k) v n, x)
  | .rmw i k n op y c =>
    if x.poison.isSome then (s, x)
    else if s.isPoisoned (at' k) n then (s, { x with poison := some (i / 4) })
    else
      let old := s.readMem k n
      (s.writeMem k (atomicOpRm op n old y c) n, { x with got := SMap.set x.got i old })

/-- The poisoned units that the writes of one transfer cover together are clear (R92). -/
def State.clearCovered (s : State) (u : MemUnit) : State :=
  let g := u.place.grain
  let written (k : Nat) : Bool := u.acts.any fun a => match a with
    | .wr b n _ => decide (b ≤ k ∧ k < b + n)
    | _ => false
  let near (k : Nat) : Bool := decide (u.place.key ≤ k ∧ k < u.place.key + u.place.span)
  if s.poison.any near then
    { s with poison := s.poison.filter fun k => !(near k && (List.range g).all fun i => written (k + i)) }
  else s

/-- A value that a served load delivers to its destination (R20, R23, R69, R90): available three cycles after `at'`. A general
register is that of the workspace `ws`, and `pv` takes the value where it is still claimed by access or answer `id`. -/
def State.deliver (s : State) (n id : Nat) (ws : Word) (d : Spec) (v : Word) (e : Bool) (at' : Nat) : State :=
  let k := d.toNat
  if k < 32 then (s.land n ws d v).modSlot n fun x => x.later (.spec d) (at' + 3)
  else if isPort d then
    (s.modSlot n fun x => { x with ports := vmod x.ports (k % 8) fun p => { p with pend := p.pend ++ [(v, e)] } }).pumpPort n (k % 8)
  else if k = 49 then
    let t := nextSlot n
    s.modSlot t fun y =>
      if y.live && y.pvClaim = some id then { y with pv := some v, pvAt := at' + 3, pvClaim := none } else y
  else if 52 ≤ k ∧ k ≤ 55 then
    (s.setShared n (k - 52) v (at' + 3)).modSlot n fun y => y.later (.spec d) (at' + 3)
  else s

/-- Writes the result of an instruction that has been performed, whose value came in cycle `c` (R23, R46): a word for a port waits
there as that of a load does. -/
def lateDst (f : Form) (d : Spec) (v : Word) (c : Nat) : M Unit := do
  let s ← get
  if isPort d then set (s.deliver s.cur 0 s.me.wp d v f.endMark c)
  else dst f d v (c + 3 - s.cyc)

/-- A load into `nx` that delivers nothing gives its claim up (R69). -/
def State.unclaimNext (s : State) (n id : Nat) (d : Spec) : State :=
  if d = 49 then s.modSlot (nextSlot n) fun y => if y.pvClaim = some id then { y with pvClaim := none } else y else s

/-- The 64-bit value of a scalar load of `size` bytes (R90): composed of bf16 elements where it lies on a cb4 view. -/
def loadValue (g : SMap Nat) (size : Nat) (sx : Bool) (view : Nat) : Word :=
  let v :=
    if view = 0 then SMap.get 0 g 0
    else if size = 1 then (if view = 2 then elemValue g 0 9 0 / 256 else elemValue g 0 9 0 % 256)
    else (List.range (size / 2)).foldl (fun v i => v + elemValue g i 9 0 * 65536 ^ i) 0
  if sx then BitVec.signExtend 64 (BitVec.ofNat (8 * size) v) else BitVec.ofNat 64 v

/-- A lane of a vector register. -/
def lane (v : BitVec 2048) (i : Nat) : Word32 := v.extractLsb' (32 * i) 32

/-- A vector register with the lanes of `f` where `m` has a bit, and its old lanes elsewhere (R113). -/
def setLanes (old : BitVec 2048) (m : Word) (f : Nat → Nat) : BitVec 2048 :=
  BitVec.ofNat 2048 ((List.range 64).foldr (fun i acc =>
    acc * 2 ^ 32 + (if m.getLsbD i then f i % 2 ^ 32 else (lane old i).toNat)) 0)

def Slot.setVec (x : Slot) (d : Nat) (v : BitVec 2048) : Slot := { x with vec := { x.vec with v := x.vec.v.set! d v } }

/-- The bytes of a tile with element `i * cols + j` of `eb` bytes replaced by `f i j` (R132). -/
def setTile (old : BitVec 32768) (rows cols eb : Nat) (f : Nat → Nat → Nat) : BitVec 32768 :=
  let n := rows * cols
  let body := (List.range n).foldr (fun k acc => acc * 2 ^ (8 * eb) + f (k / cols) (k % cols) % 2 ^ (8 * eb)) 0
  BitVec.ofNat 32768 (old.toNat / 2 ^ (8 * eb * n) * 2 ^ (8 * eb * n) + body)

/-- The commit counter of a stripe row (R105). -/
def Cluster.counter (c : Cluster) (row : Nat) : Nat := SMap.get 0 c.commitCount row

/-- `sempost` on a core's semaphore (R66): the count saturates. -/
def Core.post (c : Core) (n : Nat) : Core :=
  let v := (c.sems[n]?.getD 0).toNat
  { c with sems := c.sems.set! n (BitVec.ofNat 16 (min (v + 1) 65535)) }

/-- The end of an access whose last unit has been served. A deferred poison record of a vector access names the address of its first
active lane (log entry 67). -/
def State.finishAccess (s : State) (n : Nat) (a : Access) (at' : Nat) : State :=
  let clu := slotClu n
  let drop := s.modSlot n fun x => { x with acc := x.acc.filter fun b => b.id ≠ a.id }
  let drop := match a.job, a.fin with
    | some j, .tload _ _ _ _ _ _ => drop.modClu clu fun c =>
      { c with jobs := c.jobs.map fun y => if y.id = j then { y with endAt := at' + 3 } else y }
    | some j, _ => drop.modClu clu fun c => { c with jobs := c.jobs.filter (·.id ≠ j) }
    | none, _ => drop
  let more := if isMemCore (slotCore n) then 3 else 0
  let poison (s : State) (lane : Option Nat) : State :=
    s.report n { cause := 0x08, pc := a.pc, addr := a.va, lane := lane }
  match a.fin with
  | .store => drop
  | .tstore p => match p with
    | some i => drop.modCore (slotCore n) fun c => c.post i
    | none => drop
  | .reg d size sx e view =>
    if a.poison.isSome then
      poison (drop.unclaimNext n a.id d) none
    else drop.deliver n a.id a.ws d (loadValue a.got size sx view) e at'
  | .waitw _ c x us view =>
    if a.poison.isSome then
      let s := drop.modSlot n fun y => { y with phase := 0 }
      if us.any fun u => u.place.kind = 1 then s else poison s none
    else
      let v := loadValue a.got 8 false view
      let ok : Bool := match c with
        | 0 => v != x
        | 1 => decide (x.toNat ≤ v.toNat)
        | _ => v == x
      if ok then drop.modSlot n fun y => { y with phase := 2, buf := [v.toNat, at'] }
      else s.modSlot n fun y =>
        { y with acc := y.acc.map fun b => if b.id = a.id then { b with again := true, units := us } else b }
  | .vload d ty m _ =>
    if a.poison.isSome then poison drop none
    else drop.modSlot n fun x =>
      (x.setVec d (setLanes (x.vec.v[d]?.getD 0) m fun i => laneExt ty (elemValue a.got i ty 0))).later
        (.vreg (BitVec.ofNat 5 d)) (at' + 3 + more)
  | .vatom d m =>
    match a.poison with
    | some l => poison drop (some l)
    | none => match d with
      | none => drop
      | some d => drop.modSlot n fun x =>
        (x.setVec d (setLanes (x.vec.v[d]?.getD 0) m fun i => SMap.get 0 a.got (4 * i))).later
          (.vreg (BitVec.ofNat 5 d)) (at' + 3 + more)
  | .tload t ty rows cols rm _ =>
    if a.poison.isSome then poison drop none
    else (match a.post with
        | some i => drop.modCore (slotCore n) fun c => c.post i
        | none => drop).modSlot n fun x =>
      let eb := tySize ty
      { x with tiles := { x.tiles with t := x.tiles.t.set! t (setTile (x.tiles.t[t]?.getD 0) rows cols eb fun i j =>
          elemValue a.got (i * cols + j) ty rm) } }.later (.tile (BitVec.ofNat 3 t)) (at' + 3)
  | .stage row _ =>
    drop.modClu clu fun c => { c with commits := c.commits ++ [{ slot := n, ready := s.cyc + 1, row := row
                                                                 lines := a.got }] }
  | .bld row _ _ _ =>
    let v := (s.clu clu).counter row
    (s.modClu clu fun c => { c with passes := c.passes.map fun p =>
      if p.slot = n then { p with started := false, holds := false, since := 0 } else p }).modSlot n fun x =>
        { x with acc := x.acc.map fun b => if b.id = a.id then { b with last := some v } else b }
  | .hold =>
    drop.modSlot n fun x =>
      { x with phase := if a.poison.isSome then 99 else x.phase + 1
               notBefore := if a.svc then s.cyc + 1 else x.notBefore
               buf := (List.range (a.got.length)).map fun i => SMap.get 0 a.got (4 * i) }
  | .park => drop.modSlot n fun x => { x with phase := 9 }
  | .remote _ => drop

/-- Serves one unit of a slot's access, its data taken at `at'` (R80, R200): its actions in order, then its end. A
poisoned atomic applies no later unit (R130). -/
def State.serveUnit (s : State) (n id : Nat) (u : MemUnit) (at' : Nat) : State :=
  match (s.slot n).acc.find? (·.id = id) with
  | none => s
  | some a =>
    let clu := slotClu n
    let s := if a.svc then s else if u.place.kind = 2 then s.event clu (3 + 16 * coreIdx (slotCore n))
      else if u.place.kind = 3 then s.event clu (4 + 16 * coreIdx (slotCore n)) else s
    let s := if isMemCore (slotCore n) && (u.place.kind = 2 || u.place.kind = 3) then s.event clu 5 else s
    let a := match a.fin, a.first with
      | .bld row _ _ _, none => { a with first := some ((s.clu clu).counter row) }
      | _, _ => a
    let s := match a.fin with
      | .bld _ _ _ _ => s.modClu clu fun c =>
          { c with passes := c.passes.map fun p => if p.slot = n then { p with started := true } else p }
      | _ => s
    let (s, a) := u.acts.foldl (serveAct u.place) (s, a)
    let s := s.clearCovered u
    let rest := a.units.erase u
    let stop := match a.fin with
      | .vatom _ _ => a.poison.isSome
      | _ => false
    let a := { a with units := rest }
    let s := s.modSlot n fun x => { x with acc := x.acc.map fun b => if b.id = id then a else b }
    if rest = [] || stop then s.finishAccess n a at' else s

/-- Whether a slot has an access or an owed answer, older than access `id`, to a line (R81, R204). -/
def Slot.precedes (x : Slot) (id : Nat) (p : Place) : Bool :=
  (x.acc.any fun b => decide (b.id < id) && b.units.any fun v => v.place = p)
    || x.owed.any fun o => decide (o.id < id ∧ o.what ≤ 5) && p.meets p.span o.place (max o.size 1)

/-- A unit that falls on a missing turn is held (R88): it is served at the same step one revolution later. -/
def State.holdUnit (s : State) (n id : Nat) (u : MemUnit) : State :=
  let due := s.cyc + s.revolution (slotClu n) u.place
  s.modSlot n fun x => { x with acc := x.acc.map fun a =>
    if a.id = id then { a with units := a.units.map fun v => if v = u then { v with due := due } else v } else a }

/-- Whether a unit of an access keeps its place among the access's others: a lower stage (R93), the lower half of a common-store
line (R80) and, for `VATOM` in the local store, an earlier lane (R131) go first. -/
def Access.inTurn (a : Access) (u : MemUnit) : Bool :=
  !(a.units.any fun v => decide (v.stage < u.stage))
    && !(u.place.kind = 3 && u.place.off % 128 = 64
      && a.units.any fun v => v.stage = u.stage && v.place = { u.place with off := u.place.off - 64 })
    && (match a.fin with
      | .vatom _ _ => u.place.kind ≠ 1 || (a.units.find? fun v => v.place.kind = 1) = some u
      | _ => true)

/-- Whether the staging register that a line of a `BST` needs is free, and the line has been read (R96): a bank keeps one staging
register for each requester. -/
def State.canStage (s : State) (n : Nat) (a : Access) (u : MemUnit) : Bool :=
  match a.fin with
  | .stage _ _ =>
    let clu := slotClu n
    let b := u.place.bank
    let mine (m : Nat) : Bool := slotClu m = clu && requester (slotCore m) = requester (slotCore n)
    SMap.has a.got b
      && !((s.clu clu).commits.any fun c => mine c.slot && SMap.has c.lines b)
      && !((List.range 160).any fun i =>
        let m := clu * 160 + i
        mine m && (s.slot m).acc.any fun c => (match c.fin with
          | .stage _ mask => (m ≠ n || c.id ≠ a.id) && mask.testBit b && !(c.units.any fun v => v.place.bank = b)
          | _ => false))
  | _ => true

/-- Whether a unit may be served for its slot at this moment, turns apart: its place in the access, the same line in program order
(R81, R204), the lines an earlier `TLD` of the core has still to read (R120, R141), a held release (R208), a held job
(R192), a missing turn (R88), and for a `BST` its staging register (R96). -/
def State.unitFree (s : State) (n : Nat) (a : Access) (u : MemUnit) : Bool :=
  let x := s.slot n
  let core := slotCore n
  a.inTurn u && decide (u.due ≤ s.cyc) && s.canStage n a u
    && !x.precedes a.id u.place
    && (!a.rel || u.ord.getD 1 ≠ 1
      || !((x.acc.any fun b => decide (b.id < a.id) && b.inScope core a.scope)
        || x.owed.any fun o => decide (o.id < a.id) && Machine.inScope core a.scope o.place))
    && (!a.isStore || (List.range 8).all fun i =>
          !((s.slot (core * 8 + i)).acc.any fun b => (match b.fin with | .tload _ _ _ _ _ _ => true | _ => false)
            && (decide (b.issued < a.issued)) && b.units.any fun v => v.place = u.place))
    && (match a.job with
        | some j => !((s.clu (coreClu core)).jobs.any fun y => y.id = j && y.held)
        | none => true)

/-- The first unit of a slot's access that one kind of service can serve now: kind 0 a local engine transfer, 1 a
cluster-store turn, 2 a common-store turn (R78, R80). -/
def State.servable (s : State) (n : Nat) (a : Access) (kind : Nat) : Option MemUnit :=
  let core := slotCore n
  a.units.find? fun u =>
    u.place.kind = kind + 1 && s.unitFree n a u
      && (kind = 0 || s.turnAt (coreClu core) (if a.svc then 17 else requester core) u.place s.cyc)

/-- The access of a core that a kind of service serves in this cycle: the one issued first (R81); a `WAITW` that reads
again only when no other access of the core wants the turn, and at the local store by a step of its own (R100). -/
def State.pickAccess (s : State) (core kind : Nat) : Option (Nat × Nat) :=
  let cands := (List.range 8).flatMap fun i =>
    let n := core * 8 + i
    (s.slot n).acc.filterMap fun a =>
      if a.issued < s.cyc + 1 ∧ !a.svc ∧ (s.servable n a kind).isSome then
        some (n, a.id, a.issued + (if a.again then 2 ^ 70 else 0)) else none
  match cands with
  | [] => none
  | c :: cs =>
    let best := cs.foldl (fun b x => if x.2.2 < b.2.2 then x else b) c
    some (best.1, best.2.1)

end Sys2Proof.Machine
end

