-- ==== Sys2Proof/Machine/Depart.lean ====
section
/-! DEFINITION. Destination words and reservations (R164, R168), continuation records (R222, R223), ready queues (R230,
R234), departure (R204, R179, R154), leaving a slot, and migration (R246). -/

namespace Sys2Proof.Machine

/-! ## Destination words and reservations -/

/-- Checks a destination word (R168): reserved bits, then the partition. -/
def destCheck (w : Word) (port : Bool) : M Unit := do
  raiseIf (w.extractLsb' 0 36 ≠ 0 || (destMc w && 3 < destCore w) || (!port && destPort w ≠ 0)) 0x02 5 0 0
  let e ← myEff
  raiseIf (e.logical (destDev w) (destClu w)).isNone 0x06 4 w 0

/-- Waits for a response slot of the core (R164). -/
def reserveResp : M Unit := do
  let c ← myCore
  waitIf (c.resp = 0) 3
  modCore fun c => { c with resp := c.resp - 1 }

/-- Waits for `n` acknowledgement credits of the core (R164). -/
def reserveCredits (n : Nat) : M Unit := do
  let c ← myCore
  waitIf (decide (c.credits < n)) 3
  modCore fun c => { c with credits := c.credits - n }

/-- Notes an answer owed to the current thread (R178): answers its number. -/
def addOwed (o : Owed) : M Nat := do
  let x ← me
  modMe fun x => { x with owed := x.owed ++ [{ o with id := x.accNext, pc := x.pc, ws := x.wp }], accNext := x.accNext + 1 }
  return x.accNext

/-- Sends a packet of the current slot. -/
def sendPacket (p : Packet) : M Unit := modify fun s => s.send p

/-! ## Records -/

/-- FLAGS of a record (R223). -/
def Rec.ctx (r : Rec) : Bool := r.flags.getLsbD 4
/-- CTX implies BOUND. -/
def Rec.bound (r : Rec) : Bool := r.flags.getLsbD 7 || r.ctx
def Rec.mc (r : Rec) : Bool := r.flags.getLsbD 6
def Rec.hdl (r : Rec) : Bool := r.flags.getLsbD 5
/-- The core a record is bound to, as a core number of its cluster. -/
def Rec.core (r : Rec) : Nat := (r.flags.extractLsb' 0 4).toNat + (if r.mc then 16 else 0)

/-- FLAGS that bind a record to a core of its cluster, 16 to 19 for a memory core. -/
def bindFlags (core : Nat) (hdl ctx : Bool) : BitVec 8 :=
  BitVec.ofNat 8 (128 + (if 16 ≤ core then 64 else 0) + (if hdl then 32 else 0) + (if ctx then 16 else 0) + core % 16)

/-- Bytes 0 to 255 of a record (R222). -/
def Rec.bytes (r : Rec) : List Byte :=
  r.w.toList.flatMap (fun v => leBytes 8 v.toNat) ++ leBytes 8 r.pc.toNat ++ leBytes 4 r.pw.toNat
    ++ leBytes 1 r.cls ++ leBytes 1 r.depth ++ leBytes 1 r.prio ++ leBytes 1 r.flags.toNat ++ leBytes 4 r.region.toNat
    ++ leBytes 4 r.reason ++ leBytes 8 r.link.toNat ++ leBytes 8 r.home.toNat ++ leBytes 8 r.resid ++ leBytes 16 0

/-- The record that bytes hold (R222). -/
def Rec.ofBytes (b : List Byte) : Rec :=
  let f (o n : Nat) : Nat := leNat ((b.drop o).take n)
  { w := Vector.ofFn fun i => BitVec.ofNat 64 (f (8 * i.val) 8)
    pc := BitVec.ofNat 64 (f 192 8), pw := BitVec.ofNat 32 (f 200 4), cls := f 204 1, depth := f 205 1, prio := f 206 1
    flags := BitVec.ofNat 8 (f 207 1), region := BitVec.ofNat 28 (f 208 4), reason := f 212 4
    link := BitVec.ofNat 64 (f 216 8), home := BitVec.ofNat 64 (f 224 8), resid := f 232 8 % 2 ^ 32 }

/-- The limits of R222 and R223 on a record, with the reserved bits of its region and RESID words (R231). -/
def recOk (b : List Byte) : Bool :=
  let r := Rec.ofBytes b
  r.cls ≤ 4 && r.depth ≤ 7 && r.prio ≤ 3 && r.pc.extractLsb' 0 2 = 0
    && !(r.mc && (3 < (r.flags.extractLsb' 0 4).toNat || r.cls = 2 || r.cls = 4))

/-- The words `w0` to `w31` of a thread: its register cache, or its workspace where the cache is absent (R48). -/
def State.word (s : State) (n i : Nat) : Word :=
  let x := s.slot n
  if x.absent then BitVec.ofNat 64 (s.readMem (localPlace (slotCore n) (x.wp.toNat + 8 * i)).key 8)
  else x.w[i]?.getD 0

/-- The record of a thread that leaves its slot, to resume at an address. -/
def State.recordOf (s : State) (n : Nat) (pc : Word) : Rec :=
  let x := s.slot n
  { w := Vector.ofFn fun i => s.word n i.val
    pc := pc, pw := x.pw ||| 0x80000000#32, cls := x.cls, depth := x.depth, prio := x.prio, region := x.region
    link := x.link }

/-! ## Queues -/

/-- The RCB of a region ID (log entry 4), as a memory address; 0 where firmware's directory does not name it. -/
def State.rcbOf (s : State) (id : BitVec 28) : Nat := SMap.get 0 s.dir id.toNat

/-- The bind record that covers a region on a cluster (R234): the valid one naming the nearest ancestor. -/
def State.bindFor (s : State) (clu : Nat) (e : Eff) : Option Word :=
  e.chain.findSome? fun id => (s.clu clu).binds.toList.find? fun w => w.getLsbD 16 && w.extractLsb' 36 28 = id

/-- Whether a bind record admits the current slice (R234). -/
def State.bound (s : State) (w : Word) : Bool := w.getLsbD (28 + s.slice)

/-- The queue that an entry joins (R230). -/
def State.queueNo (s : State) (clu : Nat) (r : Rec) : Nat :=
  match s.eff? (s.rcbOf r.region) with
  | none => r.prio
  | some e =>
    let floor := match s.bindFor clu e with
      | some w => if s.bound w then (w.extractLsb' 26 2).toNat else 0
      | none => 0
    max r.prio (max e.prio floor) % 4

/-- The entry that a queue has for a depth (R230): a general one, the reserved one, or none. -/
def queueRoom (q : List QEntry) (depth : Nat) : Option Bool :=
  if (q.filter (·.general)).length < 57 then some true
  else if 1 ≤ depth && !(q.any fun e => !e.general && decide (e.val.depth = depth)) then some false
  else none

/-- Puts an entry at the tail of a queue of a cluster, where the queue has room for it (R230). -/
def State.enqueueAt (s : State) (clu q : Nat) (e : QEntry) : Option State :=
  match queueRoom ((s.clu clu).queues[q]?.getD []) e.val.depth with
  | none => none
  | some g => some (s.modClu clu fun c =>
      { c with queues := vmod c.queues q fun l => l ++ [{ e with general := g, since := s.cyc }] })

/-- Enters a record in the queue that R230 gives it. -/
def State.enqueue (s : State) (clu : Nat) (e : QEntry) : Option State :=
  s.enqueueAt clu (s.queueNo clu e.val) e

/-! ## Leaving a slot -/

/-- Departure (R204, R179, R154): every access of the thread performed and its word sent, every answer delivered, and for class M the
matrix unit empty, as at `TWAIT`. -/
def State.departed (s : State) (n : Nat) : Bool :=
  let x := s.slot n
  x.acc.isEmpty && x.owed.isEmpty && (x.ports.all fun p => p.pend.isEmpty)
    && (x.cls ≠ 2 || ((s.core (slotCore n)).munit.isEmpty
      && (List.range 8).all fun t => x.ready s.cyc (.tile (BitVec.ofNat 3 t))))

def departGate : M Unit := do
  let s ← get
  waitIf (!s.departed s.cur) 3

/-- Whether a thread holds an open route, one being opened included (R175). -/
def Slot.holdsRoute (x : Slot) : Bool := x.ports.any fun p => p.isOpen || p.opening

/-- Whether the continuation in a slot holds the isochrone array of its cluster (R260). -/
def State.holdsArray (s : State) (n : Nat) : Bool :=
  match (s.clu (slotClu n)).iso.holder with
  | some h => h.2 = (s.slot n).cont
  | none => false

/-- `ISREL` on behalf of a slot (R261): the array is unchanged, and no thread holds it. -/
def State.releaseArray (s : State) (n : Nat) : State :=
  if s.holdsArray n then
    s.modClu (slotClu n) fun c => { c with iso := { c.iso with holder := none, away := false } }
  else s

/-- Frees the frames that a continuation holds on its core, and the frame of the escalated record that a handler
received (R285, R346). -/
def State.freeFrames (s : State) (n : Nat) : State :=
  let x := s.slot n
  let held (f : Frame) : Bool :=
    (f.escal = 0 && f.region = x.frameRegion
      && ((f.kind = 0 && x.frame = some f.num) || (f.kind = 1 && x.vframe = some f.num)
        || (f.kind = 2 && x.mframe = some f.num)))
    || (x.escRec ≠ 0 && f.escal = x.escRec)
  s.modCore (slotCore n) fun c => { c with frames := c.frames.filter fun f => !held f }

/-- A slot that holds no thread: the registers held per slot keep their values (R71, R275, R301, R317), and the rest is
as at reset. -/
def Slot.bare (x : Slot) : Slot :=
  { cont := x.cont, callSeq := x.callSeq, capIn := x.capIn, capTgt := x.capTgt, capAt := x.capAt, debsel := x.debsel
    dbgAddr := x.dbgAddr, chgWidx := x.chgWidx, telIdx := x.telIdx
    trap := { x.trap with tmode := false, priv := false, wskip := false, ovf := false } }

/-- Frees a slot (R237, R69, R169): its frames and array are released, ports and `pv` cleared, and armed `w` registers
disarmed. -/
def State.freeSlot (s : State) (n : Nat) : State :=
  ((s.releaseArray n).freeFrames n).setSlot n (s.slot n).bare

/-! ## Migration -/

/-- Starts a migration of the current thread to a cluster, to memory core `mc` there or to any core (R246): the checks,
the departure, then the packet, with `home` as HOME. The thread issues nothing until an answer arrives. -/
def migrate {α : Type} (clu : Nat) (mc : Option Nat) (home : Word) : M α := do
  let s ← get
  let x := s.me
  raiseIf x.trap.tmode 0x02 5 0 0
  raiseIf (x.holdsRoute || s.holdsArray s.cur || !x.armed.isEmpty
    || (s.core (slotCore s.cur)).armedS.any (fun p => slotIdx s.cur = (p.2.extractLsb' 37 3).toNat)
    || (mc.isSome && (x.cls = 2 || x.cls = 4))) 0x15 0 home 0
  departGate
  reserveCredits 1
  let id ← addOwed { id := 0, what := 8, va := home }
  modify fun s => s.modSlot s.cur fun x => { x with moving := true }
  let s ← get
  let r := { s.recordOf s.cur x.pc with
    reason := 6, home := home, resid := x.timer
    flags := match mc with
      | some m => bindFlags (16 + m) x.hdl false
      | none => if x.hdl then 0x20 else 0 }
  sendPacket { s.packetOf s.cur 13 with ddev := s.device, dst := clu, dep := (mc.map (16 + ·)).getD 30, val' := r, owed := id }
  quit

/-- Whether a page homes a thread's access elsewhere on a `MIG` page (R246): the cluster, and the memory core. A thread of a memory
core goes only to the memory core of another channel (R199). -/
def migTarget (s : State) (t : Target) : Option (Nat × Option Nat) :=
  let mem := isMemCore (slotCore s.cur)
  if !t.mig || t.place.dev ≠ 0 then none
  else if t.place.kind = 4 then
    if mem && t.place.unit = coreChan (slotCore s.cur) then none else some (chanClu t.place.unit, some (t.place.unit % 4))
  else if t.place.kind = 2 && t.place.unit ≠ slotClu s.cur && !mem then some (t.place.unit, none)
  else none

end Sys2Proof.Machine
end

