-- ==== Sys2Proof/Machine/Control.lean ====
section
/-! DEFINITION. Control flow, realignment, semaphores, workspaces and calls: majors 0x00, 0x0E, 0x0F and 0x10 (R48, R60
to R73). -/

namespace Sys2Proof.Machine

/-! ## Shared operations -/

/-- The target of form J (R29). -/
def branchTarget (pc : Word) (o : BitVec 18) : Word := pc + o.signExtend 64 * 4

/-- A register jump (R61): a misaligned target traps and changes nothing. -/
def jumpReg (i : Instr) (a : Spec) (f : Form) (link : Option Spec) : M Unit := do
  let t ← src f a
  raiseIf (t.extractLsb' 0 2 ≠ 0) 0x04 0 t 0
  match link with
  | some d => do
    let n ← nextPc f
    dst f d n 3
  | none => pure ()
  jump i t

/-- The specifier of semaphore count `n` is `n` itself (R66): reads a count of the current core. -/
def semCount (n : BitVec 4) : M Nat := do return (((← myCore).sems[n.toNat]?).getD 0).toNat

def setSem (n : BitVec 4) (v : Nat) : M Unit := modCore fun c => { c with sems := c.sems.set! n.toNat (BitVec.ofNat 16 v) }

/-- The reply token of a slot (R71), for a sequence number and a reply register. -/
def State.token (s : State) (n : Nat) (seq : BitVec 16) (d : Spec) : Word :=
  let c := slotCore n
  BitVec.ofNat 64 (seq.toNat * 2 ^ 48 + d.toNat * 2 ^ 42 + (if isMemCore c then 2 ^ 40 else 0) + slotIdx n * 2 ^ 37
    + (coreIdx c % 16) * 2 ^ 33 + cluIdx (coreClu c) * 2 ^ 28 + cluDie (coreClu c) * 2 ^ 25 + s.device % 512 * 2 ^ 16)

/-- The device, cluster and core that a token names (R71, R72). -/
def tokenDev (t : Word) : Nat := (t.extractLsb' 16 9).toNat
def tokenClu (t : Word) : Nat := (t.extractLsb' 25 3).toNat * 32 + (t.extractLsb' 28 5).toNat
def tokenEp (t : Word) : Nat := (t.extractLsb' 33 4).toNat % (if t.getLsbD 40 then 4 else 16) + (if t.getLsbD 40 then 16 else 0)
def tokenReg (t : Word) : Spec := t.extractLsb' 42 6

/-- Whether a call's token is still armed on the current core (R73). -/
def State.tokenArmed (s : State) (t : Word) : Bool :=
  (s.me.armed.any fun a => a.1 = t) || (s.core (slotCore s.cur)).armedS.any fun p => p.2 = t

/-! ## Meanings -/

/-- `NOP` (R64). -/
def execNop (f : Form) (s : State) : Host.Outcome State Fault Refusal := issue (.nop f) (pure ()) s

/-- `YIELD` (R64): for 8 cycles its slot is passed over whenever another slot of the core is ready. -/
def execYield (f : Form) (s : State) : Host.Outcome State Fault Refusal :=
  issue (.yield f) (do
    let c := (← get).cyc
    modMe fun x => { x with yieldUntil := c + 8 }) s

/-- `REALIGN` (R65). -/
def execRealign (f : Form) (s : State) : Host.Outcome State Fault Refusal :=
  issue (.realign f) (do
    let c := (← get).cyc
    modMe fun x => { x with notBefore := (c / 64 + 1) * 64 }) s

/-- `BR` (R60). -/
def execBr (g : BitVec 1) (p : BitVec 5) (o : BitVec 18) (s : State) : Host.Outcome State Fault Refusal :=
  issue (.br g p o) (do jump (.br g p o) (branchTarget (← me).pc o)) s

/-- `CALL` (R60): the link goes to `w23`. -/
def execCall (g : BitVec 1) (p : BitVec 5) (o : BitVec 18) (s : State) : Host.Outcome State Fault Refusal :=
  issue (.call g p o) (do
    let pc := (← me).pc
    dst .base 23 (pc + 4) 3
    jump (.call g p o) (branchTarget pc o)) s

/-- `JMPR` (R61). -/
def execJmpr (a : Spec) (f : Form) (s : State) : Host.Outcome State Fault Refusal :=
  issue (.jmpr a f) (jumpReg (.jmpr a f) a f none) s

/-- `CALLG` (R61). -/
def execCallg (d a : Spec) (f : Form) (s : State) : Host.Outcome State Fault Refusal :=
  issue (.callg d a f) (jumpReg (.callg d a f) a f (some d)) s

/-- `RET` (R61). -/
def execRet (a : Spec) (f : Form) (s : State) : Host.Outcome State Fault Refusal :=
  issue (.ret a f) (jumpReg (.ret a f) a f none) s

/-- `CALLRM` (R70, R73): the checks, the call packet with its token, then the wait for the deposit. -/
def execCallrm (d a b : Spec) (f : Form) (s : State) : Host.Outcome State Fault Refusal :=
  issue (.callrm d a b f) (do
    let s ← get
    let x ← me
    match x.calls.find? fun c => c.1 = x.pc with
    | some (_, t, lost, _) =>
      if lost ≠ 0 then
        modMe fun x => { x with calls := x.calls.filter fun c => c.2.1 ≠ t }
        throw (Halt.trapWith { cause := 0x0E, p := lost = 2, pc := x.pc } (← get))
      else if s.tokenArmed t then wait 2
      else
        modMe fun x => { x with calls := x.calls.filter fun c => c.2.1 ≠ t }
        completed f
    | none => pure ()
    let t ← src f a
    let w ← src f b
    raiseIf (7 ≤ x.depth) 0x02 5 0 0
    raiseIf (t.extractLsb' 0 2 ≠ 0) 0x04 0 t 0
    destCheck w false
    raiseIf (isArmed s d) 0x0C d.toNat 0 0
    reserveCredits 1
    takeOps (.callrm d a b f)
    let tok := s.token s.cur x.callSeq d
    let id ← addOwed { id := 0, what := 6, va := tok }
    modMe fun x =>
      { x with callSeq := x.callSeq + 1
               calls := x.calls ++ [(x.pc, tok, 0, x.pc + BitVec.ofNat 64 f.size)]
               armed := if d.toNat < 32 then x.armed ++ [(tok, x.wp)] else x.armed }
    if 52 ≤ d.toNat then modCore fun c => { c with armedS := c.armedS ++ [(d.toNat - 52, tok)] }
    let s ← get
    sendPacket { s.packetOf s.cur 10 with
      ddev := destDev w, dst := destClu w, dep := destEp w, val := t.toNat, owed := id
      ws := [tok, BitVec.ofNat 64 x.prio, BitVec.ofNat 64 x.depth] ++ (List.range 8).map fun i => s.word s.cur i }
    wait 2) s

/-- `REPLY` (R72): a deposit packet to the caller that the token names. -/
def execReply (a b : Spec) (f : Form) (s : State) : Host.Outcome State Fault Refusal :=
  issue (.reply a b f) (do
    let t ← src f a
    let v ← src f b
    let s ← get
    sendPacket { s.packetOf s.cur 11 with
      ddev := tokenDev t, dst := tokenClu t, dep := tokenEp t, ws := [t, v] }) s

/-- `WPSET` (R48): write-back, the new workspace, and its words absent until they are refilled. -/
def execWpset (a : Spec) (f : Form) (s : State) : Host.Outcome State Fault Refusal :=
  issue (.wpset a f) (do
    let n ← src f a
    raiseIf (n.extractLsb' 0 8 ≠ 0) 0x04 0 n 0
    raiseIf (decide (0x40000 < n.toNat + 256)) 0x06 3 n 0
    raiseIf (decide ((← localBound) < n.toNat + 256)) 0x06 3 n 0
    let s ← get
    waitIf ((List.range 32).any fun i => !s.me.ready s.cyc (.spec (BitVec.ofNat 6 i))) 1
    set ((s.writeBack s.cur).modSlot s.cur fun x =>
      { x.later (.spec 51) (s.cyc + 4) with wp := n, absent := true, dirty := 0 })) s

/-- `SEMWAIT` (R66). -/
def execSemwait (n : BitVec 4) (f : Form) (s : State) : Host.Outcome State Fault Refusal :=
  issue (.semwait n f) (do
    let c ← semCount n
    waitIf (c = 0) 2
    setSem n (c - 1)) s

/-- `SEMPOST` (R66, R67, R155): after the thread's earlier writes to `s0` to `s3` and its local-store stores. -/
def execSempost (n : BitVec 4) (f : Form) (s : State) : Host.Outcome State Fault Refusal :=
  issue (.sempost n f) (do
    let s ← get
    let core := slotCore s.cur
    waitIf (((s.core core).spend.any fun p => p.slot = s.cur && decide (s.cyc < p.at'))
      || ([52, 53, 54, 55].any fun q => !s.me.ready s.cyc (.spec q))) 1
    waitIf (!s.me.localStoresDone core) 3
    modCore fun c => c.post n.toNat) s

end Sys2Proof.Machine
end

