-- ==== Sys2Proof/Machine/Memory.lean ====
section
/-! DEFINITION. Scalar loads and stores, bank atomics, stripe blocks, waiting on a word, sealing and turns: majors 0x11 to
0x18 (R77, R83, R90 to R104). -/

namespace Sys2Proof.Machine

/-! ## Addresses -/

/-- The size in bytes of a form-I access (R90). -/
def widthI (w : BitVec 2) : Form → Nat
  | .base => 2 ^ w.toNat
  | f => 2 ^ (f.imm.extractLsb' 30 2).toNat

/-- The offset of a form-I access in units of its size (R90). -/
def offsetI (o : BitVec 10) : Form → Word
  | .base => o.signExtend 64
  | f => (f.imm.extractLsb' 0 30).signExtend 64

/-- The displacement of a form-T access (R32). -/
def disp (f : Form) : Word := f.imm.signExtend 64

/-- An address base: a register, or a buffer slot with the bytes that its buffer covers (R195). -/
def baseOf (f : Form) (a : Spec) (tail : Bool) : M (Word × Option (Nat × Nat)) := do
  if isHandle a then
    let b ← bufferAddr f a tail
    let h := handleOf (← get) a
    return (BitVec.ofNat 64 b, some (h.base, h.base + h.ssize * h.scount))
  else return (← src f a, none)

/-- Whether `n` bytes lie outside the buffer of a handle base (R195). -/
def outside (b : Option (Nat × Nat)) (ea : Word) (n : Nat) : Bool :=
  b.any fun h => !decide (h.1 ≤ ea.toNat ∧ ea.toNat + n ≤ h.2)

/-- An access through a handle lies within its buffer (R195). -/
def inBuffer (b : Option (Nat × Nat)) (ea : Word) (n : Nat) : M Unit := raiseIf (outside b ea n) 0x06 3 ea 0

/-- Runs a check and turns a trap of it into another end. -/
def onTrap {α : Type} (m : M α) (h : TrapRec → M α) : M α := fun s =>
  match m s with
  | .error (.trap t) => h t s
  | r => r

/-- Resolves an address of an access of `n` bytes, with the bounds of its buffer in the place of R280: after 0x05 and before
0x07. -/
def resolveWithin (k : Acc) (buf : Option (Nat × Nat)) (ea : Word) (n : Nat) : M Target := do
  let t ← onTrap (resolve k ea) fun t => do
    if t.cause = 0x07 then inBuffer buf ea n
    trapRec t
  inBuffer buf ea n
  return t

/-- The places that a read of an element uses (R93): its bytes, and for a cb4 element its block scale and super-scale. -/
def Target.places (t : Target) : List Place := if t.view = 0 then [t.place] else [t.place, t.scalePlace, t.superPlace]

/-- Every bank that a place's reads need is present (R89). -/
def checkBanks (ps : List Place) (ea : Word) : M Unit :=
  match ps with
  | [] => pure ()
  | p :: ps => do
    checkBank p ea
    checkBanks ps ea

/-- The checks of the path of a scalar access (R13, R89, R93): the places must be ones that the core reaches, and their banks
present. A page that migrates the thread passes. -/
def checkPath (t : Target) (ea : Word) : M Unit := do
  let s ← get
  let mig := (migTarget s t).isSome
  let v := servedBy s t.place
  raiseIf (!mig && (v = 5 || v = 6)) 0x15 0 ea 0
  if v = 1 || v = 2 then checkBanks t.places ea

/-- Migrates the thread where the page asks for it and the cluster lies in the partition (R93, R246). -/
def checkMig (t : Target) (ea : Word) : M Unit := do
  let s ← get
  match migTarget s t with
  | none => pure ()
  | some (c, mc) =>
    let e ← myEff
    if mc.isSome || (e.logical s.device c).isSome then migrate c mc ea

/-- What a load asks of its destination at issue (R23, R69, R73): the checks that raise a cause. -/
def loadDstCheck (d : Spec) : M Unit := do
  if isPort d then portCheck (d.toNat % 8) else raiseIf (isArmed (← get) d) 0x0C d.toNat 0 0

/-- A load into `nx` has issued: the receiving `pv` is claimed for the value of the latest access or answer (R69). -/
def claimNext (d : Spec) : M Unit := do
  if d = 49 then
    modify fun s =>
      let n := nextSlot s.cur
      if (s.slot n).live then s.modSlot n fun y => { y with pvClaim := some (s.me.accNext - 1) } else s

/-- The packet of a remote plain access (R83): a load 0, a store 1, an atomic 2. -/
def remotePlain (kind : Nat) (t : Target) (z op : Nat) (x c : Word) (o : Owed) : M Unit := do
  let s ← get
  remoteGate t.place false
  if kind = 1 then reserveCredits 1 else reserveResp
  let id ← addOwed { o with place := t.place, ord := t.ord }
  let e := t.place
  sendPacket { s.packetOf s.cur kind with
    ddev := if e.dev = 0 then s.device else e.dev - 1
    dst := if e.kind = 2 then e.unit else e.unit * 32 + e.group
    dep := 30, place := if t.view = 0 then e else t.frame, size := z, op := if kind = 0 then t.view else op
    val := x.toNat, cmp := if kind = 0 then t.elem else c.toNat, owed := id, port := o.va.toNat % 2 }

/-! ## Loads, stores and atomics -/

/-- A memory instruction that would make a fifth waiting access of its slot is not ready (R81). -/
def roomGate : M Unit := do waitIf (4 ≤ (← me).acc.length) 3

/-- The elements of a scalar load of `z` bytes (R93): the bytes themselves, or the BF16 elements of a cb4 view. -/
def Target.elements (t : Target) (z : Nat) : List Target :=
  if t.view = 0 then [t]
  else (List.range (max 1 (z / 2))).map fun i => { t with place := t.frame.add ((t.elem + i) / 2), elem := t.elem + i }

/-- A scalar load of `z` bytes at `ea` (R90, R92, R93): its causes, then the access. -/
def scalarLoad (f : Form) (d : Spec) (ea : Word) (z : Nat) (sx : Bool) (buf : Option (Nat × Nat)) : M Unit := do
  raiseIf (ea.toNat % z ≠ 0) 0x04 0 ea 0
  let t ← resolveWithin .load buf ea z
  checkPath t ea
  loadDstCheck d
  orderGate t.place t.ord z
  let q := qualOf f.qual t.ord
  let acq := q = 1 || q = 3
  if t.place.kind = 1 then
    dstGate f d
    needPort
    localPoison t.place z ea
    checkWatch 1 ea z
    dst f d (loadValue [(0, (← get).readMem t.place.key z)] z sx 0) 3
  else if servedBy (← get) t.place = 4 then
    loadReady d
    checkWatch 1 ea z
    checkMig t ea
    remotePlain 0 t z 0 0 0 { id := 0, what := 11, d := d, size := z, sx := sx, e := f.endMark, va := ea, acq := acq
                              scope := f.scope }
    claimNext d
  else
    loadReady d
    roomGate
    checkWatch 1 ea z
    checkMig t ea
    let es := (t.elements z).zipIdx
    addAccess { id := 0, fin := .reg d z sx f.endMark (if t.view = 0 then 0 else 1 + ea.toNat % 2)
                units := es.foldl (fun us e => readUnits us e.1 e.2 (if t.view = 0 then z else 1)) []
                got := es.foldl (fun g e => readMarks g e.1 e.2) []
                va := ea, ord := t.ord, acq := acq, scope := f.scope }
    claimNext d

/-- A scalar store of the low `z` bytes of D at `ea` (R90). -/
def scalarStore (f : Form) (d : Spec) (ea : Word) (z : Nat) (buf : Option (Nat × Nat)) : M Unit := do
  raiseIf (ea.toNat % z ≠ 0) 0x04 0 ea 0
  let t ← resolveWithin .store buf ea z
  checkPath t ea
  let v ← src f d
  orderGate t.place t.ord z true
  if t.place.kind = 1 then
    releaseGate f.qual f.scope t.ord
    tileGate t.place z
    needPort
    checkWatch 2 ea z
    modify fun s => s.store t.place v.toNat z
  else if servedBy (← get) t.place = 4 then
    checkWatch 2 ea z
    checkMig t ea
    releaseGate f.qual f.scope t.ord
    remotePlain 1 t z 0 v 0 { id := 0, what := 12, va := ea }
  else
    roomGate
    checkWatch 2 ea z
    checkMig t ea
    addAccess { id := 0, units := putUnit [] t.place 0 (.wr t.place.key z v.toNat), fin := .store, va := ea
                ord := t.ord, rel := 2 ≤ qualOf f.qual t.ord, scope := f.scope }

/-- A bank atomic of `z` bytes under operation `op`, with operand and compare value (R94). -/
def bankAtomic (f : Form) (d : Spec) (ea : Word) (z op : Nat) (x c : Word) : M Unit := do
  raiseIf (ea.toNat % z ≠ 0) 0x04 0 ea 0
  let t ← resolve .atomic ea
  checkPath t ea
  loadDstCheck d
  orderGate t.place t.ord z true
  let q := qualOf f.qual t.ord
  let acq := q = 1 || q = 3
  if t.place.kind = 1 then
    releaseGate f.qual f.scope t.ord
    tileGate t.place z
    dstGate f d
    needPort
    localPoison t.place z ea
    checkWatch 3 ea z
    let old := (← get).readMem t.place.key z
    modify fun s => s.store t.place (atomicOp op z old x.toNat c.toNat) z
    dst f d (BitVec.ofNat 64 old) 3
  else if servedBy (← get) t.place = 4 then
    loadReady d
    checkWatch 3 ea z
    checkMig t ea
    releaseGate f.qual f.scope t.ord
    remotePlain 2 t z op x c { id := 0, what := 13, d := d, size := z, e := f.endMark, va := ea, acq := acq, scope := f.scope }
    claimNext d
  else
    loadReady d
    roomGate
    checkWatch 3 ea z
    checkMig t ea
    addAccess { id := 0, units := putUnit [] t.place 0 (.rmw 0 t.place.key z op x.toNat c.toNat)
                fin := .reg d z false f.endMark 0, va := ea, ord := t.ord, acq := acq, rel := 2 ≤ q, scope := f.scope }
    claimNext d

/-- `LD` (R90). -/
def execLd (d a : Spec) (w : BitVec 2) (o : BitVec 10) (f : Form) (s : State) : Host.Outcome State Fault Refusal :=
  issue (.ld d a w o f) (do
    let (b, buf) ← baseOf f a false
    let z := widthI w f
    scalarLoad f d (b + offsetI o f * BitVec.ofNat 64 z) z false buf) s

/-- `LDS` (R90). -/
def execLds (d a : Spec) (w : BitVec 2) (o : BitVec 10) (f : Form) (s : State) : Host.Outcome State Fault Refusal :=
  issue (.lds d a w o f) (do
    let (b, buf) ← baseOf f a false
    let z := widthI w f
    scalarLoad f d (b + offsetI o f * BitVec.ofNat 64 z) z true buf) s

/-- `ST` (R90). -/
def execSt (d a : Spec) (w : BitVec 2) (o : BitVec 10) (f : Form) (s : State) : Host.Outcome State Fault Refusal :=
  issue (.st d a w o f) (do
    let (b, buf) ← baseOf f a true
    let z := widthI w f
    scalarStore f d (b + offsetI o f * BitVec.ofNat 64 z) z buf) s

/-- `LDX` (R91). -/
def execLdx (d a b : Spec) (h : BitVec 2) (x : BitVec 1) (w : BitVec 2) (f : Form) (s : State) :
    Host.Outcome State Fault Refusal :=
  issue (.ldx d a b h x w f) (do
    let (v, buf) ← baseOf f a false
    let i ← src f b
    scalarLoad f d (v + i <<< h.toNat) (2 ^ w.toNat) (x = 1) buf) s

/-- `STX` (R91). -/
def execStx (d a b : Spec) (h : BitVec 2) (w : BitVec 2) (f : Form) (s : State) : Host.Outcome State Fault Refusal :=
  issue (.stx d a b h w f) (do
    let (v, buf) ← baseOf f a true
    let i ← src f b
    scalarStore f d (v + i <<< h.toNat) (2 ^ w.toNat) buf) s

/-- `BAT` (R94). -/
def execBat (d a b : Spec) (z : BitVec 1) (o : BitVec 4) (f : Form) (s : State) : Host.Outcome State Fault Refusal :=
  issue (.bat d a b z o f) (do
    let v ← src f a
    let x ← srcB f b
    bankAtomic f d (v + disp f) (if z = 1 then 4 else 8) o.toNat x 0) s

/-- `BAT` with `CAS` (R94): C is the compare value. -/
def execBatCas (d a b : Spec) (z : BitVec 1) (f : Form) (s : State) : Host.Outcome State Fault Refusal :=
  issue (.batCas d a b z f) (do
    let v ← src f a
    let x ← srcB f b
    let c ← src f f.c
    bankAtomic f d (v + disp f) (if z = 1 then 4 else 8) 9 x c) s

/-! ## Stripe blocks -/

/-- The bank indices that a mask names. -/
def maskBanks (m : Nat) : List Nat := (List.range 16).filter fun b => m.testBit b

/-- Where a stripe address lies, if it lies in the own cluster store (R95): through the alias, the own cluster window or a paged
on-chip frame of it. -/
def stripePlace (stripe : Word) : M Unit := do
  let s ← get
  let n := stripe.toNat
  let own (p : Place) : Bool := p.kind = 2 && servedBy s p = 1
  if 2 ^ 32 ≤ n && n < 2 ^ 48 then
    let (pte, big) ← onTrap (translate (← myEff).troot n false) fun t =>
      if t.cause = 0x05 then raise 0x15 0 stripe 0 else trapRec t
    raiseIf (!(pageFrame pte big n).any own) 0x15 0 stripe 0
  else raiseIf (!((0x100000 ≤ n && n < 0x200000) || (windowPlace 0 n).any own)) 0x15 0 stripe 0

/-- The checks of a block instruction, in the order of R95, then the order of its two sides: answers the place of the stripe row,
its ordering kind and the local offset. A stripe on a cb4 view page has no raw lines (R93) and takes cause 0x07. The
local range ends with the line of the highest bank in the mask (log entry 23). -/
def blockChecks (k : Acc) (stripe loc : Word) (buf : Option (Nat × Nat)) (m : Nat) : M (Place × Nat × Nat) := do
  raiseIf (stripe.extractLsb' 0 11 ≠ 0) 0x04 0 stripe 0
  raiseIf (loc.extractLsb' 0 7 ≠ 0) 0x04 0 loc 0
  stripePlace stripe
  let last := (maskBanks m).getLast?.getD 0
  let bound ← localBound
  raiseIf (decide (bound < loc.toNat + 128 * last + 128)) 0x06 3 loc 0
  inBuffer buf loc (128 * last + 128)
  let t ← resolve k stripe
  raiseIf (t.view ≠ 0) 0x07 0 stripe 0
  checkBanks ((maskBanks m).map fun b => t.place.add (128 * b)) stripe
  let s ← get
  let here := localPlace (slotCore s.cur) loc.toNat
  orderGate t.place t.ord 2048 (k = .store)
  orderGate here s.windowOrd (128 * last + 128) (k ≠ .store)
  if k ≠ .store then tileGate here (128 * last + 128)
  for b in maskBanks m do
    let (p, va) := if k = .store then (here.add (128 * b), loc) else (t.place.add (128 * b), stripe)
    raiseIf (s.isPoisoned p 128) 0x08 0 (va + BitVec.ofNat 64 (128 * b)) 0
  for b in maskBanks m do
    checkWatch (if k = .store then 2 else 1) (stripe + BitVec.ofNat 64 (128 * b)) 128
    checkWatch (if k = .store then 1 else 2) (loc + BitVec.ofNat 64 (128 * b)) 128
  return (t.place, t.ord, loc.toNat)

/-- The banks of a mask in the order of a core's coming turns at them (R96). -/
def State.banksByTurn (s : State) (core : Nat) (row : Place) (m : Nat) : List Nat :=
  let clu := coreClu core
  let turn (b : Nat) : Nat :=
    (s.nextTurn clu (requester core) (row.add (128 * b)) (s.turnPeriod clu) (s.cyc + 1)).getD (2 ^ 70)
  let rec insert (b : Nat) : List Nat → List Nat
    | [] => [b]
    | c :: l => if turn b ≤ turn c then b :: c :: l else c :: insert b l
  (maskBanks m).foldr insert []

/-- `BST` (R95, R96): the masked local lines enter the block buffer, are staged at the core's turns and committed together. -/
def execBst (a b : Spec) (f : Form) (s : State) : Host.Outcome State Fault Refusal :=
  issue (.bst a b f) (do
    let x ← me
    if x.phase = 2 then return ()
    waitIf (x.phase = 1) 3
    let stripe ← src f a
    let (loc, buf) ← baseOf f b false
    let m := f.banks
    let (p, ord, l) ← blockChecks .store stripe loc buf m
    let s ← get
    addAccess { id := 0, issued := s.cyc + 1, units := (maskBanks m).map fun i => { place := p.add (128 * i) }
                fin := .stage p.key m, va := stripe, ord := ord }
    let lines := (s.banksByTurn (slotCore s.cur) p m).map fun i => (i, l + 128 * i, 0)
    modCore fun c => { c with blocks := c.blocks ++ [⟨s.cur, false, x.accNext, lines⟩] }
    modMe fun x => { x with phase := 1 }
    wait 3) s

/-- Starts a pass of a `BLD` (R98): every masked line is read at the core's turns from a cycle on, and from pass 5 on the row's
commits are held. Its numbers are those the slot keeps: pass, row, mask, local offset. -/
def State.startPass (s : State) (n start : Nat) : State :=
  let x := s.slot n
  let g (i : Nat) : Nat := (x.buf[i]?).getD 0
  let row := Place.ofKey (g 1)
  let line (b : Nat) : MemUnit :=
    { place := row.add (128 * b)
      acts := (List.range 16).map fun i => .rd (4 * (16 * b + i)) (row.add (128 * b + 8 * i)).key 8 }
  let a : Access := { id := x.accNext, issued := start, units := (maskBanks (g 2)).map line
                      fin := .bld (g 1) (g 2) (g 3) (g 0), pc := x.pc }
  let s := s.modSlot n fun x => { x with acc := x.acc ++ [a], accNext := x.accNext + 1 }
  s.modClu (slotClu n) fun c =>
    { c with passes := c.passes.map fun p => if p.slot = n then { p with holds := decide (5 ≤ g 0) } else p }

/-- `BLD` (R95, R98): passes over the stripe row until one sees a single commit version. -/
def execBld (a b : Spec) (f : Form) (s : State) : Host.Outcome State Fault Refusal :=
  issue (.bld a b f) (do
    let x ← me
    if x.phase = 32 then return ()
    waitIf (x.phase = 1) 3
    let stripe ← src f b
    let (loc, buf) ← baseOf f a true
    let m := f.banks
    let (p, _, l) ← blockChecks .load stripe loc buf m
    let s ← get
    waitIf (4 ≤ x.acc.length) 3
    modMe fun x => { x with phase := 1, buf := [1, p.key, m, l] }
    modClu fun c => { c with passes := c.passes ++ [{ slot := s.cur, row := p.key }] }
    modify fun s => s.startPass s.cur (s.cyc + 1)
    wait 3) s

/-! ## Waiting on a word -/

/-- Whether a word satisfies a condition of `WAITW` (R100): 0 differs, 1 unsigned at least, 2 equals. -/
def waitHolds (c : Nat) (w y : Word) : Bool :=
  match c with
  | 0 => w != y
  | 1 => decide (y.toNat ≤ w.toNat)
  | _ => w == y

/-- `WAITW` (R100): the first read, then the wait for one that satisfies the condition; D follows that read by three cycles.
Poison of the local store met by the read at issue is precise (log entry 64). -/
def execWaitw (d a b : Spec) (c : BitVec 6) (f : Form) (s : State) : Host.Outcome State Fault Refusal :=
  issue (.waitw d a b c f) (do
    let x ← me
    if x.phase = 2 then dst f d (BitVec.ofNat 64 (x.buf.headD 0)) ((x.buf[1]?).getD 0 + 3 - (← get).cyc)
    else
      waitIf (x.acc.any fun q => match q.fin with | .waitw _ _ _ _ _ => true | _ => false) 3
      let v ← src f a
      let y ← srcB f b
      let ea := v + disp f
      raiseIf (ea.toNat % 8 ≠ 0) 0x04 0 ea 0
      let t ← resolve .load ea
      let s ← get
      raiseIf (3 ≤ servedBy s t.place) 0x15 0 ea 0
      if t.place.kind ≠ 1 then checkBanks t.places ea
      loadDstCheck d
      orderGate t.place t.ord 8
      roomGate
      if t.place.kind = 1 then needPort
      if t.place.kind = 1 then localPoison t.place 8 ea
      checkWatch 1 ea 8
      let es := (t.elements 8).zipIdx
      let us := es.foldl (fun us e => readUnits us e.1 e.2 (if t.view = 0 then 8 else 1)) []
      let a : Access := { id := 0, units := us, fin := .waitw d c.toNat y us (if t.view = 0 then 0 else 1), va := ea
                          got := es.foldl (fun g e => readMarks g e.1 e.2) [], ord := t.ord, acq := true, scope := 4 }
      if t.place.kind = 1 then
        let w : Word := BitVec.ofNat 64 (s.readMem t.place.key 8)
        if waitHolds c.toNat w y then dst f d w 3
        else
          addAccess { a with got := [(0, w.toNat)], again := true }
          wait 3
      else
        addAccess a
        wait 3) s

/-! ## Sealing -/

/-- The leaf that maps a paged address under a root, with the place of its entry: or the level, kind and entry of a
translation fault (R289 to R291). -/
def leafOf (s : State) (va : Nat) : Nat → Word → Except (Nat × Nat × Word) (Place × Word × Bool)
  | l, e => match walkLevel s e l va with
    | .leaf p b => match tablePlace e l with
      | some q => .ok (q.add (8 * levelIndex l va), p, b)
      | none => .error (l, 1, e)
    | .bad k x => .error (l, k, x)
    | .table x => match l with
      | 0 => .error (0, 1, x)
      | l + 1 => leafOf s va l x

/-- The leaf of one page of a range, with the traps of R101. -/
def sealLeaf (troot : Word) (va : Nat) : M (Place × Word × Bool) := do
  let s ← get
  match (if troot.getLsbD 0 then leafOf s va 3 troot else .error (3, 0, troot)) with
  | .ok r => return r
  | .error (l, k, x) => raise 0x05 (l + 4 * k) (BitVec.ofNat 64 va) x

/-- Does something at each of `n` 64 KiB pages from `va` on. -/
def forPages (n va : Nat) (k : Nat → M Unit) : M Unit :=
  match n with
  | 0 => pure ()
  | n + 1 => do
    k va
    forPages n (va + 65536) k

/-- Drops the TLB entries of a root and a range of pages from every core and cluster TLB (R101). -/
def State.dropTlb (s : State) (hit : TlbEntry → Bool) : State :=
  { s with cores := s.cores.map fun p => (p.1, { p.2 with tlb := p.2.tlb.filter fun e => !hit e })
           clus := s.clus.map fun p => (p.1, { p.2 with tlb := p.2.tlb.filter fun e => !hit e }) }

/-- Drops every copy of the code in a range of addresses under a root, whose 64 KiB frames are given, from instruction caches
and fetch buffers, with the requests and refills that are on their way (R27, R102). -/
def State.dropCode (s : State) (root lo n : Nat) (frames : List Nat) : State :=
  let within (k : Nat) : Bool := frames.any fun f => decide (f ≤ k ∧ k < f + 65536)
  let mine (x : Slot) : Bool := (s.eff? x.rcb).any fun e => rootKey e.troot = root
  { s with
      clus := s.clus.map fun p =>
        (p.1, { p.2 with
          icache := p.2.icache.filter fun c => !within c.1
          misses := p.2.misses.filter fun k => !within k
          reads := p.2.reads.filter fun r => !(r.code && within r.key) })
      slots := s.slots.map fun p =>
        (p.1, if p.2.live && mine p.2 then
            { p.2 with
                fbuf := p.2.fbuf.filter fun b => !(decide (lo ≤ b.1.toNat ∧ b.1.toNat < lo + n))
                freq := if p.2.freq.any fun r => within r.2.2 then none else p.2.freq }
          else { p.2 with freq := if p.2.freq.any fun r => within r.2.2 then none else p.2.freq }) }

/-- Whether a range of pages has a part of a 32 MiB page alone (R101): at one of its ends, where it is not empty. -/
def State.splitsBig (s : State) (troot : Word) (lo n : Nat) : Bool :=
  let big (p : Nat) : Bool :=
    2 ^ 32 ≤ p && p < 2 ^ 48 && troot.getLsbD 0 && match leafOf s p 3 troot with
      | .ok (_, _, b) => b
      | .error _ => false
  n ≠ 0 && ((lo % 2 ^ 25 ≠ 0 && big lo) || ((lo + n) % 2 ^ 25 ≠ 0 && big (lo + n - 65536)))

/-- The checks and the effect of `SEAL` and `UNSEAL` (R101, R102). -/
def sealRange (a b : Spec) (f : Form) (on : Bool) : M Unit := do
  let va ← src f a
  let n ← src f b
  raiseIf (va.toNat % 65536 ≠ 0 || n.toNat % 65536 ≠ 0) 0x04 0 va 0
  let e ← myEff
  let lo := va.toNat
  let pages := n.toNat / 65536
  raiseIf ((← get).splitsBig e.troot lo n.toNat) 0x04 0 va 0
  raiseIf (decide (2 ^ 48 < lo + n.toNat ∨ (n ≠ 0 ∧ lo < 2 ^ 32))) 0x06 3 va 0
  if n = 0 then return ()
  forPages pages lo fun p => do
    let _ ← sealLeaf e.troot p
  forPages pages lo fun p => do
    let (_, pte, _) ← sealLeaf e.troot p
    if (pte.extractLsb' 16 12).toNat ≠ e.tenant then deny 1 (BitVec.ofNat 64 p)
    if !pte.getLsbD 3 then deny 0 (BitVec.ofNat 64 p)
  waitIf (!(← me).storesDone) 3
  forPages pages lo fun p => do
    let (q, pte, _) ← sealLeaf e.troot p
    modify fun s => s.store q (if on then pte ||| 0x8000#64 else pte &&& ~~~0x8000#64).toNat 8
  let root := rootKey e.troot
  modify fun s => s.dropTlb fun t =>
    t.root = root && decide (lo / 65536 ≤ t.page ∧ t.page < lo / 65536 + pages)
  if !on then
    let s ← get
    let frames := (List.range pages).filterMap fun i =>
      match leafOf s (lo + 65536 * i) 3 e.troot with
      | .ok (_, pte, big) => (pageFrame pte big (lo + 65536 * i)).map Place.key
      | .error _ => none
    modify fun s => s.dropCode root lo n.toNat frames

/-- `SEAL` (R101). -/
def execSeal (a b : Spec) (f : Form) (s : State) : Host.Outcome State Fault Refusal :=
  issue (.seal a b f) (sealRange a b f true) s

/-- `UNSEAL` (R102). -/
def execUnseal (a b : Spec) (f : Form) (s : State) : Host.Outcome State Fault Refusal :=
  issue (.unseal a b f) (sealRange a b f false) s

/-! ## Turns -/

/-- The first cycle from `start` on at which the core holds the turn that a place needs; `start` for the own local store;
none for any other place (R103). -/
def turnFrom (t : Target) (start : Nat) : M (Option Nat) := do
  let s ← get
  let core := slotCore s.cur
  match servedBy s t.place with
  | 0 => return some start
  | 1 | 2 =>
    let clu := coreClu core
    return s.nextTurn clu (requester core) t.place (s.turnPeriod clu) start
  | _ => return none

/-- `TURNQ` (R103). -/
def execTurnq (d a : Spec) (f : Form) (s : State) : Host.Outcome State Fault Refusal :=
  issue (.turnq d a f) (do
    let va ← src f a
    let t ← resolve .load va
    checkWatch 1 va 1
    let n := (← get).cyc
    let m ← turnFrom t n
    dst f d (match m with | some m => BitVec.ofNat 64 (m - n) | none => BitVec.allOnes 64) 3) s

/-- `WTURN` (R104): the next instruction becomes ready at the last issue opportunity before the turn. -/
def execWturn (a : Spec) (f : Form) (s : State) : Host.Outcome State Fault Refusal :=
  issue (.wturn a f) (do
    let va ← src f a
    let t ← resolve .load va
    checkWatch 1 va 1
    let s ← get
    let n := dividerOf (s.core (slotCore s.cur)).clkCur
    let m ← turnFrom t (s.cyc + n)
    match m with
    | some m =>
      if t.place.kind ≠ 1 then
        modMe fun x => { x with notBefore := n * (m / n), wturn := some (t.place, n * (m / n)) }
    | none => pure ()) s

end Sys2Proof.Machine
end

