-- ==== Sys2Proof/Machine/Order.lean ====
section
/-! DEFINITION. Fault-domain handlers (R284), fences and barriers: major 0x1C (R209, R213 to R217). -/

namespace Sys2Proof.Machine

/-! ## Fault-domain handlers -/

/-- The management core is told of an event: a code, the cluster, and what it concerns. -/
def State.tellMgmt (s : State) (code clu addr : Nat) (t : TrapRec) (core : Nat := 0) : State :=
  { s with mgmt := s.mgmt ++ [{ code := code, clu := clu, core := core, trap := t, addr := addr }] }

/-- An event of a core that no handler receives goes to the management core, with the core and the address of an escalated record, and
is counted (R284, R330). -/
def State.mgmtEvent (s : State) (code core addr : Nat) (t : TrapRec) : State :=
  (s.tellMgmt code (coreClu core) addr t (coreIdx core)).tel (coreClu core) 9

/-- Enters a fault-domain handler for an event of a region (R284): the record at FAULT, bound to the core where the event
arose, with the event's record in `w0` to `w3` and the address of the escalated record in `w4`. Up to 8 entries of a
cluster wait for queue room. `esc` is the local-store offset of an escalated record, 0 for none. -/
def State.faultHandler (s : State) (region : BitVec 28) (core esc : Nat) (t : TrapRec) : State :=
  let clu := coreClu core
  let toMgmt := s.mgmtEvent t.cause core esc t
  match s.eff? (s.rcbOf region) with
  | none => toMgmt
  | some e =>
    let k := hwKey e.fault.toNat
    let bs := s.readBytes k 256
    let r := Rec.ofBytes bs
    let inTree := match s.eff? (s.rcbOf r.region) with
      | some c => c.chain.contains region
      | none => false
    if k = 0 || !recOk bs || !inTree then toMgmt
    else
      let args := [t.word0, t.pc, t.addr, t.info, BitVec.ofNat 64 esc]
      let r := { r with
        w := Vector.ofFn fun i => args[i.val]?.getD (r.w[i.val]?.getD 0)
        flags := bindFlags (coreIdx core) true false, reason := 7, prio := 0 }
      let q : QEntry := { val := r, escRec := if esc = 0 then 0 else (localPlace core esc).key }
      match s.enqueueAt clu 0 q with
      | some s => s
      | none =>
        if (s.clu clu).handlers.length < 8 then s.modClu clu fun c => { c with handlers := c.handlers ++ [q] }
        else toMgmt

/-! ## Barriers -/

/-- A barrier of a cluster (R214). -/
def State.barrier (s : State) (clu b : Nat) : Barrier := SMap.get {} (s.clu clu).bars b

def State.setBarrier (s : State) (clu b : Nat) (x : Barrier) : State :=
  s.modClu clu fun c => { c with bars := SMap.set c.bars b x }

/-- A value as the signed 32-bit pending-byte counter holds it (R214). -/
def wrap32 (v : Int) : Int := (BitVec.ofInt 32 v).toInt

/-- `Complete()` (R217). A negative counter breaks the barrier, which is reported to its region's handler with the core
named by the caller. -/
def State.completeBar (s : State) (clu b core : Nat) : State :=
  let x := { s.barrier clu b with tagged := false }
  if x.arrivals ≠ x.count || x.count = 0 then s.setBarrier clu b x
  else if x.counter = 0 then s.setBarrier clu b { x with phase := (x.phase + 1) % 65536, arrivals := 0 }
  else if x.counter < 0 then
    (s.setBarrier clu b { x with broken := true }).faultHandler (x.region.getD 0) core 0 { cause := 0x14, sub := b }
  else s.setBarrier clu b x

/-- At the end of a cycle `Complete()` runs once for every barrier that tagged subtractions have reached and no `BARA` after them
(R221). -/
def State.completeTagged (s : State) : State :=
  (s.clus.flatMap fun p => (p.2.bars.filter fun q => q.2.tagged).map fun q => (p.1, q.1)).foldl
    (fun s q => s.completeBar q.1 q.2 (q.1 * 20)) s

/-- The value of `BART` (R215). -/
def Barrier.value (x : Barrier) : Word :=
  BitVec.ofNat 64 (x.phase * 2 ^ 48 + x.arrivals * 2 ^ 32 + intBits 32 x.counter)

/-- A tagged store has been performed at a cluster (R216): its size is subtracted, unless its region is foreign. `Complete()` runs
after the last subtraction of the cycle, and after the arrival of a `BARA` (R221). -/
def State.applyTag (s : State) (clu tag size : Nat) (region : BitVec 28) : State :=
  let b := tag % 256
  if b = 0 then s
  else
    let x := s.barrier clu b
    if x.region.any (· ≠ region) then s.tel clu 8
    else s.setBarrier clu b { x with counter := wrap32 (x.counter - size), tagged := true }

/-- The barrier that A names, with the checks of R214: the number, and the region where one is recorded. -/
def barOf (a : Spec) (f : Form) (own : Bool) : M (Nat × Barrier) := do
  let v ← src f a
  raiseIf (v = 0 || v.extractLsb' 8 56 ≠ 0) 0x02 5 0 0
  let s ← get
  let x := s.barrier (slotClu s.cur) v.toNat
  raiseIf (own && x.count ≠ 0 && x.region.any (· ≠ s.me.region)) 0x06 0 v 0
  return (v.toNat, x)

/-- Barrier misuse (cause 0x14) with its record (R277). -/
def barTrap {α : Type} (b : Nat) (x : Barrier) : M α := raise 0x14 b 0 x.value

/-! ## Races -/

/-- A source as a race entry codes it (R213). -/
def raceSrc (dev clu ep : Nat) : Nat := (dev % 512) * 8192 + cluDie clu % 8 * 1024 + cluIdx clu * 32 + ep % 32

/-- A store of `n` bytes has been performed through the network port of a cluster: the history is kept and a racy store
logged (R213). -/
def State.raceStore (s : State) (clu : Nat) (p : Place) (n src : Nat) : State :=
  (List.range ((n + 7) / 8)).foldl (fun s i =>
    let k := (p.key + 8 * i) / 8 * 8
    let c := s.clu clu
    let old := c.history.find? fun h => h.1 = k
    let s := match old with
      | some (_, from', cyc) =>
        if from' ≠ src && s.cyc - cyc ≤ 4096 then
          s.modClu clu fun c =>
            { c with race := c.race.set! (c.raceNext % 64) (some ⟨s.cyc % 2 ^ 32, src, from', p.off / 8 + i, p.kind = 3⟩)
                     raceNext := (c.raceNext + 1) % 64 }
        else s
      | none => s
    s.modClu clu fun c => { c with history := ((k, src, s.cyc) :: c.history.filter fun h => h.1 ≠ k).take 64 }) s

/-! ## Meanings -/

/-- Whether an engine job that the thread launched is incomplete (R209): a transfer names the continuation that launched it. -/
def State.engineBusy (s : State) (n : Nat) : Bool :=
  let x := s.slot n
  (s.clus.any fun p => p.2.chans.any fun c => c.queue.any fun t => t.cont = x.cont)
  || ((List.range 8).any fun t => !x.ready s.cyc (.tile (BitVec.ofNat 3 t)))
  || (x.acc.any fun a => match a.fin with
    | .tload _ _ _ _ _ _ | .tstore _ => true
    | _ => false)
  || x.owed.any fun o => o.what = 2

/-- `FENCE` (R209): what its kind names of the thread's later accesses is held until the earlier ones are done; the fence itself
waits for the engine jobs it names. -/
def execFence (sc : BitVec 3) (k : BitVec 2) (e : BitVec 1) (f : Form) (s : State) : Host.Outcome State Fault Refusal :=
  issue (.fence sc k e f) (do
    let s ← get
    let scope := match f.ext? with
      | some x => x.scope.toNat
      | none => sc.toNat
    if e = 1 then waitIf (s.engineBusy s.cur) 3
    let core := slotCore s.cur
    modMe fun x =>
      { x with fences := (x.fences ++ [Fence.mk k.toNat scope x.accNext]).filter (x.fenceOpen core) }) s

/-- `BARI` (R215). -/
def execBari (a b : Spec) (f : Form) (s : State) : Host.Outcome State Fault Refusal :=
  issue (.bari a b f) (do
    let n ← src f b
    let (i, x) ← barOf a f false
    raiseIf (n = 0 || 65535 < n.toNat) 0x02 5 0 0
    if !x.broken && x.arrivals > 0 then barTrap i x
    let s ← get
    set (s.setBarrier (slotClu s.cur) i
      { x with count := n.toNat, arrivals := 0, counter := 0, broken := false, tagged := false, region := some s.me.region
               rcb := s.me.rcb })) s

/-- `BARA` (R215): a release, then the arrival. -/
def execBara (d a b : Spec) (f : Form) (s : State) : Host.Outcome State Fault Refusal :=
  issue (.bara d a b f) (do
    let n ← src f b
    raiseIf (n.extractLsb' 32 32 ≠ 0) 0x02 5 0 0
    let (i, x) ← barOf a f true
    if x.count = 0 || x.broken then barTrap i x
    let s ← get
    waitIf (!s.me.performed (slotCore s.cur) 4) 3
    if x.arrivals = x.count || x.counter + n.toNat > 2 ^ 31 - 1 then barTrap i x
    dst f d (BitVec.ofNat 64 x.phase) 3
    modify fun s => (s.setBarrier (slotClu s.cur) i
      { x with arrivals := x.arrivals + 1, counter := x.counter + n.toNat }).completeBar (slotClu s.cur) i
        (slotCore s.cur)) s

/-- `BARW` (R215): an acquire. -/
def execBarw (a b : Spec) (f : Form) (s : State) : Host.Outcome State Fault Refusal :=
  issue (.barw a b f) (do
    let n ← src f b
    let (i, x) ← barOf a f true
    raiseIf (n.extractLsb' 16 48 ≠ 0) 0x02 5 0 0
    if x.count = 0 || x.broken then barTrap i x
    waitIf (x.phase = n.toNat) 2) s

/-- `BART` (R215). -/
def execBart (d a : Spec) (f : Form) (s : State) : Host.Outcome State Fault Refusal :=
  issue (.bart d a f) (do
    let (_, x) ← barOf a f true
    dst f d x.value 3) s

end Sys2Proof.Machine
end

