-- ==== Sys2Proof/Machine/Plan.lean ====
section
/-! DEFINITION. The plan unit (R247 to R253): the plan block, the coverage map, and the plan instructions as the plan
cluster's unit carries them out. -/

namespace Sys2Proof.Machine

/-! ## The plan block -/

/-- One set of tile extents, loop order and placement (R248). -/
structure PlanShape where
  tile : List Nat
  order : Nat
  mask : Nat
  deriving DecidableEq, Repr

/-- A plan block as the unit reads it (R248). -/
structure PlanBlock where
  ndim : Nat
  /-- ASIZE and BOUND words of dimensions 0 to 3. -/
  dims : List Nat
  cover : Nat
  gen : Nat
  cursor : Nat
  act : PlanShape
  shadow : PlanShape
  uncl : Nat
  split : Nat
  splitPos : Nat
  deriving DecidableEq, Repr

/-- No split (R248). -/
def noSplit : Nat := 2 ^ 64 - 1

/-- Doubleword `i` of a plan block. -/
def planWord (s : State) (p : Place) (i : Nat) : Nat := s.readMem (p.add (8 * i)).key 8

def readPlan (s : State) (p : Place) : PlanBlock :=
  let w := planWord s p
  let shape (o : Nat) : PlanShape := { tile := (List.range 4).map fun k => w (o + k), order := w (o + 4), mask := w (o + 5) }
  { ndim := w 0, dims := (List.range 4).map fun k => w (1 + k), cover := w 5, gen := w 6, cursor := w 7
    act := shape 8, shadow := shape 14, uncl := w 20, split := w 21, splitPos := w 22 }

/-- The 32 doublewords of a block; the last nine are zero. -/
def PlanBlock.words (b : PlanBlock) : List Nat :=
  [b.ndim] ++ b.dims ++ [b.cover, b.gen, b.cursor] ++ b.act.tile ++ [b.act.order, b.act.mask] ++ b.shadow.tile
    ++ [b.shadow.order, b.shadow.mask, b.uncl, b.split, b.splitPos]

/-- The doublewords of a block at a place, each with its memory address. -/
def PlanBlock.stores (b : PlanBlock) (p : Place) : List (Nat × Nat) :=
  (b.words ++ List.replicate 9 0).zipIdx.map fun (w : Nat × Nat) => ((p.add (8 * w.2)).key, w.1)

/-- BOUND of dimension `k`, and the count of atoms (R248). -/
def PlanBlock.bound (b : PlanBlock) (k : Nat) : Nat := (b.dims[k]?).getD 0 % 512
def PlanBlock.atoms (b : PlanBlock) : Nat := ((List.range (min b.ndim 4)).map b.bound).foldl (· * ·) 1

/-- The dimension at a loop level (R247). -/
def PlanShape.level (x : PlanShape) (j : Nat) : Nat := x.order / 4 ^ j % 4
def PlanShape.ext (x : PlanShape) (k : Nat) : Nat := (x.tile[k]?).getD 0

/-- The limits of R249 on the fixed fields. -/
def planDimsOk (ndim : Nat) (dims : List Nat) : Bool :=
  1 ≤ ndim && ndim ≤ 4
    && (List.range 4).all (fun k =>
      let w := (dims[k]?).getD 0
      if k < ndim then 1 ≤ w % 512 && w % 512 ≤ 256 && w / 512 % 128 = 0 && w < 2 ^ 32 && 1 ≤ w / 65536 else w = 0)
    && decide (((List.range (min ndim 4)).map fun k => (dims[k]?).getD 0 % 512).foldl (· * ·) 1 ≤ 2 ^ 20)

/-- The limits of R249 on a shape. -/
def planShapeOk (ndim : Nat) (dims : List Nat) (x : PlanShape) (pcount : Nat) : Bool :=
  (List.range 4).all (fun k =>
    if k < ndim then decide (1 ≤ x.ext k ∧ x.ext k ≤ (dims[k]?).getD 0 % 512) else x.ext k = 0)
    && (List.range ndim).all (fun k => (List.range ndim).any fun j => x.level j = k)
    && decide (x.order < 4 ^ ndim) && x.mask ≠ 0 && decide (x.mask < 2 ^ pcount)

/-- The place of the coverage map, in the plan cluster's store or its die's common store (R248), and whether it fits there. -/
def planMap (clu cover atoms : Nat) : Option Place :=
  let n := (atoms + 31) / 32 * 8
  let p := if 0x100000 ≤ cover ∧ cover < 0x200000 then some (cluPlace clu (cover - 0x100000)) else windowPlace 0 cover
  match p with
  | some p =>
    if p.kind = 2 then (if p.unit = clu ∧ p.off + n ≤ 0x100000 then some p else none)
    else if p.unit = cluDie clu ∧ p.off + n ≤ 0x4000000 then some p else none
  | none => none

/-- Whether a block keeps every limit of R249. -/
def PlanBlock.ok (b : PlanBlock) (clu pcount : Nat) : Bool :=
  planDimsOk b.ndim b.dims && planShapeOk b.ndim b.dims b.act pcount && planShapeOk b.ndim b.dims b.shadow pcount
    && b.cover % 128 = 0 && (planMap clu b.cover b.atoms).isSome

/-! ## Atoms and tiles -/

/-- A box of atoms: start and extent in each of the four dimensions. -/
abbrev Box := List (Nat × Nat)

/-- A tile descriptor of a box (R248). -/
def Box.desc (b : Box) : Nat :=
  (List.range b.length).foldl (fun v k =>
    let p := (b[k]?).getD (0, 1)
    v + (p.1 * 256 + (p.2 - 1)) * 65536 ^ k) 0

/-- The box that a descriptor names, in `ndim` dimensions: none where a dimension that is not used is not zero or the box
leaves the bounds (R252). -/
def PlanBlock.box (b : PlanBlock) (d : Nat) : Option Box :=
  let p (k : Nat) : Nat × Nat := (d / (65536 ^ k) / 256 % 256, d / (65536 ^ k) % 256 + 1)
  if (List.range 4).all fun k => if k < b.ndim then decide ((p k).1 + (p k).2 ≤ b.bound k) else d / 65536 ^ k % 65536 = 0 then
    some ((List.range b.ndim).map p)
  else none

/-- The index of an atom (R248). -/
def PlanBlock.atomIndex (b : PlanBlock) (at' : List Nat) : Nat :=
  (List.range b.ndim).foldr (fun k a => (at'[k]?).getD 0 + b.bound k * a) 0

/-- The atoms of a box in ascending order of a loop order (R251): position `p` has level 0 innermost. -/
def Box.atomAt (x : PlanShape) (b : Box) (p : Nat) : List Nat :=
  let n := b.length
  let r := (List.range n).foldl (fun (r : Nat × List (Nat × Nat)) j =>
    let k := x.level j
    let q := (b[k]?).getD (0, 1)
    (r.1 / q.2, (k, q.1 + r.1 % q.2) :: r.2)) (p, [])
  (List.range n).map fun k => ((r.2.find? fun t => t.1 = k).map (·.2)).getD 0

def Box.size (b : Box) : Nat := (b.map (·.2)).foldl (· * ·) 1

/-- The indices of the atoms of a box. -/
def PlanBlock.boxAtoms (b : PlanBlock) (x : Box) : List Nat :=
  (List.range x.size).map fun p => b.atomIndex (x.atomAt b.act p)

/-- Claimed and done bits of an atom in the coverage map (R248). -/
def mapBit (s : State) (m : Place) (a bit : Nat) : Bool := (s.readMem (m.add (8 * (a / 32))).key 8).testBit (2 * (a % 32) + bit)

/-- The doublewords of the map in which a bit of some atoms is set or cleared, in ascending order (R248). -/
def mapStores (s : State) (m : Place) (as : List Nat) (bit : Nat) (on : Bool) : List (Nat × Nat) :=
  (as.foldr (fun a l => insertNat (a / 32) l) []).map fun i =>
    let k := (m.add (8 * i)).key
    (k, (as.filter fun a => a / 32 = i).foldl (fun v a =>
      let n := 2 * (a % 32) + bit
      if v.testBit n = on then v else if on then v + 2 ^ n else v - 2 ^ n) (s.readMem k 8))

/-- The tile of number `m` of the sequence (R251). -/
def PlanBlock.tileBox (b : PlanBlock) (m : Nat) : Box :=
  let grid (k : Nat) : Nat := (b.bound k + b.act.ext k - 1) / max (b.act.ext k) 1
  let r := (List.range b.ndim).foldl (fun (r : Nat × List (Nat × Nat)) j =>
    let k := b.act.level j
    (r.1 / max (grid k) 1, (k, r.1 % max (grid k) 1) :: r.2)) (m, [])
  (List.range b.ndim).map fun k =>
    let c := ((r.2.find? fun t => t.1 = k).map (·.2)).getD 0
    let t := b.act.ext k
    (t * c, min t (b.bound k - t * c))

/-- The number of tiles in the sequence (R251). -/
def PlanBlock.tiles (b : PlanBlock) : Nat :=
  ((List.range b.ndim).map fun k => (b.bound k + b.act.ext k - 1) / max (b.act.ext k) 1).foldl (· * ·) 1

/-! ## The instructions at the unit -/

/-- What a draw of `DISP` has come to: the block as it is left, the box drawn, the atoms looked at, and the tiles and split positions
examined. -/
structure Draw where
  block : PlanBlock
  box : Option Box := none
  seen : List Nat := []
  steps : Nat := 0

/-- A draw after more has been examined before it. -/
def Draw.after (r : Draw) (seen : List Nat) (steps : Nat) : Draw := { r with seen := seen ++ r.seen, steps := steps + r.steps }

/-- The draw of `DISP` (R251) over at most `fuel` tiles. -/
def drawTile (s : State) (m : Place) : Nat → PlanBlock → Draw
  | fuel, b =>
    let y := b.tileBox b.split
    let ps := if b.split = noSplit then [] else (List.range y.size).filter fun p => b.splitPos ≤ p
    let atom (p : Nat) : Nat := b.atomIndex (y.atomAt b.act p)
    match ps.find? fun p => !mapBit s m (atom p) 0 with
    | some p =>
      let ps := ps.filter fun q => q ≤ p
      { block := if p + 1 = y.size then { b with split := noSplit, splitPos := 0 } else { b with splitPos := p + 1 }
        box := some ((y.atomAt b.act p).map fun c => (c, 1)), seen := ps.map atom, steps := ps.length }
    | none =>
      let b := { b with split := noSplit, splitPos := 0 }
      match fuel with
      | 0 => { block := b, seen := ps.map atom, steps := ps.length }
      | fuel + 1 =>
        let n := b.tiles
        let cur := if b.cursor = n then 0 else b.cursor
        let b := { b with cursor := (cur + 1) % 2 ^ 64 }
        let x := b.tileBox cur
        let as := b.boxAtoms x
        let free := as.filter fun a => !mapBit s m a 0
        (if free.isEmpty then drawTile s m fuel b
          else if free.length ≠ x.size then drawTile s m fuel { b with split := cur, splitPos := 0 }
          else { block := b, box := some x } : Draw).after (ps.map atom ++ as) (ps.length + 1)

/-- The causes of a plan instruction at the unit. -/
def planTrap (cause sub : Nat) : TrapRec := { cause := cause, sub := sub }

/-- The bank of a line that a plan instruction needs is absent (R89): the first of some addresses. -/
def planAbsent (s : State) (keys : List Nat) : Option TrapRec :=
  (keys.find? fun k => s.bankAbsent (Place.ofKey k)).map fun k =>
    let q := Place.ofKey k
    { cause := 0x0D, sub := if q.kind = 3 then 1 else 0, addr := 0
      info := BitVec.ofNat 64 (if q.kind = 3 then q.bank + 16 * q.group else q.bank) }

/-- What a plan instruction does: the doublewords that it writes in the map, then those in the block (R248), and its result. -/
structure PlanWork where
  map : List (Nat × Nat) := []
  block : List (Nat × Nat) := []
  words : List Nat := []
  deriving DecidableEq, Repr

/-- The lines of a block. -/
def planLines (p : Place) : List Nat := [p.key, (p.add 128).key]

/-- The lines of the coverage map that a plan instruction reads, in ascending order, and the tiles and split positions that it
examines (R251, R252). -/
def planReads (s : State) (p : Place) (op lc pcount a : Nat) : List Nat × Nat :=
  let b := readPlan s p
  if op = 2 || op = 3 || !b.ok p.unit pcount then ([], 0)
  else
    match planMap p.unit b.cover b.atoms with
    | none => ([], 0)
    | some m =>
      let r := drawTile s m b.tiles b
      let (seen, n) := if op ≠ 0 then (((b.box a).map b.boxAtoms).getD [], 0)
        else if !b.act.mask.testBit lc || b.uncl = 0 then ([], 0)
        else (r.seen, r.steps)
      (seen.foldr (fun k l => insertNat (m.add (8 * (k / 32))).line.key l) [], n)

/-- One plan instruction at the plan unit (R249 to R252): operation 0 `DISP`, 1 `TDONE`, 2 `PLANW`, 3 `PLANSW`, 4 `TREL`.
Arguments: the requester's logical cluster and its partition's count, A, and for `PLANW` the staging set as NDIM, ASIZE and
BOUND words, TILE, LEVEL, MASK and ADDR. -/
def planUnit (s : State) (p : Place) (op lc pcount a : Nat) (st : List Nat) : Except TrapRec PlanWork :=
  let clu := p.unit
  let g (i : Nat) : Nat := (st[i]?).getD 0
  let stDims := (List.range 4).map fun k => g (1 + k)
  let stShape : PlanShape := { tile := (List.range 4).map fun k => g (5 + k), order := g 9, mask := g 10 }
  let done (w : PlanWork) : Except TrapRec PlanWork :=
    match planAbsent s ((w.map ++ w.block).map (·.1)) with
    | some t => .error t
    | none => .ok w
  match planAbsent s (planLines p) with
  | some t => .error t
  | none =>
    let b := readPlan s p
    if op = 2 ∧ a = 1 then
      if !planDimsOk (g 0) stDims || !planShapeOk (g 0) stDims stShape pcount || g 11 % 128 ≠ 0 then .error (planTrap 2 5)
      else
        let nb : PlanBlock :=
          { ndim := g 0, dims := stDims, cover := g 11, gen := 0, cursor := 0, act := stShape, shadow := stShape, uncl := 0
            split := noSplit, splitPos := 0 }
        let n := nb.atoms
        match planMap clu (g 11) n with
        | none =>
          if (planMap clu (g 11) 1).isSome then .error (planTrap 2 5)
          else .error { planTrap 0x15 0 with addr := BitVec.ofNat 64 (g 11) }
        | some m =>
          let lines := ((n + 31) / 32 * 8 + 127) / 128
          done { map := (List.range (16 * lines)).map fun i => ((m.add (8 * i)).key, 0)
                 block := PlanBlock.stores { nb with uncl := n } p }
    else if !b.ok clu pcount then .error (planTrap 2 5)
    else
      match planMap clu b.cover b.atoms with
      | none => .error (planTrap 2 5)
      | some m =>
        match op with
        | 0 =>
          if !b.act.mask.testBit lc || b.uncl = 0 then .ok { words := [2 ^ 64 - 1] }
          else
            let r := drawTile s m b.tiles b
            match r.box with
            | none => done { block := r.block.stores p, words := [2 ^ 64 - 1] }
            | some x =>
              let as := r.block.boxAtoms x
              done { map := mapStores s m as 0 true, words := [x.desc]
                     block := PlanBlock.stores { r.block with uncl := r.block.uncl - as.length } p }
        | 1 =>
          match b.box a with
          | none => .error (planTrap 2 5)
          | some x =>
            let as := b.boxAtoms x
            if as.all fun k => mapBit s m k 0 && !mapBit s m k 1 then done { map := mapStores s m as 1 true }
            else .error (planTrap 2 5)
        | 2 =>
          if a = 0 then
            if g 0 ≠ b.ndim || stDims ≠ b.dims || g 11 ≠ b.cover || !planShapeOk b.ndim b.dims stShape pcount then
              .error (planTrap 2 5)
            else done { block := PlanBlock.stores { b with shadow := stShape } p }
          else .ok { words := [b.ndim] ++ b.dims ++ b.act.tile ++ [b.act.order, b.act.mask, b.cover] }
        | 3 =>
          let gen := (b.gen + 1) % 2 ^ 64
          done { block := PlanBlock.stores { b with act := b.shadow, cursor := 0, split := noSplit, splitPos := 0, gen := gen } p
                 words := [gen] }
        | _ =>
          match b.box a with
          | none => .error (planTrap 2 5)
          | some x =>
            let as := (b.boxAtoms x).filter fun k => mapBit s m k 0 && !mapBit s m k 1
            done { map := mapStores s m as 0 false, block := PlanBlock.stores { b with uncl := b.uncl + as.length } p }

/-- The place of a region's plan block (R248): none where it lies in no cluster store of the device. -/
def planPlace (e : Eff) : Option Place :=
  match windowPlace 0 e.plan.toNat with
  | some p => if p.kind = 2 then some p else none
  | none => none

end Sys2Proof.Machine
end

