-- ==== Sys2Proof/Machine/Network.lean ====
section
/-! DEFINITION. The network (R156 to R181): routers, routes and packets in flight, remote accesses and their answers, ports
and streams, multicast, loss; majors 0x19 and 0x1A, and the group watchdog (R153). -/

namespace Sys2Proof.Machine

/-! ## Routes -/

/-- The shorter way round a ring of `n` from `a` to `b` (R157): 0 there already, 1 rising, 2 falling; a tie rises. -/
def ringDir (n a b : Nat) : Nat :=
  let d := (b % n + n - a % n) % n
  if d = 0 then 0 else if 2 * d ≤ n then 1 else 2

/-- The router next to `r` through an output: 1, 2 the X ring, 3, 4 the Y ring, 5, 6 the die ring, rising first (R156). -/
def neighbour (r dir : Nat) : Nat :=
  let d := r / 32
  let y := r % 32 / 4
  let x := r % 4
  match dir with
  | 1 => d * 32 + y * 4 + (x + 1) % 4
  | 2 => d * 32 + y * 4 + (x + 3) % 4
  | 3 => d * 32 + (y + 1) % 8 * 4 + x
  | 4 => d * 32 + (y + 7) % 8 * 4 + x
  | 5 => (d + 1) % 8 * 32 + y * 4 + x
  | 6 => (d + 7) % 8 * 32 + y * 4 + x
  | _ => r

/-- The input of the next router that a hop through an output comes in by (R165). -/
def inputOf (dir : Nat) : Nat :=
  match dir with
  | 1 => 2
  | 2 => 1
  | 3 => 4
  | 4 => 3
  | 5 => 6
  | 6 => 5
  | _ => 7

/-- The output that a packet for a cluster of the same device takes at a router, 0 where it has arrived (R157). -/
def ringRoute (r dst : Nat) : Nat :=
  let x := ringDir 4 (r % 4) (dst % 4)
  let y := ringDir 8 (r % 32 / 4) (dst % 32 / 4)
  let d := ringDir 8 (r / 32) (dst / 32)
  if x ≠ 0 then x else if y ≠ 0 then 2 + y else if d ≠ 0 then 4 + d else 0

/-- The number of devices, and a device's coordinate in dimension `k` (R324). -/
def State.deviceCount (s : State) : Nat := s.fabN.toList.foldl (fun n k => n * (k + 1)) 1

def State.coord (s : State) (d k : Nat) : Nat :=
  d / ((s.fabN.toList.take k).foldl (fun n j => n * (j + 1)) 1) % (s.fabN[k]?.getD 0 + 1)

/-- The bundle of the first fabric dimension that a packet has still to cross (R157). -/
def State.bundle (s : State) (ddev : Nat) : Option Nat :=
  (List.range 4).findSome? fun k =>
    match ringDir (s.fabN[k]?.getD 0 + 1) (s.coord s.device k) (s.coord ddev k) with
    | 0 => none
    | 1 => some (2 * k)
    | _ => some (2 * k + 1)

/-- Whether the fabric lane of a router takes no more packets (R158): it has been dropped, and the packet committed to it has
crossed. -/
def State.laneGone (s : State) (r : Nat) : Bool := (s.clu r).laneDown && ((s.clu r).linkFree[7]?).getD 0 ≤ s.cyc

/-- The steps along its X ring from a router to the next working lane of its fabric port (R158). -/
def State.workingLane (s : State) (r : Nat) : Option Nat :=
  (List.range 4).find? fun i => !s.laneGone (r / 4 * 4 + (r + i) % 4)

/-- The output at a router for a destination (R157, R158), 7 for the fabric lane: none where no route exists. -/
def State.route (s : State) (r ddev dst : Nat) : Option Nat :=
  if ddev = s.device then some (ringRoute r dst)
  else if !s.fabValid || s.deviceCount ≤ ddev then none
  else
    match s.bundle ddev with
    | none => none
    | some b =>
      let d := ringDir 8 (r / 32) b
      if d ≠ 0 then some (4 + d)
      else
        match s.workingLane r with
        | none => none
        | some 0 => some 7
        | some i => some (ringDir 4 r (r + i))

/-! ## Packets -/

/-- Whether a packet is an answer: data response, acknowledgement or loss notice, or a reply deposit (R161). -/
def Packet.isAnswer (p : Packet) : Bool := p.kind = 11 || (14 ≤ p.kind && p.kind ≤ 16)

/-- Whether a packet belongs to a stream (R161). -/
def Packet.isStream (p : Packet) : Bool := 6 ≤ p.kind && p.kind ≤ 9

/-- The flits of a packet (R161); `size` is 1 in a record that `ENQ` sends. -/
def Packet.flits (p : Packet) : Nat :=
  match p.kind with
  | 2 => if p.op = 9 then 2 else 1
  | 4 => 5
  | 5 => if p.size ≤ 16 then 1 else 1 + (p.size + 31) / 32
  | 10 => 4
  | 12 => 2
  | 13 => if p.size = 1 then 9 else 8
  | 14 => if p.op = 3 then 5 else 1
  | _ => 1

/-- The line hash of R161. -/
def lineHash (a : Nat) : Nat :=
  (List.range 20).foldl (fun h i => h ^^^ (a / 128 / 4 ^ i % 4)) 0

/-- The window address of a place of a cluster or common store (R76). -/
def Place.window (p : Place) : Nat :=
  if p.kind = 2 then 0x40000000 + p.unit * 0x100000 + p.off else 0x80000000 + p.unit * 0x4000000 + p.off

/-- The virtual channel (R161): 0 to 3 requests, 4 data responses, 5 acknowledgements, 6 streams. -/
def Packet.vc (p : Packet) : Nat :=
  match p.kind with
  | 0 | 1 | 2 | 3 | 4 => lineHash p.place.window
  | 5 => lineHash { p.place with unit := p.dst }.window
  | 6 | 7 | 8 | 9 => 6
  | 11 | 14 => 4
  | 15 | 16 => 5
  | _ => (p.dst % 32 ^^^ p.dep) % 4

/-- Whether a packet uses the buffers of the arrival class (R157): it has crossed a fabric lane, or crosses none. -/
def State.late (s : State) (p : Packet) : Bool := p.ddev = s.device || p.sdev ≠ s.device

def State.putPacket (s : State) (p : Packet) : State :=
  { s with net := s.net.map fun q => if q.pid = p.pid then p else q }

def State.dropPacket (s : State) (pid : Nat) : State := { s with net := s.net.filter fun q => q.pid ≠ pid }

def State.packet? (s : State) (pid : Nat) : Option Packet := s.net.find? fun p => p.pid = pid

/-- The loss of a packet at a router (R181): it is gone, and a loss notice goes to the endpoint that waits for it. A lost
notice is not followed by another. -/
def State.lose (s : State) (p : Packet) : State :=
  let s := s.dropPacket p.pid
  if p.kind = 16 then s
  else
    let back := !p.isAnswer
    let s := if p.fault = 1 then s.tel p.at' 7 else s
    s.send
      { p with kind := 16, op := p.kind, src := p.at', sep := 30, ddev := if back then p.sdev else p.ddev
               dst := if back then p.src else p.dst, dep := if back then p.sep else p.dep, arrived := false, fault := 0
               inp := 0, entered := false, tail := 0, held := [] }

/-- The wake signals that a header sends when it enters a router: to the next two routers of its route (R167). -/
def State.wakeAhead (s : State) (p : Packet) : State :=
  let next (r : Nat) : Option Nat :=
    match s.route r p.ddev p.dst with
    | some d => if 1 ≤ d ∧ d ≤ 6 then some (neighbour r d) else none
    | none => none
  match next p.at' with
  | none => s
  | some a =>
    let s := s.wakeRouter a
    match next a with
    | none => s
    | some b => s.wakeRouter b

/-- The stream lane of an output link that a hop takes (R166): 1 on a ring's wrap hop and after it. A fabric dimension is a ring
of devices. -/
def State.streamLane (s : State) (p : Packet) (dir : Nat) : Nat :=
  let (size, c, e) :=
    if dir = 7 then
      let k := (s.bundle p.ddev).getD 0 / 2
      ((s.fabN[k]?).getD 0 + 1, s.coord s.device k, s.coord p.sdev k)
    else
      let at' (n : Nat) := if dir ≤ 2 then n % 4 else if dir ≤ 4 then n % 32 / 4 else n / 32
      (if dir ≤ 2 then 4 else 8, at' p.at', at' p.src)
  let rising := if dir = 7 then (s.bundle p.ddev).getD 0 % 2 = 0 else dir % 2 = 1
  if rising then (if c + 1 = size || c < e then 1 else 0) else if c = 0 || e < c then 1 else 0

/-- The number of a lane of a link (R166). -/
def laneNo (r dir lane : Nat) : Nat := (r * 8 + dir) * 2 + lane

/-- Whether two packets share the buffers of a router input (R163, R166): those of one virtual channel and class, or those of
one stream. -/
def State.sameBuffers (s : State) (p q : Packet) : Bool :=
  q.vc = p.vc && (if p.isStream then q.sid = p.sid else s.late q = s.late p)

/-- The packets that hold buffers of an input of a router which a packet would use; an answer that has arrived holds none. -/
def State.buffered (s : State) (p : Packet) (r i : Nat) : Nat :=
  (s.net.filter fun q => q.dev = s.device && q.at' = r && q.inp = i && q.entered && !(q.arrived && q.isAnswer)
    && s.sameBuffers p q).length

/-- Whether the next router has buffer room for a hop of a packet (R163, R166): a request or an answer needs one free buffer to go
on along its ring and two to enter it, a stream flit a credit. An abort releases what it passes. -/
def State.bufferRoom (s : State) (p : Packet) (dir : Nat) : Bool :=
  let used := s.buffered p (neighbour p.at' dir) (inputOf dir)
  if p.isStream then p.kind = 9 || used < 4
  else if p.inp = inputOf dir then used < 4 else used ≤ 2

/-- The order of packets at a router (R165): answers first, then the earlier injection, then the lower input, then the lower
endpoint. -/
def Packet.before (p q : Packet) : Bool :=
  if p.isAnswer != q.isAnswer then p.isAnswer
  else if p.inj ≠ q.inj then p.inj < q.inj
  else if p.inp ≠ q.inp then p.inp < q.inp
  else if p.sep ≠ q.sep then p.sep < q.sep
  else p.pid < q.pid

/-- Whether a packet has to let another go first that came before it to the same buffers of the same input and competes with it for one
output (R165). -/
def State.queued (s : State) (p : Packet) : Bool :=
  p.kind ≠ 9 && s.net.any fun q =>
    q.dev = s.device && !q.arrived && q.at' = p.at' && q.inp = p.inp && q.entered = p.entered && q.pid ≠ p.pid
      && s.sameBuffers p q && (q.due < p.due || (q.due = p.due && q.before p))
      && s.route p.at' q.ddev q.dst = s.route p.at' p.ddev p.dst

/-- The end of a link at which its state is kept: the output of its rising direction, or the router of a fabric lane (R156). -/
def linkEnd (r dir : Nat) : Nat × Nat := if dir % 2 = 1 then (r, dir) else (neighbour r dir, dir - 1)

/-- The lanes that the link of an output has lost (R180). -/
def State.lanesLost (s : State) (r dir : Nat) : Nat :=
  let (q, d) := linkEnd r dir
  if d = 7 then 0 else ((s.clu q).ringLost[d]?).getD 0

/-- Whether a link is down: it has lost two of its lanes (R180). -/
def State.linkDown (s : State) (r dir : Nat) : Bool := 2 ≤ s.lanesLost r dir

/-- The cycles that `n` flits take from cycle `c` on (R156, R159): one each, but a link on three lanes carries none in every
fourth cycle. -/
def flitTime (slow : Bool) : Nat → Nat → Nat
  | _, 0 => 0
  | c, n + 1 => if slow && c % 4 = 3 then 2 + flitTime slow (c + 2) n else 1 + flitTime slow (c + 1) n

/-- Charges an event to a link (R180): sixteen within 2^16 cycles make it drop a lane. -/
def State.resend (s : State) (r dir : Nat) : State :=
  let (q, d) := linkEnd r dir
  let cs := s.cyc :: (((s.clu q).resends[d]?).getD []).filter fun c => decide (s.cyc < c + 65536)
  let s := (s.modClu q fun c => { c with resends := vmod c.resends d fun _ => cs }).tel r 6
  if 16 ≤ cs.length then { s with agenda := s.agenda ++ [.laneDrop q d] } else s

/-- The fault that is to strike the next packet over a link (R180), taken. -/
def State.strike (s : State) (r dir : Nat) : State × Nat :=
  match s.linkFaults.find? fun f => f.1 = r && f.2.1 = dir with
  | none => (s, 0)
  | some f => ({ s with linkFaults := s.linkFaults.erase f }, f.2.2)

/-- A member of a multicast (R176): logical number, device and cluster in one number. -/
def memberNo (i dev clu : Nat) : Nat := i * 131072 + dev * 256 + clu
def memberBit (m : Nat) : Nat := m / 131072
def memberDev (m : Nat) : Nat := m / 256 % 512
def memberClu (m : Nat) : Nat := m % 256

/-- The hop of a packet through an output of its router. Over a fabric lane a multicast becomes one packet for each member. -/
def State.hop (s : State) (p : Packet) (dir : Nat) : State :=
  let r := p.at'
  let slow := s.lanesLost r dir = 1
  let time := flitTime slow s.cyc p.flits
  let s := s.modClu r fun c => { c with rlast := s.cyc, linkFree := c.linkFree.set! dir (s.cyc + time) }
  let lane := (laneNo r dir (s.streamLane p dir), p.sid)
  let s := if p.kind = 6 then { s with lanes := s.lanes ++ [lane] }
    else if p.isStream && (p.kind ≠ 7 || p.last) then { s with lanes := s.lanes.erase lane }
    else s
  let (s, fault) := s.strike r dir
  let p := { p with tail := max p.tail (time - 1), fault := fault }
  if dir = 7 then
    let out (pid : Nat) (q : Packet) : Packet :=
      { q with pid := pid, dev := q.ddev, at' := q.dst, via := r, due := s.cyc + (s.clu r).hopTime, arrived := true, fault := 0 }
    match p.members with
    | [] => s.putPacket (out p.pid p)
    | m :: ms =>
      let of (m : Nat) : Packet := { p with members := [m], ddev := memberDev m, dst := memberClu m }
      ms.foldl (fun s m => { s with net := s.net ++ [out s.pidNext (of m)], pidNext := s.pidNext + 1 }) (s.putPacket (out p.pid (of m)))
  else
    s.putPacket { p with at' := neighbour r dir, inp := inputOf dir, due := s.cyc + (if dir ≤ 4 then 5 else 8) }

/-- Puts a packet that waits at its endpoint into a buffer of the router's input, where one is free (R159, R163). -/
def State.enter (s : State) (p : Packet) : State × Packet :=
  if p.entered || 4 ≤ s.buffered p p.at' p.inp then (s, p)
  else
    let q := { p with entered := true, due := s.cyc }
    (s.putPacket q, q)

/-- Forwards one packet at its router (R159, R163, R165, R180), or leaves it where it waits. -/
def State.forward1 (s : State) (p : Packet) : State :=
  if p.arrived || s.cyc < p.due || p.dev ≠ s.device || s.queued p then s
  else
    let (s, p) := s.enter p
    if !p.entered || s.queued p then s
    else if p.fault = 2 || 17 ≤ p.kind then (s.resend p.at' p.inp).dropPacket p.pid
    else if p.fault = 3 then
      (s.resend p.at' p.inp).putPacket { p with fault := 0, due := s.cyc + (if p.inp = 7 then (s.clu p.at').hopTime
        else if 5 ≤ p.inp then 8 else 5) }
    else if p.fault = 1 then (s.resend p.at' p.inp).lose p
    else
      match s.route p.at' p.ddev p.dst with
      | none => s.lose p
      | some dir =>
        let s := s.wakeAhead p
        let c := s.clu p.at'
        if c.gated then s
        else if dir = 0 then
          (s.modClu p.at' fun c => { c with rlast := s.cyc }).putPacket
            { p with arrived := true, due := s.cyc + (if p.isAnswer then 1 + max (p.flits - 1) p.tail else 1) }
        else if s.linkDown p.at' dir then s.lose p
        else if s.cyc < (c.linkFree[dir]?).getD 0 || (s.lanesLost p.at' dir = 1 && s.cyc % 4 = 3) then s
        else if p.kind = 6 && s.lanes.any (·.1 = laneNo p.at' dir (s.streamLane p dir)) then s
        else if dir ≠ 7 && !s.bufferRoom p dir then s
        else s.hop p dir

/-- Splits a multicast where the paths to its members part (R176): the members of each output, in the order of their first
member. -/
def State.splitGroups (s : State) (r : Nat) : List Nat → List (Option Nat × List Nat)
  | [] => []
  | m :: ms =>
    let d := s.route r (memberDev m) (memberClu m)
    let d := if d = some 0 || d = none then some (100 + memberBit m) else d
    let rest := s.splitGroups r ms
    if rest.any (·.1 = d) then rest.map fun g => if g.1 = d then (g.1, m :: g.2) else g
    else (d, [m]) :: rest

/-- `PACKET_FORWARD` of one packet: a multicast first becomes one packet for each output it takes. -/
def State.forward (s : State) (p : Packet) : State :=
  if p.kind = 5 && 2 ≤ p.members.length then
    match s.splitGroups p.at' p.members with
    | [] => s.dropPacket p.pid
    | g :: gs =>
      let as (pid : Nat) (ms : List Nat) : Packet :=
        { p with pid := pid, members := ms, ddev := memberDev (ms.headD 0), dst := memberClu (ms.headD 0) }
      let first := as p.pid g.2
      let s := (s.putPacket first).forward1 first
      gs.foldl (fun s g =>
        let q := as s.pidNext g.2
        let s : State := { s with net := s.net ++ [q], pidNext := s.pidNext + 1 }
        s.forward1 q) s
  else s.forward1 p

/-- `PACKET_FORWARD` (R159). -/
def execPacketForward (pid : Nat) (s : State) : Host.Outcome State Fault Refusal :=
  match s.packet? pid with
  | none => .next s
  | some p => .next (s.forward p)

/-! ## Remote accesses served -/

/-- The router at which a packet from another device comes in (R157, R324): at the cluster index of its source, on the die of
the bundle by which it crosses its last dimension, at the next lane of its port where that one is down. -/
def State.entryRouter (s : State) (dev clu : Nat) : Nat :=
  let die := (((List.range 4).map fun k =>
    match ringDir (s.fabN[k]?.getD 0 + 1) (s.coord dev k) (s.coord s.device k) with
    | 0 => none
    | 1 => some (2 * k + 1)
    | _ => some (2 * k)).filterMap id).getLast?.getD 0
  let r := die * 32 + clu % 32
  r / 4 * 4 + (r + (s.workingLane r).getD 0) % 4

/-- A packet comes from another device (R156, R159): its lane carries one flit per cycle. -/
def State.fromFabric (s : State) (dev : Nat) (p : Packet) : State :=
  let r := s.entryRouter dev p.src
  let at' := max (s.cyc + (s.clu r).hopTime) (s.clu r).laneIn
  { s.modClu r fun c => { c with laneIn := at' + p.flits } with
    net := s.net ++ [{ p with pid := s.pidNext, at' := r, dev := s.device, sdev := dev, inj := s.cyc, inp := 7, via := r
                              due := at' }]
    pidNext := s.pidNext + 1 }

/-- The answer of a request (R159): injected at the serving cluster in the cycle after the turn, and delivered in that cycle where
the request came from the serving cluster itself (R220). -/
def State.answer (s : State) (p : Packet) (kind val : Nat) (ok : Bool) (trap : Option TrapRec) : State :=
  let s := s.dropPacket p.pid
  let q : Packet :=
    { p with kind := kind, op := p.kind, val := val, ok := ok, trap := trap, src := p.dst, sep := 30, ddev := p.sdev
             dst := p.src, dep := p.sep, arrived := false, inp := 0, entered := false, tail := 0, held := [], ws := [] }
  if p.dev ≠ s.device then s.fromFabric p.dev q
  else s.send { q with arrived := p.kind ≤ 4 && p.sdev = s.device && p.src = p.dst }

/-- A cb4 element of a view load (R90, R93), and the places of its code bytes, its block scale and its super-scale. -/
def Packet.element (p : Packet) (i : Nat) : Target :=
  { place := p.place.add ((p.cmp + i) / 2), view := p.op, elem := p.cmp + i, frame := p.place }

/-- The parts of a line store that one turn each performs, as offset and length: those of a common store are half-lines (R80). -/
def Packet.halves (p : Packet) : List (Nat × Nat) :=
  let first := 64 - p.place.off % 64
  if p.place.kind = 3 && first < p.size then [(0, first), (first, p.size - first)] else [(0, p.size)]

/-- Whether a request is a plan instruction for the plan unit of a cluster (R248), which takes no turn of the port. -/
def Packet.forPlan (p : Packet) : Bool := p.kind = 2 && 64 ≤ p.op

/-- The place that a request's next turn serves (R80, R93): the second half-line of a common-store line once the first has been
served; of a view load the code bytes, then the block scale, then the super-scale; of a plan instruction the line that it reads or
writes next (R248). -/
def Packet.part (p : Packet) : Place :=
  if p.forPlan then ((p.plan.head?).map fun w => Place.ofKey w.1).getD p.place
  else if p.kind = 3 && p.place.kind = 3 then p.place.add (64 * p.lost)
  else if p.kind = 4 then p.place.add ((p.halves[p.lost]?).getD (0, 0)).1
  else if p.kind = 0 && p.op ≠ 0 then ((p.element 0).places[p.lost]?).getD p.place
  else p.place

/-- What a request finds in an absent bank (R181). -/
def absentTrap (p : Place) : TrapRec :=
  { cause := 0x0D, sub := if p.kind = 3 then 1 else 0
    info := BitVec.ofNat 64 (if p.kind = 3 then p.bank + 16 * p.group else p.bank) }

/-- The bytes that one turn of a doubleword or narrower load reads (R178): of a view load, those of its part (R93). -/
def Packet.partSize (p : Packet) : Nat :=
  if p.op = 0 then p.size
  else if p.lost = 0 then (p.cmp % 2 + max 1 (p.size / 2) + 1) / 2
  else if p.lost = 1 then 1 else 4

/-- The value of a load whose parts have been read (R90, R178): the code bytes, the block scale and the super-scale of a view
load give its elements. -/
def Packet.loaded (p : Packet) (vs : List Nat) : Nat :=
  if p.op = 0 then vs.headD 0
  else
    let g (i : Nat) : Nat := (vs[i]?).getD 0
    let got := (List.range (max 1 (p.size / 2))).foldl (fun m i =>
      let m := SMap.set m (4 * i) (g 0 / 256 ^ ((p.cmp % 2 + i) / 2) % 256)
      readMarks (SMap.set (SMap.set m (4 * i + 1) (g 1)) (4 * i + 2) (g 2)) (p.element i) i) []
    (loadValue got p.size false (1 + p.port)).toNat

/-- Marks every unit that `n` bytes at a place meet as poisoned (R190). -/
def State.poisonSpan (s : State) (p : Place) (n : Nat) : State :=
  let lo := p.off / p.grain
  (List.range ((p.off + n - 1) / p.grain - lo + 1)).foldl (fun s i =>
    s.poisonAt { p with off := (lo + i) * p.grain }) s

/-- A store served by the network port of a cluster (R178, R213, R216): performed, logged, and its tag applied. -/
def State.portStore (s : State) (p : Packet) (at' : Place) (v n : Nat) (last : Bool) : State :=
  let s := s.store at' v n
  if p.dev ≠ s.device then s
  else
    let s := s.raceStore p.dst at' n (raceSrc p.sdev p.src p.sep)
    if last && p.btag ≠ 0 then s.applyTag p.dst p.btag (if p.kind = 4 then 128 else 8) p.region else s

/-- The answer of a plan instruction: its result words. -/
def State.answerPlan (s : State) (p : Packet) : State := s.answer { p with op := 2 } 14 p.val true none

/-- Argument `i` of a plan instruction's request. -/
def Packet.arg (p : Packet) (i : Nat) : Nat := ((p.ws[i]?).getD 0).toNat

/-- What a plan instruction's request makes of the plan block and its map. -/
def State.planWork (s : State) (p : Packet) : Except TrapRec PlanWork :=
  planUnit s p.place (p.op - 64) (p.arg 0) (p.arg 1) (p.arg 2) ((p.ws.drop 3).map (·.toNat))

/-- Every line that a plan instruction needs has been read: its writes begin, or it is answered. -/
def State.planDecide (s : State) (p : Packet) : State :=
  match s.planWork p with
  | .error t => s.answer p 14 0 true (some t)
  | .ok w =>
    let p := { p with lost := 3, plan := w.map ++ w.block, size := w.map.length, cmp := s.cyc
                      val := w.words.foldr (fun v acc => v + 2 ^ 64 * acc) 0 }
    if p.plan.isEmpty then s.answerPlan p else s.putPacket p

/-- The doublewords at the front of those to be written that lie in one line. -/
def Packet.lineStores (p : Packet) : List (Nat × Nat) :=
  p.plan.takeWhile fun w => (Place.ofKey w.1).line = p.part.line

/-- Stores doublewords of one line: a whole line at once (R92). -/
def State.storeLine (s : State) (ws : List (Nat × Nat)) : State :=
  let p := Place.ofKey ((ws.head?).map (·.1) |>.getD 0)
  if 8 * ws.length = p.span then s.store p (ws.foldr (fun w acc => w.2 + 2 ^ 64 * acc) 0) p.span
  else ws.foldl (fun s w => s.store (Place.ofKey w.1) w.2 8) s

/-- A plan instruction at a service-port turn of its cluster's plan unit (R248): it reads the two lines of the block, then the lines
of the map that it needs, and writes those of the map and those of the block; after the last it is answered. Its stages: 0 and 1 the
block, 2 the map, 3 the writes; `cmp` is the cycle of its last write, and for `DISP` that of the last one of the map (R251). -/
def State.servePlan (s : State) (p : Packet) : State :=
  match p.lost with
  | 0 => s.putPacket { p with lost := 1, plan := [((p.place.add 128).key, 0)] }
  | 1 =>
    let (ks, n) := planReads s p.place (p.op - 64) (p.arg 0) (p.arg 1) (p.arg 2)
    if ks.isEmpty then s.planDecide p
    else s.putPacket { p with lost := 2, plan := ks.map fun k => (k, 0), due := s.cyc + n }
  | 2 => if (p.plan.drop 1).isEmpty then s.planDecide p else s.putPacket { p with plan := p.plan.drop 1 }
  | _ =>
    let now := p.lineStores
    let s := s.storeLine now
    let q := { p with plan := p.plan.drop now.length, size := p.size - now.length
                      cmp := if p.op = 64 && p.size = 0 then p.cmp else s.cyc }
    if q.plan.isEmpty then s.answerPlan q else s.putPacket q

/-- `REMOTE_ACCESS` of one request at its turn (R178, R92, R94): performed, and answered. -/
def State.serveRequest (s : State) (p : Packet) : State :=
  let poisoned : Option TrapRec := some { cause := 0x08 }
  if p.forPlan && 3 ≤ p.lost then s.servePlan p
  else if s.bankAbsent p.part then
    s.answer p (if p.kind = 1 || p.kind = 4 then 15 else 14) 0 true (some (absentTrap p.part))
  else
    match p.kind with
    | 0 =>
      if s.isPoisoned p.part p.partSize then s.answer p 14 0 true poisoned
      else
        let vs := p.ws ++ [BitVec.ofNat 64 (s.readMem p.part.key p.partSize)]
        if p.op ≠ 0 && p.lost < 2 then s.putPacket { p with lost := p.lost + 1, ws := vs }
        else s.answer p 14 (p.loaded (vs.map (·.toNat))) true none
    | 1 => (s.portStore p p.place p.val p.size true).answer p 15 0 true none
    | 2 =>
      if 64 ≤ p.op then s.servePlan p
      else if s.isPoisoned p.place p.size then s.answer p 14 0 true poisoned
      else
        let old := s.readMem p.place.key p.size
        (s.writeMem p.place.key (atomicOp p.op p.size old p.val p.cmp) p.size).answer p 14 old true none
    | 3 =>
      let q := p.part
      let n := if p.place.kind = 3 then 64 else 128
      let v := p.val + s.readMem q.key n * 256 ^ (64 * p.lost)
      let bad := p.fault = 8 || s.isPoisoned q n
      if n = 64 && p.lost = 0 then s.putPacket { p with lost := 1, val := v, fault := if bad then 8 else 0 }
      else s.answer { p with fault := 0 } 14 v true (if bad then poisoned else none)
    | _ =>
      let h := (p.halves[p.lost]?).getD (0, p.size)
      let last := decide (p.halves.length ≤ p.lost + 1)
      let s := s.portStore p p.part (p.val / 256 ^ h.1) h.2 last
      let s := if p.ok then s else s.poisonSpan p.part h.2
      if last then s.answer p 15 0 true none else s.putPacket { p with lost := p.lost + 1 }

/-- Whether a request is for a DRAM channel (R63): the block of a refill whose page has its home there. -/
def Packet.forDram (p : Packet) : Bool := p.place.kind = 4 && (p.kind = 0 || p.kind = 3)

/-- Whether a request touches a line that another one does at the same cluster (R162). -/
def Packet.sharesLine (p q : Packet) : Bool :=
  let reach (x : Packet) : Nat := x.place.off / 128 + (if x.kind = 5 then (x.place.off % 128 + x.size - 1) / 128 else 0)
  let at' (x : Packet) (dev clu : Nat) : Bool :=
    if x.kind = 5 then x.members.any fun m => memberDev m = dev && memberClu m = clu else x.ddev = dev && x.dst = clu
  let kindOf (x : Packet) : Nat := if x.kind = 5 then 2 else x.place.kind
  kindOf p = kindOf q && at' q p.ddev p.dst && p.place.off / 128 ≤ reach q && q.place.off / 128 ≤ reach p

/-- Whether a request that has arrived follows another of its source endpoint to one of its lines which has still to be performed:
requests to one line are performed in the order of their issue (R162). -/
def State.behind (s : State) (p : Packet) : Bool :=
  s.net.any fun q => q.kind ≤ 5 && (q.inj < p.inj || (q.inj = p.inj && q.pid < p.pid)) && q.sdev = p.sdev && q.src = p.src
    && q.sep = p.sep && p.sharesLine q

/-- A packet as a requester of a DRAM channel's queue (R200): a number above those of the slots and channels. -/
def packetRequester : Nat := 2 ^ 20

/-- `REMOTE_ACCESS` (R178); a request that meets a missing turn is held for a revolution (R88), and one for a block of code in a DRAM
channel joins the channel's queue (R63, R200). -/
def execRemoteAccess (pid : Nat) (s : State) : Host.Outcome State Fault Refusal :=
  match s.packet? pid with
  | none => .next s
  | some p =>
    .next (if !p.arrived || 5 ≤ p.kind then s
      else if p.forDram then
        (s.putPacket { p with lost := 1 }).modDram p.place.unit fun d => { d with queue := d.queue ++ [(packetRequester, pid)] }
      else if p.dev = s.device && s.missing p.dst p.part then
        (s.putPacket { p with due := s.cyc + s.revolution p.dst p.part }).event p.dst 9
      else s.serveRequest p)

/-- The bytes of a multicast payload that lie in one line, as offset, count and value, with the number of the line. -/
def mcastPieces (off n v : Nat) : List (Nat × Nat × Nat × Nat) :=
  let first := off / 128
  (List.range (((off + n - 1) / 128) - first + 1)).map fun i =>
    let lo := max off ((first + i) * 128)
    let hi := min (off + n) ((first + i + 1) * 128)
    (i, lo, hi - lo, v / 256 ^ (lo - off))

/-- The pieces of a multicast that have still to be written at its member (R176). -/
def Packet.pieces (p : Packet) : List (Nat × Nat × Nat × Nat) :=
  (mcastPieces p.place.off p.size p.val).filter fun q => !p.cmp.testBit q.1

/-- The piece of a multicast that the network port of its member serves at a cycle, those held apart (R88). -/
def State.pieceAt (s : State) (p : Packet) : Option (Nat × Nat × Nat × Nat) :=
  p.pieces.find? fun q => decide (SMap.get 0 p.held q.1 ≤ s.cyc) && s.turnAt p.dst 16 (cluPlace p.dst q.2.1) s.cyc

/-- `MCAST_DELIVERY` (R176): one line of the payload at its turn, then, after the last, the acknowledgement. -/
def execMcastDelivery (pid : Nat) (s : State) : Host.Outcome State Fault Refusal :=
  match s.packet? pid with
  | none => .next s
  | some p =>
    let base : Place := ⟨if p.dev = s.device then 0 else p.dev + 1, 2, p.dst, 0⟩
    match (if p.dev = s.device then s.pieceAt p else p.pieces.head?) with
    | none => .next s
    | some q =>
      if p.dev = s.device && s.missing p.dst (base.add q.2.1) then
        .next ((s.putPacket { p with held := SMap.set p.held q.1 (s.cyc + s.revolution p.dst (base.add q.2.1)) }).event p.dst 9)
      else if s.bankAbsent (base.add q.2.1) then .next (s.lose p)
      else
        let s := s.portStore p (base.add q.2.1) q.2.2.2 q.2.2.1 false
        let p := { p with cmp := p.cmp + 2 ^ q.1 }
        if p.pieces.isEmpty then .next (s.answer p 15 0 true none) else .next (s.putPacket p)

/-! ## Answers delivered -/

/-- Changes the transfer that a channel executes. -/
def State.modHead (s : State) (clu ch : Nat) (f : Transfer → Transfer) : State :=
  s.modClu clu fun c => { c with chans := vmod c.chans ch fun x => { x with queue := match x.queue with
    | [] => []
    | t :: ts => f t :: ts } }

/-- The parts at the front of those sent that have been delivered count (R185). -/
def Transfer.settle (t : Transfer) : Transfer :=
  let front := t.sent.takeWhile fun q => q.2.2
  let n := front.foldl (fun n q => n + q.2.1) 0
  { t with sent := t.sent.drop front.length, bytes := if t.hop = 0 || t.fwd then t.bytes + n else t.bytes }

/-- The answer to a line or a stamp of a copy channel (R182, R185, R190); that of a transfer which is over is nothing. -/
def Transfer.answered (t : Transfer) (p : Packet) : Transfer :=
  let lost := p.kind = 16
  let cause := if lost then 0x0E else (p.trap.map TrapRec.cause).getD 0
  if p.cont ≠ t.job then t
  else if (if lost then p.op = 3 || p.op = 14 else p.kind = 14) then
    let t := { t with asked := t.asked.erase p.place.key }
    if cause = 0 || cause = 8 then
      { t with got := SMap.set t.got p.place.key (p.val, if cause = 8 then 2 ^ 16 - 1 else 0, 0) }
    else { t with bad := t.bad ++ [(p.place.key, cause)] }
  else if cause ≠ 0 then { t with stop := cause, stopAt := p.place }
  else if t.stampSent then { t with stampDone := true }
  else ({ t with sent := t.sent.map fun q => if q.1 = p.owed then (q.1, q.2.1, true) else q } : Transfer).settle

/-- A read of the service port has been served (R63, R292): its value, that of a block out of its line, and when it is there. -/
def PortRead.served (r : PortRead) (v : Nat) (bad : Bool) (due : Nat) : PortRead :=
  { r with val := if r.code then v / 256 ^ (r.key % 128) % 2 ^ 512 else v, bad := bad, due := due }

/-- The answer to a read that a service port has sent for (R63, R292): one that is lost is sent for again. -/
def Cluster.readAnswer (c : Cluster) (p : Packet) (cyc : Nat) : Cluster :=
  if p.kind = 16 then { c with reads := c.reads.filter fun r => r.seq ≠ p.owed }
  else { c with reads := c.reads.map fun r => if r.seq = p.owed then r.served p.val p.trap.isSome cyc else r }

/-- The endpoints of a service port under which table entries and blocks of code are sent for (log entry 2), and whether an answer is
for one of them. -/
def portEp (code : Bool) : Nat := if code then 25 else 24
def Packet.forPort (p : Packet) : Bool := p.dep = 24 || p.dep = 25

/-- Whether an answer is for a copy channel of its destination cluster. -/
def Packet.forChannel (p : Packet) : Bool := 20 ≤ p.dep && p.dep < 24

/-- The slot that an answer is owed to, and what it is owed for. -/
def State.owedOf (s : State) (p : Packet) : Option Owed :=
  let x := s.slot p.slot
  if x.live && x.cont = p.cont then x.owed.find? fun o => o.id = p.owed else none

def State.dropOwed (s : State) (n id : Nat) : State :=
  s.modSlot n fun x => { x with owed := x.owed.filter fun o => o.id ≠ id }

/-- Returns a response slot, free from the next cycle, or an acknowledgement credit (R164). -/
def State.giveBack (s : State) (n what : Nat) : State :=
  s.modCore (slotCore n) fun c =>
    if [0, 2, 4, 10, 11, 13, 15].contains what then { c with respBack := c.respBack + 1 }
    else if what = 14 then c else { c with credits := c.credits + 1 }

/-- The answer of members of a multicast, or the loss of its packet for them (R176): after the last, the instruction completes. -/
def State.mcastAnswer (s : State) (n : Nat) (o : Owed) (got : Bool) (ms : List Nat) : State :=
  let o := { o with left := o.left - ms.length, count := o.count + (if got then ms.length else 0)
                    lost := if got then o.lost else ms.foldl (fun l m => l ||| (1#64 <<< memberBit m)) o.lost }
  let s := ms.foldl (fun s _ => s.giveBack n 5) s
  if o.left = 0 then
    (s.dropOwed n o.id).modSlot n fun x => { x with phase := 2, buf := [o.count, o.lost.toNat] }
  else s.modSlot n fun x => { x with owed := x.owed.map fun q => if q.id = o.id then o else q }

/-- The record of a cause met at the serving cluster, or of a loss, at the thread that waits (R181, R277). -/
def Owed.trap (o : Owed) (t : TrapRec) : TrapRec := { t with pc := o.pc, addr := o.va }

/-- `RESPONSE_DELIVERY` (R178, R179). -/
def State.respond (s : State) (p : Packet) : State :=
  let n := p.slot
  match s.owedOf p with
  | none => s.dropPacket p.pid
  | some o =>
    let s := s.dropPacket p.pid
    if o.what = 5 then s.mcastAnswer n o true p.members
    else
      let s := (s.dropOwed n o.id).giveBack n o.what
      match p.trap with
      | some t =>
        if o.what = 10 || o.what = 14 then
          s.modSlot n fun x => { x with phase := 95, buf := [t.cause, t.sub, t.addr.toNat, t.info.toNat] }
        else if o.what = 15 then
          if t.cause = 8 then s.modSlot n fun x => { x with phase := 99 }
          else (s.modSlot n fun x => { x with phase := 0, buf := [] }).report n (o.trap t)
        else
          (s.unclaimNext n o.id o.d).report n (o.trap t)
      | none =>
        match o.what with
        | 10 | 14 => s.modSlot n fun x =>
          { x with phase := 2
                   buf := (if o.what = 14 then p.cmp else s.cyc) :: (List.range 12).map fun i => p.val / 2 ^ (64 * i) % 2 ^ 64 }
        | 15 => s.modSlot n fun x => { x with phase := x.phase + 1, buf := [p.val] }
        | 0 | 4 => s.deliver n o.id o.ws o.d (BitVec.ofNat 64 p.val) o.e s.cyc
        | 2 => s.store (localPlace (slotCore n) o.lcl) p.val 128
        | 11 | 13 => s.deliver n o.id o.ws o.d (loadValue [(0, p.val)] o.size o.sx 0) o.e s.cyc
        | 7 => s.modSlot n fun x => { x with phase := if p.ok then 2 else 98 }
        | 9 => s.modSlot n fun x => { x with phase := 2 }
        | 8 => s.freeSlot n
        | _ => s

/-- `RESPONSE_DELIVERY` (R178). -/
def execResponseDelivery (pid : Nat) (s : State) : Host.Outcome State Fault Refusal :=
  match s.packet? pid with
  | none => .next s
  | some p =>
    if p.forChannel then .next ((s.dropPacket pid).modHead p.dst (p.dep - 20) fun t => t.answered p)
    else if p.forPort then .next ((s.dropPacket pid).modClu p.dst fun c => c.readAnswer p s.cyc)
    else .next (s.respond p)

/-- Every continuation of a cluster that is out of its slot: queued, leaving, or waiting in a park table. -/
def State.entries (s : State) (clu : Nat) : List QEntry :=
  (s.clu clu).queues.toList.flatten ++ (s.clu clu).leaving
    ++ (List.range 20).flatMap fun i => (s.core (clu * 20 + i)).park.map ParkEntry.entry

/-- Changes every such entry. -/
def State.mapEntries (s : State) (g : QEntry → QEntry) : State :=
  { s with
      clus := s.clus.map fun t =>
        (t.1, { t.2 with queues := t.2.queues.map (fun l => l.map g), leaving := t.2.leaving.map g })
      cores := s.cores.map fun t => (t.1, { t.2 with park := t.2.park.map fun p => { p with entry := g p.entry } }) }

/-- The entry of a continuation that keeps its context, and its cluster. -/
def State.findEntry (s : State) (k : Nat) : Option (Nat × QEntry) :=
  s.clus.findSome? fun t => ((s.entries t.1).find? fun e => e.cont = some k).map fun e => (t.1, e)

/-- Ends a stream that has lost a packet or is aborted, at both ends (R175, R181): lanes and packets in flight are gone,
the destination port has ABORT set. -/
def State.abortPort (s : State) (sid : Nat) : State :=
  match s.streams.find? fun t => t.1 = sid with
  | none => s
  | some (_, k, q) =>
    let s : State := { s with streams := s.streams.filter fun t => t.1 ≠ sid }
    let mark (y : Slot) : Slot := { y with ports := vmod y.ports q fun p => { p with abort := true, inOpen := false } }
    let note (e : QEntry) : QEntry := if e.cont = some k then { e with aborts := q :: e.aborts } else e
    ({ s with slots := s.slots.map fun t =>
         (t.1, if t.2.live && t.2.cont = k && t.2.saveEnd = 0 then mark t.2 else t.2) } : State).mapEntries note

/-- Removes an open that has not reached its destination, and the lanes it has acquired (R171, R175). -/
def State.dropOpen (s : State) (sid : Nat) : State :=
  { s with net := s.net.filter fun p => !(p.kind = 6 && p.sid = sid)
           lanes := s.lanes.filter fun l => l.2 ≠ sid }

/-- A stream has lost a packet (R181): its sender's port, in its slot or in its saved context, takes cause 0x0E at its next use. -/
def State.losePort (s : State) (p : Packet) : State :=
  if (s.slot p.slot).live && (s.slot p.slot).cont = p.cont then
    s.modSlot p.slot fun x => { x with ports := vmod x.ports p.port fun q =>
      if q.sid = p.sid then
        { q with lost := true, isOpen := false, opening := false, age := 0, since := 0, pend := [] }
      else { q with lost := true } }
  else s.mapEntries fun e => if e.cont = some p.cont then { e with losses := p.port :: e.losses } else e

/-- The call of a token has lost its packet or its reply (R70, R181): the register is disarmed, and the `CALLRM` takes the trap,
with bit P where the reply was lost. -/
def State.loseCall (s : State) (n : Nat) (tok : Word) (p : Bool) : State :=
  (s.modCore (slotCore n) fun c => { c with armedS := c.armedS.filter fun a => a.2 ≠ tok }).modSlot n fun x =>
    { x with armed := x.armed.filter (·.1 ≠ tok)
             calls := x.calls.map fun c => if c.2.1 = tok then (c.1, c.2.1, if p then 2 else 1, c.2.2.2) else c }

/-- The slot that a token names (R71), as a slot number of this device. -/
def tokenSlot (t : Word) : Nat := (tokenClu t * 20 + tokenEp t) * 8 + (t.extractLsb' 37 3).toNat

/-- The consequence of a loss notice at its endpoint (R181). -/
def State.lossAt (s : State) (p : Packet) : State :=
  let n := p.slot
  let s := s.dropPacket p.pid
  let ack := 14 ≤ p.op && p.op ≤ 15
  if 6 ≤ p.op && p.op ≤ 9 then
    let s : State := (s.abortPort p.sid).dropOpen p.sid
    ({ s with net := s.net.filter fun q => !(q.isStream && q.sid = p.sid) } : State).losePort p
  else if p.op = 11 then
    let tok := p.ws.headD 0
    s.loseCall (tokenSlot tok) tok true
  else
    match s.owedOf p with
    | none => s
    | some o =>
      if o.what = 5 then s.mcastAnswer n o false p.members
      else
        let s := (s.dropOwed n o.id).giveBack n o.what
        let t : TrapRec := o.trap { cause := 0x0E, p := ack }
        match o.what with
        | 6 =>
          if ack then s else s.loseCall n o.va false
        | 7 | 9 => s.modSlot n fun x => { x with phase := 97, buf := [ack.toNat] }
        | 10 => (s.modSlot n fun x => { x with phase := 94 }).report n t
        | 15 => (s.modSlot n fun x => { x with phase := 0, buf := [] }).report n t
        | 8 => (s.modSlot n fun x => { x with moving := false }).takeTrap n { t with addr := 0 } o.pc
        | _ =>
          (s.unclaimNext n o.id o.d).report n t

/-- `LOSS_NOTICE` (R181). -/
def execLossNotice (pid : Nat) (s : State) : Host.Outcome State Fault Refusal :=
  match s.packet? pid with
  | none => .next s
  | some p =>
    if p.forChannel then .next ((s.dropPacket pid).modHead p.dst (p.dep - 20) fun t => t.answered p)
    else if p.forPort then .next ((s.dropPacket pid).modClu p.dst fun c => c.readAnswer p s.cyc)
    else .next (s.lossAt p)

/-! ## Streams -/

/-- The thread, running or pre-empted, that holds a slot, of a region (R171): its continuation number. -/
def State.holderOf (s : State) (n : Nat) (region : BitVec 28) : Option Nat :=
  let x := s.slot n
  if x.live then (if x.region = region then some x.cont else none)
  else
    ((s.entries (slotClu n)).find? fun e => e.val.ctx && e.slotNo = n && e.val.region = region).bind (·.cont)

/-- Whether an open that has reached its destination takes the port there (R171), and the continuation that holds it: another
device takes it at once (log entry 13). -/
def State.openTaker (s : State) (p : Packet) : Option Nat :=
  let d := (p.ws[1]?).getD 0
  if p.dev ≠ s.device then some 0
  else match s.holderOf (destSlotNo d) p.region with
  | none => none
  | some k => if s.streams.any fun t => t.2.1 = k && t.2.2 = destPort d then none else some k

/-- `STREAM_OPEN` (R171): the destination port is taken, and the sender's route is held. -/
def execStreamOpen (pid : Nat) (s : State) : Host.Outcome State Fault Refusal :=
  match s.packet? pid with
  | none => .next s
  | some p =>
    let d := (p.ws[1]?).getD 0
    match s.openTaker p with
    | none => .next s
    | some k =>
      let n := destSlotNo d
      let s := s.dropPacket pid
      let s := if p.dev ≠ s.device then s
        else
          let s := { s with streams := s.streams ++ [(p.sid, k, destPort d)] }
          if (s.slot n).live && (s.slot n).cont = k then
            s.modSlot n fun x => { x with ports := vmod x.ports (destPort d) fun q => { q with inOpen := true } }
          else s
      .next (s.modSlot p.slot fun x =>
        if x.live && x.cont = p.cont then
          { x with ports := vmod x.ports p.port fun q =>
              if q.sid = p.sid then { q with opening := false, isOpen := true, age := 0 } else q }
        else x)

/-- The end of a stream at its destination (R173): INOPEN is cleared. -/
def State.closeStream (s : State) (sid : Nat) : State :=
  match s.streams.find? fun t => t.1 = sid with
  | none => s
  | some (_, k, q) =>
    { s with streams := s.streams.filter fun t => t.1 ≠ sid
             slots := s.slots.map fun t => (t.1, if t.2.live && t.2.cont = k then
               { t.2 with ports := vmod t.2.ports q fun p => { p with inOpen := false } } else t.2) }

/-- Where a word of a stream goes (R172): a live slot, or the spill area of a pre-empted continuation; none where the
word has to wait, and a discard where no thread receives it. -/
inductive WordTo where
  | queue (slot : Nat)
  | spill
  | stall
  | nobody
  deriving DecidableEq, Repr

def State.wordTo (s : State) (p : Packet) : WordTo :=
  match s.streams.find? fun t => t.1 = p.sid with
  | none => .nobody
  | some (_, k, q) =>
    match s.slots.find? fun t => t.2.live && t.2.cont = k && t.2.saveEnd = 0 with
    | some (n, x) =>
      let p := (x.ports[q]?).getD {}
      if x.unrestored.contains 1 then (if p.spill.length < 64 then .queue n else .stall)
      else if p.queue.length < 4 && p.spill.isEmpty then .queue n
      else .stall
    | none =>
      match s.findEntry k with
      | none => .nobody
      | some (_, e) => if (e.spill.filter fun w => w.1 = q).length < 64 then .spill else .stall

/-- One word of a stream is gone from the route, whose last hop has a credit back (R172): an end marker closes the stream. -/
def State.wordDone (s : State) (p : Packet) : State :=
  let s := s.dropPacket p.pid
  if p.last then s.closeStream p.sid else s

/-- The offset in local store of a save-area frame (R286): kind 0 slot, 1 V, 2 M. -/
def Eff.frameOff (e : Eff) (kind num : Nat) : Nat :=
  match kind with
  | 0 => e.saveBase + 5632 * num
  | 1 => e.saveBase + 5632 * (e.ns + 1) + 8448 * num
  | _ => e.saveBase + 5632 * (e.ns + 1) + 8448 * e.nv + 33024 * num

/-- Writes a word that arrives for a pre-empted continuation into its port's spill area (R172, R287). -/
def State.spillWord (s : State) (k q : Nat) (v : Word) : State :=
  match s.findEntry k with
  | none => s
  | some (c, e) =>
    match s.eff? (s.rcbOf e.val.region), e.frame with
    | some f, some i =>
      let n := (e.spill.filter fun w => w.1 = q).length
      s.store (localPlace (c * 20 + e.val.core) (f.frameOff 0 i + 1536 + 512 * q + 8 * n)) v.toNat 8
    | _, _ => s

/-- `STREAM_WORD` (R172). -/
def execStreamWord (pid : Nat) (s : State) : Host.Outcome State Fault Refusal :=
  match s.packet? pid with
  | none => .next s
  | some p =>
    let v := p.ws.headD 0
    let t := (s.streams.find? fun t => t.1 = p.sid).getD (0, 0, 0)
    match s.wordTo p with
    | .stall => .next s
    | .nobody => .next (s.wordDone p)
    | .queue n =>
      .next ((s.modSlot n fun x =>
        { x with watchdog := 0
                 ports := vmod x.ports t.2.2 fun q =>
                   if x.unrestored.contains 1 then { q with spill := q.spill ++ [(v, p.last)] }
                   else { q with queue := q.queue ++ [(v, p.last)] } }).wordDone p)
    | .spill =>
      let put (e : QEntry) : QEntry :=
        if e.cont = some t.2.1 then { e with spill := e.spill ++ [(t.2.2, v, p.last)] } else e
      .next (((s.spillWord t.2.1 t.2.2 v).mapEntries put).wordDone p)

/-- `STREAM_END` (R173). -/
def execStreamEnd (pid : Nat) (s : State) : Host.Outcome State Fault Refusal :=
  match s.packet? pid with
  | none => .next s
  | some p => .next ((s.dropPacket pid).closeStream p.sid)

/-- `STREAM_ABORT` (R175): at the destination ABORT is set and INOPEN cleared. -/
def execStreamAbort (pid : Nat) (s : State) : Host.Outcome State Fault Refusal :=
  match s.packet? pid with
  | none => .next s
  | some p => .next ((s.dropPacket pid).abortPort p.sid)

/-- Gives up the open of a port that has not been answered (R171, R175). -/
def State.giveUpOpen (s : State) (n q : Nat) : State :=
  (s.dropOpen (((s.slot n).ports[q]?).getD {}).sid).modSlot n fun x =>
    { x with ports := vmod x.ports q fun p => { p with opening := false, age := 0, since := 0 } }

/-- The opens that a thread waits for are given up (R171), as when it is pre-empted; one for the word of a performed load goes
on. -/
def State.giveUpOpens (s : State) (n : Nat) : State :=
  (List.range 8).foldl (fun s q =>
    let p := ((s.slot n).ports[q]?).getD {}
    if p.opening && p.pend.isEmpty then s.giveUpOpen n q else s) s

/-- `STREAM_TIMEOUT` (R175): an abort releases the route, then the trap of cause 0x0B waits for the thread's next
boundary. -/
def execStreamTimeout (slot port : Nat) (s : State) : Host.Outcome State Fault Refusal :=
  let p := ((s.slot slot).ports[port]?).getD {}
  let s := if p.isOpen then
      (s.streamPacket slot port 9 0 false).modSlot slot fun x =>
        { x with ports := vmod x.ports port fun q => { q with isOpen := false, age := 0, since := 0 } }
    else s.giveUpOpen slot port
  let s := s.modSlot slot fun x => { x with ports := vmod x.ports port fun q => { q with pend := [] } }
  .next (s.report slot { cause := 0x0B, sub := port, pc := (s.slot slot).pc, info := p.dest })

/-- `GROUP_WATCHDOG` (R153). -/
def execGroupWatchdog (slot : Nat) (s : State) : Host.Outcome State Fault Refusal :=
  let x := s.slot slot
  let q := x.rxWait.getD 0
  .next ((s.modSlot slot fun x => { x with watchdog := 0 }).report slot
    { cause := 0x0B, sub := q, pc := x.pc, info := ((x.ports[q]?).getD {}).dest })

/-! ## Links and gating -/

/-- `LANE_DROP` (R158, R180): a ring link drops its worst lane, or is taken down with its second; a fabric lane is lost
whole. The management core is told. -/
def execLaneDrop (clu dir : Nat) (s : State) : Host.Outcome State Fault Refusal :=
  let (q, d) := linkEnd clu dir
  let s := s.modClu q fun c => { c with resends := vmod c.resends d fun _ => [] }
  if d = 7 then .next ((s.modClu q fun c => { c with laneDown := true }).tellMgmt 0x100 q d {})
  else
    let s := s.modClu q fun c => { c with ringLost := vmod c.ringLost d fun n => min 2 (n + 1) }
    .next (if s.linkDown q d then s.tellMgmt 0x100 q d {} else s)

/-- `ROUTER_GATE` (R167). -/
def execRouterGate (clu : Nat) (s : State) : Host.Outcome State Fault Refusal :=
  .next (s.modClu clu fun c => { c with gated := true, rready := 0 })

/-- `ROUTER_WAKE` (R167). -/
def execRouterWake (clu : Nat) (s : State) : Host.Outcome State Fault Refusal :=
  .next (s.modClu clu fun c => { c with gated := false, rready := 0, rlast := s.cyc })

/-! ## Remote instructions -/

/-- The target of a remote instruction, with the checks of R178 in their order. -/
def remoteTarget (k : Acc) (ea : Word) (z : Nat) : M Target := do
  raiseIf (ea.toNat % z ≠ 0) 0x04 0 ea 0
  let noPath : M Target := raise 0x15 0 ea 0
  let t ← onTrap (resolve k ea) fun t => do
    if t.cause = 0x07 then
      let e ← myEff
      let (pte, _) ← translate e.troot ea.toNat false
      if pte.extractLsb' 12 2 = 1 then noPath else trapRec t
    else trapRec t
  raiseIf (t.place.kind = 1 || t.place.kind = 4) 0x15 0 ea 0
  raiseIf (t.view ≠ 0) 0x07 0 ea 0
  return t

/-- The local line of `RLDV` and `RSTV` (R178). -/
def remoteLocal (lcl : Word) : M Place := do
  raiseIf (lcl.toNat % 128 ≠ 0) 0x04 0 lcl 0
  raiseIf (decide (0x40000 < lcl.toNat + 128)) 0x06 3 lcl 0
  raiseIf (decide ((← localBound) < lcl.toNat + 128)) 0x06 3 lcl 0
  return localPlace (slotCore (← get).cur) lcl.toNat

/-- Sends the request of a remote instruction (R178) after its thread's earlier accesses to the line (R204); a release that is held
waits among the slot's accesses (R208). -/
def remoteSend (kind : Nat) (t : Target) (z op : Nat) (x c : Nat) (tag : Nat) (held : Bool) (o : Owed) : M Unit := do
  let s ← get
  remoteGate t.place false
  waitIf (s.me.acc.any fun a => a.units.any fun u => t.place.meets z u.place u.place.span) 3
  if kind ≠ 0 && kind ≠ 3 then tileGate t.place z
  waitIf (held && 4 ≤ s.me.acc.length) 3
  if kind = 1 || kind = 4 then reserveCredits 1 else reserveResp
  let id ← addOwed { o with place := t.place, ord := t.ord }
  let e := t.place
  let p : Packet := { s.packetOf s.cur kind with
    ddev := if e.dev = 0 then s.device else e.dev - 1
    dst := if e.kind = 2 then e.unit else e.unit * 32 + e.group
    dep := 30, place := e, size := z, op := op, val := x, cmp := c, btag := tag, owed := id }
  if held then addAccess { id := 0, fin := .remote p, va := o.va, ord := t.ord, rel := true, scope := o.scope }
  else sendPacket p

/-- Sends the held requests whose release no earlier access of their thread holds any more (R208). -/
def State.sendHeld (s : State) (n : Nat) : State :=
  let core := slotCore n
  (s.slot n).acc.foldl (fun s a =>
    match a.fin with
    | .remote p =>
      let x := s.slot n
      let first := !(x.acc.any fun b => decide (b.id < a.id) && b.inScope core a.scope)
        && !(x.owed.any fun o => decide (o.id < p.owed) && inScope core a.scope o.place)
      if first then (s.modSlot n fun x => { x with acc := x.acc.filter fun b => b.id ≠ a.id }).send p else s
    | _ => s) s

/-- `RLD` (R178). -/
def execRld (d a : Spec) (f : Form) (s : State) : Host.Outcome State Fault Refusal :=
  issue (.rld d a f) (do
    let ea ← src f a
    let t ← remoteTarget .load ea 8
    loadDstCheck d
    orderGate t.place t.ord 8
    loadReady d
    checkWatch 1 ea 8
    let q := qualOf f.qual t.ord
    remoteSend 0 t 8 0 0 0 0 false { id := 0, what := 0, d := d, e := f.endMark, va := ea, acq := q = 1 || q = 3, scope := f.scope }
    claimNext d) s

/-- `RST` (R178). -/
def execRst (a b : Spec) (f : Form) (s : State) : Host.Outcome State Fault Refusal :=
  issue (.rst a b f) (do
    let ea ← src f a
    let t ← remoteTarget .store ea 8
    let v ← src f b
    orderGate t.place t.ord 8 true
    checkWatch 2 ea 8
    remoteSend 1 t 8 0 v.toNat 0 f.tag ((← get).relHeld f.qual f.scope t.ord) { id := 0, what := 1, va := ea, scope := f.scope }) s

/-- `RLDV` (R178). -/
def execRldv (d a : Spec) (f : Form) (s : State) : Host.Outcome State Fault Refusal :=
  issue (.rldv d a f) (do
    let ea ← src f a
    let l ← src f d
    let t ← remoteTarget .load ea 128
    let p ← remoteLocal l
    orderGate t.place t.ord 128
    orderGate p (← get).windowOrd 128 true
    tileGate p 128
    checkWatch 1 ea 128
    checkWatch 2 l 128
    remoteSend 3 t 128 0 0 0 0 false { id := 0, what := 2, lcl := p.off, size := 128, va := ea }) s

/-- `RSTV` (R178). -/
def execRstv (a b : Spec) (f : Form) (s : State) : Host.Outcome State Fault Refusal :=
  issue (.rstv a b f) (do
    let ea ← src f a
    let l ← src f b
    let t ← remoteTarget .store ea 128
    let p ← remoteLocal l
    orderGate t.place t.ord 128 true
    orderGate p (← get).windowOrd 128
    needPort
    localPoison p 128 l
    checkWatch 2 ea 128
    checkWatch 1 l 128
    let s ← get
    remoteSend 4 t 128 0 (s.readMem p.key 128) 0 f.tag (s.relHeld f.qual f.scope t.ord)
      { id := 0, what := 3, va := ea, scope := f.scope }) s

/-- `RAT` (R178). -/
def execRat (d a b : Spec) (f : Form) (s : State) : Host.Outcome State Fault Refusal :=
  issue (.rat d a b f) (do
    let ea ← src f a
    let x ← src f b
    let op := (f.xfn.extractLsb' 0 4).toNat
    let c ← if op = 9 then src f f.c else pure 0
    let z := if f.ty 7 = 5 then 4 else 8
    let t ← remoteTarget .atomic ea z
    loadDstCheck d
    orderGate t.place t.ord z true
    loadReady d
    checkWatch 3 ea z
    let q := qualOf f.qual t.ord
    remoteSend 2 t z op x.toNat c.toNat 0 ((← get).relHeld f.qual f.scope t.ord)
      { id := 0, what := 4, d := d, size := z, e := f.endMark, va := ea, acq := q = 1 || q = 3, scope := f.scope }
    claimNext d) s

/-! ## Ports -/

/-- `PBIND` (R170, R171): it waits for the words that earlier writes owe the port, one of which may close its route. -/
def execPbind (d a : Spec) (f : Form) (s : State) : Host.Outcome State Fault Refusal :=
  issue (.pbind d a f) (do
    let w ← src f a
    let q := d.toNat % 8
    waitIf ((← me).portPending q) 2
    raiseIf (((← me).ports[q]?).getD {}).isOpen 0x02 1 0 0
    destCheck w true
    modMe fun x => { x with ports := vmod x.ports q fun p => { p with bound := true, dest := w } }) s

/-- `PCLOSE` (R173). -/
def execPclose (a : Spec) (f : Form) (s : State) : Host.Outcome State Fault Refusal :=
  issue (.pclose a f) (do
    let q := a.toNat % 8
    waitIf ((← me).portPending q) 2
    let p := ((← me).ports[q]?).getD {}
    if p.lost then portCheck q
    if p.isOpen then
      let s ← get
      set ((s.streamPacket s.cur q 8 0 false).modSlot s.cur fun x =>
        { x with ports := vmod x.ports q fun p => { p with isOpen := false, age := 0, since := 0 } })) s

/-- The status of a port (R174). -/
def Port.status (p : Port) : Word :=
  BitVec.ofNat 64 ((if p.isOpen then min p.age (2 ^ 21 - 1) else 0) * 4096 + p.queue.length * 512 + p.inOpen.toNat * 256
    + p.lastE.toNat * 128 + p.abort.toNat * 64 + p.isOpen.toNat * 8 + p.bound.toNat * 4)

/-- `PSTAT` (R174). -/
def execPstat (d a : Spec) (f : Form) (s : State) : Host.Outcome State Fault Refusal :=
  issue (.pstat d a f) (do
    let q := a.toNat % 8
    let v := (((← me).ports[q]?).getD {}).status
    dst f d v 3
    modMe fun x => { x with ports := vmod x.ports q fun p => { p with abort := false } }) s

/-- The place of an offset in the cluster store of a member of a multicast (R176). -/
def State.memberPlace (s : State) (m off : Nat) : Place :=
  ⟨if memberDev m = s.device then 0 else memberDev m + 1, 2, memberClu m, off⟩

/-- The gates of a multicast, a store to every member (R162, R176, R204, R207, R141). -/
def mcastGates (ms : List Nat) (off n : Nat) : M Unit := do
  let ord := (← get).windowOrd
  for q in mcastPieces off n 0 do
    remoteGate ⟨0, 2, 0, q.2.1⟩ true
  for m in ms do
    let p := (← get).memberPlace m off
    orderGate p ord n true
    tileGate p n
    waitIf ((← me).acc.any fun a => a.units.any fun u => p.meets n u.place u.place.span) 3

/-- `MCAST` (R176): checks, the payload read at issue, one packet, and the wait for every acknowledgement. -/
def execMcast (d a b : Spec) (f : Form) (s : State) : Host.Outcome State Fault Refusal :=
  issue (.mcast d a b f) (do
    let x ← me
    if x.phase = 2 then
      lateDst f d (BitVec.ofNat 64 (x.buf.headD 0)) (← get).cyc
      let lost := BitVec.ofNat 64 ((x.buf[1]?).getD 0)
      if lost ≠ 0 then
        modify fun s => s.report s.cur { cause := 0x0E, pc := x.pc, info := lost }
    else
      waitIf (x.phase = 1) 3
      let w ← src f d
      let la ← src f a
      let m ← src f b
      let off := (w.extractLsb' 0 20).toNat
      let n := (w.extractLsb' 20 9).toNat
      raiseIf (w.extractLsb' 29 35 ≠ 0 || n = 0 || 256 < n || n % 8 ≠ 0) 0x02 5 0 0
      raiseIf (off % 8 ≠ 0) 0x04 0 (BitVec.ofNat 64 off) 0
      raiseIf (la.toNat % 8 ≠ 0) 0x04 0 la 0
      raiseIf (off / 2048 ≠ (off + n - 1) / 2048) 0x02 5 0 0
      raiseIf (decide (0x40000 < la.toNat + n)) 0x15 0 la 0
      raiseIf (decide ((← localBound) < la.toNat + n)) 0x06 3 la 0
      let e ← myEff
      raiseIf (m >>> e.part.length ≠ 0) 0x0A 0 0 m
      let s ← get
      let ms := (List.range e.part.length).filterMap fun i =>
        let w := e.part[i]?.getD 0
        if m.getLsbD i && !(f.xfn.getLsbD 0 && partDev w = s.device && partClu w = slotClu s.cur) then
          some (memberNo i (partDev w) (partClu w)) else none
      loadDstCheck d
      if ms.isEmpty then dst f d 0 3
      else
        let p := localPlace (slotCore s.cur) la.toNat
        mcastGates ms off n
        orderGate p s.windowOrd n
        needPort
        localPoison p n la
        checkWatch 1 la n
        reserveCredits ms.length
        let id ← addOwed { id := 0, what := 5, left := ms.length, place := s.memberPlace (ms.headD 0) off, size := n
                           ord := s.windowOrd }
        let s ← get
        let v := s.readMem p.key n
        sendPacket { s.packetOf s.cur 5 with
          ddev := memberDev (ms.headD 0), dst := memberClu (ms.headD 0), dep := 30, place := ⟨0, 2, 0, off⟩, size := n
          val := v, members := ms, owed := id }
        modMe fun x => { x with phase := 1 }
        wait 3) s

end Sys2Proof.Machine
end

