-- ==== Sys2Proof/Machine/Scalar.lean ====
section
/-! DEFINITION. Integer, compare, predicate, select and bit-field instructions, majors 0x01 to 0x0D (R51 to R59). -/

namespace Sys2Proof.Machine

/-! ## Shared operations -/

/-- A two-operand integer instruction: B or the literal, result available three cycles later (R51, R46). -/
def alu2 (f : Form) (d a b : Spec) (op : Word → Word → Word) (lat : Nat) : M Unit := do
  let x ← src f a
  let y ← srcB f b
  dst f d (op x y) lat

/-- A one-operand integer instruction (R51). -/
def alu1 (f : Form) (d a : Spec) (op : Word → Word) : M Unit := do
  let x ← src f a
  dst f d (op x) 3

/-- A divide-family instruction (R46, R52): ready only when the core's divider is free, which it then keeps for 20
cycles. -/
def divide (f : Form) (d a b : Spec) (op : Word → Word → Word) : M Unit := do
  let s ← get
  waitIf (decide (s.cyc < (s.core (slotCore s.cur)).divFree)) 1
  alu2 f d a b op 22
  modCore fun c => { c with divFree := s.cyc + 20 }

/-- The immediate of a form-I arithmetic instruction, sign-extended, or the literal (R53). -/
def immI (i : BitVec 12) : Form → Word
  | .base => i.signExtend 64
  | .ext _ m => m.signExtend 64
  | f => f.litVal

/-- An immediate instruction (R53). -/
def aluI (f : Form) (d a : Spec) (i : BitVec 12) (op : Word → Word → Word) : M Unit := do
  let x ← src f a
  dst f d (op x (immI i f)) 3

/-- Shifts by B[5:0] (R51). -/
def shlW (a b : Word) : Word := a <<< (b.toNat % 64)
def shrW (a b : Word) : Word := a >>> (b.toNat % 64)
def sarW (a b : Word) : Word := a.sshiftRight (b.toNat % 64)
def rolW (a b : Word) : Word := a.rotateLeft (b.toNat % 64)

def minW (a b : Word) : Word := if a.toInt ≤ b.toInt then a else b
def maxW (a b : Word) : Word := if a.toInt ≤ b.toInt then b else a
def minnW (a b : Word) : Word := if a.toNat ≤ b.toNat then a else b
def maxnW (a b : Word) : Word := if a.toNat ≤ b.toNat then b else a

/-- High halves of products (R51). -/
def mulhW (a b : Word) : Word := BitVec.ofInt 64 (a.toInt * b.toInt / 2 ^ 64)
def mulhnW (a b : Word) : Word := BitVec.ofNat 64 (a.toNat * b.toNat / 2 ^ 64)

/-- Division and its borderline cases (R51, R52): the quotient is truncated toward zero. -/
def divW (a b : Word) : Word := if b = 0 then BitVec.allOnes 64 else BitVec.ofInt 64 (a.toInt.tdiv b.toInt)
def divnW (a b : Word) : Word := if b = 0 then BitVec.allOnes 64 else BitVec.ofNat 64 (a.toNat / b.toNat)
def remW (a b : Word) : Word := if b = 0 then a else BitVec.ofInt 64 (a.toInt.tmod b.toInt)
def remnW (a b : Word) : Word := if b = 0 then a else BitVec.ofNat 64 (a.toNat % b.toNat)

/-- Bit counts (R51). -/
def clzW (a : Word) : Word := if a = 0 then 64 else BitVec.ofNat 64 (63 - Nat.log2 a.toNat)
def popN (a n : Nat) : Nat := ((List.range n).filter fun i => a.testBit i).length
def popcW (a : Word) : Word := BitVec.ofNat 64 (popN a.toNat 64)
def ctzW (a : Word) : Word := BitVec.ofNat 64 (((List.range 64).find? fun i => a.getLsbD i).getD 64)

/-- `SHFI` operations 0 to 3 (R54). -/
def shiftOp (o : BitVec 2) : Word → Word → Word :=
  match o.toNat with
  | 0 => shlW
  | 1 => shrW
  | 2 => sarW
  | _ => rolW

/-- A compare that writes a predicate (R55). -/
def compare (p : Spec) (c : Nat) (x y : Word) : M Unit := setPred (p.extractLsb' 0 5) (condHolds c x y) 3

/-- A predicate instruction over two predicates (R56). -/
def predOp (d a b : Spec) (op : Bool → Bool → Bool) : M Unit := do
  let x ← me
  setPred (d.extractLsb' 0 5) (op (x.pred (a.extractLsb' 0 5)) (x.pred (b.extractLsb' 0 5))) 3

/-- The bits of `v` from `pos`, `wid` of them, replaced by those of `x` (R59). -/
def insertBits (v x : Word) (pos wid : Nat) : Word :=
  let m : Word := (BitVec.allOnes 64 >>> (64 - wid)) <<< pos
  (v &&& ~~~m) ||| ((x <<< pos) &&& m)

/-- `wid` bits of `v` from `pos`, zero- or sign-extended (R59). -/
def extractBits (v : Word) (pos wid : Nat) (sx : Bool) : Word :=
  let x := (v >>> pos) <<< (64 - wid)
  if sx then x.sshiftRight (64 - wid) else x >>> (64 - wid)

/-- `BITF` (R59). -/
def bitField (f : Form) (d b : Spec) : M Unit := do
  let m := f.imm
  let (pos, wid) := f.field
  let y ← srcB f b
  if m.getLsbD 9 then
    let x ← src f d
    dst f d (insertBits x y pos wid) 3
  else dst f d (extractBits y pos wid (m.getLsbD 8)) 3

/-- `LEA` (R58). -/
def leaOp (f : Form) (d a b : Spec) (sh : Nat) : M Unit := do
  let x ← src f a
  let y ← srcB f b
  dst f d (x + (y <<< sh) + f.imm.signExtend 64) 3

/-- `SEL` (R57). -/
def selOp (f : Form) (d a b : Spec) (p : BitVec 5) (n : Bool) : M Unit := do
  let x ← src f a
  let y ← srcB f b
  dst f d (if (← me).pred p != n then x else y) 3

/-! ## The meanings -/

/-- `ADD` (R51). -/
def execAdd (d a b : Spec) (f : Form) (s : State) : Host.Outcome State Fault Refusal :=
  issue (.add d a b f) (alu2 f d a b (fun x y => x + y) 3) s

/-- `SUB` (R51). -/
def execSub (d a b : Spec) (f : Form) (s : State) : Host.Outcome State Fault Refusal :=
  issue (.sub d a b f) (alu2 f d a b (fun x y => x - y) 3) s

/-- `AND` (R51). -/
def execAnd (d a b : Spec) (f : Form) (s : State) : Host.Outcome State Fault Refusal :=
  issue (.and d a b f) (alu2 f d a b (fun x y => x &&& y) 3) s

/-- `OR` (R51). -/
def execOr (d a b : Spec) (f : Form) (s : State) : Host.Outcome State Fault Refusal :=
  issue (.or d a b f) (alu2 f d a b (fun x y => x ||| y) 3) s

/-- `XOR` (R51). -/
def execXor (d a b : Spec) (f : Form) (s : State) : Host.Outcome State Fault Refusal :=
  issue (.xor d a b f) (alu2 f d a b (fun x y => x ^^^ y) 3) s

/-- `ANDN` (R51). -/
def execAndn (d a b : Spec) (f : Form) (s : State) : Host.Outcome State Fault Refusal :=
  issue (.andn d a b f) (alu2 f d a b (fun x y => x &&& ~~~y) 3) s

/-- `SHL` (R51). -/
def execShl (d a b : Spec) (f : Form) (s : State) : Host.Outcome State Fault Refusal :=
  issue (.shl d a b f) (alu2 f d a b shlW 3) s

/-- `SHR` (R51). -/
def execShr (d a b : Spec) (f : Form) (s : State) : Host.Outcome State Fault Refusal :=
  issue (.shr d a b f) (alu2 f d a b shrW 3) s

/-- `SAR` (R51). -/
def execSar (d a b : Spec) (f : Form) (s : State) : Host.Outcome State Fault Refusal :=
  issue (.sar d a b f) (alu2 f d a b sarW 3) s

/-- `ROL` (R51). -/
def execRol (d a b : Spec) (f : Form) (s : State) : Host.Outcome State Fault Refusal :=
  issue (.rol d a b f) (alu2 f d a b rolW 3) s

/-- `MIN` (R51). -/
def execMin (d a b : Spec) (f : Form) (s : State) : Host.Outcome State Fault Refusal :=
  issue (.min d a b f) (alu2 f d a b minW 3) s

/-- `MAX` (R51). -/
def execMax (d a b : Spec) (f : Form) (s : State) : Host.Outcome State Fault Refusal :=
  issue (.max d a b f) (alu2 f d a b maxW 3) s

/-- `MINN` (R51). -/
def execMinn (d a b : Spec) (f : Form) (s : State) : Host.Outcome State Fault Refusal :=
  issue (.minn d a b f) (alu2 f d a b minnW 3) s

/-- `MAXN` (R51). -/
def execMaxn (d a b : Spec) (f : Form) (s : State) : Host.Outcome State Fault Refusal :=
  issue (.maxn d a b f) (alu2 f d a b maxnW 3) s

/-- `MUL` (R51). -/
def execMul (d a b : Spec) (f : Form) (s : State) : Host.Outcome State Fault Refusal :=
  issue (.mul d a b f) (alu2 f d a b (fun x y => x * y) 5) s

/-- `MULH` (R51). -/
def execMulh (d a b : Spec) (f : Form) (s : State) : Host.Outcome State Fault Refusal :=
  issue (.mulh d a b f) (alu2 f d a b mulhW 5) s

/-- `MULHN` (R51). -/
def execMulhn (d a b : Spec) (f : Form) (s : State) : Host.Outcome State Fault Refusal :=
  issue (.mulhn d a b f) (alu2 f d a b mulhnW 5) s

/-- `DIV` (R52). -/
def execDiv (d a b : Spec) (f : Form) (s : State) : Host.Outcome State Fault Refusal :=
  issue (.div d a b f) (divide f d a b divW) s

/-- `DIVN` (R52). -/
def execDivn (d a b : Spec) (f : Form) (s : State) : Host.Outcome State Fault Refusal :=
  issue (.divn d a b f) (divide f d a b divnW) s

/-- `REM` (R52). -/
def execRem (d a b : Spec) (f : Form) (s : State) : Host.Outcome State Fault Refusal :=
  issue (.rem d a b f) (divide f d a b remW) s

/-- `REMN` (R52). -/
def execRemn (d a b : Spec) (f : Form) (s : State) : Host.Outcome State Fault Refusal :=
  issue (.remn d a b f) (divide f d a b remnW) s

/-- `CLZ` (R51). -/
def execClz (d a : Spec) (f : Form) (s : State) : Host.Outcome State Fault Refusal :=
  issue (.clz d a f) (alu1 f d a clzW) s

/-- `POPC` (R51). -/
def execPopc (d a : Spec) (f : Form) (s : State) : Host.Outcome State Fault Refusal :=
  issue (.popc d a f) (alu1 f d a popcW) s

/-- `CTZ` (R51). -/
def execCtz (d a : Spec) (f : Form) (s : State) : Host.Outcome State Fault Refusal :=
  issue (.ctz d a f) (alu1 f d a ctzW) s

/-- `ADDI` (R53). -/
def execAddi (d a : Spec) (i : BitVec 12) (f : Form) (s : State) : Host.Outcome State Fault Refusal :=
  issue (.addi d a i f) (aluI f d a i (fun x y => x + y)) s

/-- `ANDI` (R53). -/
def execAndi (d a : Spec) (i : BitVec 12) (f : Form) (s : State) : Host.Outcome State Fault Refusal :=
  issue (.andi d a i f) (aluI f d a i (fun x y => x &&& y)) s

/-- `ORI` (R53). -/
def execOri (d a : Spec) (i : BitVec 12) (f : Form) (s : State) : Host.Outcome State Fault Refusal :=
  issue (.ori d a i f) (aluI f d a i (fun x y => x ||| y)) s

/-- `XORI` (R53). -/
def execXori (d a : Spec) (i : BitVec 12) (f : Form) (s : State) : Host.Outcome State Fault Refusal :=
  issue (.xori d a i f) (aluI f d a i (fun x y => x ^^^ y)) s

/-- `SHFI` (R54): in the extended form IMM32[7:0] carry the operation and the amount. -/
def execShfi (d a : Spec) (o : BitVec 2) (n : BitVec 6) (f : Form) (s : State) : Host.Outcome State Fault Refusal :=
  issue (.shfi d a o n f) (do
    let x ← src f a
    let ext := f.ext?.isSome
    let op := if ext then f.imm.extractLsb' 6 2 else o
    let k := if ext then f.imm.extractLsb' 0 6 else n
    dst f d (shiftOp op x (k.setWidth 64)) 3) s

/-- `MOVI` (R53). -/
def execMovi (d : Spec) (i : BitVec 12) (f : Form) (s : State) : Host.Outcome State Fault Refusal :=
  issue (.movi d i f) (dst f d (immI i f) 3) s

/-- `CMP` (R55). -/
def execCmp (d a b : Spec) (c : BitVec 6) (f : Form) (s : State) : Host.Outcome State Fault Refusal :=
  issue (.cmp d a b c f) (do
    let x ← src f a
    let y ← srcB f b
    compare d c.toNat x y) s

/-- `CMPI` (R55). -/
def execCmpi (d a : Spec) (c : BitVec 6) (i : BitVec 6) (f : Form) (s : State) : Host.Outcome State Fault Refusal :=
  issue (.cmpi d a c i f) (do
    let x ← src f a
    compare d c.toNat x (match f with
      | .base => i.signExtend 64
      | .ext _ m => m.signExtend 64
      | f => f.litVal)) s

/-- `PAND` (R56). -/
def execPand (d a b : Spec) (f : Form) (s : State) : Host.Outcome State Fault Refusal :=
  issue (.pand d a b f) (predOp d a b (fun x y => x && y)) s

/-- `POR` (R56). -/
def execPor (d a b : Spec) (f : Form) (s : State) : Host.Outcome State Fault Refusal :=
  issue (.por d a b f) (predOp d a b (fun x y => x || y)) s

/-- `PXOR` (R56). -/
def execPxor (d a b : Spec) (f : Form) (s : State) : Host.Outcome State Fault Refusal :=
  issue (.pxor d a b f) (predOp d a b (fun x y => x != y)) s

/-- `PANDN` (R56). -/
def execPandn (d a b : Spec) (f : Form) (s : State) : Host.Outcome State Fault Refusal :=
  issue (.pandn d a b f) (predOp d a b (fun x y => x && !y)) s

/-- `PNOT` (R56). -/
def execPnot (d a : Spec) (f : Form) (s : State) : Host.Outcome State Fault Refusal :=
  issue (.pnot d a f) (predOp d a a fun x _ => !x) s

/-- `PSET` (R56). -/
def execPset (d : Spec) (f : Form) (s : State) : Host.Outcome State Fault Refusal :=
  issue (.pset d f) (setPred (d.extractLsb' 0 5) true 3) s

/-- `PCLR` (R56). -/
def execPclr (d : Spec) (f : Form) (s : State) : Host.Outcome State Fault Refusal :=
  issue (.pclr d f) (setPred (d.extractLsb' 0 5) false 3) s

/-- `PMOVR` (R56). -/
def execPmovr (d : Spec) (f : Form) (s : State) : Host.Outcome State Fault Refusal :=
  issue (.pmovr d f) (do
    dst f d (((← me).pw ||| 0x80000000#32).setWidth 64) 3) s

/-- `PMOVW` (R56). -/
def execPmovw (a : Spec) (f : Form) (s : State) : Host.Outcome State Fault Refusal :=
  issue (.pmovw a f) (do
    let x ← src f a
    let s ← get
    modMe fun y => allPreds.foldl (fun y p => y.later p (s.cyc + 3))
      { y with pw := x.setWidth 32 ||| 0x80000000#32 }) s

/-- `SEL` (R57). -/
def execSel (d a b : Spec) (n : BitVec 1) (p : BitVec 5) (f : Form) (s : State) :
    Host.Outcome State Fault Refusal :=
  issue (.sel d a b n p f) (selOp f d a b p (n = 1)) s

/-- `LEA` (R58). -/
def execLea (d a b : Spec) (sh : BitVec 2) (f : Form) (s : State) : Host.Outcome State Fault Refusal :=
  issue (.lea d a b sh f) (leaOp f d a b sh.toNat) s

/-- `BITF` (R59). -/
def execBitf (d b : Spec) (f : Form) (s : State) : Host.Outcome State Fault Refusal :=
  issue (.bitf d b f) (bitField f d b) s

end Sys2Proof.Machine
end

