-- ==== Sys2Proof/Machine/Vector.lean ====
section
/-! DEFINITION. Vector instructions: majors 0x24 to 0x2F (R22, R111 to R131). -/

namespace Sys2Proof.Machine

/-! ## The vector unit -/

/-- Extra latency of the vector unit, which accepts an instruction in one cycle on a compute core and in four on a memory
core (R115). -/
def vecUnit : M Nat := do
  let s ← get
  if isMemCore (slotCore s.cur) then
    waitIf (decide (s.cyc < (← myCore).vecFree)) 1
    modCore fun c => { c with vecFree := s.cyc + 4 }
    return 3
  else return 0

/-- Extra latency of an instruction that uses the core's shared normaliser (R116): it waits for it, keeps it for 8 cycles,
and its slot issues nothing meanwhile. -/
def normaliser (used : Bool) : M Nat := do
  if used then
    let s ← get
    waitIf (decide (s.cyc < (← myCore).normFree)) 1
    modCore fun c => { c with normFree := s.cyc + 8 }
    modMe fun x => { x with notBefore := s.cyc + 8 }
    return 8
  else return 0

/-- The divide unit of the vector unit (R115), kept for 8 cycles by every kind of core (log entry 66). -/
def vecDivider : M Unit := do
  let s ← get
  waitIf (decide (s.cyc < (← myCore).vdivFree)) 1
  modCore fun c => { c with vdivFree := s.cyc + 8 }

/-- Vector register of a field. -/
def Slot.vreg (x : Slot) (v : Spec) : BitVec 2048 := x.vec.v[v.toNat % 32]?.getD 0

/-- The element of a type in a lane (R112). -/
def elem (ty : Nat) (v : BitVec 2048) (i : Nat) : Nat := (lane v i).toNat % 2 ^ tyBits ty

/-- Writes a vector register with a result available after `lat` cycles. -/
def setV (d : Spec) (v : BitVec 2048) (lat : Nat) : M Unit := do
  let c := (← get).cyc
  modMe fun x => (x.setVec (d.toNat % 32) v).later (.vreg (d.extractLsb' 0 5)) (c + lat)

/-- Writes a mask: a write to `k0` is discarded (R35). -/
def setMask (d : Spec) (v : Word) (lat : Nat) : M Unit := do
  let c := (← get).cyc
  if d.toNat % 8 ≠ 0 then
    modMe fun x => Slot.later { x with vec := { x.vec with k := x.vec.k.set! (d.toNat % 8) v } }
      (.mask (d.extractLsb' 0 3)) (c + lat)

/-- Raises sticky flags, five bits a lane, unless Q is set (R114); they become available with the result. -/
def raiseFlags (f : Form) (fl : Nat) (lat : Nat) : M Unit := do
  let c := (← get).cyc
  if !f.quiet then
    modMe fun x =>
      let at' := (x.avail.find? fun p => p.1 = .flags).elim (c + lat) fun p => max p.2 (c + lat)
      Slot.later { x with vec := { x.vec with vf := x.vec.vf ||| BitVec.ofNat 320 fl } } .flags at'

/-- One pass over the 64 lanes: for an active lane the value and flags of `op`, for an inactive one its old value and no
flag (R113); with whether any active lane needs the normaliser. -/
def eachLane (m : Word) (old : BitVec 2048) (op : Nat → Nat × Nat × Bool) : Nat × Nat × Bool :=
  (List.range 64).foldr (fun i (acc : Nat × Nat × Bool) =>
    let (v, fl, n) := if m.getLsbD i then op i else ((lane old i).toNat, 0, false)
    (acc.1 * 2 ^ 32 + v % 2 ^ 32, acc.2.1 * 32 + fl % 32, acc.2.2 || n)) (0, 0, false)

/-- A float instruction lane by lane (R112, R113, R115, R116): `ops` are the operands' registers, `op` its value and flags
on their elements, `norm` whether subnormals need the normaliser. -/
def floatLanes (f : Form) (d : Spec) (src dst : Nat) (ops : List (BitVec 2048)) (op : List Nat → Nat × Nat) (norm : Bool)
    (lat : Nat) : M Unit := do
  let x ← me
  let sub (ty b : Nat) : Bool := tyFloat ty && (Fmt.ofType ty).subnormal b
  let (v, fl, n) := eachLane (x.kmask f.mask) (x.vreg d) fun i =>
    let es := ops.map fun r => elem src r i
    let (r, fl) := op es
    (laneExt dst r, fl, norm && (es.any (sub src) || sub dst r))
  let u ← vecUnit
  let k ← normaliser n
  setV d (BitVec.ofNat 2048 v) (lat + u + k)
  raiseFlags f fl (lat + u + k)

/-- A binary float instruction of major 0x27 (R122). -/
def float2 (f : Form) (d a b : Spec) (op : Fmt → Nat → Nat → Nat → Nat × Nat) (lat : Nat) : M Unit := do
  let x ← me
  let ty := f.ty 10
  floatLanes f d ty ty [x.vreg a, x.vreg b] (fun es => op (Fmt.ofType ty) f.rm (es.headD 0) ((es.drop 1).headD 0)) true lat

/-- A unary one. -/
def float1 (f : Form) (d a : Spec) (op : Fmt → Nat → Nat → Nat × Nat) (norm : Bool) (lat : Nat) : M Unit := do
  let x ← me
  let ty := f.ty 10
  floatLanes f d ty ty [x.vreg a] (fun es => op (Fmt.ofType ty) f.rm (es.headD 0)) norm lat

/-- The `VFMA` group (R123): C in the extended form, the old D in the base form. -/
def fma (f : Form) (d a b : Spec) (np nc : Bool) : M Unit := do
  let x ← me
  let ty := f.ty 10
  let c := if f.ext?.isSome then f.c else d
  floatLanes f d ty ty [x.vreg a, x.vreg b, x.vreg c]
    (fun es => (Fmt.ofType ty).fma f.rm np nc (es.headD 0) ((es.drop 1).headD 0) ((es.drop 2).headD 0)) true 4

/-- An integer instruction of major 0x29 (R124): `op` works on the width and the unsigned values of the elements. -/
def int2 (f : Form) (d a b : Spec) (op : Nat → Nat → Nat → Int) (lat : Nat) : M Unit := do
  let x ← me
  let ty := f.ty 4
  let w := tyBits ty
  let u ← vecUnit
  setV d (setLanes (x.vreg d) (x.kmask f.mask) fun i =>
    laneExt ty (intBits w (op w (elem ty (x.vreg a) i) (elem ty (x.vreg b) i)))) (lat + u)

/-- The signed value of a `w`-bit pattern. -/
def sgn (w v : Nat) : Int := if 2 ^ (w - 1) ≤ v then (v : Int) - (2 ^ w : Nat) else v

def vshlI (w a b : Nat) : Int := (a * 2 ^ (b % w) : Nat)
def vshrI (w a b : Nat) : Int := (a / 2 ^ (b % w) : Nat)
def vsarI (w a b : Nat) : Int := sgn w a / (2 ^ (b % w) : Nat)

/-- A mask instruction over masks (R127). -/
def mask2 (d a b : Spec) (op : Word → Word → Word) : M Unit := do
  let x ← me
  let u ← vecUnit
  setMask d (op (x.kmask (a.extractLsb' 0 3)) (x.kmask (b.extractLsb' 0 3))) (3 + u)

/-- The fixed tree of a reduction (R128): halves are combined lane by lane, 32, 16, 8, 4, 2, 1. -/
def reduceTree {α : Type} (z : α) (op : α → α → α) : Nat → List α → α
  | 0, xs => xs.headD z
  | n + 1, xs => reduceTree z op n (List.zipWith op (xs.take (2 ^ n)) (xs.drop (2 ^ n)))

/-- The lanes of a reduction: the identity stands for an inactive lane. -/
def redLanes (x : Slot) (f : Form) (a : Spec) (ty ident : Nat) : List Nat :=
  (List.range 64).map fun i => if (x.kmask f.mask).getLsbD i then elem ty (x.vreg a) i else ident

/-- A float reduction (R128): its flags go to lane 0. The normaliser is used for a subnormal among the operands or the result, and
not for one between them (log entry 65). -/
def floatRed (f : Form) (d a : Spec) (ident : Fmt → Nat) (op : Fmt → Nat → Nat → Nat × Nat) : M Unit := do
  let x ← me
  let ty := f.ty 10
  let t := Fmt.ofType ty
  let xs := redLanes x f a ty (ident t)
  let (r, fl) := reduceTree ((0, 0) : Nat × Nat) (fun p q =>
    let (v, g) := op t p.1 q.1
    (v, p.2 ||| q.2 ||| g)) 6 (xs.map fun v => (v, 0))
  let n := ((List.range 64).any fun i => (x.kmask f.mask).getLsbD i && t.subnormal (elem ty (x.vreg a) i))
    || t.subnormal r
  dstGate f d
  let u ← vecUnit
  let k ← normaliser n
  dst f d (BitVec.ofNat 64 r) (10 + u + k)
  raiseFlags f fl (10 + u + k)

/-- An integer reduction over the values that TYPE gives the elements (R128). -/
def intRed (f : Form) (d a : Spec) (ident : Nat → Int) (op : Int → Int → Int) : M Unit := do
  let x ← me
  let ty := f.ty 4
  let xs := (List.range 64).map fun i =>
    if (x.kmask f.mask).getLsbD i then tyVal ty (elem ty (x.vreg a) i) else ident ty
  let u ← vecUnit
  dst f d (BitVec.ofInt 64 (reduceTree 0 op 6 xs)) (6 + u)

/-- A bitwise reduction (R128). -/
def bitRed (f : Form) (d a : Spec) (ident : Nat → Nat) (op : Nat → Nat → Nat) : M Unit := do
  let x ← me
  let ty := f.ty 4
  let u ← vecUnit
  dst f d (BitVec.ofNat 64 (reduceTree 0 op 6 (redLanes x f a ty (ident (tyBits ty))))) (6 + u)

/-- A lane operation of major 0x2E (R129). -/
def laneOp (f : Form) (d : Spec) (op : Slot → Nat → Nat) (lat : Nat) : M Unit := do
  let x ← me
  let u ← vecUnit
  setV d (setLanes (x.vreg d) (x.kmask f.mask) (op x)) (lat + u)

/-! ## Vector memory -/

/-- The priority of a cause among those of one instruction (R280). -/
def causeRank (c : Nat) : Nat :=
  match c with
  | 0x04 => 0
  | 0x05 => 1
  | 0x06 => 2
  | 0x07 => 3
  | 0x15 => 4
  | 0x0D => 5
  | _ => 6

/-- A check that answers the trap it would raise. -/
def tryTrap {α : Type} (m : M α) : M (Except TrapRec α) := fun s =>
  match m s with
  | .ok (a, s') => .ok (.ok a, s')
  | .error (.trap t) => .ok (.error t, s)
  | .error h => .error h

/-- Of the traps that several lanes or lines would raise, the first of the highest priority (R119). -/
def worstTrap (ts : List TrapRec) : Option TrapRec :=
  ts.foldl (fun b t => match b with
    | none => some t
    | some u => if causeRank t.cause < causeRank u.cause then some t else b) none

/-- Raises the trap of the highest priority among results, or answers them. -/
def allOk {α : Type} (rs : List (Except TrapRec α)) : M (List α) :=
  match worstTrap (rs.filterMap fun r => match r with | .error t => some t | .ok _ => none) with
  | some t => trapRec t
  | none => pure (rs.filterMap fun r => match r with | .ok a => some a | .error _ => none)

/-- Runs a check for each of a list. -/
def forEach {α β : Type} (k : α → M β) : List α → M (List β)
  | [] => pure []
  | a :: l => do
    let b ← k a
    let bs ← forEach k l
    return b :: bs

/-- Whether an address lies on a cb4 view page: an address that raises a cause does not. -/
def onView (va : Word) : M Bool := do
  if va.toNat < 2 ^ 32 || 2 ^ 48 ≤ va.toNat then return false
  let e ← myEff
  match ← tryTrap (translate e.troot va.toNat false) with
  | .ok (pte, _) => return decide (pte.extractLsb' 7 3 = 1)
  | .error _ => return false

/-- The check of one lane's address (R117, R118): `z` its element size, `e` its element step, to which a load of floats is aligned
on a cb4 view page (log entry 17). -/
def laneTarget (k : Acc) (ty e z : Nat) (buf : Option (Nat × Nat)) (dram : Bool) (va : Word) : M Target := do
  raiseIf (va.toNat % (if k = .load && tyFloat ty then e else z) ≠ 0) 0x04 0 va 0
  let t ← resolveWithin k buf va z
  raiseIf (t.view ≠ 0 && !tyFloat ty) 0x07 0 va 0
  let v := servedBy (← get) t.place
  raiseIf (!(v ≤ 2 || (dram && v = 3))) 0x15 0 va 0
  if v = 1 || v = 2 then checkBanks t.places va
  return t

/-- The address of a lane: `at' e` for the element step `e`, which is 2 on a cb4 view page and the element size elsewhere
(R117). Answers the address and its step. -/
def laneAddr (z : Nat) (at' : Nat → Word) : M (Word × Nat) := do
  if z ≠ 2 then
    if ← onView (at' 2) then return (at' 2, 2)
  return (at' z, z)

/-- The targets of the active lanes: number, address and target, every cause found before any lane moves (R119). -/
def vecTargets (f : Form) (k : Acc) (ty z : Nat) (buf : Option (Nat × Nat)) (dram : Bool)
    (at' : Nat → Nat → Word) : M (List (Nat × Word × Target)) := do
  let x ← me
  let act := (List.range 64).filter fun i => (x.kmask f.mask).getLsbD i
  let rs ← forEach (fun i => do
    let (va, e) ← laneAddr z (at' i)
    match ← tryTrap (laneTarget k ty e z buf dram va) with
    | .ok t => return Except.ok (i, va, t)
    | .error t => return Except.error { t with lane := some i }) act
  allOk rs

/-- The watchpoints of every lane (R280). -/
def vecWatch (ts : List (Nat × Word × Target)) (kind z : Nat) : M Unit := do
  let _ ← forEach (fun (p : Nat × Word × Target) => checkWatch kind p.2.1 z) ts

/-- The strongest ordering kind among targets (R211): 0 strong, else 1, else 2. -/
def partOrd (ts : List (Nat × Word × Target)) : Nat := ts.foldl (fun o p => min o p.2.2.ord) 2

/-- Marks the units of an access with the kinds of their pages where these differ (R211). -/
def partUnits (ts : List (Nat × Word × Target)) (us : List MemUnit) : List MemUnit :=
  let o := partOrd ts
  if ts.all fun p => p.2.2.ord = o then us
  else us.map fun u =>
    let here := ts.filter fun p => p.2.2.places.any fun q => q.line = u.place
    { u with ord := some (here.foldl (fun m p => min m p.2.2.ord) 2) }

/-- Waits for the order that each target must keep, and for room among the slot's accesses. -/
def vecGate (ts : List (Nat × Word × Target)) (z : Nat) (st : Bool) : M Unit := do
  let _ ← forEach (fun (p : Nat × Word × Target) => orderGate p.2.2.place p.2.2.ord z st) ts
  if !ts.isEmpty then roomGate

/-- The qualifier of a vector access: honoured where some part's page does (R211). -/
def vecQual (f : Form) (ts : List (Nat × Word × Target)) : Nat := if ts.any fun p => p.2.2.ord = 1 then f.qual else 0

/-- A vector load of the active lanes (R117 to R119, R121). -/
def vecLoad (f : Form) (d : Spec) (buf : Option (Nat × Nat)) (at' : Nat → Nat → Word) : M Unit := do
  let ty := f.ty 10
  let z := tySize ty
  let ts ← vecTargets f .load ty z buf true at'
  vecGate ts z false
  let _ ← vecUnit
  vecWatch ts 1 z
  if ts ≠ [] then
    let q := vecQual f ts
    addAccess { id := 0, units := partUnits ts (ts.foldl (fun us p => readUnits us p.2.2 p.1 z) [])
                got := ts.foldl (fun g p => readMarks g p.2.2 p.1) []
                fin := .vload (d.toNat % 32) ty ((← me).kmask f.mask) 0, va := (ts.head?.map (·.2.1)).getD 0
                ord := partOrd ts, acq := q = 1 || q = 3, scope := f.scope }

/-- A vector store of the active lanes, in ascending order (R117, R121). -/
def vecStore (f : Form) (d : Spec) (buf : Option (Nat × Nat)) (at' : Nat → Nat → Word) : M Unit := do
  let ty := f.ty 10
  let z := tySize ty
  let x ← me
  let ts ← vecTargets f .store ty z buf true at'
  vecGate ts z true
  if ts.any fun p => p.2.2.place.kind = 1 && p.2.2.ord = 1 then releaseGate f.qual f.scope 1
  let _ ← vecUnit
  vecWatch ts 2 z
  if ts ≠ [] then
    addAccess { id := 0
                units := partUnits ts (ts.foldl (fun us p =>
                  putUnit us p.2.2.place 0 (.wr p.2.2.place.key z (elem ty (x.vreg d) p.1))) [])
                fin := .store, va := (ts.head?.map (·.2.1)).getD 0, ord := partOrd ts, rel := 2 ≤ vecQual f ts
                scope := f.scope }

/-- The lane addresses of `VLD` and `VST` (R117): contiguous, or strided by C. -/
def laneAt (f : Form) (a : Spec) (o : BitVec 12) (tail : Bool) : M ((Nat → Nat → Word) × Option (Nat × Nat)) := do
  let (b, buf) ← baseOf f a tail
  let off : Word := match f with
    | .base => o.signExtend 64
    | f => f.imm.signExtend 64
  let ea := b + off * 64
  if f.xfn.getLsbD 3 then
    let c ← src f f.c
    return (fun i _ => ea + BitVec.ofNat 64 i * c, buf)
  else return (fun i e => ea + BitVec.ofNat 64 (e * i), buf)

/-- The lane addresses of `VLDX` and `VSTX` (R121). -/
def laneIdx (f : Form) (a b : Spec) (tail : Bool) : M ((Nat → Nat → Word) × Option (Nat × Nat)) := do
  let (v, buf) ← baseOf f a tail
  let x ← me
  return (fun i e => v + (lane (x.vreg b) i).signExtend 64 * BitVec.ofNat 64 e, buf)

/-- The operation code of R94 for a `VATOM` operation (R130), with the rounding mode of a float addition. -/
def vatomOp (p ty rm : Nat) : Nat :=
  match p with
  | 0 => 0
  | 1 => 2
  | 2 => 1
  | 3 => 3
  | 4 => if tySigned ty then 4 else 6
  | 5 => if tySigned ty then 5 else 7
  | 6 => 10 + 32 * (rm + 1)
  | _ => 11 + 32 * (rm + 1)

/-! ## Meanings -/

/-- `VLD` (R117). -/
def execVld (d : Spec) (a : Spec) (i : BitVec 12) (f : Form) (s : State) : Host.Outcome State Fault Refusal :=
  issue (.vld d a i f) (do
    let (at', buf) ← laneAt f a i false
    vecLoad f d buf at') s

/-- `VST` (R117). -/
def execVst (d : Spec) (a : Spec) (i : BitVec 12) (f : Form) (s : State) : Host.Outcome State Fault Refusal :=
  issue (.vst d a i f) (do
    let (at', buf) ← laneAt f a i true
    vecStore f d buf at') s

/-- `VLDX` (R121). -/
def execVldx (d : Spec) (a : Spec) (b : Spec) (f : Form) (s : State) : Host.Outcome State Fault Refusal :=
  issue (.vldx d a b f) (do
    let (at', buf) ← laneIdx f a b false
    vecLoad f d buf at') s

/-- `VSTX` (R121). -/
def execVstx (d : Spec) (a : Spec) (b : Spec) (f : Form) (s : State) : Host.Outcome State Fault Refusal :=
  issue (.vstx d a b f) (do
    let (at', buf) ← laneIdx f a b true
    vecStore f d buf at') s

/-- `VADD` (R122). -/
def execVadd (d : Spec) (a : Spec) (b : Spec) (f : Form) (s : State) : Host.Outcome State Fault Refusal :=
  issue (.vadd d a b f) (float2 f d a b Fmt.add 4) s

/-- `VSUB` (R122). -/
def execVsub (d : Spec) (a : Spec) (b : Spec) (f : Form) (s : State) : Host.Outcome State Fault Refusal :=
  issue (.vsub d a b f) (float2 f d a b Fmt.sub 4) s

/-- `VMUL` (R122). -/
def execVmul (d : Spec) (a : Spec) (b : Spec) (f : Form) (s : State) : Host.Outcome State Fault Refusal :=
  issue (.vmul d a b f) (float2 f d a b Fmt.mul 4) s

/-- `VDIV` (R122). -/
def execVdiv (d : Spec) (a : Spec) (b : Spec) (f : Form) (s : State) : Host.Outcome State Fault Refusal :=
  issue (.vdiv d a b f) (do
    vecDivider
    float2 f d a b Fmt.div 14) s

/-- `VMIN` (R122). -/
def execVmin (d : Spec) (a : Spec) (b : Spec) (f : Form) (s : State) : Host.Outcome State Fault Refusal :=
  issue (.vmin d a b f) (float2 f d a b (fun t _ => t.minMax false) 4) s

/-- `VMAX` (R122). -/
def execVmax (d : Spec) (a : Spec) (b : Spec) (f : Form) (s : State) : Host.Outcome State Fault Refusal :=
  issue (.vmax d a b f) (float2 f d a b (fun t _ => t.minMax true) 4) s

/-- `VSQRT` (R122). -/
def execVsqrt (d : Spec) (a : Spec) (f : Form) (s : State) : Host.Outcome State Fault Refusal :=
  issue (.vsqrt d a f) (do
    vecDivider
    float1 f d a Fmt.sqrt true 14) s

/-- `VRCP` (R122). -/
def execVrcp (d : Spec) (a : Spec) (f : Form) (s : State) : Host.Outcome State Fault Refusal :=
  issue (.vrcp d a f) (float1 f d a Fmt.rcp true 8) s

/-- `VRSQ` (R122). -/
def execVrsq (d : Spec) (a : Spec) (f : Form) (s : State) : Host.Outcome State Fault Refusal :=
  issue (.vrsq d a f) (float1 f d a Fmt.rsq true 8) s

/-- `VEXP2` (R122). -/
def execVexp2 (d : Spec) (a : Spec) (f : Form) (s : State) : Host.Outcome State Fault Refusal :=
  issue (.vexp2 d a f) (float1 f d a Fmt.exp2 true 8) s

/-- `VLOG2` (R122). -/
def execVlog2 (d : Spec) (a : Spec) (f : Form) (s : State) : Host.Outcome State Fault Refusal :=
  issue (.vlog2 d a f) (float1 f d a Fmt.log2 true 8) s

/-- `VABS` (R122). -/
def execVabs (d : Spec) (a : Spec) (f : Form) (s : State) : Host.Outcome State Fault Refusal :=
  issue (.vabs d a f) (float1 f d a (fun t _ v => (v % t.signBit, 0)) false 3) s

/-- `VNEG` (R122). -/
def execVneg (d : Spec) (a : Spec) (f : Form) (s : State) : Host.Outcome State Fault Refusal :=
  issue (.vneg d a f) (float1 f d a (fun t _ v => (v ^^^ t.signBit, 0)) false 3) s

/-- `VRINT` (R122). -/
def execVrint (d : Spec) (a : Spec) (f : Form) (s : State) : Host.Outcome State Fault Refusal :=
  issue (.vrint d a f) (float1 f d a Fmt.rint true 4) s

/-- `VFMA` (R123). -/
def execVfma (d : Spec) (a : Spec) (b : Spec) (f : Form) (s : State) : Host.Outcome State Fault Refusal :=
  issue (.vfma d a b f) (fma f d a b false false) s

/-- `VFMS` (R123). -/
def execVfms (d : Spec) (a : Spec) (b : Spec) (f : Form) (s : State) : Host.Outcome State Fault Refusal :=
  issue (.vfms d a b f) (fma f d a b false true) s

/-- `VFNMA` (R123). -/
def execVfnma (d : Spec) (a : Spec) (b : Spec) (f : Form) (s : State) : Host.Outcome State Fault Refusal :=
  issue (.vfnma d a b f) (fma f d a b true false) s

/-- `VIADD` (R124). -/
def execViadd (d : Spec) (a : Spec) (b : Spec) (f : Form) (s : State) : Host.Outcome State Fault Refusal :=
  issue (.viadd d a b f) (int2 f d a b (fun _ x y => (x : Int) + y) 3) s

/-- `VISUB` (R124). -/
def execVisub (d : Spec) (a : Spec) (b : Spec) (f : Form) (s : State) : Host.Outcome State Fault Refusal :=
  issue (.visub d a b f) (int2 f d a b (fun _ x y => (x : Int) - y) 3) s

/-- `VIMUL` (R124). -/
def execVimul (d : Spec) (a : Spec) (b : Spec) (f : Form) (s : State) : Host.Outcome State Fault Refusal :=
  issue (.vimul d a b f) (int2 f d a b (fun _ x y => (x : Int) * y) 4) s

/-- `VIMULH` (R124). -/
def execVimulh (d : Spec) (a : Spec) (b : Spec) (f : Form) (s : State) : Host.Outcome State Fault Refusal :=
  issue (.vimulh d a b f) (int2 f d a b (fun w x y => sgn w x * sgn w y / (2 ^ w : Nat)) 4) s

/-- `VIMULHN` (R124). -/
def execVimulhn (d : Spec) (a : Spec) (b : Spec) (f : Form) (s : State) : Host.Outcome State Fault Refusal :=
  issue (.vimulhn d a b f) (int2 f d a b (fun w x y => (x * y / 2 ^ w : Nat)) 4) s

/-- `VAND` (R124). -/
def execVand (d : Spec) (a : Spec) (b : Spec) (f : Form) (s : State) : Host.Outcome State Fault Refusal :=
  issue (.vand d a b f) (int2 f d a b (fun _ x y => (x &&& y : Nat)) 3) s

/-- `VOR` (R124). -/
def execVor (d : Spec) (a : Spec) (b : Spec) (f : Form) (s : State) : Host.Outcome State Fault Refusal :=
  issue (.vor d a b f) (int2 f d a b (fun _ x y => (x ||| y : Nat)) 3) s

/-- `VXOR` (R124). -/
def execVxor (d : Spec) (a : Spec) (b : Spec) (f : Form) (s : State) : Host.Outcome State Fault Refusal :=
  issue (.vxor d a b f) (int2 f d a b (fun _ x y => (x ^^^ y : Nat)) 3) s

/-- `VSHL` (R124). -/
def execVshl (d : Spec) (a : Spec) (b : Spec) (f : Form) (s : State) : Host.Outcome State Fault Refusal :=
  issue (.vshl d a b f) (int2 f d a b (vshlI) 3) s

/-- `VSHR` (R124). -/
def execVshr (d : Spec) (a : Spec) (b : Spec) (f : Form) (s : State) : Host.Outcome State Fault Refusal :=
  issue (.vshr d a b f) (int2 f d a b (vshrI) 3) s

/-- `VSAR` (R124). -/
def execVsar (d : Spec) (a : Spec) (b : Spec) (f : Form) (s : State) : Host.Outcome State Fault Refusal :=
  issue (.vsar d a b f) (int2 f d a b (vsarI) 3) s

/-- `VIMIN` (R124). -/
def execVimin (d : Spec) (a : Spec) (b : Spec) (f : Form) (s : State) : Host.Outcome State Fault Refusal :=
  issue (.vimin d a b f) (int2 f d a b (fun w x y => min (sgn w x) (sgn w y)) 3) s

/-- `VIMAX` (R124). -/
def execVimax (d : Spec) (a : Spec) (b : Spec) (f : Form) (s : State) : Host.Outcome State Fault Refusal :=
  issue (.vimax d a b f) (int2 f d a b (fun w x y => max (sgn w x) (sgn w y)) 3) s

/-- `VIMINN` (R124). -/
def execViminn (d : Spec) (a : Spec) (b : Spec) (f : Form) (s : State) : Host.Outcome State Fault Refusal :=
  issue (.viminn d a b f) (int2 f d a b (fun _ x y => (min x y : Nat)) 3) s

/-- `VIMAXN` (R124). -/
def execVimaxn (d : Spec) (a : Spec) (b : Spec) (f : Form) (s : State) : Host.Outcome State Fault Refusal :=
  issue (.vimaxn d a b f) (int2 f d a b (fun _ x y => (max x y : Nat)) 3) s

/-- `VCVT` (R125). -/
def execVcvt (d : Spec) (a : Spec) (sr : BitVec 4) (t : BitVec 4) (f : Form) (s : State) : Host.Outcome State Fault Refusal :=
  issue (.vcvt d a sr t f) (do
    let x ← me
    floatLanes f d sr.toNat t.toNat [x.vreg a] (fun es => convert t.toNat sr.toNat f.rm (es.headD 0)) true 4) s

/-- `VCMP` (R126). -/
def execVcmp (d : Spec) (a : Spec) (b : Spec) (c : BitVec 6) (f : Form) (s : State) : Host.Outcome State Fault Refusal :=
  issue (.vcmp d a b c f) (do
    let x ← me
    let ty := f.ty 10
    let t := Fmt.ofType ty
    let m := x.kmask f.mask
    let one (i : Nat) : Bool × Nat :=
      let p := elem ty (x.vreg a) i
      let q := elem ty (x.vreg b) i
      if tyFloat ty then t.cmp c.toNat p q
      else (match c.toNat with
        | 0 => decide (p = q)
        | 1 => decide (p ≠ q)
        | 2 => decide (tyVal ty p < tyVal ty q)
        | 3 => decide (tyVal ty p ≤ tyVal ty q)
        | 4 => decide (tyVal ty q < tyVal ty p)
        | _ => decide (tyVal ty q ≤ tyVal ty p), 0)
    let (k, fl, n) := (List.range 64).foldr (fun i (acc : Nat × Nat × Bool) =>
      if m.getLsbD i then
        let (r, g) := one i
        (acc.1 * 2 + r.toNat, acc.2.1 * 32 + g, acc.2.2 || (tyFloat ty
          && (t.subnormal (elem ty (x.vreg a) i) || t.subnormal (elem ty (x.vreg b) i))))
      else (acc.1 * 2, acc.2.1 * 32, acc.2.2)) (0, 0, false)
    let u ← vecUnit
    let e ← normaliser n
    setMask d (BitVec.ofNat 64 k) (4 + u + e)
    raiseFlags f fl (4 + u + e)) s

/-- `KAND` (R127). -/
def execKand (d : Spec) (a : Spec) (b : Spec) (f : Form) (s : State) : Host.Outcome State Fault Refusal :=
  issue (.kand d a b f) (mask2 d a b (· &&& ·)) s

/-- `KOR` (R127). -/
def execKor (d : Spec) (a : Spec) (b : Spec) (f : Form) (s : State) : Host.Outcome State Fault Refusal :=
  issue (.kor d a b f) (mask2 d a b (· ||| ·)) s

/-- `KXOR` (R127). -/
def execKxor (d : Spec) (a : Spec) (b : Spec) (f : Form) (s : State) : Host.Outcome State Fault Refusal :=
  issue (.kxor d a b f) (mask2 d a b (· ^^^ ·)) s

/-- `KNOT` (R127). -/
def execKnot (d : Spec) (a : Spec) (f : Form) (s : State) : Host.Outcome State Fault Refusal :=
  issue (.knot d a f) (mask2 d a 0 (fun x _ => ~~~x)) s

/-- `KPOP` (R127). -/
def execKpop (d : Spec) (a : Spec) (f : Form) (s : State) : Host.Outcome State Fault Refusal :=
  issue (.kpop d a f) (do
    let x ← me
    let u ← vecUnit
    dst f d (popcW (x.kmask (a.extractLsb' 0 3))) (3 + u)) s

/-- `KMOVW` (R127). -/
def execKmovw (d : Spec) (a : Spec) (f : Form) (s : State) : Host.Outcome State Fault Refusal :=
  issue (.kmovw d a f) (do
    let x ← me
    let u ← vecUnit
    dst f d (x.kmask (a.extractLsb' 0 3)) (3 + u)) s

/-- `KMOVK` (R127). -/
def execKmovk (d : Spec) (a : Spec) (f : Form) (s : State) : Host.Outcome State Fault Refusal :=
  issue (.kmovk d a f) (do
    let v ← src f a
    let u ← vecUnit
    setMask d v (3 + u)) s

/-- `VSEL` (R127, in every lane). -/
def execVsel (d : Spec) (a : Spec) (b : Spec) (f : Form) (s : State) : Host.Outcome State Fault Refusal :=
  issue (.vsel d a b f) (do
    let x ← me
    let m := x.kmask (f.c.extractLsb' 0 3)
    let u ← vecUnit
    setV d (setLanes (x.vreg b) m fun i => (lane (x.vreg a) i).toNat) (3 + u)) s

/-- `VRADD` (R128). -/
def execVradd (d : Spec) (a : Spec) (f : Form) (s : State) : Host.Outcome State Fault Refusal :=
  issue (.vradd d a f) (floatRed f d a (fun t => t.signBit) (fun t => t.add f.rm)) s

/-- `VRMAX` (R128). -/
def execVrmax (d : Spec) (a : Spec) (f : Form) (s : State) : Host.Outcome State Fault Refusal :=
  issue (.vrmax d a f) (floatRed f d a (fun t => t.signBit + t.inf) (fun t => t.minMax true)) s

/-- `VRMIN` (R128). -/
def execVrmin (d : Spec) (a : Spec) (f : Form) (s : State) : Host.Outcome State Fault Refusal :=
  issue (.vrmin d a f) (floatRed f d a (fun t => t.inf) (fun t => t.minMax false)) s

/-- `VRIADD` (R128). -/
def execVriadd (d : Spec) (a : Spec) (f : Form) (s : State) : Host.Outcome State Fault Refusal :=
  issue (.vriadd d a f) (intRed f d a (fun _ => 0) (· + ·)) s

/-- `VRAND` (R128). -/
def execVrand (d : Spec) (a : Spec) (f : Form) (s : State) : Host.Outcome State Fault Refusal :=
  issue (.vrand d a f) (bitRed f d a (fun w => 2 ^ w - 1) (· &&& ·)) s

/-- `VROR` (R22, R128). -/
def execVror (d : Spec) (a : Spec) (f : Form) (s : State) : Host.Outcome State Fault Refusal :=
  issue (.vror d a f) (bitRed f d a (fun _ => 0) (· ||| ·)) s

/-- `VRIMAX` (R128). -/
def execVrimax (d : Spec) (a : Spec) (f : Form) (s : State) : Host.Outcome State Fault Refusal :=
  issue (.vrimax d a f) (intRed f d a tyMin max) s

/-- `VRIMIN` (R128). -/
def execVrimin (d : Spec) (a : Spec) (f : Form) (s : State) : Host.Outcome State Fault Refusal :=
  issue (.vrimin d a f) (intRed f d a tyMax min) s

/-- `VBCAST` (R129). -/
def execVbcast (d : Spec) (a : Spec) (f : Form) (s : State) : Host.Outcome State Fault Refusal :=
  issue (.vbcast d a f) (do
    let v ← src f a
    laneOp f d (fun _ _ => v.toNat) 3) s

/-- `VPERM` (R129). -/
def execVperm (d : Spec) (a : Spec) (b : Spec) (f : Form) (s : State) : Host.Outcome State Fault Refusal :=
  issue (.vperm d a b f) (laneOp f d (fun x i => (lane (x.vreg a) ((lane (x.vreg b) i).toNat % 64)).toNat) 4) s

/-- `VROT` (R129). -/
def execVrot (d : Spec) (a : Spec) (b : Spec) (f : Form) (s : State) : Host.Outcome State Fault Refusal :=
  issue (.vrot d a b f) (do
    let n ← src f b
    laneOp f d (fun x i => (lane (x.vreg a) ((i + n.toNat) % 64)).toNat) 3) s

/-- `VGETL` (R129). -/
def execVgetl (d : Spec) (a : Spec) (b : Spec) (f : Form) (s : State) : Host.Outcome State Fault Refusal :=
  issue (.vgetl d a b f) (do
    let n ← src f b
    let l := lane ((← me).vreg a) (n.toNat % 64)
    let u ← vecUnit
    dst f d (if f.ty 5 = 4 then l.signExtend 64 else l.setWidth 64) (3 + u)) s

/-- `VSETL` (R129). -/
def execVsetl (d : Spec) (a : Spec) (b : Spec) (f : Form) (s : State) : Host.Outcome State Fault Refusal :=
  issue (.vsetl d a b f) (do
    let v ← src f a
    let n ← src f b
    laneOp f d (fun x i => if i = n.toNat % 64 then v.toNat else (lane (x.vreg d) i).toNat) 3) s

/-- `VIOTA` (R129). -/
def execViota (d : Spec) (a : Spec) (f : Form) (s : State) : Host.Outcome State Fault Refusal :=
  issue (.viota d a f) (do
    let v ← src f a
    laneOp f d (fun _ i => v.toNat + i) 3) s

/-- `VFLGR` (R22, R129). -/
def execVflgr (d : Spec) (f : Form) (s : State) : Host.Outcome State Fault Refusal :=
  issue (.vflgr d f) (do
    laneOp f d (fun x i => (x.vec.vf.extractLsb' (5 * i) 5).toNat) 3) s

/-- `VFLGC` (R22, R129). -/
def execVflgc (f : Form) (s : State) : Host.Outcome State Fault Refusal :=
  issue (.vflgc f) (do
    let x ← me
    let u ← vecUnit
    let c := (← get).cyc
    let m := x.kmask f.mask
    let keep := (List.range 64).foldr (fun i acc => acc * 32 + (if m.getLsbD i then 0 else 31)) 0
    modMe fun x => Slot.later { x with vec := { x.vec with vf := x.vec.vf &&& BitVec.ofNat 320 keep } } .flags (c + 3 + u)) s

/-- `VATOM` (R130, R131). -/
def execVatom (d : Spec) (a : Spec) (b : Spec) (o : BitVec 1) (p : BitVec 3) (f : Form) (s : State) : Host.Outcome State Fault Refusal :=
  issue (.vatom d a b o p f) (do
    let base ← src f a
    let x ← me
    let ty := f.ty (if p.toNat < 6 then 4 else if p.toNat = 6 then 10 else 9)
    let ts ← vecTargets f .atomic ty 4 none false fun i _ => base + (lane (x.vreg b) i).signExtend 64 * 4
    vecGate ts 4 true
    let _ ← vecUnit
    vecWatch ts 3 4
    let v := x.vreg (if f.ext?.isSome then f.c else d)
    let op := vatomOp p.toNat ty f.rm
    if ts ≠ [] then
      addAccess { id := 0
                  units := partUnits ts (ts.foldl (fun us q =>
                    let act := Act.rmw (4 * q.1) q.2.2.place.key 4 op (lane v q.1).toNat 0
                    if q.2.2.place.kind = 1 then us ++ [{ place := q.2.2.place.line, acts := [act] }]
                    else putUnit us q.2.2.place 0 act) [])
                  fin := .vatom (if o = 1 then some (d.toNat % 32) else none) (x.kmask f.mask)
                  va := (ts.head?.map (·.2.1)).getD 0, ord := partOrd ts }) s

end Sys2Proof.Machine
end

