-- ==== Sys2Proof/Machine/Tile.lean ====
section
/-! DEFINITION. Tile and matrix instructions, `KVCOMMIT` and matrix commands: majors 0x30 to 0x35 (R132 to R152), with the
footprint table (R191, R192). -/

namespace Sys2Proof.Machine

/-! ## Shapes and elements -/

/-- Type, rows and columns of a shape register (R133). -/
def shapeTy (w : Word) : Nat := (w.extractLsb' 0 4).toNat
def shapeRows (w : Word) : Nat := (w.extractLsb' 4 6).toNat + 1
def shapeCols (w : Word) : Nat := (w.extractLsb' 10 7).toNat + 1
def shapeEb (w : Word) : Nat := tySize (shapeTy w)

/-- The shape and the bytes of a tile of a slot. -/
def Slot.shapeOf (x : Slot) (t : Spec) : Word := x.tiles.shape[t.toNat % 8]?.getD 0
def Slot.tile (x : Slot) (t : Nat) : BitVec 32768 := x.tiles.t[t % 8]?.getD 0
def Slot.setTile (x : Slot) (t : Nat) (v : BitVec 32768) : Slot :=
  { x with tiles := { x.tiles with t := x.tiles.t.set! (t % 8) v } }

/-- Element `k` of `eb` bytes of a tile (R132). -/
def tileElem (t : BitVec 32768) (eb k : Nat) : Nat := t.toNat / 2 ^ (8 * eb * k) % 2 ^ (8 * eb)

/-- Raises sticky flags of a tile (R134). -/
def Slot.tileFlags (x : Slot) (t fl : Nat) : Slot :=
  { x with tiles := { x.tiles with flags := x.tiles.flags ||| BitVec.ofNat 64 (fl % 32 * 2 ^ (5 * (t % 8))) } }

/-- Saturation to i32, with overflow when it saturates (R142, R143). -/
def sat32 (v : Int) : Nat × Nat :=
  if v < -(2 ^ 31 : Nat) then (2 ^ 31, 4) else if (2 ^ 31 : Nat) ≤ v then (2 ^ 31 - 1, 4) else (intBits 32 v, 0)

/-! ## The unit and the scoreboard -/

/-- A command's tiles that it reads while incomplete (R136). -/
def UnitCmd.sources (u : UnitCmd) : List Nat := match u.op with
  | 0 | 3 => [u.a, u.b]
  | 2 => [u.a]
  | _ => []

/-- Whether a tile has been written by every `TLD` and `TPUTR` before (R136, R138). -/
def State.tileThere (s : State) (n t : Nat) : Bool := (s.slot n).ready s.cyc (.tile (BitVec.ofNat 3 t))

/-- Whether a reader of a tile waits (R136): on a unit command or on a `TLD`. -/
def State.tileBusyR (s : State) (n t : Nat) : Bool :=
  !s.tileThere n t || (s.core (slotCore n)).munit.any fun u => u.slot = slotIdx n && decide (u.d = t)

/-- Whether a writer of a tile waits (R136). -/
def State.tileBusyW (s : State) (n t : Nat) : Bool :=
  s.tileBusyR n t || (s.core (slotCore n)).munit.any fun u => u.slot = slotIdx n && u.sources.contains t

def waitTileR (t : Spec) : M Unit := do
  let s ← get
  waitIf (s.tileBusyR s.cur (t.toNat % 8)) 3

def waitTileW (t : Spec) : M Unit := do
  let s ← get
  waitIf (s.tileBusyW s.cur (t.toNat % 8)) 3

/-- A command needs a place in the unit (R135): there are two besides that of the command that executes. -/
def placeGate : M Unit := do waitIf (3 ≤ (← myCore).munit.length) 3

/-- Accepts a unit command of the current slot (R135), with the charge of its class for the cycles it occupies (R327). -/
def acceptUnit (u : UnitCmd) (weight : Nat) : M Unit := do
  let s ← get
  placeGate
  charge (weight * u.cycles)
  modCore fun c =>
    { c with munit := c.munit ++ [{ u with slot := slotIdx s.cur
                                           doneAt := if c.munit.isEmpty then s.cyc + u.cycles - 1 else 0 }] }

/-- What the products of a group come to (R142): the exact sum of the finite ones, whether every one of them is a negative
number, the infinities met, and whether a NaN was met or an invalid product. -/
structure GroupSum where
  v : Int := 0
  e : Int := 0
  allNeg : Bool := true
  pos : Bool := false
  neg : Bool := false
  nan : Bool := false
  inv : Bool := false
  deriving Repr

/-- Adds one product to a float group sum (R142). -/
def GroupSum.step (q : GroupSum) (x y : Fl) : GroupSum :=
  let special (n k : Bool) : GroupSum := if n = k then { q with pos := true } else { q with neg := true }
  match x, y with
  | .nan s, .nan t => { q with nan := true, inv := q.inv || s || t }
  | .nan s, _ | _, .nan s => { q with nan := true, inv := q.inv || s }
  | .inf n, .inf k => special n k
  | .inf n, .fin k m _ | .fin k m _, .inf n => if m = 0 then { q with inv := true } else special n k
  | .fin n m e, .fin k p f =>
    let g := min q.e (e + f)
    let w : Int := if n = k then (m * p : Nat) else -((m * p : Nat) : Int)
    { q with v := q.v * 2 ^ (q.e - g).toNat + w * 2 ^ (e + f - g).toNat, e := g, allNeg := q.allNeg && (n != k) }

/-- A group sum rounded to f32 (R142): value and flags. Infinities of both signs are invalid. -/
def GroupSum.round (q : GroupSum) : Nat × Nat :=
  let inv := q.inv || (q.pos && q.neg)
  if inv || q.nan then (Fmt.f32.qnan, if inv then 1 else 0)
  else if q.pos || q.neg then (Fmt.f32.signed q.neg Fmt.f32.inf, 0)
  else Fmt.f32.roundInt 0 q.allNeg q.v q.e

/-- One element of a product (R142): groups of eight in ascending `k`, accumulated onto `s`. -/
def mmaElem (kind kk : Nat) (a b : Nat → Nat) (s : Nat) : Nat × Nat :=
  (List.range ((kk + 7) / 8)).foldl (fun (acc : Nat × Nat) g =>
    let ks := (List.range 8).filterMap fun i => if 8 * g + i < kk then some (8 * g + i) else none
    if kind = 2 then
      let sum := ks.foldl (fun (t : Int) k => t + tyVal 0 (a k) * tyVal 0 (b k)) 0
      let (r, fl) := sat32 (tyVal 4 acc.1 + sum)
      (r, acc.2 ||| fl)
    else
      let t := if kind = 0 then Fmt.bf16 else Fmt.f16
      let sum := ks.foldl (fun q k => q.step (t.decode (a k)) (t.decode (b k))) ({} : GroupSum)
      let (gr, f1) := sum.round
      let (r, f2) := Fmt.f32.add 0 acc.1 gr
      (r, acc.2 ||| f1 ||| f2)) (s, 0)

/-- Whether row `i`'s ancestors under a parent array contain slot `j` (R145); parents lie below their child. -/
def isAncestor (p : List Nat) : Nat → Nat → Nat → Bool
  | 0, _, _ => false
  | fuel + 1, i, j => i = j || (match p[i]? with
    | some q => q ≠ 0xFF && isAncestor p fuel q j
    | none => false)

/-- Every element of a command's destination from `f`, with the flags ORed. -/
def tileMap (old : BitVec 32768) (rows cols : Nat) (f : Nat → Nat → Nat × Nat) : BitVec 32768 × Nat :=
  let n := rows * cols
  let (body, fl) := (List.range n).foldr (fun k (acc : Nat × Nat) =>
    let (v, g) := f (k / cols) (k % cols)
    (acc.1 * 2 ^ 32 + v % 2 ^ 32, acc.2 ||| g)) (0, 0)
  (BitVec.ofNat 32768 (old.toNat / 2 ^ (32 * n) * 2 ^ (32 * n) + body), fl)

/-- The effect of a unit command on its slot's tiles and flags when it completes (R142, R143, R145). -/
def Slot.runUnit (x : Slot) (u : UnitCmd) : Slot :=
  let sd := u.shapes.headD 0
  let rows := shapeRows sd
  let cols := shapeCols sd
  let old := x.tile u.d
  let done (r : BitVec 32768 × Nat) : Slot :=
    let y := x.setTile u.d r.1
    if u.q then y else y.tileFlags u.d r.2
  match u.op with
  | 0 =>
    let sa := (u.shapes[1]?).getD 0
    let kk := shapeCols sa
    let eb := shapeEb sa
    let ta := x.tile u.a
    let tb := x.tile u.b
    done (tileMap old rows cols fun i j =>
      mmaElem u.kind kk (fun k => tileElem ta eb (i * kk + k)) (fun k => tileElem tb eb (k * cols + j))
        (if u.clr then 0 else tileElem old 4 (i * cols + j)))
  | 1 => x.setTile u.d (Machine.setTile old rows cols (shapeEb sd) fun _ _ => 0)
  | 2 =>
    let ta := x.tile u.a
    done (tileMap old rows cols fun i j =>
      let v := tileElem ta 4 (i * cols + j)
      if shapeTy sd = 10 then Fmt.f32.mul u.rm v (u.x.toNat % 2 ^ 32)
      else sat32 (tyVal 4 v * tyVal 4 (u.x.toNat % 2 ^ 32)))
  | 3 =>
    let ta := x.tile u.a
    let tb := x.tile u.b
    done (tileMap old rows cols fun i j =>
      let v := tileElem ta 4 (i * cols + j)
      let w := tileElem tb 4 (i * cols + j)
      if shapeTy sd = 10 then Fmt.f32.add u.rm v w else sat32 (tyVal 4 v + tyVal 4 w))
  | _ =>
    let p := u.x.toNat
    x.setTile u.d (tileMap old rows cols fun i j =>
      if j < p || (decide (p ≤ j ∧ j < p + rows) && isAncestor u.parents (i + 1) i (j - p)) then
        (tileElem old 4 (i * cols + j), 0)
      else (0xFF800000, 0)).1

/-! ## The footprint table -/

/-- Whether ranges of lines overlap. -/
def overlaps (a b : List (Nat × Nat)) : Bool := a.any fun p => b.any fun q => decide (p.1 ≤ q.2 ∧ q.1 ≤ p.2)

/-- Whether two jobs conflict (R192). -/
def Job.conflicts (a b : Job) : Bool :=
  a.region = b.region && (overlaps a.writes b.reads || overlaps a.writes b.writes || overlaps a.reads b.writes)

/-- Whether the job of a `TLD` is over (R191): its tile is written. -/
def Job.over (j : Job) (cyc : Nat) : Bool := j.endAt ≠ 0 && j.endAt ≤ cyc

/-- Whether a job conflicts with one that entered before it. -/
def heldBy (js : List Job) (j : Job) : Bool := (js.takeWhile fun k => k.id ≠ j.id).any fun k => k.conflicts j

/-- Enters a job of the current slot, where the table has an entry (R191): answers its number and whether it is held. -/
def enterJob (reads writes : List (Nat × Nat)) (kv : Bool) : M (Nat × Bool) := do
  let s ← get
  let c ← myClu
  waitIf (32 ≤ c.jobs.length) 3
  let j : Job := { id := c.jobNext, region := s.me.region, slot := s.cur, cont := s.me.cont, reads := reads
                   writes := writes, kv := kv }
  let h := heldBy (c.jobs ++ [j]) j
  modClu fun c => { c with jobs := c.jobs ++ [{ j with held := h }], jobNext := c.jobNext + 1 }
  return (j.id, h)

/-- The range of lines from the lowest to the highest that places touch in one store (R191): those of the own cluster store
(kind 2) or of the own die's common store (kind 3). -/
def footRange (s : State) (kind : Nat) (ps : List Place) : List (Nat × Nat) :=
  match (ps.filter fun p => p.kind = kind && (servedBy s p = 1 || servedBy s p = 2)).map fun p => p.key / 128 with
  | [] => []
  | k :: ks => [(ks.foldl min k, ks.foldl max k)]

/-- The footprint of a `TLD` or `TST` (R191, R192). -/
def footLines (s : State) (ps : List Place) : List (Nat × Nat) := footRange s 2 ps ++ footRange s 3 ps

/-! ## Loads and stores of tiles -/

/-- The base of a tile access lies on a cb4 view page (R137). -/
def tileView (base : Word) : M Bool := onView base

/-- Checks every element address of a tile access (R137, R138, R280): indices and targets. -/
def tileTargets (k : Acc) (ty me : Nat) (buf : Option (Nat × Nat)) (as : List (Nat × Word)) :
    M (List (Nat × Word × Target)) := do
  let rs ← forEach (fun (p : Nat × Word) => do
    match ← tryTrap (laneTarget k ty me me buf false p.2) with
    | .ok t => return Except.ok (p.1, p.2, t)
    | .error t => return Except.error t) as
  allOk rs

/-- `TLD` of the current slot from a base, a stride and, for `.z`, a valid extent (R137 to R139). -/
def tileLoad (d : Spec) (z g t : Bool) (rm : Nat) (base : Word) (buf : Option (Nat × Nat)) (stride ext : Word)
    (post : Option Nat) : M Unit := do
  let x ← me
  let sh := x.shapeOf d
  let ty := shapeTy sh
  let rows := shapeRows sh
  let cols := shapeCols sh
  let view ← tileView base
  let e := if view then 2 else tySize ty
  let gr := if g then 2 else 1
  raiseIf (view && !tyFloat ty) 0x07 0 base 0
  raiseIf (t && gr ≠ e) 0x02 5 0 0
  let vr := if z then (ext.extractLsb' 0 6).toNat else rows
  let vc := if z then (ext.extractLsb' 8 8).toNat else cols
  raiseIf (z && (32 < vr || 128 < vc || ext.extractLsb' 16 48 ≠ 0 || ext.extractLsb' 6 2 ≠ 0)) 0x02 5 0 0
  let pitch : Word := if stride ≠ 0 then stride else BitVec.ofNat 64 (if t then rows * e else cols * e)
  let at' (i j : Nat) : Word :=
    if t then base + BitVec.ofNat 64 j * pitch + BitVec.ofNat 64 (i * e)
    else base + BitVec.ofNat 64 i * pitch + BitVec.ofNat 64 (j * e)
  let as := (List.range (rows * cols)).filterMap fun k =>
    let i := k / cols
    let j := k % cols
    if i < vr ∧ j < vc then some (k, at' i j) else none
  let ts ← tileTargets .load ty e buf as
  waitTileW d
  vecGate ts e true
  vecWatch ts 1 e
  let s ← get
  if ts = [] then
    modMe fun x => (x.setTile d.toNat (Machine.setTile (x.tile d.toNat) rows cols (tySize ty) fun _ _ => 0)).later
      (.tile (d.extractLsb' 0 3)) (s.cyc + 3)
    match post with
    | some i => modCore fun c => c.post i
    | none => pure ()
  else
    let us := ts.foldl (fun us p => readUnits us p.2.2 p.1 e) []
    waitIf (4 ≤ x.acc.length) 3
    let job ← (do
      let fl := footLines s (us.map (·.place))
      if fl = [] then return none
      let (j, _) ← enterJob fl [] false
      return some j : M (Option Nat))
    addAccess { id := 0, units := partUnits ts us, got := ts.foldl (fun m p => readMarks m p.2.2 p.1) []
                fin := .tload (d.toNat % 8) ty rows cols rm 0, va := base, ord := partOrd ts, job := job, post := post }

/-- `TST` of the current slot (R140). -/
def tileStore (d : Spec) (base : Word) (buf : Option (Nat × Nat)) (stride : Word) (post : Option Nat) : M Unit := do
  let x ← me
  let sh := x.shapeOf d
  let e := shapeEb sh
  let cols := shapeCols sh
  let pitch : Word := if stride ≠ 0 then stride else BitVec.ofNat 64 (cols * e)
  let as := (List.range (shapeRows sh * cols)).map fun k =>
    (k, base + BitVec.ofNat 64 (k / cols) * pitch + BitVec.ofNat 64 (k % cols * e))
  let ts ← tileTargets .store (shapeTy sh) e buf as
  waitTileR d
  vecGate ts e true
  vecWatch ts 2 e
  let x ← me
  let s ← get
  let us := ts.foldl (fun us p => putUnit us p.2.2.place 0 (.wr p.2.2.place.key e (tileElem (x.tile d.toNat) e p.1))) []
  waitIf (4 ≤ x.acc.length) 3
  let job ← (do
    let fl := footLines s (us.map (·.place))
    if fl = [] then return none
    let (j, _) ← enterJob [] fl false
    return some j : M (Option Nat))
  addAccess { id := 0, units := partUnits ts us, fin := .tstore post, va := base, ord := partOrd ts, job := job }

/-! ## Unit commands -/

/-- The cycles that an element count occupies the unit. -/
def ceilDiv (a b : Nat) : Nat := (a + b - 1) / b

/-- `TMMA` of the current slot (R142). -/
def tileMma (d a b : Spec) (clr : Bool) (kind : Nat) (q : Bool) (post : Option Nat) (net : Bool) : M Unit := do
  let x ← me
  let sd := x.shapeOf d
  let sa := x.shapeOf a
  let sb := x.shapeOf b
  let inTy := match kind with | 0 => 9 | 1 => 8 | _ => 0
  let accTy := if kind = 2 then 4 else 10
  raiseIf (shapeTy sa ≠ inTy || shapeTy sb ≠ inTy || shapeTy sd ≠ accTy || shapeRows sb ≠ shapeCols sa
    || shapeRows sd ≠ shapeRows sa || shapeCols sd ≠ shapeCols sb || d = a || d = b) 0x02 5 0 0
  waitTileR a
  waitTileR b
  let s ← get
  let mine := (← myCore).munit.filter fun u => u.slot = slotIdx s.cur && u.op = 0
  let chain := !clr && (mine.getLast?.any fun u => decide (u.d = d.toNat % 8))
  if !chain then waitTileW d
  let n := shapeRows sa * shapeCols sa * shapeCols sb
  acceptUnit { slot := 0, op := 0, d := d.toNat % 8, a := a.toNat % 8, b := b.toNat % 8, kind := kind, clr := clr, q := q
               cycles := ceilDiv n (if kind = 2 then 2048 else 1024), post := post, net := net, shapes := [sd, sa, sb] }
    (if kind = 2 then 36 else 40)

/-- `TZERO` of the current slot (R143). -/
def tileZero (d : Spec) (post : Option Nat) (net : Bool) : M Unit := do
  let x ← me
  let sd := x.shapeOf d
  waitTileW d
  acceptUnit { slot := 0, op := 1, d := d.toNat % 8, cycles := ceilDiv (shapeRows sd * shapeCols sd * shapeEb sd) 256
               post := post, net := net, shapes := [sd] } 8

/-- `TSCALE` and `TADD` of the current slot (R143). -/
def tileArith (op : Nat) (d a b : Spec) (v : Word) (rm : Nat) (q : Bool) (post : Option Nat) (net : Bool) : M Unit := do
  let x ← me
  let sd := x.shapeOf d
  let others := if op = 3 then [x.shapeOf a, x.shapeOf b] else [x.shapeOf a]
  raiseIf ((others.any fun w => shapeTy w ≠ shapeTy sd || shapeRows w ≠ shapeRows sd || shapeCols w ≠ shapeCols sd)
    || (shapeTy sd ≠ 10 && shapeTy sd ≠ 4)) 0x02 5 0 0
  waitTileR a
  if op = 3 then waitTileR b
  waitTileW d
  acceptUnit { slot := 0, op := op, d := d.toNat % 8, a := a.toNat % 8, b := b.toNat % 8, q := q, rm := rm, x := v
               cycles := ceilDiv (shapeRows sd * shapeCols sd) 64, post := post, net := net, shapes := [sd] } 8

/-- `TMASK` of the current slot (R145). -/
def tileMask (d : Spec) (va p : Word) (post : Option Nat) (net : Bool) : M Unit := do
  let x ← me
  let sd := x.shapeOf d
  let rows := shapeRows sd
  raiseIf (shapeTy sd ≠ 10) 0x02 5 0 0
  raiseIf (decide (0x40000 < va.toNat + rows)) 0x15 0 va 0
  raiseIf (decide ((← localBound) < va.toNat + rows)) 0x06 3 va 0
  waitTileW d
  placeGate
  let pl := localPlace (slotCore (← get).cur) va.toNat
  orderGate pl (← get).windowOrd rows
  needPort
  localPoison pl rows va
  let ps := ((← get).readBytes pl.key rows).map BitVec.toNat
  raiseIf ((List.range rows).any fun i => decide (ps[i]?.getD 0 ≠ 0xFF ∧ i ≤ ps[i]?.getD 0)) 0x02 5 0 0
  checkWatch 1 va rows
  acceptUnit { slot := 0, op := 4, d := d.toNat % 8, x := p, parents := ps
               cycles := ceilDiv (rows * shapeCols sd) 64 + 1, post := post, net := net, shapes := [sd] } 8

/-- The offset of `TGETR` and `TPUTR` (R143). -/
def tileOffset (b : Word) : M Nat := do
  raiseIf (b.extractLsb' 12 52 ≠ 0) 0x02 5 0 0
  raiseIf (b.extractLsb' 0 3 ≠ 0) 0x04 0 b 0
  return b.toNat

/-! ## Meanings -/

/-- `TLD` (R137). -/
def execTld (d a b : Spec) (z g t : BitVec 1) (f : Form) (s : State) : Host.Outcome State Fault Refusal :=
  issue (.tld d a b z g t f) (do
    let (v, buf) ← baseOf f a false
    let st ← src f b
    let e ← if z = 1 then src f f.c else pure 0
    tileLoad d (z = 1) (g = 1) (t = 1) f.rm (v + disp f) buf st e none) s

/-- `TST` (R140). -/
def execTst (d a b : Spec) (f : Form) (s : State) : Host.Outcome State Fault Refusal :=
  issue (.tst d a b f) (do
    let (v, buf) ← baseOf f a true
    let st ← src f b
    tileStore d (v + disp f) buf st none) s

/-- `TMMA` (R142). -/
def execTmma (d a b : Spec) (c : BitVec 1) (t : BitVec 2) (f : Form) (s : State) : Host.Outcome State Fault Refusal :=
  issue (.tmma d a b c t f) (tileMma d a b (c = 1) t.toNat f.quiet none false) s

/-- `TZERO` (R143). -/
def execTzero (d : Spec) (f : Form) (s : State) : Host.Outcome State Fault Refusal :=
  issue (.tzero d f) (tileZero d none false) s

/-- `TSCALE` (R143). -/
def execTscale (d a b : Spec) (f : Form) (s : State) : Host.Outcome State Fault Refusal :=
  issue (.tscale d a b f) (do
    let v ← src f b
    tileArith 2 d a 0 v f.rm f.quiet none false) s

/-- `TADD` (R143). -/
def execTadd (d a b : Spec) (f : Form) (s : State) : Host.Outcome State Fault Refusal :=
  issue (.tadd d a b f) (tileArith 3 d a b 0 f.rm f.quiet none false) s

/-- `TGETR` (R143). -/
def execTgetr (d a b : Spec) (f : Form) (s : State) : Host.Outcome State Fault Refusal :=
  issue (.tgetr d a b f) (do
    let o ← tileOffset (← src f b)
    waitTileR a
    dst f d (((← me).tile a.toNat).extractLsb' (8 * o) 64) 3) s

/-- `TPUTR` (R143). -/
def execTputr (d a b : Spec) (f : Form) (s : State) : Host.Outcome State Fault Refusal :=
  issue (.tputr d a b f) (do
    let v ← src f a
    let o ← tileOffset (← src f b)
    waitTileW d
    let c := (← get).cyc
    modMe fun x => (x.setTile d.toNat ((x.tile d.toNat &&& ~~~(0xFFFFFFFFFFFFFFFF#32768 <<< (8 * o)))
      ||| (v.setWidth 32768 <<< (8 * o)))).later (.tile (d.extractLsb' 0 3)) (c + 3)) s

/-- `TMASK` (R145). -/
def execTmask (d a b : Spec) (f : Form) (s : State) : Host.Outcome State Fault Refusal :=
  issue (.tmask d a b f) (do
    let v ← src f a
    let p ← src f b
    tileMask d v p none false) s

/-- Whether `TWAIT` may go on (R144): the unit has no command, every tile has been written, every `TST` performed. -/
def State.tilesQuiet (s : State) (n : Nat) : Bool :=
  (s.core (slotCore n)).munit.isEmpty && ((List.range 8).all fun t => s.tileThere n t)
    && !((s.slot n).acc.any fun a => match a.fin with
      | .tstore _ => true
      | _ => false)

/-- `TWAIT` (R144). -/
def execTwait (f : Form) (s : State) : Host.Outcome State Fault Refusal :=
  issue (.twait f) (do
    let s ← get
    waitIf (!s.tilesQuiet s.cur) 3) s

end Sys2Proof.Machine
end

