-- ==== Sys2Proof/Machine/Engine.lean ====
section
/-! DEFINITION. Copy channels (R182 to R192), circular buffers (R193 to R197), `KVCOMMIT` (R146 to R148), the matrix unit's
steps (R135) and the DRAM channels (R200): major 0x1B, `CP_LAUNCH` and major 0x35. -/

namespace Sys2Proof.Machine

/-! ## The launch registers -/

/-- A 64-bit value as a signed number (R1). -/
def sInt (w : Word) : Int := w.toInt

/-- Fields of `CP_FLAGS` (R183). -/
def CopySet.tr (c : CopySet) : Nat := (c.flags.extractLsb' 0 2).toNat
def CopySet.chain (c : CopySet) : Bool := c.flags.getLsbD 4
def CopySet.chan (c : CopySet) : Nat := (c.flags.extractLsb' 8 2).toNat
def CopySet.btag (c : CopySet) : Nat := (c.flags.extractLsb' 16 16).toNat
/-- The granule of a transpose, in bytes (R184). -/
def CopySet.gran (c : CopySet) : Nat := if c.tr = 2 then 2 else 1
/-- The hops of `CP_NEXT`, in order: each die and cluster is the number of a cluster (R183). -/
def CopySet.hopList (c : CopySet) : List Nat :=
  (List.range (c.next.extractLsb' 24 2).toNat).map fun i => (c.next.extractLsb' (8 * i) 8).toNat
/-- Length and count of the destination rows (R184, R186). -/
def CopySet.rowLen (c : CopySet) : Nat := if c.tr = 0 then c.len.toNat else c.rows.toNat * c.gran
def CopySet.rowCount (c : CopySet) : Nat := if c.tr = 0 then c.rows.toNat else c.len.toNat / c.gran
/-- Payload bytes. -/
def CopySet.total (c : CopySet) : Nat := c.len.toNat * c.rows.toNat

/-- The bound of `n` rows of `l` bytes at a pitch: lowest byte, and the byte after the highest (R184). -/
def rowBound (base pitch : Word) (l n : Nat) : Int × Int :=
  let far := (base.toNat : Int) + (n - 1 : Nat) * sInt pitch
  (min (base.toNat : Int) far, max (base.toNat : Int) far + l)

def CopySet.srcBound (c : CopySet) : Int × Int := rowBound c.src c.sstr c.len.toNat c.rows.toNat
def CopySet.dstBound (c : CopySet) : Int × Int := rowBound c.dst c.dstr c.rowLen c.rowCount

/-- The limits of R184 on the set itself. -/
def CopySet.limits (c : CopySet) : Bool :=
  c.src.extractLsb' 48 16 = 0 && c.dst.extractLsb' 48 16 = 0
    && c.flags &&& 0xFFFFFFFF0000FCEC#64 = 0 && c.tr ≠ 3 && c.btag < 256
    && (!c.chain || c.next.extractLsb' 26 38 = 0)
    && c.len.toNat % 8 = 0 && 8 ≤ c.len.toNat && c.len.toNat ≤ 65536 && 1 ≤ c.rows.toNat && c.rows.toNat ≤ 65536
    && (sInt c.sstr).natAbs < 2 ^ 32 && (sInt c.dstr).natAbs < 2 ^ 32
    && (c.tr = 0 || (c.len.toNat % c.gran = 0 && c.rows.toNat * c.gran % 8 = 0))

/-- The address of byte `k` of the destination, in delivery order, and of its source (R184, R186). -/
def CopySet.dstVa (c : CopySet) (k : Nat) : Nat :=
  (c.dst + BitVec.ofNat 64 (k / c.rowLen) * c.dstr + BitVec.ofNat 64 (k % c.rowLen)).toNat
def CopySet.srcVa (c : CopySet) (k : Nat) : Nat :=
  if c.tr = 0 then (c.src + BitVec.ofNat 64 (k / c.len.toNat) * c.sstr + BitVec.ofNat 64 (k % c.len.toNat)).toNat
  else
    let g := c.gran
    let j := k / c.rowLen
    let i := k % c.rowLen / g
    (c.src + BitVec.ofNat 64 i * c.sstr + BitVec.ofNat 64 (j * g + k % g)).toNat

/-! ## Reach -/

/-- Whether a copy channel of the current thread's cluster reaches a place (R182). -/
def copyReach (s : State) (p : Place) : Bool :=
  p.dev = 0 && match p.kind with
    | 1 => p.unit = slotCore s.cur
    | 2 | 3 => true
    | _ => chanClu p.unit = slotClu s.cur

/-- The parts of `n` bytes at an address that lie in one 64 KiB page each. -/
def pageSpans (va : Word) (n : Nat) : List (Word × Nat) :=
  let o := va.toNat % 65536
  (List.range ((o + n + 65535) / 65536)).map fun i =>
    let a := max (65536 * i) o
    (va + BitVec.ofNat 64 (a - o), min (65536 * (i + 1)) (o + n) - a)

/-- Resolves one such part for a channel (R182, R184): its place. -/
def spanPlace (e : Eff) (k : Acc) (p : Word × Nat) : M Place := do
  let t ← resolveIn e k p.1 true
  if t.place.kind = 1 then
    let _ ← resolveIn e k (p.1 + BitVec.ofNat 64 (p.2 - 1)) true
  raiseIf (t.view ≠ 0) 0x07 0 p.1 0
  let s ← get
  raiseIf (!copyReach s t.place) 0x15 0 p.1 0
  if servedBy s t.place = 1 || servedBy s t.place = 2 then
    let lo := t.place.off / 128
    let _ ← forEach (fun i =>
      let q := { t.place with off := max t.place.off (128 * (lo + i)) }
      checkBank q (p.1 + BitVec.ofNat 64 (q.off - t.place.off)))
      (List.range ((t.place.off + p.2 - 1) / 128 - lo + 1))
  return t.place

/-- Resolves parts: each with its trap, or its address, place and length. -/
def spanPlaces (e : Eff) (k : Acc) (ps : List (Word × Nat)) : M (List (Except TrapRec (Nat × Place × Nat))) :=
  forEach (fun p => do
    match ← tryTrap (spanPlace e k p) with
    | .ok q => return Except.ok (p.1.toNat, q, p.2)
    | .error t => return Except.error t) ps

/-- The page of a resolved part: its number and the place of its first byte. -/
def spanPage (r : Nat × Place × Nat) : Nat × Place :=
  (r.1 / 65536, { r.2.1 with off := r.2.1.off - r.1 % 65536 })

/-- The place of an address without its protection: none where nothing is mapped (R187). -/
def locate (e : Eff) (va : Nat) : M (Option Place) := do
  let s ← get
  if 0x100000 ≤ va ∧ va < 0x200000 then return some (cluPlace (slotClu s.cur) (va - 0x100000))
  else if va < 2 ^ 32 then return windowPlace 0 va
  else if 2 ^ 48 ≤ va then return none
  else
    match ← tryTrap (translate e.troot va true) with
    | .ok (pte, big) => return (pageFrame pte big va).map fun f => f.add (va % 65536)
    | .error _ => return none

/-- The pages of a range of addresses that lie in the own cluster store, and whether all of them do. -/
def ownPages (e : Eff) (lo n : Nat) : M (List (Nat × Place) × Bool) := do
  let s ← get
  let rs ← forEach (fun (p : Word × Nat) => do
    return (p.1.toNat, ← locate e p.1.toNat)) (pageSpans (BitVec.ofNat 64 lo) n)
  let own := rs.filterMap fun r => match r.2 with
    | some p => if servedBy s p = 1 then some (spanPage (r.1, p, 0)) else none
    | none => none
  return (own, rs.length = own.length)

/-- The ranges of lines that a job covers in the own cluster store and the own die's common store (R191, R192), each from its
lowest to its highest line. -/
def footBounds (s : State) (ps : List (Place × Nat)) : List (Nat × Nat) :=
  [1, 2].filterMap fun k =>
    let qs := ps.filter fun p => servedBy s p.1 = k
    match qs with
    | [] => none
    | q :: qs => some (qs.foldl (fun r p => (min r.1 (p.1.key / 128), max r.2 ((p.1.key + p.2 - 1) / 128)))
        (q.1.key / 128, (q.1.key + q.2 - 1) / 128))

/-! ## Launching -/

/-- The sequence word of a channel's launch number `q` (R184). -/
def seqWord (ch q : Nat) : Word := BitVec.ofNat 64 (q / 2 ^ 28 * 2 ^ 32 + ch * 2 ^ 28 + q % 2 ^ 28)

/-- Channel and launch number of a sequence word (R184): none where its bits cannot be one. -/
def seqParts (n : Word) : Option (Nat × Nat) :=
  let ch := (n.extractLsb' 28 4).toNat
  if n.extractLsb' 60 4 ≠ 0 || 3 < ch then none
  else some (ch, (n.extractLsb' 32 28).toNat * 2 ^ 28 + (n.extractLsb' 0 28).toNat)

/-- A channel of the current cluster. -/
def chanOf (ch : Nat) : M Channel := do return ((← myClu).chans[ch]?).getD {}

/-- Queues a transfer on a channel and notes it as the slot's most recent launch (R183, R184). -/
def launch (ch : Nat) (t : Transfer) : M Unit := do
  modClu fun c => { c with chans := vmod c.chans ch fun x => { x with count := x.count + 1, queue := x.queue ++ [t] } }
  modMe fun x => { x with lastCopy := some t.seq, copyWp := 0 }

/-- A read of `CP_LAUNCH` (R184). -/
def execCpLaunch (d : Spec) (f : Form) (s : State) : Host.Outcome State Fault Refusal :=
  issue (.cpLaunch d f) (do
    let x ← me
    let c := x.copy
    let s ← get
    raiseIf (!c.limits) 0x02 5 0 0
    let _ ← forEach (fun (w : Word) => raiseIf (w.toNat % 8 ≠ 0) 0x04 0 w 0) [c.src, c.dst, c.sstr, c.dstr, c.stamp]
    let (slo, shi) := c.srcBound
    let (dlo, dhi) := c.dstBound
    let st := (c.stamp.toNat : Int)
    raiseIf ((2 ≤ c.rowCount && decide ((sInt c.dstr).natAbs < c.rowLen)) || decide (slo < dhi ∧ dlo < shi)
      || decide (dlo < st + 8 ∧ st < dhi)) 0x02 5 0 0
    let e ← myEff
    let lo := dlo.toNat
    let len := (dhi - dlo).toNat
    let (pages, own) ← if c.chain then ownPages e lo len else pure ([], true)
    if c.chain then
      let stampOwn := (← locate e c.stamp.toNat).all fun p => servedBy s p = 1
      raiseIf (c.hopList.isEmpty || !own || !stampOwn) 0x02 5 0 0
      raiseIf (c.hopList.any fun h => (e.logical s.device h).isNone) 0x06 4 c.next 0
    let spans (base pitch : Word) (l n : Nat) : List (Word × Nat) :=
      (List.range n).flatMap fun i => pageSpans (base + BitVec.ofNat 64 i * pitch) l
    let rs ← spanPlaces e .load (spans c.src c.sstr c.len.toNat c.rows.toNat)
    let rd ← spanPlaces e .store (spans c.dst c.dstr c.rowLen c.rowCount)
    let rt ← spanPlaces e .store [(c.stamp, 8)]
    let all ← allOk (rs ++ rd ++ rt)
    let srcs := all.take rs.length
    let dsts := (all.drop rs.length).take rd.length
    let stamp := ((all.drop (rs.length + rd.length)).head?.map fun r => r.2.1).getD ⟨0, 0, 0, 0⟩
    loadDstCheck d
    launchGate
    waitIf (!x.storesDone) 3
    let ch ← chanOf c.chan
    waitIf (4 ≤ ch.queue.length || 32 ≤ (← myClu).jobs.length) 3
    let n := seqWord c.chan (ch.count + 1)
    dst f d n 3
    let x ← me
    let foot (rs : List (Nat × Place × Nat)) := footBounds s (rs.map fun r => (r.2.1, r.2.2))
    let (job, _) ← enterJob (foot srcs) (foot dsts ++ footBounds s [(stamp, 8)]) false
    launch c.chan
      { seq := n, slot := s.cur, cont := x.cont, region := x.region, tenant := e.tenant, pc := x.pc, set := c
        pages := ((srcs ++ dsts).map spanPage ++ pages).eraseDups, stamp := stamp, total := c.total, lo := lo, len := len
        hops := if c.chain then c.hopList else [], job := job }) s

/-- `CPFWD` (R187). -/
def execCpfwd (d a b : Spec) (f : Form) (s : State) : Host.Outcome State Fault Refusal :=
  issue (.cpfwd d a b f) (do
    let n ← src f a
    let h ← src f b
    let bad {α : Type} : M α := raise 0x02 5 0 0
    raiseIf (h.extractLsb' 8 56 ≠ 0) 0x02 5 0 0
    match seqParts n with
    | none => bad
    | some (k, q) =>
      let ch ← chanOf k
      raiseIf (q = 0 || decide (ch.count < q)) 0x02 5 0 0
      waitIf (ch.queue.any fun t => !t.kv && t.seq = n) 3
      match ch.done.find? fun t => t.seq = n with
      | none => bad
      | some t =>
        raiseIf (!t.own) 0x02 5 0 0
        let s ← get
        let e ← myEff
        let hop := h.toNat
        raiseIf (e.logical s.device hop).isNone 0x06 4 h 0
        loadDstCheck d
        launchGate
        waitIf (!(← me).storesDone) 3
        waitIf (4 ≤ ch.queue.length || 32 ≤ (← myClu).jobs.length) 3
        let n' := seqWord k (ch.count + 1)
        let (own, _) ← ownPages e t.lo t.len
        dst f d n' 3
        let x ← me
        let pages := t.pages ++ own.filter fun p => !(t.pages.any fun q => q.1 = p.1)
        let bound := footBounds s (pages.map fun p =>
          let lo := max t.lo (65536 * p.1)
          (p.2.add (lo - 65536 * p.1), min (t.lo + t.len) (65536 * (p.1 + 1)) - lo))
        let (job, _) ← enterJob bound (if hop = slotClu s.cur then bound ++ footBounds s [(t.stamp, 8)] else []) false
        launch k
          { seq := n', slot := s.cur, cont := x.cont, region := x.region, tenant := e.tenant, pc := x.pc
            pages := pages, stamp := t.stamp, total := t.len, lo := t.lo, len := t.len, hop := 1, hops := [hop]
            fwd := true, job := job }) s

/-- `CPWAIT` (R188). -/
def execCpwait (d a b : Spec) (f : Form) (s : State) : Host.Outcome State Fault Refusal :=
  issue (.cpwait d a b f) (do
    let n ← src f a
    let b ← src f b
    match seqParts n with
    | none => raise 0x02 5 0 0
    | some (k, q) =>
      let ch ← chanOf k
      raiseIf (q = 0 || decide (ch.count < q)) 0x02 5 0 0
      match ch.queue.find? fun t => !t.kv && t.seq = n with
      | some t =>
        waitIf (decide (t.bytes < min b.toNat t.total)) 3
        dst f d (BitVec.ofNat 64 t.bytes) 3
      | none =>
        match ch.done.find? fun t => t.seq = n with
        | some t => dst f d (BitVec.ofNat 64 t.bytes) 3
        | none => dst f d (BitVec.allOnes 64) 3) s

/-! ## What a channel does next -/

/-- The place of an address of a transfer. -/
def Transfer.place (t : Transfer) (va : Nat) : Place :=
  match t.pages.find? fun p => p.1 = va / 65536 with
  | some (_, p) => p.add (va % 65536)
  | none => ⟨0, 0, 0, 0⟩

/-- The cluster store that a hop reads (R187). -/
def Transfer.hopFrom (t : Transfer) (clu : Nat) : Nat := if t.hop ≤ 1 then clu else (t.hops[t.hop - 2]?).getD clu

/-- The cluster store that a hop writes. -/
def Transfer.hopTo (t : Transfer) (clu : Nat) : Nat := if t.hop = 0 then clu else (t.hops[t.hop - 1]?).getD clu

/-- Bytes of the present hop. -/
def Transfer.size (t : Transfer) : Nat := if t.hop = 0 then t.total else t.len

/-- Where a place is served for a channel of a cluster: 1 a service-port turn, 2 the network, 3 DRAM, 0 a local store. -/
def chanServed (clu : Nat) (p : Place) : Nat :=
  match p.kind with
  | 2 => if p.unit = clu then 1 else 2
  | 3 => if p.unit = cluDie clu then 1 else 2
  | 4 => 3
  | _ => 0

/-- The bytes that one read or write of a channel covers at a place: a whole line where it goes over the network (R182). -/
def chanSpan (clu : Nat) (p : Place) : Nat := if chanServed clu p = 2 then 128 else p.span

/-- The source line that holds a byte. -/
def sourceLine (clu : Nat) (p : Place) : Place × Nat :=
  let n := chanSpan clu p
  ({ p with off := p.off / n * n }, n)

/-- A part of a delivery, one line or half-line at its destination: position, destination, length, and the source of each byte. -/
structure Part where
  pos : Nat
  dst : Place
  n : Nat
  src : Nat → Place

/-- The source lines of a part. -/
def Part.lines (p : Part) (clu : Nat) : List (Place × Nat) :=
  ((List.range p.n).map fun k => sourceLine clu (p.src k)).eraseDups

/-- The first position from `pos` on at which there is something to deliver (R187): a hop skips the pages of its bound that hold
nothing of the own cluster store. -/
def Transfer.seek (t : Transfer) (pos : Nat) : Nat :=
  let page := (t.lo + pos) / 65536
  if t.hop = 0 || t.pages.any fun p => p.1 = page then pos
  else ((t.pages.filter fun p => page < p.1).map fun p => 65536 * p.1 - t.lo).foldl min t.size

/-- The part at a position (R185 to R187). -/
def Transfer.partAt (t : Transfer) (clu pos : Nat) : Part :=
  if t.hop = 0 then
    let p := t.place (t.set.dstVa pos)
    let w := chanSpan clu p
    ⟨pos, p, min (t.set.rowLen - pos % t.set.rowLen) (w - p.off % w), fun k => t.place (t.set.srcVa (pos + k))⟩
  else
    let p := t.place (t.lo + pos)
    ⟨pos, cluPlace (t.hopTo clu) p.off, min (t.len - pos) (128 - p.off % 128), fun k => cluPlace (t.hopFrom clu) (p.off + k)⟩

/-- At most `fuel` parts from a position on. -/
def Transfer.partsFrom (t : Transfer) (clu : Nat) : Nat → Nat → List Part
  | 0, _ => []
  | fuel + 1, pos =>
    let pos := t.seek pos
    if t.size ≤ pos then []
    else
      let p := t.partAt clu pos
      p :: t.partsFrom clu fuel (pos + p.n)

/-- The next parts that a transfer delivers, in their order (R185, R147): none once all have been written or sent. -/
def Transfer.parts (t : Transfer) (clu : Nat) : List Part :=
  if t.kv then (t.moves.take 16).map fun m => ⟨0, m.2.1, m.2.2.1, fun k => m.1.add k⟩
  else t.partsFrom clu 16 t.pos

/-- The source lines that a transfer keeps in flight ahead of its writes (R189): sixteen, or as many as the next part needs. -/
def Transfer.window (t : Transfer) (clu : Nat) : List (Place × Nat) :=
  match t.parts clu with
  | [] => []
  | p :: ps =>
    let first := p.lines clu
    if 16 ≤ first.length then first else ((first ++ ps.flatMap fun q => q.lines clu).eraseDups).take 16

/-- What a channel may do next: read a source line, write a part, write the stamp, go on after its acknowledgement, or stop before a
line that cannot be read. -/
inductive Todo where
  | fetch (p : Place) (n : Nat)
  | put (p : Place)
  | stamp (p : Place)
  | over
  | halt (cause : Nat) (p : Place)
  deriving DecidableEq, Repr

/-- The place that an action reads or writes. -/
def Todo.place : Todo → Option Place
  | .fetch p _ | .put p | .stamp p => some p
  | _ => none

/-- What the transfer at the head of a channel does next (R185, R187, R147), what waits in a DRAM channel's queue included: parts
are written in their order, and their source lines read ahead. -/
def Transfer.wants (t : Transfer) (clu cyc : Nat) : List Todo :=
  if !t.started || t.stop ≠ 0 then []
  else if t.stampSent then (if t.stampDone then [.over] else [])
  else
    match t.parts clu with
    | [] => if t.sent.isEmpty then [.stamp (if t.hop = 0 || t.kv then t.stamp else cluPlace (t.hopTo clu) t.stamp.off)] else []
    | p :: _ =>
      let need := p.lines clu
      match need.findSome? fun l => (t.bad.find? fun b => b.1 = l.1.key).map fun b => (b.2, l.1) with
      | some (c, l) => if t.sent.isEmpty then [.halt c l] else []
      | none =>
        let there (l : Place × Nat) : Bool := SMap.has t.got l.1.key && decide ((SMap.get (0, 0, 0) t.got l.1.key).2.2 ≤ cyc)
        (if need.all there then [.put p.dst] else [])
          ++ ((t.window clu).filter fun l => !SMap.has t.got l.1.key && !(t.bad.any fun b => b.1 = l.1.key)).map fun l =>
            .fetch l.1 l.2

/-- The same without what has been asked for. -/
def Transfer.todos (t : Transfer) (clu cyc : Nat) : List Todo :=
  (t.wants clu cyc).filter fun d => !(d.place.any fun p => t.asked.contains p.key)

/-- What an action needs: 1 the port of a local store, 2 and 3 a service-port turn at the cluster store or the common store, 0 none
of these. -/
def Todo.needs (clu : Nat) (d : Todo) : Nat :=
  match d.place with
  | none => 0
  | some p => if p.kind = 1 then 1 else if chanServed clu p = 1 then p.kind else 0

/-- The transfer that a channel executes. -/
def State.head (s : State) (clu ch : Nat) : Option Transfer := (((s.clu clu).chans[ch]?).getD {}).queue.head?

/-- Whether a line of the service port of a cluster may be served at this cycle's turn (R80, R88). -/
def State.svcAt (s : State) (clu : Nat) (p : Place) : Bool :=
  s.turnAt clu 17 p s.cyc && decide (SMap.get 0 (s.clu clu).held p.line.key ≤ s.cyc)

/-- Whether a channel may act on a place in this cycle (R182, R200, R327): at a turn, with one of its 8 response slots for a line
load or one of its 64 credits for a line store, with room in a DRAM channel's queue, and with charge for a line written. -/
def State.chanFree (s : State) (clu : Nat) (t : Transfer) (d : Todo) : Bool :=
  let c := s.clu clu
  let charge := match d with
    | .put _ => !(c.pwrChg && c.chgLvl = 0)
    | _ => true
  charge && match d.place with
    | none => true
    | some p => match chanServed clu p with
      | 1 => s.svcAt clu p
      | 2 => match d with
        | .fetch _ _ => decide ((t.asked.filter fun k => chanServed clu (Place.ofKey k) = 2).length < 8)
        | .put _ => decide ((t.sent.filter fun q => !q.2.2).length < 64)
        | _ => true
      | 3 => decide ((s.dram p.unit).queue.length < 16)
      | _ => true

/-- The first action of a channel that needs a given turn or port, or neither, and may be taken in this cycle: none while a halt
freezes it (R305). -/
def State.chanAction (s : State) (clu ch needs : Nat) : Option Todo :=
  let c := s.clu clu
  if c.dbg.still || c.dbg.halting.isSome then none
  else
    match s.head clu ch with
    | none => none
    | some t => (t.todos clu s.cyc).find? fun d => d.needs clu = needs && s.chanFree clu t d

/-! ## Reports and ends -/

/-- A report for a continuation, pending in its saved frame (R287). -/
def State.reportEntry (s : State) (clu : Nat) (q : QEntry) (r : TrapRec) : State :=
  match s.eff? (s.rcbOf q.val.region), q.frame with
  | some e, some i =>
    let base := localPlace (clu * 20 + q.val.core) (e.frameOff 0 i)
    let st := s.readMem (base.add 1064).key 8
    let n := st / 256 % 256
    if 8 ≤ n then (s.writeMem (base.add 1064).key (st - st / 8 % 2 * 8 + 8) 8).tel clu 5
    else
      let r := { r with defd := true }
      (s.storeBytes (base.add (256 + 32 * n)) ([r.word0, r.pc, r.addr, r.info].flatMap fun w => leBytes 8 w.toNat)).writeMem
        (base.add 1064).key (st + 256) 8
  | _, _ => s

/-- The report of an engine job (R190): to the launching thread, wherever it is, or to its region's handler. -/
def State.engineReport (s : State) (t : Transfer) (r : TrapRec) : State :=
  let r := { r with eng := true, pc := t.pc }
  if (s.slot t.slot).live && (s.slot t.slot).cont = t.cont then s.report t.slot r
  else
    match s.findEntry t.cont with
    | some (c, q) => s.reportEntry c q r
    | none => s.faultHandler t.region (slotCore t.slot) 0 { r with defd := true }

/-- The transfer at the head of a channel is over (R185, R187, R190): its footprint entry is free, and the channel keeps what
`CPFWD` and `CPWAIT` need. -/
def State.endTransfer (s : State) (clu ch : Nat) (t : Transfer) (stopped : Bool) : State :=
  let own (p : Place) : Bool := p.dev = 0 && p.kind = 2 && p.unit = clu
  let away := t.hops.headD clu
  let bound := t.pages.filter fun p => decide (t.lo < 65536 * (p.1 + 1) ∧ 65536 * p.1 < t.lo + t.len)
  let d : CopyDone :=
    { seq := t.seq, pages := bound, lo := t.lo, len := t.len, stamp := t.stamp, total := t.total
      own := own t.stamp && (if t.fwd then away = clu else bound.all fun p => own p.2)
      bytes := t.bytes }
  let s := s.modClu clu fun c =>
    { c with
        jobs := c.jobs.filter fun j => j.id ≠ t.job
        chans := vmod c.chans ch fun x =>
          { x with queue := x.queue.drop 1
                   done := if t.kv then x.done else (d :: x.done).take 4
                   lastDone := if t.kv then x.lastDone else t.seq } }
  if !t.kv && (s.slot t.slot).lastCopy = some t.seq then
    s.modSlot t.slot fun x => { x with copyWp := BitVec.ofNat 64 (t.bytes + (if stopped then 2 ^ 63 else 0)) }
  else s

/-- `path` as it stands when the moves of entries below `i` have been made (R148). -/
def restPath (path : Word) (i : Nat) : Word :=
  let k := ((List.range i).filter fun j => path.getLsbD j).length
  BitVec.ofNat 64 (2 ^ k - 1) ||| (path >>> i <<< i)

/-- Removes a `KVCOMMIT` job and its footprint entry. -/
def State.dropKv (s : State) (n : Nat) : State :=
  let mine (t : Transfer) : Bool := t.kv && t.slot = n && t.cont = (s.slot n).cont
  s.modClu (slotClu n) fun c =>
    { c with jobs := c.jobs.filter fun j => !(j.kv && j.slot = n && j.cont = (s.slot n).cont)
             chans := c.chans.map fun x => { x with queue := x.queue.filter fun t => !mine t } }

/-- A `KVCOMMIT` ends at a cause met by its moves (R148): B holds the path still to move. -/
def State.kvTrap (s : State) (t : Transfer) (r : TrapRec) : State :=
  let i := (t.moves.head?.map fun m => m.2.2.2.1).getD 32
  let s := ((s.dropKv t.slot).land t.slot (s.slot t.slot).wp t.reg (restPath t.path i)).modSlot t.slot fun x =>
    { x with phase := 0, buf := [] }
  s.takeTrap t.slot { r with pc := t.pc } t.pc

/-- Leaves a `KVCOMMIT` for a pre-emption (R148): at once while its job has not started, and otherwise between two entries. -/
def State.kvYield (s : State) (n : Nat) : State :=
  let x := s.slot n
  if x.phase ≠ 43 then
    if x.phase = 42 || x.phase = 45 then (s.dropKv n).modSlot n fun x => { x with phase := 0, buf := [] } else s
  else
    match (s.clu (slotClu n)).chans.toList.findSome? fun c => c.queue.find? fun t => t.kv && t.slot = n && t.cont = x.cont with
    | none => s
    | some t =>
      match t.moves.head? with
      | none => s
      | some m =>
        let i := m.2.2.2.1
        if t.hop = i + 1 then s
        else ((s.dropKv n).land n x.wp t.reg (restPath t.path i)).modSlot n fun x => { x with phase := 0, buf := [] }

/-- `COPY_STOP` (R190): the transfer ends before the line that stops it, and is reported. -/
def State.stopTransfer (s : State) (clu ch cause : Nat) : State :=
  match s.head clu ch with
  | none => s
  | some t =>
    let bank := { absentTrap t.stopAt with addr := BitVec.ofNat 64 t.stopAt.window }
    if t.kv then s.kvTrap t { bank with eng := true }
    else
      let r : TrapRec := if cause = 0x0D then bank else { cause := 0x0E, addr := BitVec.ofNat 64 t.bytes, info := t.seq }
      (s.endTransfer clu ch t true).engineReport t r

def execCopyStop (clu ch cause : Nat) (s : State) : Host.Outcome State Fault Refusal := .next (s.stopTransfer clu ch cause)

/-- `COPY_TRANSFER_START` (R182, R192): a held job holds its channel. -/
def execCopyTransferStart (clu ch : Nat) (s : State) : Host.Outcome State Fault Refusal :=
  match s.head clu ch with
  | none => .next s
  | some t =>
    if (s.clu clu).jobs.any fun j => j.id = t.job && j.held then .next s
    else .next (s.modHead clu ch fun t => { t with started := true })

/-! ## Lines -/

/-- A channel as a requester of a DRAM channel's queue (R200): numbers above the slots'. -/
def chanRequester (clu ch : Nat) : Nat := 65536 + clu * 4 + ch

/-- A request packet of a copy channel (R161, R182), for the part at a position; a poisoned payload is not `ok`. -/
def State.chanPacket (s : State) (clu ch kind : Nat) (t : Transfer) (p : Place) (n v tag pos : Nat) (ok : Bool) : State :=
  s.send { pid := 0, kind := kind, ddev := s.device, dst := if p.kind = 2 then p.unit else p.unit * 32 + p.group, dep := 30
           src := clu, sep := 20 + ch, region := t.region, tenant := t.tenant, btag := tag, place := p, size := n, val := v
           slot := t.slot, cont := t.job, owed := pos, ok := ok }

/-- The value of a source line and its poisoned doublewords (R92, R190). -/
def State.readLine (s : State) (p : Place) (n : Nat) : Nat × Nat :=
  (s.readMem p.key n, ((List.range (n / 8)).filter fun i => s.isPoisoned (p.add (8 * i)) 8).foldl (fun m i => m + 2 ^ i) 0)

/-- The bytes of a part from the lines that hold them, as a number, and whether any of them is poisoned. -/
def Transfer.gather (t : Transfer) (clu : Nat) (p : Part) : Nat × Bool :=
  (List.range p.n).foldr (fun k (acc : Nat × Bool) =>
    let q := p.src k
    let l := (sourceLine clu q).1
    let (v, bad, _) := SMap.get (0, 0, 0) t.got l.key
    let o := q.off - l.off
    (acc.1 * 256 + v / 256 ^ o % 256, acc.2 || bad.testBit (o / 8))) (0, false)

/-- A poisoned source line is reported once at the line that it poisons (R190, R277). -/
def State.poisonReport (s : State) (t : Transfer) (p : Place) : State :=
  s.engineReport t { cause := 0x08, addr := BitVec.ofNat 64 p.window, info := t.seq }

/-- A part has been written, or sent (R185): its source lines are kept for the parts that follow only. -/
def Transfer.wrote (t : Transfer) (clu : Nat) (p : Part) (done : Bool) : Transfer :=
  let t := { t with asked := t.asked.erase p.dst.key }
  let t := if t.kv then { t with hop := (t.moves.head?.map fun m => m.2.2.2.1 + 1).getD 0, moves := t.moves.drop 1 }
    else ({ t with pos := p.pos + p.n, sent := t.sent ++ [(p.pos, p.n, done)] } : Transfer).settle
  let keep := t.window clu
  { t with got := t.got.filter fun g => keep.any fun l => l.1.key = g.1 }

/-- Stops the transfer of a channel before a line (R190). -/
def Transfer.halted (t : Transfer) (cause : Nat) (p : Place) : Transfer := { t with stop := cause, stopAt := p }

/-- Writes the next part of a transfer at a place that is ready for it. -/
def State.putPart (s : State) (clu ch : Nat) (t : Transfer) (p : Part) : State :=
  let (v, bad) := t.gather clu p
  if s.bankAbsent p.dst && chanServed clu p.dst = 1 then
    if t.sent.isEmpty then s.modHead clu ch fun t => t.halted 0x0D p.dst else s
  else if t.kv && bad then s.kvTrap t { cause := 0x08, addr := ((t.moves.head?.map fun m => m.2.2.2.2).getD 0) }
  else
    let s := s.takeCharge (clu * 160) 1
    let s := if bad then s.poisonReport t p.dst else s
    if chanServed clu p.dst = 2 then
      (s.chanPacket clu ch 4 t p.dst p.n v t.set.btag p.pos !bad).modHead clu ch fun t => t.wrote clu p false
    else
      let s := s.store p.dst v p.n
      (if bad then s.poisonSpan p.dst p.n else s).modHead clu ch fun t => t.wrote clu p true

/-- The stamp of the present hop is in place (R185, R187, R147): the next hop begins, or the transfer is complete. -/
def State.stamped (s : State) (clu ch : Nat) : State :=
  match s.head clu ch with
  | none => s
  | some t =>
    if t.kv then
      (s.endTransfer clu ch t false).modSlot t.slot fun x =>
        if x.live && x.cont = t.cont then { x with phase := 44, buf := [t.newLen, s.cyc] } else x
    else if t.hop < t.hops.length then
      s.modHead clu ch fun t => { t with hop := t.hop + 1, pos := 0, got := [], asked := [], stampSent := false, stampDone := false }
    else s.endTransfer clu ch t false

/-- Writes the stamp, or the length word of a `KVCOMMIT`, at a place that is ready for it. -/
def State.putStamp (s : State) (clu ch : Nat) (t : Transfer) (p : Place) : State :=
  let v := if t.kv then t.newLen else t.seq.toNat
  if s.bankAbsent p && chanServed clu p = 1 then s.modHead clu ch fun t => t.halted 0x0D p
  else if chanServed clu p = 2 then
    (s.chanPacket clu ch 1 t p 8 v 0 0 true).modHead clu ch fun t => { t with stampSent := true }
  else (s.store p v 8).stamped clu ch

/-- Does one action of a channel at a place that is ready for it: `lat` cycles until a line read is there. -/
def State.copyAct (s : State) (clu ch lat : Nat) (d : Todo) : State :=
  match s.head clu ch with
  | none => s
  | some t =>
    match d with
    | .over => s.stamped clu ch
    | .halt c p => s.modHead clu ch fun t => t.halted c p
    | .stamp p => s.putStamp clu ch t p
    | .put _ => match (t.parts clu).head? with
      | some p => s.putPart clu ch t p
      | none => s
    | .fetch p n =>
      if s.bankAbsent p && chanServed clu p = 1 then s.modHead clu ch fun t => { t with bad := t.bad ++ [(p.key, 0x0D)] }
      else if chanServed clu p = 2 then
        (s.chanPacket clu ch 3 t p n 0 0 0 true).modHead clu ch fun t => { t with asked := t.asked ++ [p.key] }
      else
        let (v, bad) := s.readLine p n
        s.modHead clu ch fun t =>
          { t with asked := t.asked.erase p.key, got := SMap.set t.got p.key (v, bad, s.cyc + lat) }

/-- Puts a channel's request in the queue of the DRAM channel of a place (R200). -/
def State.askDram (s : State) (clu ch : Nat) (p : Place) : State :=
  (s.modDram p.unit fun d => { d with queue := d.queue ++ [(chanRequester clu ch, p.key)] }).modHead clu ch fun t =>
    { t with asked := t.asked ++ [p.key] }

/-- Holds a line of the service port that meets a missing turn for a revolution (R88). -/
def State.holdLine (s : State) (clu : Nat) (p : Place) : State :=
  s.modClu clu fun c =>
    { c with held := SMap.set (c.held.filter fun e => decide (s.cyc < e.2)) p.line.key (s.cyc + s.revolution clu p) }

/-- One action of a channel (R185, R187): `n` is the channel, plus four times the port or turn that it takes. -/
def State.copyStep (s : State) (clu n : Nat) : State :=
  match s.chanAction clu (n % 4) (n / 4) with
  | none => s
  | some d =>
    match d.place with
    | none => s.copyAct clu (n % 4) 0 d
    | some p =>
      if p.kind = 4 then s.askDram clu (n % 4) p
      else if chanServed clu p = 1 && s.missing clu p then (s.holdLine clu p).event clu 9
      else s.copyAct clu (n % 4) 0 d

/-- `COPY_LINE` (R185). -/
def execCopyLine (clu ch : Nat) (s : State) : Host.Outcome State Fault Refusal := .next (s.copyStep clu ch)

/-- `CHAIN_HOP` (R187). -/
def execChainHop (clu ch : Nat) (s : State) : Host.Outcome State Fault Refusal := .next (s.copyStep clu ch)

/-- `COPY_STAMP` (R185). -/
def execCopyStamp (clu ch : Nat) (s : State) : Host.Outcome State Fault Refusal := .next (s.copyStep clu ch)

/-- `FOOTPRINT_RELEASE` (R192). -/
def execFootprintRelease (clu job : Nat) (s : State) : Host.Outcome State Fault Refusal :=
  .next (s.modClu clu fun c =>
    let js := c.jobs.filter fun j => !j.over s.cyc
    { c with jobs := js.map fun j => if j.id = job then { j with held := heldBy js j } else j })

/-! ## DRAM channels -/

/-- Whether a cycle lies in a refresh window of a DRAM channel (R200). -/
def inRefresh (chan cyc : Nat) : Bool :=
  decide ((cyc % 5070 + 5070 - 1268 * (chan % 4)) % 5070 ≤ 363)

/-- What the request of a channel in a DRAM channel's queue asks for: none where its transfer is over. -/
def State.chanDram (s : State) (clu ch key : Nat) : Option Todo :=
  (s.head clu ch).bind fun t => (t.wants clu s.cyc).find? fun d => d.place.any fun p => p.key = key

/-- A service port, which walks tables and refills blocks, as a requester of a DRAM channel's queue, and the host. -/
def portRequester (clu : Nat) : Nat := 2 ^ 18 + clu
def hostRequester : Nat := 2 ^ 21

/-- What a request in a DRAM channel's queue is for (R200). -/
inductive DramWork where
  /-- A part of an access of a memory core's thread. -/
  | unit (u : MemUnit)
  /-- A line or the stamp of a copy channel. -/
  | chan (d : Todo)
  /-- A table entry or a block of code for the cluster's service port (R63, R292). -/
  | port (r : PortRead)
  /-- A block of code for another cluster (R63). -/
  | packet (p : Packet)
  /-- A line of the host (R323). -/
  | host (at' : Place) (n v : Nat) (wr : Bool)

/-- Its place. -/
def DramWork.place : DramWork → Option Place
  | .unit u => some u.place
  | .chan d => d.place
  | .port r => some (Place.ofKey r.key)
  | .packet p => some p.place
  | .host p _ _ _ => some p

/-- What a request in the queue of a DRAM channel, with its requester and number, asks for: none where its requester no longer wants
it, or where an earlier part of its access is not yet performed. -/
def State.dramWork (s : State) (chan n id : Nat) : Option DramWork :=
  let clu := chanClu chan
  if n = hostRequester then
    (s.hostOps.find? fun o => o.id = id).bind fun o => o.lines.head?.map fun l => .host l.1 l.2.1 l.2.2 o.wr
  else if n = packetRequester then (s.packet? id).map .packet
  else if 2 ^ 18 ≤ n then ((s.clu clu).reads.find? fun r => r.seq = id).map .port
  else if 65536 ≤ n then (s.chanDram clu (n % 4) id).map .chan
  else
    ((s.slot n).acc.find? fun a => a.id = id).bind fun a =>
      (a.units.find? fun u => u.place.kind = 4 && u.place.unit = chan && s.unitFree n a u).map .unit

/-- The request of a packet is served by a DRAM channel (R63, R200): its answer is injected once its data is there. -/
def State.dramAnswer (s : State) (p : Packet) (lat : Nat) : State :=
  let n := if p.kind = 3 then 128 else p.size
  let t := s.answer p 14 (s.readMem p.place.key n) true (if s.isPoisoned p.place n then some { cause := 0x08 } else none)
  { t with net := t.net.map fun q => if q.pid = s.pidNext then { q with due := q.due + lat } else q }

/-- A line of a host access is performed (R323). -/
def State.hostLine (s : State) (id : Nat) (p : Place) (n v : Nat) (wr : Bool) : State :=
  let got := if wr then [] else s.readBytes p.key n
  let s := if wr then s.storeBytes p (leBytes n v) else s
  { s with hostOps := s.hostOps.map fun o =>
      if o.id = id then { o with lines := o.lines.drop 1, queued := false, got := o.got ++ got } else o }

/-- Does the work of a request that has started: `lat` cycles until its data is there. -/
def State.dramDo (s : State) (chan n id lat : Nat) : DramWork → State
  | .unit u => s.serveUnit n id u (s.cyc + lat)
  | .chan d => s.copyAct (chanClu chan) (n % 4) lat d
  | .port r =>
    let (p, k) := r.span
    let v := s.readMem p.key k
    s.modClu (chanClu chan) fun c =>
      { c with reads := c.reads.map fun q => if q.seq = r.seq then q.served v (s.isPoisoned p k) (s.cyc + lat) else q }
  | .packet p => s.dramAnswer p lat
  | .host p k v wr => s.hostLine id p k v wr

/-- A request has left the queue of a DRAM channel (R200): an access that waits for room enters the next of its own, the oldest
first. -/
def State.refillQueue (s : State) (chan : Nat) : State :=
  let d := s.dram chan
  if 16 ≤ d.queue.length then s
  else
    let core := chanClu chan * 20 + 16 + chan % 4
    let waiting := (List.range 8).flatMap fun i =>
      (s.slot (core * 8 + i)).acc.filterMap fun a =>
        let mine := (a.units.filter fun u => u.place.kind = 4 && u.place.unit = chan).length
        if (d.queue.filter fun e => e.1 = core * 8 + i && e.2 = a.id).length < mine then some (core * 8 + i, a.id, a.issued) else none
    match waiting with
    | [] => s
    | w :: ws =>
      let w := ws.foldl (fun b x => if x.2.2 < b.2.2 then x else b) w
      s.modDram chan fun d => { d with queue := d.queue ++ [(w.1, w.2.1)] }

/-- `DRAM_REQUEST` (R200): the request at the head of a channel's queue starts, outside refresh windows, when the bus is
free. Its data is there 30 cycles later where its row is open, and 56 where it is not. -/
def State.dramStart (s : State) (chan : Nat) : State :=
  let d := s.dram chan
  if s.cyc < d.busFree || inRefresh chan s.cyc then s
  else
    match d.queue with
    | [] => s
    | (n, id) :: rest =>
      match s.dramWork chan n id with
      | none =>
        -- a request whose access is gone leaves the queue; one that must wait for an earlier part stays at its head
        if 65536 ≤ n || !((s.slot n).acc.any fun a => a.id = id) then
          (s.modDram chan fun d => { d with queue := rest }).refillQueue chan
        else s
      | some w =>
        let off := (w.place.map Place.off).getD 0
        let bank := off / 2048 % 16
        let row := off / 32768
        let isOpen := SMap.has d.rows bank && SMap.get 0 d.rows bank = row
        let lat := if isOpen then 30 else 56
        let s := s.modDram chan fun d =>
          { d with queue := rest, rows := SMap.set d.rows bank row, busFree := s.cyc + (if d.lineSeq % 3 = 2 then 8 else 9)
                   lineSeq := (d.lineSeq + 1) % 3
                   acts := if isOpen then d.acts else SMap.set d.acts bank (SMap.get 0 d.acts bank + 1) }
        (s.dramDo chan n id lat w).refillQueue chan

def execDramRequest (chan : Nat) (s : State) : Host.Outcome State Fault Refusal := .next (s.dramStart chan)

/-- `REFRESH_WINDOW` (R200): at its end every row is closed and the activations are counted afresh. -/
def execRefreshWindow (chan : Nat) (s : State) : Host.Outcome State Fault Refusal :=
  .next (s.modDram chan fun d => { d with rows := [], acts := [] })

/-! ## The matrix unit -/

/-- `UNIT_COMMAND` (R135, R136): the command that executes is complete; the next one starts in the next cycle. -/
def State.unitStep (s : State) (core : Nat) : State :=
  match (s.core core).munit with
  | [] => s
  | u :: us =>
    let n := core * 8 + u.slot
    let s := s.modSlot n fun x => x.runUnit u
    s.modCore core fun c =>
      let c := match u.post with
        | some i => c.post i
        | none => c
      { c with munit := match us with
          | [] => []
          | v :: vs => { v with doneAt := u.doneAt + v.cycles } :: vs }

def execUnitCommand (core : Nat) (s : State) : Host.Outcome State Fault Refusal := .next (s.unitStep core)

/-! ## Circular buffers -/

/-- The handle in a field, with the check that it has been set up (R196). -/
def liveHandle (a : Spec) : M Handle := do
  let h := handleOf (← get) a
  raiseIf (h.scount = 0) 0x02 2 0 0
  return h

/-- Changes a handle of the core. -/
def modHandle (a : Spec) (g : Handle → Handle) : M Unit :=
  modCore fun c => { c with handles := vmod c.handles (a.toNat % 8) g }

/-- `CBINIT` (R194). -/
def execCbinit (d a b : Spec) (f : Form) (s : State) : Host.Outcome State Fault Refusal :=
  issue (.cbinit d a b f) (do
    let base ← src f d
    let w ← src f b
    let z := (w.extractLsb' 0 16).toNat
    let n := (w.extractLsb' 16 16).toNat
    raiseIf (w.extractLsb' 32 32 ≠ 0 || z = 0 || z % 8 ≠ 0 || n = 0) 0x02 5 0 0
    raiseIf (base.toNat % 8 ≠ 0) 0x04 0 base 0
    raiseIf (decide ((← localBound) < base.toNat + z * n)) 0x06 3 base 0
    modHandle a fun _ => { base := base.toNat, ssize := z, scount := n }) s

/-- `CBPROD` (R196): not ready before the thread's earlier local stores have been performed. -/
def execCbprod (d a b : Spec) (f : Form) (s : State) : Host.Outcome State Fault Refusal :=
  issue (.cbprod d a b f) (do
    let k := (← src f b).toNat
    let h ← liveHandle a
    raiseIf (k = 0 || h.scount < k) 0x02 3 0 0
    let s ← get
    waitIf (!s.me.localStoresDone (slotCore s.cur)) 3
    waitIf (decide (h.scount - h.fill < k)) 2
    dst f d (BitVec.ofNat 64 (h.fill + k)) 3
    modHandle a fun h => { h with tail := (h.tail + k) % h.scount, fill := h.fill + k }) s

/-- `CBCONS` (R196): not ready before the thread's earlier loads at HEAD's slots have been performed. -/
def execCbcons (d a b : Spec) (f : Form) (s : State) : Host.Outcome State Fault Refusal :=
  issue (.cbcons d a b f) (do
    let k := (← src f b).toNat
    let h ← liveHandle a
    raiseIf (k = 0 || h.scount < k) 0x02 3 0 0
    let s ← get
    let base := (localPlace (slotCore s.cur) h.base).key
    let slot (i : Nat) : Nat := base + (h.head + i) % h.scount * h.ssize
    let reads (a : Act) : Bool := match a with
      | .rd _ b n => (List.range k).any fun i => decide (slot i < b + n ∧ b < slot i + h.ssize)
      | _ => false
    waitIf (s.me.acc.any fun a => a.units.any fun u => u.acts.any reads) 3
    waitIf (decide (h.fill < k)) 2
    dst f d (BitVec.ofNat 64 (h.fill - k)) 3
    modHandle a fun h => { h with head := (h.head + k) % h.scount, fill := h.fill - k }) s

/-- `CBSTAT` (R197). -/
def execCbstat (d a : Spec) (f : Form) (s : State) : Host.Outcome State Fault Refusal :=
  issue (.cbstat d a f) (do
    let h := handleOf (← get) a
    dst f d (BitVec.ofNat 64 (h.head + h.tail * 2 ^ 16 + h.fill * 2 ^ 32)) 3) s

/-! ## KVCOMMIT -/

/-- The descriptor of a `KVCOMMIT` (R146). -/
structure KvDesc where
  k : Word
  v : Word
  eb : Nat
  cap : Nat
  len : Word
  deriving Repr

/-- Reads and checks the descriptor at an address with a path (R146, R147). -/
def kvDesc (va path : Word) : M KvDesc := do
  raiseIf (va.toNat % 64 ≠ 0) 0x04 0 va 0
  raiseIf (decide (0x40000 < va.toNat + 64)) 0x15 0 va 0
  raiseIf (decide ((← localBound) < va.toNat + 64)) 0x06 3 va 0
  let p := localPlace (slotCore (← get).cur) va.toNat
  localPoison p 64 va
  let s ← get
  let g (o n : Nat) : Nat := s.readMem (p.add o).key n
  let d : KvDesc := { k := BitVec.ofNat 64 (g 0 8), v := BitVec.ofNat 64 (g 8 8), eb := g 16 4, cap := g 20 4
                      len := BitVec.ofNat 64 (g 24 8) }
  raiseIf (g 32 32 ≠ 0 || d.eb % 128 ≠ 0 || d.eb = 0 || 4096 < d.eb || d.cap = 0 || path.extractLsb' 32 32 ≠ 0) 0x02 5 0 0
  return d

/-- The place of the length word (R146, R147): anywhere on the chip. -/
def kvLength (d : KvDesc) : M Target := do
  raiseIf (d.len.toNat % 8 ≠ 0) 0x04 0 d.len 0
  let t ← resolve .atomic d.len
  raiseIf (t.place.dev ≠ 0 || t.place.kind = 4) 0x15 0 d.len 0
  if t.place.kind ≠ 1 then checkBank t.place d.len
  return t

/-- Whether a `KVCOMMIT` may hold a place of its cache (R146). -/
def kvReach (s : State) (p : Place) : Bool :=
  servedBy s p = 1 || servedBy s p = 2 || (p.dev = 0 && p.kind = 4 && chanClu p.unit = slotClu s.cur)

/-- The checks of the length and the path, then of every page of positions `len` to `len + 31` (R147): answers the resolved
parts of K and of V. -/
def kvPages (d : KvDesc) (path : Word) (len : Nat) : M (List (Nat × Place × Nat) × List (Nat × Place × Nat)) := do
  let top := ((List.range 32).filter fun i => path.getLsbD i).getLast?
  raiseIf (decide (d.cap < len) || top.any fun h => decide (d.cap ≤ len + h)) 0x02 5 0 0
  raiseIf (d.k.toNat % 128 ≠ 0) 0x04 0 d.k 0
  raiseIf (d.v.toNat % 128 ≠ 0) 0x04 0 d.v 0
  let e ← myEff
  let one (p : Word × Nat) : M (Nat × Place × Nat) := do
    let t ← resolveIn e .atomic p.1 true
    let s ← get
    raiseIf (!kvReach s t.place) 0x15 0 p.1 0
    if servedBy s t.place = 1 || servedBy s t.place = 2 then
      let _ ← forEach (fun i => checkBank (t.place.add (128 * i)) (p.1 + BitVec.ofNat 64 (128 * i))) (List.range (p.2 / 128))
    return (p.1.toNat, t.place, p.2)
  let all (b : Word) : M (List (Except TrapRec (Nat × Place × Nat))) :=
    forEach (fun p => do
      match ← tryTrap (one p) with
      | .ok r => return Except.ok r
      | .error t => return Except.error t) (pageSpans (b + BitVec.ofNat 64 (len * d.eb)) (32 * d.eb))
  let ks ← all d.k
  let vs ← all d.v
  let rs ← allOk (ks ++ vs)
  return (rs.take ks.length, rs.drop ks.length)

/-- The line moves of a path (R147): in ascending entry, K before V, each in ascending address; a part is one line, or one
half-line where it is written to the common store. -/
def kvMoves (d : KvDesc) (path : Word) (len : Nat) (pages : List (Nat × Place)) :
    List (Place × Place × Nat × Nat × Word) :=
  let at' (va : Nat) : Place := ({ pages := pages } : Transfer).place va
  let line (b : Word) (i k o : Nat) : List (Place × Place × Nat × Nat × Word) :=
    let from' := b.toNat + (len + i) * d.eb + o
    let dest := at' (b.toNat + (len + k) * d.eb + o)
    let n := dest.span
    (List.range (128 / n)).map fun j => (at' (from' + n * j), dest.add (n * j), n, i, BitVec.ofNat 64 (from' + n * j))
  ((List.range 32).foldl (fun (acc : List (Place × Place × Nat × Nat × Word) × Nat) i =>
    if path.getLsbD i then
      let k := acc.2
      let ms := if i = k then [] else
        [d.k, d.v].flatMap fun b => (List.range (d.eb / 128)).flatMap fun l => line b i k (128 * l)
      (acc.1 ++ ms, k + 1)
    else acc) ([], 0)).1

/-- The transfer of a `KVCOMMIT` on `len` as read, and its footprint (R147). -/
def kvJob (d : KvDesc) (path : Word) (b : Spec) (lp : Place) (len : Nat) : M (Transfer × List (Nat × Nat)) := do
  let (ks, vs) ← kvPages d path len
  let s ← get
  let x := s.me
  let parts (rs : List (Nat × Place × Nat)) := rs.map fun r => (r.2.1, r.2.2)
  let foot := footBounds s (parts ks) ++ footBounds s (parts vs)
  let n := ((List.range 32).filter fun i => path.getLsbD i).length
  return ({ slot := s.cur, cont := x.cont, region := x.region, pc := x.pc, kv := true, stamp := lp, path := path, reg := b
            newLen := (len + n) % 2 ^ 64, moves := kvMoves d path len ((ks ++ vs).map spanPage).eraseDups }, foot)

/-- Replaces a thread's `KVCOMMIT` transfer and its footprint after a hold (R147): it keeps its places. -/
def State.reform (s : State) (n : Nat) (t : Transfer) (foot : List (Nat × Nat)) : State :=
  let mineJ (j : Job) : Bool := j.kv && j.slot = n && j.cont = t.cont
  s.modClu (slotClu n) fun c =>
    let js := c.jobs.map fun j => if mineJ j then { j with reads := foot, writes := foot } else j
    { c with
        jobs := js.map fun j => if mineJ j then { j with held := heldBy js j } else j
        chans := c.chans.map fun x => { x with queue := x.queue.map fun u =>
          if u.kv && u.slot = n && u.cont = t.cont then { t with job := u.job } else u } }

/-- The length word has been read: the job is entered (R147), and queues on the channel that holds the fewest transfers. -/
def kvEnter (desc : KvDesc) (path : Word) (b : Spec) (lp : Place) (len : Nat) : M Unit := do
  let (t, foot) ← kvJob desc path b lp len
  let c ← myClu
  let sizes := c.chans.toList.map fun x => x.queue.length
  let least := sizes.foldl min 4
  waitIf (4 ≤ least || 32 ≤ c.jobs.length) 3
  let ch := (sizes.findIdx? (· = least)).getD 0
  let foot := foot ++ footBounds (← get) [(lp, 8)]
  let (job, held) ← enterJob foot foot true
  modClu fun c => { c with chans := vmod c.chans ch fun x => { x with queue := x.queue ++ [{ t with job := job }] } }
  modMe fun x => { x with phase := if held then 42 else 43, buf := [] }
  wait 3

/-- Reads the length word: at once in the local store, and elsewhere at its turn or over the network, when phase `p` has become
`p + 1`. -/
def kvRead (t : Target) (va : Word) (p : Nat) (k : Nat → M Unit) : M Unit := do
  let s ← get
  if t.place.kind = 1 then
    needPort
    localPoison t.place 8 va
    k (s.readMem t.place.key 8)
  else if servedBy s t.place = 4 then
    remoteGate t.place false
    reserveResp
    let id ← addOwed { id := 0, what := 15, place := t.place, va := va, ord := t.ord }
    sendPacket { s.packetOf s.cur 0 with
      ddev := s.device, dst := if t.place.kind = 2 then t.place.unit else t.place.unit * 32 + t.place.group
      dep := 30, place := t.place, size := 8, owed := id }
    modMe fun x => { x with phase := p }
    wait 3
  else
    addAccess { id := 0, units := putUnit [] t.place 0 (.rd 0 t.place.key 8), fin := .hold, va := va, ord := t.ord }
    modMe fun x => { x with phase := p }
    wait 3

/-- A cause found on the new length after a hold leaves nothing moved (R147). -/
def kvGuard {α : Type} (m : M α) : M α := onTrap m fun t => do
  throw (Halt.trapWith t ((← get).dropKv (← get).cur))

/-- `KVCOMMIT` (R146 to R148). Its phases: 40 and 41 the first read of the length word, 42 held, 43 moving, 44 performed,
45 the hold is over, 46 and 47 the length word read again. -/
def execKvcommit (d a b : Spec) (f : Form) (s : State) : Host.Outcome State Fault Refusal :=
  issue (.kvcommit d a b f) (do
    let x ← me
    if x.phase = 44 then lateDst f d (BitVec.ofNat 64 (x.buf.headD 0)) ((x.buf[1]?).getD 0)
    else
      waitIf (x.phase = 40 || x.phase = 42 || x.phase = 43 || x.phase = 46) 3
      let va ← src f a
      let path ← src f b
      if x.phase = 99 then
        let s ← get
        throw (Halt.trapWith { cause := 0x08, pc := x.pc, addr := ((← kvDesc va path).len) } (s.dropKv s.cur))
      let desc ← kvGuard (kvDesc va path)
      let t ← kvGuard (kvLength desc)
      let again (len : Nat) : M Unit := do
        let (j, foot) ← kvGuard (kvJob desc path b t.place len)
        let s ← get
        set ((s.reform s.cur j (foot ++ footBounds s [(t.place, 8)])).modSlot s.cur fun x => { x with phase := 43, buf := [] })
        let s ← get
        if (s.clu (slotClu s.cur)).jobs.any fun j => j.kv && j.slot = s.cur && j.cont = x.cont && j.held then
          modMe fun x => { x with phase := 42 }
        wait 3
      match x.phase with
      | 41 => kvEnter desc path b t.place (x.buf.headD 0)
      | 45 => kvRead t desc.len 46 again
      | 47 => again (x.buf.headD 0)
      | _ =>
        loadDstCheck d
        checkWatch 3 desc.len 8
        let s ← get
        waitIf (!x.storesDone || !x.performed (slotCore s.cur) 4) 3
        launchGate
        orderGate t.place t.ord 8 true
        kvRead t desc.len 40 (kvEnter desc path b t.place)) s

/-- `KVCOMMIT_HOLD_END` (R147): no earlier job conflicts any more, and the length word is read again. -/
def execKvcommitHoldEnd (slot : Nat) (s : State) : Host.Outcome State Fault Refusal :=
  .next (s.modSlot slot fun x => if x.phase = 42 then { x with phase := 45, waiting := 0 } else x)

end Sys2Proof.Machine
end

