-- ==== Sys2Proof/Machine/Place.lean ====
section
/-! DEFINITION. Placing continuations in slots, dispatch, queue aging, pre-emption with its save and restore, budgets and
slices, the park table, calls, deposits and migrations as they arrive (R70 to R73, R226, R230 to R246, R286 to R288,
R346). -/

namespace Sys2Proof.Machine

/-! ## Slots and frames -/

/-- Slots of a class that a core may hold (R11, R198). -/
def classLimit (core cls : Nat) : Nat :=
  match cls with
  | 0 => 8
  | 1 => 4
  | 2 => if isMemCore core then 0 else 2
  | 3 => 2
  | _ => if isMemCore core then 0 else 1

/-- The slots of a core that hold a thread of a class. -/
def State.classCount (s : State) (core cls : Nat) : Nat :=
  ((List.range 8).filter fun i => (s.slot (core * 8 + i)).live && (s.slot (core * 8 + i)).cls = cls).length

/-- The lowest free slot of a core for a class (R11, R235). -/
def State.freeSlotFor (s : State) (core cls : Nat) : Option Nat :=
  if s.classCount core cls < classLimit core cls then
    ((List.range 8).find? fun i => !(s.slot (core * 8 + i)).live).map fun i => core * 8 + i
  else none

/-- The lowest free frame of a kind of a region on a core (R287). -/
def Core.freeFrame (c : Core) (region : BitVec 28) (kind count : Nat) : Option Nat :=
  (List.range count).find? fun i => !(c.frames.any fun f => f.region = region && f.kind = kind && f.num = i)

/-- Whether a further continuation of a region and class fits the frames of the region on a core (R288). -/
def State.frameFits (s : State) (core : Nat) (e : Eff) (cls : Nat) : Bool :=
  let c := s.core core
  let inSlots (k : Option Nat) := ((List.range 8).filter fun i =>
    let x := s.slot (core * 8 + i)
    x.live && x.region = e.id && (match k with | some k => x.cls = k | none => true)).length
  let ofSlot (f : Frame) : Bool := (List.range 8).any fun i =>
    let x := s.slot (core * 8 + i)
    x.live && x.frameRegion = f.region && ((f.kind = 0 && x.frame = some f.num) || (f.kind = 1 && x.vframe = some f.num)
      || (f.kind = 2 && x.mframe = some f.num))
  let held (kind : Nat) := (c.frames.filter fun f => f.region = e.id && f.kind = kind && !ofSlot f).length
  decide (inSlots none + held 0 < e.ns + 1) && (cls ≠ 1 || decide (inSlots (some 1) + held 1 < e.nv))
    && (cls ≠ 2 || decide (inSlots (some 2) + held 2 < e.nm))

/-! ## Broken blocks -/

/-- The root of a region tree, found by following PARENT (R226), from a block that may lie deeper than its limit allows. -/
def rootOf (s : State) : Nat → Nat → Nat
  | 0, k => k
  | n + 1, k =>
    let p := hwKey (readRcb s k).parent
    if p = 0 then k else rootOf s n p

/-- Reports a block that breaks a limit to its root's fault-domain handler, as cause 0x06 (R226). -/
def State.reportBad (s : State) (k core : Nat) : State :=
  s.faultHandler (readRcb s (rootOf s 65536 k)).eff.id core 0 { cause := 0x06, addr := BitVec.ofNat 64 (Place.ofKey k).window }

/-- Samples the effective block of a region for a unit of a cluster, as core `core` names it (R226): a broken one is noted, and
reported once. -/
def State.sample (s : State) (core : Nat) (region : BitVec 28) : State × Option Eff :=
  let k := s.rcbOf region
  match s.eff? k with
  | some e => (s.cacheEff k e, some e)
  | none => (if s.bads.contains k then s else { s with bads := k :: s.bads, badNew := s.badNew ++ [(k, core)] }, none)

/-! ## Placement -/

/-- The frame of a kind in which the context of a continuation waits (R223, R287): the one that its entry carries, or for a record
with CTX whose entry carries none, a number that the manual leaves open. -/
def QEntry.frameOf (q : QEntry) (k kind count : Nat) : Option Nat :=
  let own := match kind with
    | 0 => q.frame
    | 1 => q.vframe
    | _ => q.mframe
  if own.isSome then own
  else if q.val.ctx && (kind = 0 || q.val.cls = kind) then some (Config.savedFrame k kind % max count 1) else none

/-- The parts of a context that a placement leaves to be restored (R346): the pending reports where there are any, the slot-frame
state, and the engine state of the class. -/
def contextParts (pend : Nat) (fr vf mf : Option Nat) : List Nat :=
  if fr.isNone then []
  else (if pend = 0 then [] else [0]) ++ [1] ++ (if vf.isSome then [2] else []) ++ (if mf.isSome then [3] else [])

/-- A thread placed in a slot (R235): its workspace, written in one cycle of the local-store port, `pw`, timer and identity; with CTX
its saved parts wait to be restored (R346), and what its first instruction needs of `TSTAT` is there. -/
def State.placeIn (s : State) (n : Nat) (q : QEntry) (e : Eff) (notBefore : Nat) : State :=
  let r := q.val
  let core := slotCore n
  let wp := BitVec.ofNat 64 (e.wsbase + 256 * slotIdx n)
  let words : List Word := r.w.toList ++ List.replicate 8 0
  let s := (s.storeBytes (localPlace core wp.toNat) (words.flatMap fun v => leBytes 8 v.toNat)).claimPort core
  let k := q.cont.getD s.contNext
  let inPort (i : Nat) : Bool := s.streams.any fun t => t.2.1 = k && t.2.2 = i
  let old := s.slot n
  let ports : Vector Port 8 := Vector.ofFn fun i =>
    { inOpen := inPort i.val, abort := q.aborts.contains i.val, lost := q.losses.contains i.val
      spill := (q.spill.filter fun w => w.1 = i.val).map (·.2) }
  let fr := q.frameOf k 0 (e.ns + 1)
  let vf := q.frameOf k 1 e.nv
  let mf := q.frameOf k 2 e.nm
  let tstat : Word := match fr with
    | some i => BitVec.ofNat 64 (s.readMem (localPlace core (e.frameOff 0 i + 1064)).key 8)
    | none => 0
  let pend := (tstat.extractLsb' 8 8).toNat
  let x : Slot :=
    { old.bare with
        live := true, cls := r.cls, cont := k, pc := r.pc, pw := r.pw ||| 0x80000000#32, wp := wp
        w := Vector.ofFn fun i => (words[i.val]?).getD 0
        rcb := e.rcb, region := r.region, depth := r.depth, prio := r.prio, reason := r.reason, home := r.home
        link := r.link, hdl := r.hdl, escRec := q.escRec, timer := if r.resid ≠ 0 then r.resid else e.quantum
        notBefore := notBefore, armed := q.armed.toList.map fun t => (t, wp), ports := ports
        acc := q.accs.map fun a => { a with issued := s.cyc, ws := if a.ws = q.wp then wp else a.ws }
        accNext := q.accs.foldl (fun m a => max m (a.id + 1)) 0, fences := q.fences
        frameRegion := r.region, frame := fr, vframe := vf, mframe := mf, unrestored := contextParts pend fr vf mf
        trap := { old.bare.trap with priv := s.effPriv e, wskip := tstat.getLsbD 1, ovf := tstat.getLsbD 3 } }
  let s := s.setSlot n x
  let s := if pend ≠ 0 && fr.isSome then s.startRestore n 0 else s
  let s : State := { s with contNext := if q.cont.isSome then s.contNext else s.contNext + 1 }
  match (s.clu (slotClu n)).iso.holder with
  | some h =>
    if h.2 = k then s.modClu (slotClu n) fun c => { c with iso := { c.iso with away := false, holder := some (n, k), hslot := n } }
    else s
  | none => s

/-- Whether a core may take a continuation under the covering bind record (R234, R235); a memory core has no bit in
CORES. -/
def coreAllowed (w : Word) (core : Nat) : Bool := isMemCore core || w.getLsbD (coreIdx core)

/-- Whether a core takes new threads: not while its role moves away (R298), nor while its cluster is halted (R304). -/
def State.coreOpen (s : State) (core : Nat) : Bool :=
  let c := s.clu (coreClu core)
  !(c.move.any fun m => m.core = coreIdx core) && !c.dbg.still

/-- The cores of a cluster that a record may be placed on, in rising order (R235, R246). -/
def placeCores (clu : Nat) (r : Rec) : List Nat :=
  if r.bound then [clu * 20 + r.core] else (List.range 16).map fun i => clu * 20 + i

/-- Where dispatch would place an entry now (R235, R243, R288), with the effective block sampled: the state that has
sampled it. -/
def State.target (s : State) (clu : Nat) (q : QEntry) : State × Option (Nat × Eff) :=
  match s.sample (clu * 20) q.val.region with
  | (s, none) => (s, none)
  | (s, some e) =>
    match s.bindFor clu e with
    | none => (s, none)
    | some w =>
      let r := q.val
      let used := ((List.range 160).filter fun i =>
        let x := s.slot (clu * 160 + i)
        x.live && x.region = r.region && x.cls = r.cls).length
      if !s.bound w || (e.quota[r.cls]?).getD 0 ≤ used || (s.clu clu).spent.contains r.region then (s, none)
      else
        (s, (placeCores clu r).findSome? fun c =>
          if coreAllowed w c && s.coreOpen c && (q.frame.isSome || s.frameFits c e r.cls) then
            (s.freeSlotFor c r.cls).map fun n => (n, e)
          else none)

/-- The first of the entries that can be placed (R235): the entries before it, it, its slot and block, and the rest. -/
def State.pickEntry (s : State) (clu : Nat) : List (Nat × QEntry) → State × Option (Nat × QEntry × Nat × Eff)
  | [] => (s, none)
  | (i, q) :: qs =>
    if s.cyc < q.since + 3 then s.pickEntry clu qs
    else
      match s.target clu q with
      | (s, some (n, e)) => (s, some (i, q, n, e))
      | (s, none) => s.pickEntry clu qs

/-- The first four entries of each queue, with the queue of each (R235). -/
def Cluster.heads (c : Cluster) : List (Nat × QEntry) :=
  (List.range 4).flatMap fun i => (((c.queues[i]?).getD []).take 4).map fun q => (i, q)

/-- `DISPATCH` (R235, R236): places at most one entry; its first block is requested in the next cycle. -/
def State.dispatchOne (s : State) (clu : Nat) : State :=
  match s.pickEntry clu (s.clu clu).heads with
  | (s, none) => s
  | (s, some (i, q, n, e)) =>
    let s := s.modClu clu fun c => { c with queues := vmod c.queues i fun l => l.erase q }
    s.placeIn n q e (s.cyc + 1)

def execDispatch (clu : Nat) (s : State) : Host.Outcome State Fault Refusal := .next (s.dispatchOne clu)

/-- `QUEUE_AGING` (R233): every entry of queue 1 to 3 that has waited 2^16 cycles and finds room moves up. -/
def execQueueAging (clu : Nat) (s : State) : Host.Outcome State Fault Refusal :=
  .next ([1, 2, 3].foldl (fun s q =>
    (((s.clu clu).queues[q]?).getD []).foldl (fun s e =>
      if e.since + 65536 ≤ s.cyc then
        match s.enqueueAt clu (q - 1) e with
        | some t => t.modClu clu fun c => { c with queues := vmod c.queues q fun l => l.erase e }
        | none => s
      else s) s) s)

/-! ## The saved context -/

/-- A record's doublewords of R277 from memory, as a pending report (R287). -/
def reportOf (w0 w1 w2 w3 : Word) : TrapRec :=
  { cause := (w0.extractLsb' 0 8).toNat, sub := (w0.extractLsb' 24 8).toNat
    lane := if w0.getLsbD 16 then some (w0.extractLsb' 17 6).toNat else none
    eng := w0.getLsbD 11, tile := w0.getLsbD 11, p := w0.getLsbD 10, defd := w0.getLsbD 9, pc := w1, addr := w2, info := w3 }

/-- The 48 bytes of a port in a slot frame (R287). -/
def Port.bytes (p : Port) : List Byte :=
  let word (i : Nat) : Word × Bool := (p.queue[i]?).getD (0, false)
  let ends := (List.range 4).foldl (fun v i => v + (word i).2.toNat * 2 ^ i) 0
  leBytes 8 p.dest.toNat ++ leBytes 8 ((p.status.toNat + ends * 2 ^ 33) % 2 ^ 64)
    ++ (List.range 4).flatMap fun i => leBytes 8 (word i).1.toNat

/-- A port from its bytes: an outbound route is never held across a pre-emption (R175). -/
def Port.ofBytes (b : List Byte) : Port :=
  let d (i : Nat) : Nat := leNat ((b.drop (8 * i)).take 8)
  let st := BitVec.ofNat 64 (d 1)
  { dest := BitVec.ofNat 64 (d 0), bound := st.getLsbD 2, abort := st.getLsbD 6, lastE := st.getLsbD 7
    queue := (List.range (min 4 (st.extractLsb' 9 3).toNat)).map fun i => (BitVec.ofNat 64 (d (2 + i)), st.getLsbD (33 + i)) }

def CopySet.words (c : CopySet) : List Word := [c.src, c.dst, c.len, c.rows, c.sstr, c.dstr, c.flags, c.stamp, c.next]
def CopySet.ofWords (g : Nat → Word) : CopySet :=
  { src := g 0, dst := g 1, len := g 2, rows := g 3, sstr := g 4, dstr := g 5, flags := g 6, stamp := g 7, next := g 8 }
def PlanSet.words (p : PlanSet) : List Word := [p.dims] ++ p.bound.toList ++ p.tile.toList ++ [p.order, p.place, p.cover]
def PlanSet.ofWords (g : Nat → Word) : PlanSet :=
  { dims := g 0, bound := Vector.ofFn fun i => g (1 + i.val), tile := Vector.ofFn fun i => g (5 + i.val), order := g 9
    place := g 10, cover := g 11 }

/-- Bytes 512 to 1,071 of a slot frame (R287). -/
def Slot.frameState (x : Slot) : List Byte :=
  x.ports.toList.flatMap Port.bytes ++ (x.copy.words ++ x.plan.words ++ [x.tstat]).flatMap fun v => leBytes 8 v.toNat

/-- A V frame (R287). -/
def VecState.bytes (v : VecState) : List Byte :=
  v.v.toList.flatMap (fun r => leBytes 256 r.toNat) ++ (v.k.toList.drop 1).flatMap (fun k => leBytes 8 k.toNat)
    ++ (List.range 64).map fun i => (v.vf.extractLsb' (5 * i) 5).setWidth 8

def VecState.ofBytes (b : List Byte) : VecState :=
  { v := Vector.ofFn fun i => BitVec.ofNat 2048 (leNat ((b.drop (256 * i.val)).take 256))
    k := Vector.ofFn fun i => if i.val = 0 then 0 else BitVec.ofNat 64 (leNat ((b.drop (8192 + 8 * (i.val - 1))).take 8))
    vf := BitVec.ofNat 320 (((b.drop 8248).take 64).foldr (fun x acc => acc * 32 + x.toNat % 32) 0) }

/-- An M frame (R287). -/
def TileState.bytes (t : TileState) : List Byte :=
  t.t.toList.flatMap (fun r => leBytes 4096 r.toNat) ++ t.shape.toList.flatMap (fun v => leBytes 8 v.toNat)
    ++ leBytes 8 t.flags.toNat

def TileState.ofBytes (b : List Byte) : TileState :=
  { t := Vector.ofFn fun i => BitVec.ofNat 32768 (leNat ((b.drop (4096 * i.val)).take 4096))
    shape := Vector.ofFn fun i => BitVec.ofNat 64 (leNat ((b.drop (32768 + 8 * i.val)).take 8))
    flags := BitVec.ofNat 64 (leNat ((b.drop 32832).take 8)) }

/-! ## Pre-emption -/

/-- Whether a thread stands where it may be pre-empted or woken to take a report (R74, R241, R279): at an instruction
boundary, or in a wait that is considered afresh. -/
def Slot.atWait (x : Slot) : Bool :=
  [0, 11, 12, 20, 22, 60].contains x.phase && !(x.calls.any fun c => c.1 = x.pc && c.2.2.1 ≠ 0)

/-- Whether no turn of the active tables serves a unit that an access still needs (R82). -/
def State.turnless (s : State) (n : Nat) (a : Access) : Bool :=
  let clu := slotClu n
  a.units.any fun u => (u.place.kind = 2 || u.place.kind = 3)
    && (s.nextTurn clu (if a.svc then 17 else requester (slotCore n)) u.place (s.turnPeriod clu) s.cyc).isNone

/-- The access of an instruction in progress that no turn serves is given up, to be considered afresh (R82). -/
def State.dropTurnless (s : State) (n : Nat) : State :=
  let waits (a : Access) : Bool := !a.svc && (match a.fin with
    | .hold | .park | .stage _ _ | .bld _ _ _ _ => true
    | _ => false) && s.turnless n a
  if (s.slot n).acc.any waits then
    ((s.dropKv n).modClu (slotClu n) fun c => { c with passes := c.passes.filter fun p => p.slot ≠ n }).modSlot n fun x =>
      { x with phase := 0, buf := [], acc := x.acc.filter fun a => !waits a }
  else s

/-- A due pre-emption finds the thread as it may leave (R82, R148). -/
def State.yielding (s : State) (n : Nat) : State := (s.kvYield n).dropTurnless n

/-- Leaves a waiting instruction, to be considered afresh (R74, R279): its pending re-reads, its opens and the failed walks of
its core are given up. -/
def State.leaveWait (s : State) (n : Nat) : State :=
  let s := s.modClu (slotClu n) fun c => { c with walks := c.walks.filter fun w => w.core ≠ slotCore n || w.bad.isNone }
  (s.giveUpOpens n).modSlot n fun x =>
    { x with phase := 0, buf := [], waiting := 0
             acc := x.acc.filter fun a => match a.fin with
               | .waitw _ _ _ _ _ => false
               | _ => true }

/-- Whether a due pre-emption can begin (R241, R283). -/
def Slot.mayLeave (x : Slot) : Bool :=
  x.live && !x.leaving && !x.moving && !x.trap.tmode && x.escal.isNone && x.atWait && x.reports.isEmpty
    && (List.range 8).all fun q => !((x.ports[q]?).getD {}).isOpen && !x.portPending q

/-- Whether a slot is held where it stands: its cluster is halted (R305), or its core's role moves (R298). -/
def State.frozen (s : State) (n : Nat) : Bool :=
  let c := s.clu (slotClu n)
  c.dbg.still || c.move.any fun m => m.begun && m.core = coreIdx (slotCore n)

/-- A pre-emption of a thread for a reason (R241, R242): the first reason stands, and it begins as soon as it can. -/
def State.preempt (s : State) (n reason : Nat) : State :=
  let s := s.modSlot n fun x => if x.live then { x with preempt := some (x.preempt.getD reason) } else x
  let t := s.yielding n
  if (t.slot n).mayLeave && !s.frozen n then
    (t.leaveWait n).modSlot n fun x => { x with leaving := true }
  else s

def execPreemption (slot reason : Nat) (s : State) : Host.Outcome State Fault Refusal := .next (s.preempt slot reason)

/-- `TIMER_EXPIRY` (R240). -/
def execTimerExpiry (slot : Nat) (s : State) : Host.Outcome State Fault Refusal := .next (s.preempt slot 1)

/-- The token that a thread waits for in `CALLRM`, and the address after it (R241). -/
def State.awaited (s : State) (n : Nat) : Option (Word × Word) :=
  let x := s.slot n
  (x.calls.find? fun c => c.1 = x.pc).bind fun c =>
    if (x.armed.any fun a => a.1 = c.2.1) || (s.core (slotCore n)).armedS.any (fun p => p.2 = c.2.1) then some (c.2.1, c.2.2.2) else none

/-- The park-table entries of a core that are in use, those of continuations which still leave their slots included (R241). -/
def State.parkUsed (s : State) (core : Nat) : Nat :=
  (s.core core).park.length
    + ((s.clu (coreClu core)).leaving.filter fun q => q.await.isSome && slotCore q.slotNo = core).length

/-- Whether a continuation holds a frame of a kind in the save area of its region: one left behind in that of a region that it has
moved from holds nothing but words that its ports keep (R228). -/
def Slot.keepsFrame (x : Slot) (fr : Option Nat) : Bool := fr.isSome && x.frameRegion = x.region

/-- Whether the drain of a leaving thread is over (R241, R154, R179), accesses that no turn serves apart (R82), and what its save needs
is free: a frame, and a park-table entry where it waits for a deposit. -/
def State.saveReady (s : State) (n : Nat) : Bool :=
  let x := s.slot n
  let c := s.core (slotCore n)
  x.leaving && x.saveEnd = 0 && x.acc.all (s.turnless n) && x.owed.isEmpty && x.restore.isNone
    && !(c.munit.any fun u => u.slot = slotIdx n) && !(s.setcs.any fun w => w.slot = n)
    && ((s.awaited n).isNone || s.parkUsed (slotCore n) < 32)
    && match s.eff? x.rcb with
      | none => false
      | some e => (x.keepsFrame x.frame || (c.freeFrame x.region 0 (e.ns + 1)).isSome)
          && (x.cls ≠ 1 || x.vframe.isSome || (c.freeFrame x.region 1 e.nv).isSome)
          && (x.cls ≠ 2 || x.mframe.isSome || (c.freeFrame x.region 2 e.nm).isSome)

/-- The frame that a leaving thread saves into: the one it holds, or the lowest free one, which it takes. -/
def State.takeFrame (s : State) (core : Nat) (region : BitVec 28) (kind count : Nat) (old : Option Nat) : State × Option Nat :=
  match old with
  | some i => (s, some i)
  | none =>
    match (s.core core).freeFrame region kind count with
    | none => (s, none)
    | some i => (s.modCore core fun c => { c with frames := c.frames ++ [{ region := region, kind := kind, num := i }] }, some i)

/-- Frees the frame of a kind that a slot's continuation holds. -/
def State.dropFrame (s : State) (n kind : Nat) : State :=
  let x := s.slot n
  let num := match kind with
    | 0 => x.frame
    | 1 => x.vframe
    | _ => x.mframe
  let s := s.modCore (slotCore n) fun c =>
    { c with frames := c.frames.filter fun f =>
        !(f.region = x.frameRegion && f.kind = kind && decide (some f.num = num) && f.escal = 0) }
  s.modSlot n fun x => match kind with
    | 0 => { x with frame := none }
    | 1 => { x with vframe := none }
    | _ => { x with mframe := none }

/-- Writes the words that wait in the spill areas of a thread's ports into a slot frame (R172, R287). -/
def State.saveSpill (s : State) (core base : Nat) (x : Slot) : State :=
  (List.range 8).foldl (fun s p =>
    s.storeBytes (localPlace core (base + 1536 + 512 * p))
      ((((x.ports[p]?).getD {}).spill.take 64).flatMap fun w => leBytes 8 w.1.toNat)) s

/-- `PREEMPT_SAVE` (R241, R287): the workspace and header become the record; ports, shadow sets, reports and engine state follow, of
those parts that are not in their frames already, at claim 1 of the local-store port; the slot is free once the save's cycles are
over. `TSTAT` in the frame always shows the thread's reports and bits. -/
def State.saveContext (s : State) (n : Nat) : State :=
  let core := slotCore n
  match s.eff? (s.slot n).rcb with
  | none => s
  | some e =>
    let s := if (s.slot n).frame.isSome && !(s.slot n).keepsFrame (s.slot n).frame then s.dropFrame n 0 else s
    let x := s.slot n
    let (s, fr) := s.takeFrame core x.region 0 (e.ns + 1) x.frame
    let (s, vf) := if x.cls = 1 then s.takeFrame core x.region 1 e.nv x.vframe else (s, x.vframe)
    let (s, mf) := if x.cls = 2 then s.takeFrame core x.region 2 e.nm x.mframe else (s, x.mframe)
    let s := s.writeBack n
    let call := x.calls.find? fun c => c.1 = x.pc
    let await := s.awaited n
    let pc := (call.map fun c => c.2.2.2).getD x.pc
    let r : Rec := { s.recordOf n pc with
      reason := x.preempt.getD 1, flags := bindFlags (coreIdx core) x.hdl true, resid := x.timer, home := x.home }
    let base := e.frameOff 0 (fr.getD 0)
    let at' (o : Nat) := localPlace core (base + o)
    let s := s.storeBytes (at' 0) r.bytes
    let s := if x.reports.isEmpty then s else
      s.storeBytes (at' 256) (x.reports.flatMap fun t =>
        leBytes 8 t.word0.toNat ++ leBytes 8 t.pc.toNat ++ leBytes 8 t.addr.toNat ++ leBytes 8 t.info.toNat)
    let whole (p : Nat) : Bool := !x.unrestored.contains p
    let s := if whole 1 then s.storeBytes (at' 512) x.frameState else s.store (at' 1064) x.tstat.toNat 8
    let s := s.saveSpill core base x
    let s := if x.cls = 1 && whole 2 then s.storeBytes (localPlace core (e.frameOff 1 (vf.getD 0))) x.vec.bytes else s
    let s := if x.cls = 2 && whole 3 then s.storeBytes (localPlace core (e.frameOff 2 (mf.getD 0))) x.tiles.bytes else s
    let parts := (if x.reports.isEmpty then [] else [0]) ++ (if whole 1 then [1] else [])
      ++ (if x.cls = 1 && whole 2 then [2] else []) ++ (if x.cls = 2 && whole 3 then [3] else [])
    let s := s.claimPort core ((parts.map partCycles).foldl (· + ·) 0)
    let done := (s.core core).portClaim
    let spill := (List.range 8).flatMap fun i => (((x.ports[i]?).getD {}).spill).map fun w => (i, w.1, w.2)
    let losses := (List.range 8).filter fun i => ((x.ports[i]?).getD {}).lost
    let q : QEntry :=
      { val := r, frame := fr, vframe := vf, mframe := mf, escRec := x.escRec, armed := x.armed.head?.map (·.1), cont := some x.cont
        await := await.map (·.1), slotNo := n, spill := spill, losses := losses, accs := x.acc, fences := x.fences, wp := x.wp
        since := done }
    let s := s.modClu (slotClu n) fun c => { c with leaving := c.leaving ++ [q] }
    s.modSlot n fun y => { y with saveEnd := done }

def execPreemptSave (slot : Nat) (s : State) : Host.Outcome State Fault Refusal := .next (s.saveContext slot)

/-- `PREEMPT_ENQUEUE` (R241, R242): the slot is free; the continuation takes a park-table entry while it waits for a
deposit, or joins its queue, or waits in its frame for room there. -/
def State.finishSave (s : State) (n : Nat) : State :=
  let clu := slotClu n
  let core := slotCore n
  let x := s.slot n
  let s := if x.live && x.saveEnd ≠ 0 && x.saveEnd ≤ s.cyc then
      let s := if s.holdsArray n then s.modClu clu fun c => { c with iso := { c.iso with away := true } } else s
      s.setSlot n x.bare
    else s
  let enter (q : QEntry) : Option State :=
    if q.slotNo ≠ n || s.cyc < q.since then none
    else
      let drop (s : State) := s.modClu clu fun c => { c with leaving := c.leaving.erase q }
      match q.await with
      | some t => (s.eff? (s.rcbOf q.val.region)).map fun e =>
          (drop s).modCore core fun c =>
            { c with park := c.park ++ [{ rcd := localPlace core (e.frameOff 0 (q.frame.getD 0)), token := some t, entry := q
                                          saved := true }] }
      | none => (s.enqueue clu q).map drop
  ((s.clu clu).leaving.findSome? enter).getD s

def execPreemptEnqueue (slot : Nat) (s : State) : Host.Outcome State Fault Refusal := .next (s.finishSave slot)

/-- `CONTEXT_RESTORE` of a part (R346): 0 pending reports, 1 slot-frame state, 2 vector state, 3 tile state. What the thread has
received since its placement follows what the frame holds; its WSKIP and OVF stand as they are now. -/
def State.restorePart (s : State) (n part : Nat) : State :=
  let x := s.slot n
  let core := slotCore n
  match s.eff? (s.rcbOf x.frameRegion) with
  | none => s
  | some e =>
    let s := s.modSlot n fun x => { x with unrestored := x.unrestored.filter (· ≠ part), restore := none }
    let base := e.frameOff 0 (x.frame.getD 0)
    let word (o : Nat) : Word := BitVec.ofNat 64 (s.readMem (localPlace core (base + o)).key 8)
    match part with
    | 0 =>
      let pend := ((word 1064).extractLsb' 8 8).toNat
      let back (i : Nat) : TrapRec :=
        reportOf (word (256 + 32 * i)) (word (264 + 32 * i)) (word (272 + 32 * i)) (word (280 + 32 * i))
      s.modSlot n fun x => { x with reports := ((List.range (min 8 pend)).map back ++ x.reports).take 8 }
    | 1 =>
      let port (i : Nat) (p : Port) : Port :=
        let q := Port.ofBytes (s.readBytes (localPlace core (base + 512 + 48 * i)).key 48)
        let spare := 4 - q.queue.length
        { q with inOpen := p.inOpen, abort := q.abort || p.abort, lost := p.lost, queue := q.queue ++ p.spill.take spare
                 spill := p.spill.drop spare }
      s.modSlot n fun x =>
        { x with
            ports := Vector.ofFn fun i => port i.val ((x.ports[i.val]?).getD {})
            copy := CopySet.ofWords fun i => word (896 + 8 * i)
            plan := PlanSet.ofWords fun i => word (968 + 8 * i) }
    | 2 => s.modSlot n fun x =>
      { x with vec := VecState.ofBytes (s.readBytes (localPlace core (e.frameOff 1 (x.vframe.getD 0))).key 8312) }
    | _ => s.modSlot n fun x =>
      { x with tiles := TileState.ofBytes (s.readBytes (localPlace core (e.frameOff 2 (x.mframe.getD 0))).key 32840) }

/-- Frees the frames of a thread's context that it has restored (R346): in the cycle after the last restore cycle, and the slot frame
once the spill areas of its ports have been read out. -/
def State.freeRestored (s : State) (n : Nat) : State :=
  let x := s.slot n
  let back (p : Nat) : Bool := !x.unrestored.contains p
  let spilt := x.ports.any fun p => !p.spill.isEmpty
  let s := if x.frame.isSome && back 0 && back 1 && !spilt then s.dropFrame n 0 else s
  let s := if x.vframe.isSome && back 2 then s.dropFrame n 1 else s
  if x.mframe.isSome && back 3 then s.dropFrame n 2 else s

def execContextRestore (slot part : Nat) (s : State) : Host.Outcome State Fault Refusal := .next (s.restorePart slot part)

/-! ## Budgets and slices -/

/-- The live slots of a cluster that hold threads of a region. -/
def State.slotsOf (s : State) (clu : Nat) (p : Slot → Bool) : List Nat :=
  ((List.range 160).map fun i => clu * 160 + i).filter fun n => (s.slot n).live && p (s.slot n)

/-- `BUDGET_EXHAUSTED` (R243). -/
def execBudgetExhausted (clu region : Nat) (s : State) : Host.Outcome State Fault Refusal :=
  let id := BitVec.ofNat 28 region
  let ns := s.slotsOf clu fun x => x.region = id
  let s := s.modClu clu fun c => { c with spent := if c.spent.contains id then c.spent else id :: c.spent }
  let s := ns.foldl (fun s n => s.preempt n 3) s
  .next (s.faultHandler id (slotCore (ns.headD (clu * 160))) 0 { cause := 0x12, info := BitVec.ofNat 64 clu })

/-- `SLICE_INSTANT` (R244): the new slice, the counts of R243 cleared, and the threads that the slice does not bind
pre-empted. A write of `SLICE` that waits takes effect (R319). -/
def execSliceInstant (s : State) : Host.Outcome State Fault Refusal :=
  let time := s.time
  let s : State := match s.slicePend with
    | some (l, c) => { s with sliceLen := l, sliceCnt := c, slicePend := none }
    | none => s
  let s : State :=
    { s with slice := time / max s.sliceLen 1 % (s.sliceCnt + 1)
             sliceNext := (time / max s.sliceLen 1 + 1) * max s.sliceLen 1
             clus := s.clus.map fun t => (t.1, { t.2 with occ := [], spent := [] }) }
  let out (n : Nat) : Bool :=
    match s.eff? (s.slot n).rcb with
    | none => true
    | some e => match s.bindFor (slotClu n) e with
      | some w => !s.bound w
      | none => true
  let ns := (s.slots.filter fun t => t.2.live).map (·.1)
  .next ((ns.filter out).foldl (fun s n => s.preempt n 2) s)

/-! ## The park table -/

/-- The words of a parked record that a deposit fills (R239). -/
def ParkEntry.regPlace (p : ParkEntry) (t : Word) : Place := p.rcd.add (8 * (tokenReg t).toNat)

/-- Whether an entry is due (R239): its record is whole, and its wake time or its deposit has come. -/
def ParkEntry.due (p : ParkEntry) (cyc : Nat) : Bool := p.saved && p.wake.any fun w => decide (w ≤ cyc)

/-- `PARK_WAKE` (R239): the first due entry's record, as memory holds it, is enqueued and the entry closed. -/
def State.parkWake (s : State) (core : Nat) : State :=
  match (s.core core).park.find? fun p => p.due s.cyc with
  | none => s
  | some p =>
    let r := Rec.ofBytes (s.readBytes p.rcd.key 256)
    let q : QEntry := { p.entry with
      val := { r with reason := if p.entry.val.reason = 4 then 4 else 5 }
      armed := if p.entry.val.reason = 4 then none else (p.token.filter fun t => (tokenReg t).toNat < 32), await := none }
    match s.enqueue (coreClu core) q with
    | none => s
    | some s => s.modCore core fun c => { c with park := c.park.erase p }

def execParkWake (core : Nat) (s : State) : Host.Outcome State Fault Refusal := .next (s.parkWake core)

/-! ## Calls and deposits -/

/-- `REMOTE_CALL` (R70): a continuation of class S bound to the named core joins its queue; where the queue has no room the
packet waits. -/
def execRemoteCall (pid : Nat) (s : State) : Host.Outcome State Fault Refusal :=
  match s.packet? pid with
  | none => .next s
  | some p =>
    if p.dev ≠ s.device then .next (s.answer p 15 0 true none)
    else
      let g (i : Nat) : Word := (p.ws[i]?).getD 0
      let r : Rec :=
        { w := Vector.ofFn fun i => if i.val < 8 then g (3 + i.val) else if i.val = 8 then g 0 else 0
          pc := BitVec.ofNat 64 p.val, cls := 0, depth := (g 2).toNat + 1, prio := (g 1).toNat
          flags := bindFlags p.dep false false, region := p.region }
      match s.enqueue p.dst { val := r } with
      | none => .next s
      | some s => .next (s.answer p 15 0 true none)

/-- A deposit into the record of a continuation that is out of its slot (R73, R239, R242): one that leaves its slot, or waits for
the deposit, is enqueued with REASON 4. -/
def QEntry.deposit (e : QEntry) (t v : Word) (leaving : Bool) : QEntry :=
  if e.armed = some t || e.await = some t then
    let k := (tokenReg t).toNat
    { e with
        val := { e.val with w := if k < 24 then e.val.w.set! k v else e.val.w
                            reason := if leaving || e.await = some t then 4 else e.val.reason }
        armed := if e.armed = some t then none else e.armed
        await := if e.await = some t then none else e.await }
  else e

/-- Writes a word and the REASON of a continuation's record into its slot frame (R242). -/
def State.saveDeposit (s : State) (clu : Nat) (q : QEntry) (t v : Word) : State :=
  match s.eff? (s.rcbOf q.val.region), q.frame with
  | some e, some i =>
    let at' (o : Nat) := localPlace (clu * 20 + q.val.core) (e.frameOff 0 i + o)
    let s := if (tokenReg t).toNat < 24 then s.store (at' (8 * (tokenReg t).toNat)) v.toNat 8 else s
    s.store (at' 212) 4 4
  | _, _ => s

/-- A deposit for a continuation of a cluster that is out of its slot. -/
def State.depositAway (s : State) (clu : Nat) (t v : Word) : State :=
  let mine (q : QEntry) : Bool := q.armed = some t || q.await = some t
  let s := ((s.clu clu).leaving.filter mine).foldl (fun s q => s.saveDeposit clu q t v) s
  s.modClu clu fun c =>
    { c with leaving := c.leaving.map fun q => q.deposit t v true
             queues := c.queues.map fun l => l.map fun q => q.deposit t v false }

/-- Closes the park-table entry that waits for a token (R239): the record receives the deposit once it is whole. -/
def State.closePark (s : State) (core : Nat) (t v : Word) : State :=
  match (s.core core).park.find? fun p => p.token = some t with
  | none => s
  | some p =>
    let k := (tokenReg t).toNat
    let s := if k < 32 && p.saved then s.writeMem (p.regPlace t).key v.toNat 8 else s
    s.modCore core fun c => { c with park := c.park.map fun q =>
      if q = p then
        { q with token := none, wake := some 0, late := if k < 32 && !p.saved then some (k, v) else none
                 entry := { q.entry with val := { q.entry.val with reason := 4 } } }
      else q }

/-- The slot of a cluster whose thread has a register armed for a token, wherever the thread has been placed since (R239). -/
def State.armedSlot (s : State) (clu : Nat) (t : Word) : Option (Nat × Slot) :=
  s.slots.find? fun x => slotClu x.1 = clu && x.2.live && x.2.saveEnd = 0 && x.2.armed.any fun a => a.1 = t

/-- A deposit at the core that its token names (R72, R73): whether a register was armed for it, and the state after. A caller that
still waits in its slot is ready three cycles later. -/
def State.deposit (s : State) (core : Nat) (t v : Word) : Bool × State :=
  let c := s.core core
  let clu := coreClu core
  let reg : Res := .spec (tokenReg t)
  match c.armedS.find? fun a => a.2 = t with
  | some a =>
    let n := core * 8 + (t.extractLsb' 37 3).toNat
    let caller := (s.slot n).live && (s.slot n).calls.any fun c => c.2.1 = t
    let s := s.modCore core fun c =>
      { c with armedS := c.armedS.filter fun b => b.2 ≠ t
               spend := c.spend ++ [⟨a.1, v, s.cyc + 3, if caller then n else core * 8 + 8⟩] }
    let s := if caller then s.modSlot n fun x => x.later reg (s.cyc + 3) else s
    (true, (s.closePark core t v).depositAway clu t v)
  | none =>
    match s.armedSlot clu t with
    | some (n, x) =>
      let ws := ((x.armed.find? fun a => a.1 = t).map (·.2)).getD 0
      (true, (s.land n ws (tokenReg t) v).modSlot n fun x =>
        { x.later reg (s.cyc + 3) with armed := x.armed.filter (·.1 ≠ t) })
    | none =>
      if c.park.any fun p => p.token = some t then (true, s.closePark core t v)
      else if ((s.clu clu).queues.toList.flatten ++ (s.clu clu).leaving).any fun e => e.armed = some t then
        (true, s.depositAway clu t v)
      else (false, s)

/-- `DEPOSIT` (R72): a deposit that matches no armed register is discarded and counted. -/
def execDeposit (pid : Nat) (s : State) : Host.Outcome State Fault Refusal :=
  match s.packet? pid with
  | none => .next s
  | some p =>
    let s := s.dropPacket pid
    if p.dev ≠ s.device then .next s
    else
      match s.deposit (p.dst * 20 + p.dep) (p.ws.headD 0) ((p.ws[1]?).getD 0) with
      | (true, s) => .next s
      | (false, s) => .next (s.tel p.dst 8)

/-! ## Migrations -/

/-- The slot where an arriving thread is placed at once (R246). -/
def State.arriveSlot (s : State) (clu : Nat) (r : Rec) : State × Option (Nat × Eff) :=
  match s.sample (clu * 20) r.region with
  | (s, none) => (s, none)
  | (s, some e) =>
    match s.bindFor clu e with
    | none => (s, none)
    | some w =>
      if !s.bound w || (s.clu clu).spent.contains r.region then (s, none)
      else (s, (placeCores clu r).findSome? fun c =>
        if coreAllowed w c && s.coreOpen c then (s.freeSlotFor c r.cls).map fun n => (n, e) else none)

/-- `MIGRATION_ARRIVAL` (R231, R246): placed, entered in its queue, or refused, in which case the packet goes back to its
sender and is sent again 256 cycles later. -/
def execMigrationArrival (pid : Nat) (s : State) : Host.Outcome State Fault Refusal :=
  match s.packet? pid with
  | none => .next s
  | some p =>
    let accept (s : State) := s.answer p 15 0 true none
    if p.dev ≠ s.device then .next (accept s)
    else
      let q : QEntry := { val := { p.val' with region := if p.size = 1 then p.val'.region else p.region } }
      let (s, place) := if p.size = 1 then (s, none) else s.arriveSlot p.dst q.val
      match place with
      | some (n, e) => .next (accept (s.placeIn n q e (s.cyc + 1)))
      | none =>
        match s.enqueue p.dst q with
        | some s => .next (accept s)
        | none => .next (s.putPacket { p with at' := p.src, ok := false, due := s.cyc + 256 })

/-- `MIGRATION_RESEND` (R246). -/
def execMigrationResend (pid : Nat) (s : State) : Host.Outcome State Fault Refusal :=
  match s.packet? pid with
  | none => .next s
  | some p => .next ((s.wakeRouter p.src).putPacket { p with ok := true, arrived := false, inp := 0, due := s.cyc + 1 })

end Sys2Proof.Machine
end

