-- ==== Sys2Proof/Machine/Tasks.lean ====
section
/-! DEFINITION. The task, region and plan instructions: major 0x1D (R227 to R232, R237, R238, R246, R249 to R252). -/

namespace Sys2Proof.Machine

/-! ## Records -/

/-- The place of a record address (R231, R238): the own local, cluster or die common store, else cause 0x15; then the
causes of its resolution. -/
def recordPlace (k : Acc) (ea : Word) : M Target := do
  raiseIf (ea.toNat % 256 ≠ 0) 0x04 0 ea 0
  let s ← get
  let n := ea.toNat
  let own (p : Place) : Bool := servedBy s p = 1 || servedBy s p = 2
  if n < 2 ^ 32 then
    raiseIf (!(decide (n < 0x40000) || decide (0x100000 ≤ n ∧ n < 0x200000)
      || (windowPlace 0 n).any own)) 0x15 0 ea 0
  else if n < 2 ^ 48 then
    let e ← myEff
    let (pte, big) ← translate e.troot n false
    raiseIf ((pageFrame pte big n).any fun p => !own p) 0x15 0 ea 0
  let t ← resolve k ea
  raiseIf (t.view ≠ 0) 0x07 0 ea 0
  if t.place.kind ≠ 1 then
    checkBank t.place ea
    checkBank (t.place.add 128) ea
  return t

/-- Reserved bits of a placement word (R229). -/
def placeReserved (b : Word) : Bool := b.getLsbD 3 || b.extractLsb' 12 4 ≠ 0 || b.extractLsb' 23 41 ≠ 0

/-- The device and cluster that a placement word names (R231). -/
def placeTarget (b : Word) : M (Nat × Nat) := do
  let s ← get
  if b.getLsbD 22 then
    let e ← myEff
    match e.part[(b.extractLsb' 16 6).toNat]? with
    | none => raise 0x06 4 b 0
    | some w => return (partDev w, partClu w)
  else return (s.device, slotClu s.cur)

/-- Enters a record in the queue of a placement word's cluster (R231): at once where that is the own cluster, waiting for an
entry; otherwise as a migration packet, waiting for its acknowledgement. Does `done` once the record is entered. -/
def sendRecord (r : Rec) (b : Word) (done : M Unit) : M Unit := do
  let (dev, clu) ← placeTarget b
  let s ← get
  if dev = s.device && clu = slotClu s.cur then
    match s.enqueue clu { val := r } with
    | none => wait 2
    | some s => do
      set s
      done
  else
    reserveCredits 1
    let id ← addOwed { id := 0, what := 9 }
    let s ← get
    sendPacket { s.packetOf s.cur 13 with ddev := dev, dst := clu, dep := 30, size := 1, val' := r, owed := id }
    modMe fun x => { x with phase := 1 }
    wait 2

/-- What an instruction that has sent a record does when its answer has come (R231). -/
def recordAnswer (done : M Unit) (start : M Unit) : M Unit := do
  let x ← me
  if x.phase = 2 then done
  else if x.phase = 97 then trapRec { cause := 0x0E, p := x.buf.headD 0 = 1 }
  else do
    waitIf (x.phase = 1) 2
    start

/-- The checks of R231 on the 256 bytes of a record and its placement word. -/
def recordChecks (bs : List Byte) (b : Word) : M Rec := do
  let r := Rec.ofBytes bs
  raiseIf (!recOk bs || placeReserved b) 0x02 5 0 0
  raiseIf ((r.hdl || r.ctx) && !(← me).privileged) 0x03 0 0 0
  let e ← sampleBlock ((← get).rcbOf r.region)
  raiseIf (!e.chain.contains (← me).region) 0x06 0 0 0
  return { r with reason := 0, home := 0 }

/-- The frame of an escalated record is free once its record has been enqueued (R284, R285). -/
def State.freeEscal (s : State) (n : Nat) (p : Place) : State :=
  let priv := (s.slot n).privileged
  s.modCore (slotCore n) fun c => { c with frames := c.frames.filter fun f => !(f.escal = p.key && (priv || !f.mgmt)) }

/-- `ENQ` (R231): the record is read once, at issue or at its line turns, and every check is precise; poison met at a turn is a
deferred report, with nothing enqueued (R92). Its phases: 10 and 11 the line turns, 12 a record that has passed its checks waits for
room, 1 and 2 it has been sent. -/
def execEnq (a b : Spec) (f : Form) (s : State) : Host.Outcome State Fault Refusal :=
  issue (.enq a b f) (do
    let ea ← src f a
    let w ← src f b
    recordAnswer (modify fun s => match windowPlace 0 ea.toNat with
        | some _ => s
        | none => s.freeEscal s.cur (localPlace (slotCore s.cur) ea.toNat)) (do
      let x ← me
      waitIf (x.phase = 10) 3
      let send (r : Rec) : M Unit :=
        sendRecord r w (modify fun s => s.freeEscal s.cur (localPlace (slotCore s.cur) ea.toNat))
      let done (bs : List Byte) (more : M Unit) : M Unit := do
        let r ← recordChecks bs w
        let _ ← placeTarget w
        more
        modMe fun x => { x with phase := 12, buf := [leNat bs] }
        send r
      if x.phase = 12 then send { Rec.ofBytes (leBytes 256 (x.buf.headD 0)) with reason := 0, home := 0 }
      else if x.phase = 99 then modify fun s => s.report s.cur { cause := 0x08, pc := x.pc, addr := ea }
      else if x.phase = 11 then
        let n := if x.buf.length = 2 then 128 else 64
        done (x.buf.flatMap (leBytes n)) (pure ())
      else
        let t ← recordPlace .load ea
        orderGate t.place t.ord 256
        if t.place.kind = 1 then
          needPort
          done ((← get).readBytes t.place.key 256) do
            localPoison t.place 256 ea
            checkWatch 1 ea 256
        else
          checkWatch 1 ea 256
          let n := t.place.span
          let us := (List.range (256 / n)).map fun i =>
            ({ place := t.place.add (n * i), acts := [.rd (4 * i) (t.place.add (n * i)).key n] } : MemUnit)
          addAccess { id := 0, units := us, fin := .hold, va := ea, ord := t.ord }
          modMe fun x => { x with phase := 10 }
          wait 3)) s

/-- `SPAWN` (R232). -/
def execSpawn (d a b : Spec) (f : Form) (s : State) : Host.Outcome State Fault Refusal :=
  issue (.spawn d a b f) (do
    let done : M Unit := dst f d 0 3
    recordAnswer done (do
      let x ← me
      let s ← get
      let pc ← src f a
      let w ← src f b
      let cls := (w.extractLsb' 0 3).toNat
      let mc := w.getLsbD 6
      let core := (w.extractLsb' 8 4).toNat
      raiseIf (x.depth = 7) 0x02 5 0 0
      raiseIf (pc.extractLsb' 0 2 ≠ 0) 0x04 0 pc 0
      raiseIf (placeReserved w || 4 < cls || (mc && (3 < core || cls = 2 || cls = 4))) 0x02 5 0 0
      raiseIf (isArmed s d) 0x0C d.toNat 0 0
      let r : Rec :=
        { w := Vector.ofFn fun i => if i.val = d.toNat then 1 else s.word s.cur i.val
          pc := pc, pw := x.pw, cls := cls, depth := x.depth + 1, prio := (w.extractLsb' 4 2).toNat
          flags := BitVec.ofNat 8 ((w.getLsbD 7).toNat * 128 + mc.toNat * 64 + core), region := x.region }
      sendRecord r w done)) s

/-- Waits until no pass of an array that the thread holds is in progress (R261). -/
def arrayGate : M Unit := do
  let s ← get
  waitIf (s.holdsArray s.cur && decide ((s.clu (slotClu s.cur)).iso.pleft ≠ 0)) 3

/-- A thread that parks writes its dirty words back first (R48, R49), through the local-store port. -/
def State.parkFlush (s : State) (n : Nat) : State := (s.writeBack n).modSlot n fun x => { x with phase := 7 }

/-- `PARK` (R238, R239). Its phases: 7 the dirty words of its register cache have been written back, 8 and 9 the lines of the record
are written. -/
def execPark (a b : Spec) (f : Form) (s : State) : Host.Outcome State Fault Refusal :=
  issue (.park a b f) (do
    let x ← me
    if x.phase = 9 then
      let c ← myCore
      modify fun s => (c.park.foldl (fun s p => match p.late with
        | some (k, v) => if p.rcd.key = x.buf.headD 0 then s.writeMem (p.rcd.add (8 * k)).key v.toNat 8 else s
        | none => s) s)
      modCore fun c => { c with park := c.park.map fun p =>
        if p.rcd.key = x.buf.headD 0 then { p with saved := true, late := none } else p }
      modify fun s => s.freeSlot s.cur
      quit
    waitIf (x.phase = 8) 3
    raiseIf x.trap.tmode 0x02 5 0 0
    let ea ← src f a
    let w ← src f b
    let t ← recordPlace .store ea
    raiseIf (w.extractLsb' 32 32 ≠ 0 || x.holdsRoute) 0x02 5 0 0
    checkWatch 2 ea 256
    departGate
    arrayGate
    tileGate t.place 256
    let s ← get
    let tok := x.armed.head?.map (·.1)
    let needs := w ≠ 0 || tok.isSome
    waitIf (needs && decide (24 ≤ s.parkUsed (slotCore s.cur))) 3
    let next ← nextPc f
    if x.dirty ≠ 0 then throw (Halt.wait (s.parkFlush s.cur) 3)
    if t.place.kind = 1 then needPort
    takeOps (.park a b f)
    let r : Rec := { s.recordOf s.cur next with link := 0 }
    let here := t.place.kind = 1
    if needs then
      modCore fun c => { c with park := c.park ++
        [{ rcd := t.place, wake := if w ≠ 0 then some (s.cyc + w.toNat) else none, token := tok, saved := here }] }
    if here then
      modify fun s => (s.storeBytes t.place r.bytes).freeSlot s.cur
      quit
    else
      let n := t.place.span
      let us := (List.range (256 / n)).map fun i =>
        ({ place := t.place.add (n * i)
           acts := [.wr (t.place.add (n * i)).key n (leNat ((r.bytes.drop (n * i)).take n))] } : MemUnit)
      addAccess { id := 0, units := us, fin := .park, va := ea, ord := t.ord }
      modMe fun x => { x with phase := 8, armed := [], buf := [t.place.key] }
      wait 3) s

/-- `END` (R237). -/
def execEndT (f : Form) (s : State) : Host.Outcome State Fault Refusal :=
  issue (.endT f) (do
    raiseIf (← me).holdsRoute 0x02 5 0 0
    departGate
    arrayGate
    modify fun s => s.freeSlot s.cur
    quit) s

/-- `MIGR` (R246). -/
def execMigr (a : Spec) (f : Form) (s : State) : Host.Outcome State Fault Refusal :=
  issue (.migr a f) (do
    let ea ← src f a
    raiseIf (← me).trap.tmode 0x02 5 0 0
    let t ← resolve .load ea
    let s ← get
    if s.bankAbsent t.place then
      raise 0x0D (if t.place.kind = 3 then 1 else 0) ea (absentTrap t.place).info
    checkMig t ea) s

/-! ## Plans -/

/-- A plan instruction (R248): a request to the plan unit of the plan cluster, which waits there for its turn; from another cluster
it travels as an atomic. Its answer comes with the cycle of its delivery. -/
def planCall (op : Nat) (a : Word) (st : List Word) (k : Nat → List Nat → M Unit) : M Unit := do
  let x ← me
  let g (i : Nat) : Nat := (x.buf[i]?).getD 0
  if x.phase = 2 then k (g 0) (x.buf.drop 1)
  else if x.phase = 94 then pure ()
  else if x.phase = 95 then
    trapRec { cause := g 0, sub := g 1, addr := BitVec.ofNat 64 (g 2), info := BitVec.ofNat 64 (g 3) }
  else do
    waitIf (x.phase = 1) 3
    let e ← myEff
    let s ← get
    raiseIf (e.plan = 0) 0x02 5 0 0
    match planPlace e with
    | none => raise 0x06 3 e.plan 0
    | some p =>
      raiseIf (e.logical s.device p.unit).isNone 0x06 4 e.plan 0
      let lc := (e.logical s.device (slotClu s.cur)).getD 64
      let own := p.unit = slotClu s.cur
      if !own then reserveResp
      let id ← addOwed { id := 0, what := if own then 14 else 10, place := p, va := e.plan }
      let s ← get
      sendPacket { s.packetOf s.cur 2 with
        ddev := s.device, dst := p.unit, dep := 30, place := p, size := 8, op := 64 + op, owed := id, arrived := own
        ws := [BitVec.ofNat 64 lc, BitVec.ofNat 64 e.part.length, a] ++ st }
      modMe fun x => { x with phase := 1 }
      wait 3

/-- `DISP` (R251). -/
def execDisp (d : Spec) (f : Form) (s : State) : Host.Outcome State Fault Refusal :=
  issue (.disp d f) (do
    if (← me).phase = 0 then
      loadDstCheck d
      loadReady d
    planCall 0 0 [] fun c r => lateDst f d (BitVec.ofNat 64 (r.headD 0)) c) s

/-- `TDONE` (R252): a release at device scope. -/
def execTdone (a : Spec) (f : Form) (s : State) : Host.Outcome State Fault Refusal :=
  issue (.tdone a f) (do
    let v ← src f a
    let s ← get
    if s.me.phase = 0 then waitIf (!s.me.performed (slotCore s.cur) 4) 3
    planCall 1 v [] fun _ _ => pure ()) s

/-- `PLANW` (R249). -/
def execPlanw (a : Spec) (f : Form) (s : State) : Host.Outcome State Fault Refusal :=
  issue (.planw a f) (do
    let v ← src f a
    raiseIf (decide (3 ≤ v.toNat)) 0x02 5 0 0
    let x ← me
    planCall 2 v x.plan.words fun _ r =>
      if v = 2 then modMe fun x => { x with plan := PlanSet.ofWords fun i => BitVec.ofNat 64 ((r[i]?).getD 0) }
      else pure ()) s

/-- `PLANSW` (R250). -/
def execPlansw (d : Spec) (f : Form) (s : State) : Host.Outcome State Fault Refusal :=
  issue (.plansw d f) (do
    if (← me).phase = 0 then
      loadDstCheck d
      loadReady d
    planCall 3 0 [] fun c r => lateDst f d (BitVec.ofNat 64 (r.headD 0)) c) s

/-- `TREL` (R252): only for a fault-domain handler. -/
def execTrel (a : Spec) (f : Form) (s : State) : Host.Outcome State Fault Refusal :=
  issue (.trel a f) (do
    let v ← src f a
    raiseIf (!(← me).hdl) 0x03 0 0 0
    planCall 4 v [] fun _ _ => pure ()) s

/-! ## Regions -/

/-- The memory address of a control block that an instruction names: in the own cluster store's alias or a window. -/
def rcbKey (s : State) (va : Word) : Nat :=
  let n := va.toNat
  if 0x100000 ≤ n ∧ n < 0x200000 then (cluPlace (slotClu s.cur) (n - 0x100000)).key else hwKey n

/-- Whether a block is another or lies below it (R227). -/
def derives (s : State) : Nat → Nat → Nat → Bool
  | 0, _, _ => false
  | n + 1, k, top => k = top || (k ≠ 0 && derives s n (hwKey (readRcb s k).parent) top)

/-- `RGSYNC` (R227): every unit drops its copies of the block and of those derived from it. -/
def execRgsync (a : Spec) (f : Form) (s : State) : Host.Outcome State Fault Refusal :=
  issue (.rgsync a f) (do
    let v ← src f a
    raiseIf (v.toNat % 128 ≠ 0) 0x04 0 v 0
    modify fun s =>
      let k := rcbKey s v
      { s with effs := s.effs.filter fun t => !t.2.rcbs.contains k
               bads := s.bads.filter fun b => !derives s 17 b k }) s

/-- What a thread may not hold when it moves between regions (R228, R261): an open route, an armed reply register or a claimed
isochrone array. -/
def regionGate : M Unit := do
  let x ← me
  let s ← get
  raiseIf (x.trap.tmode || x.holdsRoute || !x.armed.isEmpty || s.holdsArray s.cur
    || (s.core (slotCore s.cur)).armedS.any (fun p => slotIdx s.cur = (p.2.extractLsb' 37 3).toNat)) 0x02 5 0 0

/-- Waits until every part of the thread's saved context has been restored: it lies in the save area of the region that the thread
leaves (log entry 58). -/
def wholeContext : M Unit := do
  match (← me).unrestored with
  | [] => pure ()
  | p :: _ => restoreContext p

/-- Moves the current thread into a region (R228), after the checks that both instructions make. -/
def enterRegion (k : Nat) (down : Bool) : M Unit := do
  let x ← me
  let e ← myEff
  let n ← sampleBlock k
  raiseIf (down && !((n.chain.drop 1).contains x.region)) 0x06 0 0 0
  raiseIf (n.tenant ≠ e.tenant && !x.privileged) 0x03 0 0 0
  departGate
  wholeContext
  modify fun s => s.modSlot s.cur fun x =>
    { x with rcb := k, region := n.id, trap := { x.trap with priv := s.effPriv n } }

/-- `RGENTER` (R228). -/
def execRgenter (a : Spec) (f : Form) (s : State) : Host.Outcome State Fault Refusal :=
  issue (.rgenter a f) (do
    let v ← src f a
    raiseIf (v.toNat % 128 ≠ 0) 0x04 0 v 0
    regionGate
    enterRegion (rcbKey (← get) v) true) s

/-- `RGEXIT` (R228). -/
def execRgexit (f : Form) (s : State) : Host.Outcome State Fault Refusal :=
  issue (.rgexit f) (do
    regionGate
    let e ← myEff
    raiseIf (e.parent = 0) 0x06 0 0 0
    enterRegion e.parent false) s

end Sys2Proof.Machine
end

