-- ==== Sys2Proof/Machine/Command.lean ====
section
/-! DEFINITION. Matrix commands between cores: major 0x34 and the command as it arrives (R149 to R152). -/

namespace Sys2Proof.Machine

/-- The instruction that a command block carries (R150): none where the word is not one of those listed or fails its own
encoding checks. -/
def carried (w : Word32) : Option Instr :=
  match decodeWords [w] with
  | some (i, _) =>
    let listed := match i with
      | .tld _ _ _ _ _ _ .base | .tst _ _ _ .base | .tmma _ _ _ _ _ .base | .tzero _ .base | .tscale _ _ _ .base
      | .tadd _ _ _ .base | .tmask _ _ _ .base => true
      | _ => false
    if listed && i.wf && (match i.raw with | some r => r.badOperand.isNone | none => false) then some i else none
  | none => none

/-- The bit of a capability that a carried instruction needs (R149). -/
def rightBit : Instr → Nat
  | .tld _ _ _ _ _ _ _ => 44
  | .tst _ _ _ _ => 45
  | .tmask _ _ _ _ => 47
  | _ => 46

/-- `TCMD` (R150). -/
def execTcmd (a b : Spec) (f : Form) (s : State) : Host.Outcome State Fault Refusal :=
  issue (.tcmd a b f) (do
    let x ← me
    if x.phase = 2 then return ()
    let ea ← src f a
    let cap ← src f b
    if x.phase = 98 then raise 0x09 0 ea cap
    if x.phase = 97 then trapRec { cause := 0x0E, p := x.buf.headD 0 = 1, addr := ea }
    waitIf (x.phase = 1) 3
    raiseIf (ea.toNat % 32 ≠ 0) 0x04 0 ea 0
    raiseIf (decide (0x40000 < ea.toNat + 32)) 0x15 0 ea 0
    raiseIf (decide ((← localBound) < ea.toNat + 32)) 0x06 3 ea 0
    let p := localPlace (slotCore (← get).cur) ea.toNat
    let s ← get
    let g (i : Nat) : Word := BitVec.ofNat 64 (s.readMem (p.add (8 * i)).key 8)
    let w := g 1
    raiseIf ((carried (w.setWidth 32)).isNone || w.extractLsb' 35 5 ≠ 0 || w.extractLsb' 45 3 ≠ 0
      || w.extractLsb' 48 16 ≠ 0) 0x02 5 0 0
    destCheck (g 0) false
    waitIf (!x.storesDone) 3
    orderGate p s.windowOrd 32
    launchGate
    needPort
    localPoison p 32 ea
    checkWatch 1 ea 32
    reserveCredits 1
    let id ← addOwed { id := 0, what := 7, va := ea }
    sendPacket { s.packetOf s.cur 12 with
      ddev := destDev (g 0), dst := destClu (g 0), dep := destEp (g 0), owed := id
      ws := [cap, g 0, g 1, g 2, g 3, ea, x.pc] }
    modMe fun x => { x with phase := 1 }
    wait 3) s

/-- A slot as a report codes a sender (R71, R277): bits 39 to 16. -/
def senderCode (dev n : Nat) : Word :=
  let c := slotCore n
  BitVec.ofNat 64 (slotIdx n * 2 ^ 37 + coreIdx c % 16 * 2 ^ 33 + cluIdx (coreClu c) * 2 ^ 28 + slotDie n * 2 ^ 25
    + dev % 512 * 2 ^ 16)

/-- Whether a capability admits a carried instruction on a core (R149, R151). -/
def capAdmits (s : State) (cap : Word) (core : Nat) (i : Instr) : Bool :=
  cap.extractLsb' 48 16 = Config.capMac (Config.deviceSecret s.resets) (cap.extractLsb' 0 48).toNat
      (cluIdx (coreClu core)) (cluDie (coreClu core))
    && !isMemCore core && (cap.extractLsb' 28 16).getLsbD (coreIdx core) && cap.getLsbD (rightBit i)

/-- A carried `TLD` or `TST` needs a place in the unit as it is accepted (R135, R151); it does not occupy the unit (R138). -/
def carriedAccess (body : M Unit) : M Unit := do
  placeGate
  waitIf (!(← get).covers 4) 1
  body
  charge 4

/-- A carried instruction with the values of its A and B registers, on the tiles of the current slot (R151). -/
def runCarried (i : Instr) (va vb : Word) (post : Option Nat) : M Unit :=
  match i with
  | .tld d _ _ z g t f => carriedAccess (tileLoad d (z = 1) (g = 1) (t = 1) f.rm (va + disp f) none vb 0 post)
  | .tst d _ _ f => carriedAccess (tileStore d (va + disp f) none vb post)
  | .tmma d a b c t f => tileMma d a b (c = 1) t.toNat f.quiet post true
  | .tzero d _ => tileZero d post true
  | .tscale d a _ f => tileArith 2 d a 0 vb f.rm f.quiet post true
  | .tadd d a b f => tileArith 3 d a b 0 f.rm f.quiet post true
  | .tmask d _ _ _ => do
    tileMask d va vb post true
    modify fun s => s.claimPort (slotCore s.cur)
  | _ => pure ()

/-- An arriving command at its target (R135, R151, R152): rejected, accepted, or left waiting for a place. -/
def State.command (s : State) (p : Packet) : State :=
  let core := p.dst * 20 + p.dep
  let g (i : Nat) : Word := (p.ws[i]?).getD 0
  let w := g 2
  let n := core * 8 + (w.extractLsb' 32 3).toNat
  let x := s.slot n
  let cap := g 0
  match carried (w.setWidth 32) with
  | none => s.answer p 15 0 false none
  | some i =>
    if !(capAdmits s cap core i && x.live && x.cls = 2 && !x.leaving && !x.moving && x.region = cap.extractLsb' 0 28) then
      s.answer p 15 0 false none
    else
      let s := if x.unrestored.contains 3 then s.restorePart n 3 else s
      let me := s.cur
      let fail (t : TrapRec) (s : State) : State :=
        (s.report n { t with eng := true, tile := w.extractLsb' 25 7 = 0x18, pc := g 6, addr := g 5, info := senderCode p.sdev p.slot }).answer p 15 0 true none
      let post := if w.getLsbD 44 then some (w.extractLsb' 40 4).toNat else none
      match runCarried i (g 3) (g 4) post { s with cur := n } with
      | .ok (_, t) => ({ t with cur := me } : State).answer p 15 0 true none
      | .error (.trap t) => fail t s
      | .error (.trapWith t s') => fail t { s' with cur := me }
      | .error (.wait s' _) => { s'.notReady { s with cur := n } false with cur := me }
      | .error (.quit s') => ({ s' with cur := me } : State).answer p 15 0 true none

/-- `MATRIX_COMMAND` (R151): a command for another device is answered as accepted (log entry 13). -/
def execMatrixCommand (pid : Nat) (s : State) : Host.Outcome State Fault Refusal :=
  match s.packet? pid with
  | none => .next s
  | some p => if p.dev ≠ s.device then .next (s.answer p 15 0 true none) else .next (s.command p)

end Sys2Proof.Machine
end

