-- ==== Sys2Proof/Machine/Iso.lean ====
section
/-! DEFINITION. The isochrone array (R254 to R271): passes, the claim, and major 0x1E. -/

namespace Sys2Proof.Machine

/-! ## Values and passes -/

/-- Byte `j` of 64 (R254). -/
def at8 (v : BitVec 512) (j : Nat) : Nat := (v.extractLsb' (8 * j) 8).toNat

/-- 64 bytes from a function. -/
def at8s (f : Nat → Nat) : BitVec 512 := BitVec.ofNat 512 ((List.range 64).foldr (fun j acc => acc * 256 + f j % 256) 0)

/-- One output of a pass (R255): `as` the arrivals, `ds` its delays by input, AND or OR, and the window. -/
def isoOutput (as ds : List Nat) (land : Bool) (w : Nat) : Nat :=
  let c := (as.zip ds).filter fun p => p.2 ≠ 255
  let t :=
    if land then
      if c.isEmpty || c.any (fun p => p.1 = 255) then 255 else (c.map fun p => p.1 + p.2).foldl max 0
    else
      match (c.filter fun p => p.1 ≠ 255).map fun p => p.1 + p.2 with
      | [] => 255
      | x :: xs => xs.foldl min x
  if w ≤ t then 255 else t

/-- `Pass()` (R255) under a window and modes: every output from the arrivals as they stood, then the relaxation. -/
def Iso.pass (x : Iso) (w : Nat) (mode : Word) : Iso :=
  let as := (List.range 64).map (at8 x.a)
  let out := (List.range 64).map fun j =>
    isoOutput as (x.dl.toList.map fun r => at8 r j) (mode.getLsbD j) w
  let o (j : Nat) : Nat := (out[j]?).getD 255
  { x with o := at8s o, a := at8s fun j => if mode.getLsbD j then o j else min (at8 x.a j) (o j) }

/-- Cycles of a pass (R267). -/
def passCycles (w : Nat) : Nat := (w + 5) / 2

/-- `ISOCHRONE_PASS` (R255, R267): a pass ends, and its results take effect. -/
def execIsochronePass (clu : Nat) (s : State) : Host.Outcome State Fault Refusal :=
  .next (s.modClu clu fun c =>
    let x := c.iso
    if x.pleft = 0 then c
    else
      { c with iso := { x.pass x.gwin x.gmode with
          pleft := x.pleft - 1, pdone := x.pdone + 1, lastEnd := x.nextPass, nextPass := x.nextPass + passCycles x.gwin } })

/-- `Clear()` (R260). -/
def Iso.clear (x : Iso) : Iso :=
  { x with dl := Vector.replicate 64 (BitVec.allOnes 512), a := BitVec.allOnes 512, o := BitVec.allOnes 512, win := 255
           mode := 0 }

/-- `IS_STAT` as a slot reads it (R259). -/
def State.isoStat (s : State) (n : Nat) : Word :=
  let x := (s.clu (slotClu n)).iso
  let mine := s.holdsArray n
  let held := x.holder.isSome
  BitVec.ofNat 64 ((if held then slotIdx x.hslot + 8 * coreIdx (slotCore x.hslot) + 128 else 0)
    + (if mine then 256 * x.pdone + 65536 * x.pleft else 0) + (if held && x.away then 2 ^ 24 else 0))

/-! ## The claim -/

def modIso (g : Iso → Iso) : M Unit := modClu fun c => { c with iso := g c.iso }
def myIso : M Iso := do return (← myClu).iso

/-- Only the thread that holds the claim drives the array (R262). -/
def mustHold : M Unit := do
  let s ← get
  raiseIf (!s.holdsArray s.cur) 0x01 0 0 0

/-- Waits while passes run (R270). -/
def waitPasses : M Unit := do
  waitIf ((← myIso).pleft ≠ 0) 3

/-- Whether another `ISCLAIM` of the cluster comes before one that issued at a cycle (R260). -/
def State.claimBefore (s : State) (n since : Nat) : Bool :=
  (s.slotsOf (slotClu n) fun x => x.cls = 4 && x.phase = 20).any fun m =>
    m ≠ n && decide ((s.slot m).buf.headD 0 < since ∨ ((s.slot m).buf.headD 0 = since ∧ m < n))

/-- `ISCLAIM` (R260). -/
def execIsclaim (d : Spec) (f : Form) (s : State) : Host.Outcome State Fault Refusal :=
  issue (.isclaim d f) (do
    let s ← get
    let x := s.me
    if s.holdsArray s.cur then dst f d 0 3
    else
      let since := if x.phase = 20 then x.buf.headD s.cyc else s.cyc
      let iso ← myIso
      if iso.holder.isSome || s.claimBefore s.cur since then
        modMe fun x => { x with phase := 20, buf := [since] }
        wait 2
      let fresh := iso.lastRegion ≠ some x.region
      dst f d (if fresh then 1 else 0) 3
      modIso fun y =>
        { (if fresh then y.clear else y) with
            holder := some (s.cur, x.cont), hslot := s.cur, away := false, lastRegion := some x.region }) s

/-- `ISREL` (R261). -/
def execIsrel (f : Form) (s : State) : Host.Outcome State Fault Refusal :=
  issue (.isrel f) (do
    mustHold
    waitPasses
    modify fun s => s.releaseArray s.cur) s

/-! ## Window, modes and clearing -/

/-- A write of the window or the modes that supersedes earlier `SETC`s of them which have yet to take effect (R264, R269). -/
def supersede (regs : List Nat) : M Unit :=
  modify fun s => { s with setcs := s.setcs.filter fun w => !(slotClu w.slot = slotClu s.cur && regs.contains w.reg) }

/-- A window value (R257, R264): 1 to 255. -/
def windowOk (v : Word) : Bool := v ≠ 0 && v.extractLsb' 8 56 = 0

/-- `ISWIN` (R264). -/
def execIswin (a : Spec) (f : Form) (s : State) : Host.Outcome State Fault Refusal :=
  issue (.iswin a f) (do
    mustHold
    let v ← src f a
    raiseIf (!windowOk v) 0x02 5 0 0
    waitPasses
    supersede [0x040]
    modIso fun x => { x with win := v.toNat }) s

/-- `ISMODE` (R264). -/
def execIsmode (a : Spec) (f : Form) (s : State) : Host.Outcome State Fault Refusal :=
  issue (.ismode a f) (do
    mustHold
    let v ← src f a
    waitPasses
    supersede [0x041]
    modIso fun x => { x with mode := v }) s

/-- `ISCLR` (R269). -/
def execIsclr (f : Form) (s : State) : Host.Outcome State Fault Refusal :=
  issue (.isclr f) (do
    mustHold
    waitPasses
    supersede [0x040, 0x041]
    modIso Iso.clear) s

/-! ## Loads -/

/-- One page's part of an array load (R265, R266): resolved as a load, with its place and the ordering kind of its page. -/
def isoPart (e : Eff) (p : Word × Nat) : M (Word × Target × Nat) := do
  let t ← resolveIn e .load p.1 false
  if t.place.kind = 1 then
    let _ ← resolveIn e .load (p.1 + BitVec.ofNat 64 (p.2 - 1)) false
  raiseIf (t.view ≠ 0) 0x07 0 p.1 0
  if servedBy (← get) t.place = 1 then
    let _ ← forEach (fun i => checkBank (t.place.add (128 * i)) (p.1 + BitVec.ofNat 64 (128 * i)))
      (List.range ((p.2 + 127) / 128))
  return (p.1, t, p.2)

/-- The parts of `n` bytes that an array load reads: of the causes that its pages raise the first of R280, then the stores that it
may read. -/
def isoPlaces (va : Word) (n : Nat) (mayLocal : Bool) : M (List (Target × Nat)) := do
  let e ← myEff
  let rs ← forEach (fun p => do
    match ← tryTrap (isoPart e p) with
    | .ok r => return Except.ok r
    | .error t => return Except.error t) (pageSpans va n)
  let rs ← allOk rs
  let s ← get
  let _ ← forEach (fun (r : Word × Target × Nat) =>
    raiseIf (!(servedBy s r.2.1.place = 1 || (mayLocal && servedBy s r.2.1.place = 0))) 0x15 0 r.1 0) rs
  return rs.map fun r => r.2

/-- Begins an array load: its lines are read at service-port turns, or at the local-store port (R265, R266). -/
def isoRead (va : Word) (ps : List (Target × Nat)) : M Unit := do
  let us := ps.flatMap fun p => (List.range ((p.2 + 127) / 128)).map fun i =>
    (p.1.place.add (128 * i), min 128 (p.2 - 128 * i))
  let n := us.length
  addAccess
    { id := 0, issued := (← get).cyc + 1, fin := .hold, va := va, svc := true
      units := (List.range n).map fun i =>
        let u := (us[i]?).getD (⟨0, 0, 0, 0⟩, 0)
        { place := u.1.line, acts := [.rd (4 * i) u.1.key u.2] } }
  modMe fun x => { x with phase := 30 }
  wait 3

/-- What an array load does first: the claim, the address, the waits. -/
def isoLoad (va : Word) (n al : Nat) (mayLocal : Bool) (done : List Nat → M Unit) : M Unit := do
  let x ← me
  if x.phase = 31 then done x.buf
  else
    raiseIf (x.phase = 99) 0x08 0 va 0
    waitIf (x.phase = 30) 3
    raiseIf (va.toNat % al ≠ 0) 0x04 0 va 0
    let ps ← isoPlaces va n mayLocal
    checkWatch 1 va n
    waitPasses
    waitIf (!x.storesDone) 3
    let _ ← forEach (fun (p : Target × Nat) => orderGate p.1.place p.1.ord p.2 true) ps
    isoRead va ps

/-- `ISLDW` (R265). -/
def execIsldw (a : Spec) (f : Form) (s : State) : Host.Outcome State Fault Refusal :=
  issue (.isldw a f) (do
    mustHold
    let va ← src f a
    isoLoad va 4096 128 false fun ls =>
      let row (i : Fin 64) : BitVec 512 := BitVec.ofNat 512 ((ls[i.val / 2]?).getD 0 / 2 ^ (512 * (i.val % 2)))
      modIso fun x => { x with dl := Vector.ofFn row }) s

/-- `ISLDV` (R266). -/
def execIsldv (a : Spec) (f : Form) (s : State) : Host.Outcome State Fault Refusal :=
  issue (.isldv a f) (do
    mustHold
    let va ← src f a
    isoLoad va 64 64 true fun ls => modIso fun x => { x with a := BitVec.ofNat 512 (ls.headD 0) }) s

/-! ## Passes and capture -/

/-- `ISGO` (R267): not ready while passes run, nor within three cycles of a `SETC` of the window or the modes (R257). -/
def execIsgo (a : Spec) (f : Form) (s : State) : Host.Outcome State Fault Refusal :=
  issue (.isgo a f) (do
    mustHold
    let v ← src f a
    raiseIf (!windowOk v) 0x02 5 0 0
    waitPasses
    let s ← get
    charge (2 * v.toNat)
    modIso fun x =>
      { x with pleft := v.toNat, pdone := 0, gwin := x.win, gmode := x.mode, nextPass := s.cyc + passCycles x.win }) s

/-- The ranked outputs (R268): those that rose, in ascending time and index, as times 256 plus index. -/
def Iso.ranks (x : Iso) : List Nat :=
  ((List.range 64).filterMap fun j => if at8 x.o j = 255 then none else some (at8 x.o j * 256 + j)).foldl
    (fun l v => insertNat v l) []

/-- The bytes that `ISCAP` writes (R268). -/
def Iso.capture (x : Iso) (k : Nat) : List Byte :=
  if k = 0 then leBytes 64 x.o.toNat
  else (List.range k).flatMap fun i => leBytes 2 ((x.ranks[i]?).getD 0xFFFF)

/-- `ISCAP` (R268). Its phases: 22 it waits for passes, 23 its engine transfer waits for the port, 24 the outputs are written. -/
def execIscap (a b : Spec) (f : Form) (s : State) : Host.Outcome State Fault Refusal :=
  issue (.iscap a b f) (do
    mustHold
    let x ← me
    if x.phase ≠ 24 then
      waitIf (x.phase = 23) 3
      let va ← src f a
      let k ← src f b
      let n := if k = 0 then 64 else 2 * k.toNat
      raiseIf (decide (64 < k.toNat)) 0x02 5 0 0
      raiseIf (va.toNat % 128 ≠ 0) 0x04 0 va 0
      raiseIf (decide (0x40000 < va.toNat + n)) 0x15 0 va 0
      raiseIf (decide ((← localBound) < va.toNat + n)) 0x06 3 va 0
      checkWatch 2 va n
      let s ← get
      let p := localPlace (slotCore s.cur) va.toNat
      orderGate p s.windowOrd n true
      tileGate p n
      let since := if x.phase = 22 then x.buf.headD s.cyc else s.cyc
      let iso ← myIso
      if iso.pleft ≠ 0 then
        modMe fun x => { x with phase := 22, buf := [since] }
        wait 3
      addAccess
        { id := 0, issued := max (since + 1) (iso.lastEnd + 1) + (if k = 0 then 0 else 2), fin := .hold, va := va, svc := true
          ord := s.windowOrd
          units := [{ place := p.line, acts := [.wr p.key n (leNat (iso.capture k.toNat))] }] }
      modMe fun x => { x with phase := 23 }
      wait 3) s

end Sys2Proof.Machine
end

