-- ==== Sys2Proof/Machine/Wheels.lean ====
section
/-! DEFINITION. The wheels rewritten and swapped (R84 to R86), banks retired and lost (R87 to R89), and the steps that serve
turns: accesses, waits, commits and passes (R81, R96 to R100), with scrubbing and errors (R92, R329). -/

namespace Sys2Proof.Machine

/-! ## Rewriting -/

/-- Entry `e` of a table with the eight IDs of a value in part `k` (R84). -/
def setEntry (t : List (List Nat)) (e k : Nat) (v : Word) : List (List Nat) :=
  let row := (t[e]?).getD []
  let new := (List.range row.length).map fun i =>
    if i / 8 = k then (v.extractLsb' (5 * (i % 8)) 5).toNat else (row[i]?).getD 31
  t.set e new

/-- Whether an operand pair of `WHLSET` is one that it allows (R84). -/
def whlsetOk (a b : Word) : Bool :=
  let outer := a.getLsbD 8
  a.extractLsb' 10 54 = 0 &&
    if a.getLsbD 9 then
      a.extractLsb' 0 8 = 0 && 1 ≤ (b.extractLsb' 0 7).toNat && (b.extractLsb' 0 7).toNat ≤ 64
        && b.extractLsb' 7 9 = 0 && b.extractLsb' 28 36 = 0 && (outer || b.extractLsb' 16 12 = 0)
    else b.extractLsb' 40 24 = 0 && (outer || !a.getLsbD 7)

/-- The shadow table after `WHLSET` (R84). -/
def Wheel.write (w : Wheel) (a b : Word) : Wheel :=
  if a.getLsbD 9 then { w with slen := (b.extractLsb' 0 7).toNat, sdwell := (b.extractLsb' 16 12).toNat + 1 }
  else { w with shadow := setEntry w.shadow (a.extractLsb' 0 6).toNat (a.extractLsb' 6 2).toNat b }

/-- Whether a shadow table may become active (R85). -/
def Wheel.shadowOk (w : Wheel) (outer : Bool) : Bool :=
  (w.shadow.take w.slen).all fun row =>
    if outer then (List.range 32).all fun g => row.contains g
    else
      let ids := row.filter (· ≠ 31)
      row.all (fun k => k ≤ 17 || k = 31) && ids.eraseDups.length = ids.length

/-- The wheel that an operand names: the own cluster's inner wheel, or the own die's outer wheel. -/
def myWheel (outer : Bool) : M Wheel := do
  if outer then return (← myDie).wheel else return (← myClu).wheel

def modWheel (outer : Bool) (g : Wheel → Wheel) : M Unit :=
  if outer then modDie fun d => { d with wheel := g d.wheel } else modClu fun c => { c with wheel := g c.wheel }

/-- `WHLSET` (R84): waits while a swap is pending on the wheel. -/
def execWhlset (a b : Spec) (f : Form) (s : State) : Host.Outcome State Fault Refusal :=
  issue (.whlset a b f) (do
    let x ← src f a
    let v ← src f b
    raiseIf (!whlsetOk x v) 0x02 5 0 0
    let outer := x.getLsbD 8
    waitIf (← myWheel outer).armed 3
    modWheel outer fun w => w.write x v) s

/-- `WHLSW` (R85): the swap is armed, and the instruction completes when it takes effect. -/
def execWhlsw (a : Spec) (f : Form) (s : State) : Host.Outcome State Fault Refusal :=
  issue (.whlsw a f) (do
    let x ← me
    let v ← src f a
    let outer := v.getLsbD 0
    let w ← myWheel outer
    if x.phase = 1 then waitIf (decide (w.base ≤ x.buf.headD 0)) 3
    else
      raiseIf (v.extractLsb' 1 63 ≠ 0) 0x02 5 0 0
      waitIf w.armed 3
      raiseIf (!w.shadowOk outer) 0x02 5 0 0
      let c := (← get).cyc
      modWheel outer fun w => { w with armed := true }
      modMe fun x => { x with phase := 1, buf := [c] }
      wait 3) s

/-- Whether a cycle meets the boundary of a wheel (R85). -/
def Wheel.boundary (w : Wheel) (n : Nat) : Bool := (n - w.base) % w.dwell = 0 && w.step n = 0

/-- The shadow becomes active (R85). -/
def Wheel.swap (w : Wheel) (n : Nat) : Wheel :=
  { w with table := w.shadow, len := w.slen, dwell := w.sdwell, base := n, armed := false }

/-- A `WTURN` that waits at a swap ends at the first turn under the new table (R86), and where that table gives it none as it would
have ended (log entry 63). -/
def State.rewturn (s : State) (n : Nat) : State :=
  match (s.slot n).wturn with
  | none => s
  | some (p, m) =>
    let core := slotCore n
    let clu := coreClu core
    let d := dividerOf (s.core core).clkCur
    if m ≤ s.cyc || (s.slot n).notBefore ≠ m then s
    else
      match s.nextTurn clu (requester core) p (s.turnPeriod clu) s.cyc with
      | none => s
      | some k => s.modSlot n fun x => { x with notBefore := d * (k / d), wturn := some (p, d * (k / d)) }

/-- `WHEEL_SWAP` (R85): of a cluster's inner wheel, or of a die's outer wheel. -/
def execWheelSwap (outer : Bool) (unit : Nat) (s : State) : Host.Outcome State Fault Refusal :=
  let w := if outer then (s.die unit).wheel else (s.clu unit).wheel
  if !(w.armed && w.boundary s.cyc) then .next s
  else
    let t := if outer then s.modDie unit fun d => { d with wheel := w.swap s.cyc }
      else s.modClu unit fun c => { c with wheel := w.swap s.cyc }
    let ns := (t.slots.filter fun x => x.2.live
      && (if outer then slotDie x.1 = unit else slotClu x.1 = unit)).map (·.1)
    .next (ns.foldl State.rewturn t)

/-! ## Retirement -/

/-- Whether a retirement of a bank may start (R87): an unused spare, and none in progress. -/
def Retire.free (r : Retire) : Bool := r.spare && !(r.phase = 1 || r.phase = 2)

/-- A retirement starts (R88). -/
def Retire.start (r : Retire) (group bank : Nat) : Retire :=
  { r with phase := 1, bank := bank, group := group, done := 0, spare := false }

/-- The retirement record of a store: of a cluster, or of a group of a die's common store. -/
def State.retireOf (s : State) (common : Bool) (unit group : Nat) : Retire :=
  if common then SMap.get {} (s.die unit).retire group else (s.clu unit).retire

def State.modRetire (s : State) (common : Bool) (unit group : Nat) (g : Retire → Retire) : State :=
  if common then
    s.modDie unit fun d => { d with retire := SMap.set d.retire group (g (SMap.get {} d.retire group)) }
  else s.modClu unit fun c => { c with retire := g c.retire }

/-- Starts a retirement, and notes the group that `RET_GS` shows (R294). -/
def State.startRetire (s : State) (common : Bool) (unit group bank : Nat) : State :=
  let s := s.modRetire common unit group fun r => r.start group bank
  if common then s.modDie unit fun d => { d with retGroup := group } else s

/-- `BANKRET` (R87). -/
def execBankret (a : Spec) (f : Form) (s : State) : Host.Outcome State Fault Refusal :=
  issue (.bankret a f) (do
    let v ← src f a
    let common := v.getLsbD 15
    let group := (v.extractLsb' 4 5).toNat
    let s ← get
    let unit := if common then slotDie s.cur else slotClu s.cur
    raiseIf (v.extractLsb' 16 48 ≠ 0 || v.extractLsb' 9 6 ≠ 0 || (!common && group ≠ 0)
      || !(s.retireOf common unit group).free) 0x02 5 0 0
    set (s.startRetire common unit group (v.extractLsb' 0 4).toNat)) s

/-- Lines or half-lines of a bank that a retirement copies (R88). -/
def retireLines (common : Bool) : Nat := if common then 2048 else 512

/-- `RETIREMENT_SWAP` (R88): a common store's `unit` is its die times 32 plus the group. -/
def execRetirementSwap (common : Bool) (unit : Nat) (s : State) : Host.Outcome State Fault Refusal :=
  let u := if common then unit / 32 else unit
  let w := if common then (s.die u).wheel else (s.clu u).wheel
  let r := s.retireOf common u (unit % 32)
  if r.phase = 1 && retireLines common ≤ r.done && w.boundary s.cyc then
    .next (s.modRetire common u (unit % 32) fun r => { r with phase := 2, swapEnd := s.cyc + w.revolution })
  else .next s

/-- `RETIREMENT_DONE` (R88). -/
def execRetirementDone (common : Bool) (unit : Nat) (s : State) : Host.Outcome State Fault Refusal :=
  let u := if common then unit / 32 else unit
  .next (s.modRetire common u (unit % 32) fun r =>
    if r.phase = 2 && decide (r.swapEnd ≤ s.cyc) then { r with phase := 3 } else r)

/-- `SCRUB` (R88, R329): at a service-port turn, one line of a retiring bank is copied to its spare; `bank` is 0 to 15 of the
cluster store, or 16 to 31 of the group of the common store that the turn reaches. A background scrub changes nothing. -/
def execScrub (clu bank : Nat) (s : State) : Host.Outcome State Fault Refusal :=
  let die := cluDie clu
  let common := decide (16 ≤ bank)
  let g := (s.die die).wheel.holds (cluIdx clu) s.cyc
  .next (s.modRetire common (if common then die else clu) g fun r =>
    if r.phase = 1 && r.bank = bank % 16 then { r with done := min (retireLines common) (r.done + 1) } else r)

/-- The management core is told of the loss of a bank (R89): its code. -/
def lossCode : Nat := 0x101

/-- `BANK_LOSS` (R89, R331): with an unused spare the bank is retired onto it; otherwise the store is degraded. -/
def execBankLoss (common : Bool) (unit group bank : Nat) (s : State) : Host.Outcome State Fault Refusal :=
  if (s.retireOf common unit group).free then .next (s.startRetire common unit group bank)
  else
    let b : BitVec 16 := 1#16 <<< bank
    let s := if common then
        s.modDie unit fun d => { d with absent := SMap.set d.absent group (SMap.get 0 d.absent group ||| b) }
      else s.modClu unit fun c => { c with absent := c.absent ||| b }
    .next (s.tellMgmt lossCode (if common then unit * 32 + group else unit) bank {})

/-- `ERROR_THRESHOLD` (R329, R331): 64 corrected errors. Kind 0 a cluster-store bank, 1 a common-store bank, which are retired
where a spare is left; 2 a DRAM channel, which moves to one of its die's four spares, or is lost. -/
def execErrorThreshold (kind unit group bank : Nat) (s : State) : Host.Outcome State Fault Refusal :=
  if kind = 2 then
    let die := unit / 128
    let s := (List.range 64).foldl (fun s _ => s.tel (chanClu unit) 3) s
    if (s.die die).spareChans < 4 then .next (s.modDie die fun d => { d with spareChans := d.spareChans + 1 })
    else .next ((s.modDie die fun d => { d with failed := insertNat unit d.failed }).tellMgmt 0x102 (chanClu unit) unit {})
  else
    let common := kind = 1
    let s := (List.range 64).foldl (fun s _ => s.tel (if common then unit * 32 + group else unit) 1) s
    if (s.retireOf common unit group).free then .next (s.startRetire common unit group bank)
    else .next (s.tellMgmt lossCode (if common then unit * 32 + group else unit) bank {})

/-- `UNCORRECTABLE_ERROR` (R92): the unit that holds the byte at a memory address is poisoned and counted (R330). -/
def execUncorrectableError (key : Nat) (s : State) : Host.Outcome State Fault Refusal :=
  let p := Place.ofKey key
  let clu := match p.kind with
    | 1 => coreClu p.unit
    | 2 => p.unit
    | 3 => p.unit * 32 + p.group
    | _ => chanClu p.unit
  .next ((s.poisonAt p).tel clu (if p.kind = 4 then 4 else 2))

/-! ## Turns -/

/-- `TURN_SERVICE` (R81): one unit of a slot's access at its turn, or held where the turn is missing (R88); `acc` is four times the
access's number plus the kind of service. -/
def execTurnService (slot acc : Nat) (s : State) : Host.Outcome State Fault Refusal :=
  match (s.slot slot).acc.find? (·.id = acc / 4) with
  | none => .next s
  | some a =>
    match s.servable slot a (acc % 4) with
    | none => .next s
    | some u =>
      if u.place.kind ≠ 1 && s.missing (slotClu slot) u.place then .next (s.holdUnit slot a.id u)
      else .next (s.serveUnit slot a.id u s.cyc)

/-- `WAITW_REREAD` (R100): the waiting instruction's word is read again, at the port or at a turn that is free. -/
def execWaitwReread (slot : Nat) (s : State) : Host.Outcome State Fault Refusal :=
  match (s.slot slot).acc.find? (·.again) with
  | none => .next s
  | some a =>
    match a.units.head? with
    | none => .next s
    | some u =>
      if u.place.kind = 1 then .next ((s.claimPort (slotCore slot)).serveUnit slot a.id u s.cyc)
      else if (s.servable slot a (u.place.kind - 1)).isNone then .next s
      else if s.missing (slotClu slot) u.place then .next (s.holdUnit slot a.id u)
      else .next (s.serveUnit slot a.id u s.cyc)

/-! ## Commits and passes -/

/-- Whether a commit is held (R97, R98): a pass on its row holds every commit, or has seen fifteen. -/
def Cluster.commitHeld (c : Cluster) (row : Nat) : Bool :=
  c.passes.any fun p => p.row = row && (p.holds || (p.started && decide (15 ≤ p.since)))

/-- The commit that the stripe controller applies in a cycle (R97): the first in order of requester. -/
def Cluster.nextCommit (c : Cluster) (cyc : Nat) : Option Commit :=
  let ready := c.commits.filter fun m => decide (m.ready ≤ cyc) && !c.commitHeld m.row
  match ready with
  | [] => none
  | m :: ms => some (ms.foldl (fun b x => if x.slot < b.slot then x else b) m)

/-- `STRIPE_COMMIT` (R96, R97): every masked line of the row in one cycle, and the row's counter. -/
def execStripeCommit (slot : Nat) (s : State) : Host.Outcome State Fault Refusal :=
  let clu := slotClu slot
  match (s.clu clu).commits.find? fun m => m.slot = slot with
  | none => .next s
  | some m =>
    if s.cyc < m.ready || (s.clu clu).commitHeld m.row then .next s
    else
      let row := Place.ofKey m.row
      let s := m.lines.foldl (fun s l => s.store (row.add (128 * l.1)) l.2 128) s
      let s := s.modClu clu fun c =>
        { c with
            commits := c.commits.erase m
            commitCount := SMap.set c.commitCount m.row ((c.counter m.row + 1) % 16)
            passes := c.passes.map fun p => if p.row = m.row && p.started then { p with since := p.since + 1 } else p }
      .next (s.modSlot slot fun x => { x with phase := 2 })

/-- The line of bank `b` that a pass has read, as a number. -/
def passLine (got : SMap Nat) (b : Nat) : Nat :=
  (List.range 16).foldr (fun i v => v * 2 ^ 64 + SMap.get 0 got (4 * (16 * b + i)) % 2 ^ 64) 0

/-- A `BLD` whose pass has succeeded (R98): its lines go to the local store from the block buffer. -/
def State.finishBld (s : State) (n : Nat) (a : Access) (m dst : Nat) : State :=
  let lines := (maskBanks m).map fun b => (b, dst + 128 * b, passLine a.got b)
  let s := s.modCore (slotCore n) fun c => { c with blocks := c.blocks ++ [⟨n, true, 0, lines⟩] }
  (s.modClu (slotClu n) fun c => { c with passes := c.passes.filter fun p => p.slot ≠ n }).modSlot n fun x =>
    { x with acc := x.acc.filter fun b => b.id ≠ a.id }

/-- One local-store cycle of a core's block buffer (R78, R96, R98): two lines of the first transfer, where write-back and refill
leave the port free. A `BLD` whose last line is written is complete. -/
def State.blockCycle (s : State) (core : Nat) : State :=
  if (s.core core).portFirst s.cyc then s
  else
    match (s.core core).blocks with
    | [] => s
    | r :: rs =>
      let now := r.lines.take 2
      let left := r.lines.drop 2
      let s := s.modCore core fun c =>
        { c with portClaim := s.cyc + 1, blocks := if left.isEmpty then rs else { r with lines := left } :: rs }
      if r.load then
        let s := now.foldl (fun s l => s.store (localPlace core l.2.1) l.2.2 128) s
        if left.isEmpty then s.modSlot r.slot fun x => { x with phase := 32 } else s
      else
        let line (l : Nat × Nat × Nat) : Nat := s.readMem (localPlace core l.2.1).key 128
        s.modSlot r.slot fun x => { x with acc := x.acc.map fun a =>
          if a.id = r.acc then { a with got := now.foldl (fun g l => SMap.set g l.1 (line l)) a.got } else a }

/-- `BLD_PASS` (R98): a pass that has read its last line succeeds or fails on the row's counter, and the next one starts at
an inner step 0. -/
def State.bldPass (s : State) (n : Nat) : State :=
  let clu := slotClu n
  let next (s : State) : State := if (s.clu clu).wheel.step s.cyc = 0 then s.startPass n s.cyc else s
  match (s.slot n).acc.find? fun a => match a.fin with | .bld _ _ _ _ => true | _ => false with
  | none => next s
  | some a =>
    match a.fin, a.last with
    | .bld _ m dst pass, some v =>
      if a.poison.isSome then
        -- the instruction is considered afresh, and finds the poison at its checks (R95)
        (s.modClu clu fun c => { c with passes := c.passes.filter fun p => p.slot ≠ n }).modSlot n fun x =>
          { x with phase := 0, buf := [], acc := x.acc.filter fun b => b.id ≠ a.id }
      else if a.first = some v || (maskBanks m).length = 1 then s.finishBld n a m dst
      else
        next ((s.event clu 7).modSlot n fun x =>
          { x with buf := (pass + 1) :: x.buf.drop 1, acc := x.acc.filter fun b => b.id ≠ a.id })
    | _, _ => s

def execBldPass (slot : Nat) (s : State) : Host.Outcome State Fault Refusal := .next (s.bldPass slot)

end Sys2Proof.Machine
end

