-- ==== Sys2Proof/Machine/System.lean ====
section
/-! DEFINITION. Control registers (R42, R75, R133, R134, R183, R224, R240, R247, R257, R259, R274 to R276, R294 to R297, R302,
R307, R318) and the system instructions of major 0x21 but for the wheels' (R273, R281, R282, R293). -/

namespace Sys2Proof.Machine

/-! ## Reading -/

/-- A Boolean as a bit of a register. -/
def bitAt (b : Bool) (n : Nat) : Nat := if b then 2 ^ n else 0

/-- `SLOT` (R224). -/
def slotWord (n : Nat) (x : Slot) : Word :=
  BitVec.ofNat 64 (x.reason % 256 * 65536 + bitAt (isMemCore (slotCore n)) 8 + x.cls * 16 + slotIdx n)

/-- `CP_WP` (R183): of the transfer while the channel has it, and as it ended from then on. -/
def State.copyWp (s : State) (n : Nat) : Word :=
  let x := s.slot n
  match x.lastCopy with
  | none => 0
  | some q =>
    match (s.clu (slotClu n)).chans.toList.findSome? fun c => c.queue.find? fun t => !t.kv && t.seq = q with
    | some t => BitVec.ofNat 64 t.bytes
    | none => x.copyWp

/-- The eight IDs of part `k` of an entry, as B of `WHLSET` (R84, R294). -/
def entryWord (t : List (List Nat)) (e k : Nat) : Nat :=
  let row := (t[e]?).getD []
  (List.range 8).foldl (fun v j => v + (row[8 * k + j]?).getD 0 % 32 * 32 ^ j) 0

/-- `WHL_DATA` (R294). -/
def wheelData (w : Wheel) (sel : Word) : Word :=
  let sh := sel.getLsbD 10
  let outer := sel.getLsbD 8
  if sel.getLsbD 9 then
    BitVec.ofNat 64 ((if sh then w.slen else w.len) + (if outer then ((if sh then w.sdwell else w.dwell) - 1) * 65536 else 0))
  else
    BitVec.ofNat 64 (entryWord (if sh then w.shadow else w.table) (sel.extractLsb' 0 6).toNat (sel.extractLsb' 6 2).toNat)

/-- `RET_CS` and `RET_GS` (R294), but for the group. -/
def Retire.word (r : Retire) : Nat := r.done * 65536 + r.phase * 256 + bitAt r.spare 4 + r.bank % 16

/-- `CS_SIZE` and `GS_SIZE` (R294): the KiB of one bank are lost with each absent index. -/
def sizeWord (kib bank : Nat) (r : Retire) (absent : BitVec 16) : Word :=
  let lost := ((List.range 16).filter absent.getLsbD).length
  BitVec.ofNat 64 ((kib - bank * lost) * 2 ^ 32 + bitAt r.spare 16 + absent.toNat)

/-- An entry of the race ring (R213). -/
def Race.word (r : Race) : BitVec 128 :=
  BitVec.ofNat 128 (r.cycle % 2 ^ 32 * 2 ^ 96 + r.src % 2 ^ 22 * 2 ^ 74 + r.prev % 2 ^ 22 * 2 ^ 52 + r.offset % 2 ^ 24 * 2 ^ 28
    + bitAt r.common 27 + 1)

/-- The default weights of the charge classes (R327). -/
def chargeWeight (i : Nat) : Nat := ([1, 1, 2, 3, 4, 6, 3, 40, 36, 8, 4, 1, 2][i]?).getD 0

/-- `DATUM` of a logical core (R297). -/
def datumWord (c : Cluster) (i : Nat) : Word :=
  let p := (c.phys[i]?).getD 0
  BitVec.ofNat 64 ((c.temp[p]?).getD 0 % 256 * 65536 + bitAt (c.down.getLsbD p) 8 + p)

/-- The identity registers, `CYC` and `TIME` (R224, R274, R319). -/
def State.readId (s : State) (n reg : Nat) : Nat :=
  let x := s.slot n
  let core := slotCore n
  match reg with
  | 0 => s.cyc
  | 1 => s.time
  | 2 => (slotWord n x).toNat
  | 3 => coreIdx core % 16
  | 4 => cluIdx (coreClu core)
  | 5 => slotDie n
  | 6 => s.device % 512
  | 7 => x.region.toNat
  | _ => x.depth

/-- The trap registers (R276). -/
def Slot.readTrap (x : Slot) (reg : Nat) : Word :=
  match reg with
  | 0x100 => x.tstat
  | 0x101 => x.trap.tepc
  | 0x102 => x.trap.tepw.setWidth 64
  | 0x103 => x.trap.tewp
  | 0x104 => x.trap.trec0
  | 0x105 => x.trap.trec1
  | 0x106 => x.trap.trec2
  | _ => x.trap.trec3

/-- Registers 0x110 to 0x159 (R275), of a cluster, its die or a slot. -/
def State.readSys (s : State) (n reg : Nat) : Word :=
  let x := s.slot n
  let c := s.clu (slotClu n)
  let d := s.die (slotDie n)
  match reg with
  | 0x110 => (s.core (slotCore n)).twsbase
  | 0x120 => c.trapbase
  | 0x130 => BitVec.ofNat 64 (c.wheel.slen * 65536 + bitAt c.wheel.armed 8 + c.wheel.len)
  | 0x131 => BitVec.ofNat 64 ((d.wheel.dwell - 1) * 2 ^ 32 + d.wheel.slen * 65536 + bitAt d.wheel.armed 8 + d.wheel.len)
  | 0x132 => c.whlSel
  | 0x133 => wheelData (if c.whlSel.getLsbD 8 then d.wheel else c.wheel) c.whlSel
  | 0x134 => BitVec.ofNat 64 c.wheel.base
  | 0x135 => BitVec.ofNat 64 d.wheel.base
  | 0x138 => BitVec.ofNat 64 c.retire.word
  | 0x139 => BitVec.ofNat 64 ((SMap.get {} d.retire d.retGroup).word + d.retGroup * 2048)
  | 0x13A => sizeWord 1024 64 c.retire c.absent
  | 0x13B => c.gsSel
  | 0x13C => sizeWord 2048 128 (SMap.get {} d.retire c.gsSel.toNat) (SMap.get 0 d.absent c.gsSel.toNat)
  | 0x140 => c.raceIdx
  | 0x141 => match (c.race[c.raceIdx.toNat]?).getD none with
    | some r => r.word.extractLsb' 0 64
    | none => 0
  | 0x142 => match (c.race[c.raceIdx.toNat]?).getD none with
    | some r => r.word.extractLsb' 64 64
    | none => 0
  | 0x148 => c.bindIdx
  | 0x149 => (c.binds[c.bindIdx.toNat]?).getD 0
  | 0x150 => c.datumIdx
  | 0x151 => datumWord c c.datumIdx.toNat
  | 0x152 => BitVec.ofNat 64 c.thermlim
  | 0x153 => BitVec.ofNat 64 (c.thermcnt % 2 ^ 32)
  | 0x158 => x.capIn
  | 0x159 => x.capTgt
  | _ => (s.privt[reg - 0x128]?).getD 0

/-- Registers 0x180 to 0x1A7 but for the selected ones (R302). -/
def State.readDbg (s : State) (n reg : Nat) : Word :=
  let x := s.slot n
  let c := s.clu (slotClu n)
  let d := s.die (slotDie n)
  match reg with
  | 0x180 => x.debsel
  | 0x184 => x.dbgAddr
  | 0x188 => c.pmsel
  | 0x190 => BitVec.ofNat 64 (d.flen * 256 + bitAt d.fen 1 + bitAt d.en 0)
  | 0x191 => d.tbase
  | 0x192 => BitVec.ofNat 64 d.twp
  | 0x193 => BitVec.ofNat 64 d.fidx
  | _ =>
    if reg < 0x190 then (c.pmc[reg - 0x189]?).getD 0
    else if reg < 0x1A0 then (d.fconst[reg - 0x198]?).getD 0
    else (d.fcnt[reg - 0x1A0]?).getD 0

/-- Registers 0x1C0 to 0x1CE (R318). -/
def State.readHost (s : State) (n reg : Nat) : Word :=
  let x := s.slot n
  let k := s.core (slotCore n)
  let c := s.clu (slotClu n)
  match reg with
  | 0x1C0 => BitVec.ofNat 64 (s.sliceLen * 2 ^ 32 + s.sliceCnt)
  | 0x1C1 => BitVec.ofNat 64 (bitAt s.fabValid 16 + (List.range 4).foldl (fun v i => v + (s.fabN[i]?).getD 0 % 16 * 16 ^ i) 0)
  | 0x1C2 => BitVec.ofNat 64 (k.clkCur * 256 + k.clkTgt * 16 + k.clkReq)
  | 0x1C3 => BitVec.ofNat 64 (bitAt c.ramp 31 + c.rowTgt * 65536 + c.rowCur)
  | 0x1C4 => BitVec.ofNat 64 c.chgLvl
  | 0x1C5 => BitVec.ofNat 64 (bitAt c.cthr 34 + bitAt c.tthr 33 + bitAt c.boost 32 + c.chgTgt * 65536 + c.chgCur)
  | 0x1C6 => x.chgWidx
  | 0x1C7 => BitVec.ofNat 64 (chargeWeight x.chgWidx.toNat)
  | 0x1C8 => x.telIdx
  | 0x1C9 => BitVec.ofNat 64 (if x.telIdx.toNat < 10 then (c.tel.last[x.telIdx.toNat]?).getD 0 else 0)
  | 0x1CE => BitVec.ofNat 64 (bitAt c.pwrChg 1 + bitAt c.pwrRgate 0)
  | _ => s.fwid.extractLsb' (64 * (reg - 0x1CA)) 64

/-- The bits of a launch register that a read shows (R5, R183): reserved bits read as zero. They stay as they were written for the
check of the launch (R184). -/
def copyMask (reg : Nat) : Word :=
  if reg = 0x026 then 0xFFFF0313 else if reg = 0x028 then 0x3FFFFFF else BitVec.allOnes 64

/-- What a `GETC` of a register reads for a slot (R75), but for the selected registers of R301. -/
def State.readCtl (s : State) (n reg : Nat) : Word :=
  let x := s.slot n
  if reg < 0x010 then BitVec.ofNat 64 (s.readId n reg)
  else if reg < 0x018 then (x.tiles.shape[reg - 0x010]?).getD 0
  else if reg = 0x018 then x.tiles.flags
  else if reg < 0x029 then (x.copy.words[reg - 0x020]?).getD 0 &&& copyMask reg
  else if reg = 0x029 then s.copyWp n
  else if reg < 0x03C then (x.plan.words[reg - 0x030]?).getD 0
  else if reg = 0x040 then BitVec.ofNat 64 (s.clu (slotClu n)).iso.win
  else if reg = 0x041 then (s.clu (slotClu n)).iso.mode
  else if reg = 0x042 then s.isoStat n
  else if reg = 0x060 then BitVec.ofNat 64 x.timer
  else if reg < 0x065 then ((s.core (slotCore n)).watch[reg - 0x061]?).getD 0
  else if reg < 0x108 then x.readTrap reg
  else if reg < 0x180 then s.readSys n reg
  else if reg < 0x1C0 then s.readDbg n reg
  else s.readHost n reg

/-! ## Writing -/

/-- Whether the bits of a value outside a mask are zero. -/
def onlyBits (v mask : Word) : Bool := v &&& ~~~mask = 0

/-- A tile shape (R133). -/
def shapeOk (v : Word) : Bool :=
  onlyBits v 0x1FFFF && (v.extractLsb' 4 6).toNat < 32 && [0, 4, 8, 9, 10].contains (v.extractLsb' 0 4).toNat
    && ((v.extractLsb' 4 6).toNat + 1) * ((v.extractLsb' 10 7).toNat + 1) * tySize (v.extractLsb' 0 4).toNat ≤ 4096

/-- A watchpoint (R307). -/
def watchOk (v : Word) : Bool :=
  v.extractLsb' 0 3 = 0 && (v.extractLsb' 48 2 = 0 || (3 ≤ (v.extractLsb' 50 6).toNat && (v.extractLsb' 50 6).toNat ≤ 47))

/-- `TRC_BASE` (R302): the ring lies aligned in the own die's common-store window. -/
def traceBaseOk (die : Nat) (v : Word) : Bool :=
  let sz := (v.extractLsb' 0 4).toNat
  let base := v.toNat / 4096 * 4096
  onlyBits v 0xFFFFFFFFF00F && sz ≤ 14 && base % (4096 * 2 ^ sz) = 0 && base / 0x4000000 = 32 + die

/-- Whether a value may be written to a register (R276, R294 to R297, R302, R307, R318): no reserved bit is set, and no
stated limit is broken. The limits of the copy registers are those of the launch (R184). -/
def ctlOk (die reg : Nat) (v : Word) : Bool :=
  if reg < 0x018 then shapeOk v
  else if reg = 0x018 then onlyBits v 0xFFFFFFFFFF
  else if reg < 0x029 then true
  else if reg = 0x030 then onlyBits v 7
  else if reg < 0x035 then onlyBits v 0xFFFF01FF
  else if reg < 0x039 then onlyBits v 0x1FF
  else if reg = 0x039 then onlyBits v 0xFF
  else if reg = 0x03B then onlyBits v 0xFFFFFFFFFFFF
  else if reg = 0x040 then windowOk v
  else if reg = 0x060 then onlyBits v 0xFFFFFFFF
  else if 0x061 ≤ reg && reg ≤ 0x064 then watchOk v
  else if reg = 0x100 then onlyBits v 0xFF07
  else if reg = 0x101 then v.extractLsb' 0 2 = 0
  else if reg = 0x102 then onlyBits v 0xFFFFFFFF
  else if reg = 0x103 then onlyBits v 0x3FF00
  else if reg = 0x104 then onlyBits v 0xFF7F0EFF
  else if reg = 0x110 then onlyBits v 0x3F800
  else if reg = 0x120 then onlyBits v 0xFFFFFFFFF800
  else if reg = 0x132 then onlyBits v 0x7FF && (if v.getLsbD 9 then v.extractLsb' 0 8 = 0 else v.getLsbD 8 || !v.getLsbD 7)
  else if reg = 0x13B then onlyBits v 0x1F
  else if reg = 0x140 then onlyBits v 0x3F
  else if reg = 0x143 then v = 0
  else if reg = 0x148 then onlyBits v 0xF
  else if reg = 0x150 then v.toNat ≤ 16
  else if reg = 0x152 then 60 ≤ v.toNat && v.toNat ≤ 110
  else if reg = 0x158 then onlyBits v 0xFFFFFFFFFFFF
  else if reg = 0x159 then onlyBits v 0xFF
  else if reg = 0x180 then onlyBits v 0xFF1F && (v.extractLsb' 8 5).toNat ≤ 19
  else if reg = 0x181 then
    onlyBits v 0xFFFFFFF3F && v.extractLsb' 8 8 ≠ 0 && (v.getLsbD 0).toNat + (v.getLsbD 1).toNat + (v.getLsbD 2).toNat ≤ 1
  else if reg = 0x183 then v.extractLsb' 0 2 = 0
  else if reg = 0x184 then onlyBits v 0x3FFF8
  else if reg = 0x188 then onlyBits v 0x1FFFFF && (v.extractLsb' 16 5).toNat ≤ 19
  else if reg = 0x190 then onlyBits v 0x3F03
  else if reg = 0x191 then traceBaseOk die v
  else if reg = 0x193 then onlyBits v 0x3F
  else if reg = 0x194 then onlyBits v 0xFFFF
  else if reg = 0x1C6 || reg = 0x1C8 then onlyBits v 0xF
  else true

/-- Changes word `i` of the copy registers or of the plan registers. -/
def CopySet.put (c : CopySet) (i : Nat) (v : Word) : CopySet :=
  CopySet.ofWords fun k => (c.words.set i v)[k]?.getD 0
def PlanSet.put (p : PlanSet) (i : Nat) (v : Word) : PlanSet :=
  PlanSet.ofWords fun k => (p.words.set i v)[k]?.getD 0

/-- A write of a register that the thread itself holds takes effect. -/
def Slot.writeCtl (x : Slot) (reg : Nat) (v : Word) : Slot :=
  if reg < 0x018 then { x with tiles := { x.tiles with shape := x.tiles.shape.set! (reg - 0x010) v } }
  else if reg = 0x018 then { x with tiles := { x.tiles with flags := v } }
  else if reg < 0x029 then { x with copy := x.copy.put (reg - 0x020) v }
  else if reg < 0x03C then { x with plan := x.plan.put (reg - 0x030) v }
  else if reg = 0x060 then { x with timer := v.toNat }
  else x

/-- A write of a register held per slot takes effect (R276, R296, R302, R318). -/
def Slot.writeSys (x : Slot) (reg : Nat) (v : Word) : Slot :=
  match reg with
  | 0x100 => { x with trap := { x.trap with wskip := v.getLsbD 1, ovf := false } }
  | 0x101 => { x with trap := { x.trap with tepc := v } }
  | 0x102 => { x with trap := { x.trap with tepw := v.setWidth 32 } }
  | 0x103 => { x with trap := { x.trap with tewp := v } }
  | 0x104 => { x with trap := { x.trap with trec0 := v } }
  | 0x105 => { x with trap := { x.trap with trec1 := v } }
  | 0x106 => { x with trap := { x.trap with trec2 := v } }
  | 0x107 => { x with trap := { x.trap with trec3 := v } }
  | 0x158 => { x with capIn := v }
  | 0x159 => { x with capTgt := v }
  | 0x180 => { x with debsel := v }
  | 0x184 => { x with dbgAddr := v }
  | 0x1C6 => { x with chgWidx := v }
  | 0x1C8 => { x with telIdx := v }
  | _ => x

/-- A write of a register held per cluster takes effect. -/
def Cluster.writeCtl (c : Cluster) (reg : Nat) (v : Word) : Cluster :=
  match reg with
  | 0x120 => { c with trapbase := v }
  | 0x132 => { c with whlSel := v }
  | 0x13B => { c with gsSel := v }
  | 0x140 => { c with raceIdx := v }
  | 0x143 => { c with race := Vector.replicate 64 none }
  | 0x148 => { c with bindIdx := v }
  | 0x150 => { c with datumIdx := v }
  | 0x152 => { c with thermlim := v.toNat }
  | 0x188 => { c with pmsel := v }
  | _ => if 0x189 ≤ reg && reg ≤ 0x18C then { c with pmc := c.pmc.set! (reg - 0x189) v } else c

/-- A write of a register held per die takes effect: setting EN clears `TRC_WP`, and each write of `TRC_FDATA` moves the
index on (R302). -/
def Die.writeCtl (d : Die) (reg : Nat) (v : Word) : Die :=
  match reg with
  | 0x190 =>
    { d with en := v.getLsbD 0, fen := v.getLsbD 1, flen := (v.extractLsb' 8 6).toNat
             twp := if v.getLsbD 0 && !d.en then 0 else d.twp, kept := if v.getLsbD 0 && !d.en then [] else d.kept }
  | 0x191 => { d with tbase := v }
  | 0x193 => { d with fidx := v.toNat }
  | 0x194 => { d with fmem := d.fmem.set! d.fidx (v.setWidth 16), fidx := (d.fidx + 1) % 64 }
  | _ =>
    if 0x198 ≤ reg && reg < 0x1A0 then { d with fconst := d.fconst.set! (reg - 0x198) v }
    else if 0x1A0 ≤ reg && reg < 0x1A8 then { d with fcnt := d.fcnt.set! (reg - 0x1A0) v }
    else d

/-- A `SETC` takes effect (R75): a register of the thread itself only while the thread is in its slot; the window and the
modes of the array unless another thread has claimed it meanwhile. -/
def State.applySetc (s : State) (w : CtlWrite) : State :=
  let n := w.slot
  let same := (s.slot n).live && (s.slot n).cont = w.cont
  let clu := slotClu n
  if w.reg = 0x040 || w.reg = 0x041 then
    s.modClu clu fun c =>
      if c.iso.holder.all fun h => h.2 = w.cont then
        { c with iso := if w.reg = 0x040 then { c.iso with win := w.val.toNat } else { c.iso with mode := w.val } }
      else c
  else if w.reg ≤ 0x060 then (if same then s.modSlot n fun x => x.writeCtl w.reg w.val else s)
  else if w.reg ≤ 0x064 then
    s.modCore (slotCore n) fun c =>
      { c with watch := c.watch.set! (w.reg - 0x061) w.val, watchRegion := c.watchRegion.set! (w.reg - 0x061) w.region }
  else if w.reg = 0x100 then (if same then s.modSlot n fun x => x.writeSys w.reg w.val else s)
  else if w.reg = 0x110 then s.modCore (slotCore n) fun c => { c with twsbase := w.val }
  else
    ((s.modSlot n fun x => x.writeSys w.reg w.val).modClu clu fun c => c.writeCtl w.reg w.val).modDie (cluDie clu) fun d =>
      d.writeCtl w.reg w.val

/-! ## The waits of particular registers -/

/-- Waits until every `TMMA`, `TSCALE` and `TADD` of the slot has completed (R134). -/
def waitFlags : M Unit := do
  let s ← get
  waitIf ((← myCore).munit.any fun u => u.slot = slotIdx s.cur && (u.op = 0 || u.op = 2 || u.op = 3)) 3

/-- What a read of a register waits for, and the claim that it needs (R134, R136, R257). -/
def readGate (reg : Nat) : M Unit := do
  if 0x010 ≤ reg ∧ reg < 0x018 then waitTileR (BitVec.ofNat 6 (reg - 0x010))
  if reg = 0x018 then waitFlags
  if reg = 0x040 ∨ reg = 0x041 then mustHold

/-- The same for a write (R133, R134, R257). -/
def writeGate (reg : Nat) : M Unit := do
  if 0x010 ≤ reg ∧ reg < 0x018 then
    waitTileW (BitVec.ofNat 6 (reg - 0x010))
    waitRes (.tile (BitVec.ofNat 3 (reg - 0x010)))
  if reg = 0x018 then waitFlags
  if reg = 0x040 ∨ reg = 0x041 then waitPasses

/-- Notes a `SETC` of the current thread, which takes effect three cycles later (R75). -/
def queueSetc (reg : Nat) (v : Word) : M Unit := do
  let x ← me
  modify fun s => { s with
    setcs := s.setcs ++ [{ slot := s.cur, cont := x.cont, region := x.region, reg := reg, val := v, at' := s.cyc + 3 }] }

/-! ## The selected registers -/

/-- The core that a `DEBSEL` names on the die of a slot (R302), and its slot. -/
def selCore (n : Nat) (sel : Word) : Nat :=
  (slotDie n * 32 + (sel.extractLsb' 0 5).toNat) * 20 + (sel.extractLsb' 8 5).toNat
def selSlot (n : Nat) (sel : Word) : Nat := selCore n sel * 8 + (sel.extractLsb' 13 3).toNat

/-- An access to a selected register completes 12 cycles after its issue (R301), with the selection and the address as they
stood then. -/
def selected (k : Word → Word → M Unit) : M Unit := do
  let x ← me
  let s ← get
  if x.phase = 50 then
    waitIf (decide (s.cyc < x.buf.headD 0)) 1
    k (BitVec.ofNat 64 ((x.buf[1]?).getD 0)) (BitVec.ofNat 64 ((x.buf[2]?).getD 0))
  else
    modMe fun x => { x with phase := 50, buf := [s.cyc + 12, x.debsel.toNat, x.dbgAddr.toNat] }
    wait 1

/-- `DBG_CTL` and `DBG_STAT` (R302). -/
def Debug.ctl (d : Debug) : Word :=
  BitVec.ofNat 64 (d.tmask.toNat * 65536 + d.dwell * 256 + bitAt d.whalt 5 + bitAt d.xin 4 + bitAt d.swbrk 3)
def Debug.stat (d : Debug) : Word :=
  BitVec.ofNat 64 (d.hcyc % 2 ^ 48 * 65536 + d.hslot % 8 * 512 + d.hcore % 32 * 16 + d.why % 8 * 2 + bitAt d.halted 0)

/-- What a read of a selected register yields. -/
def State.readSelected (s : State) (n reg : Nat) (sel : Word) : Word :=
  let d := (s.clu (coreClu (selCore n sel))).dbg
  match reg with
  | 0x181 => d.ctl
  | 0x182 => d.stat
  | _ => (s.slot (selSlot n sel)).pc

/-- A write of `DBG_CTL` takes effect (R302, R303, R306): its action is the step that follows. -/
def State.writeDbgCtl (s : State) (n : Nat) (sel v : Word) : State :=
  let clu := coreClu (selCore n sel)
  let s := s.modClu clu fun c => { c with dbg := { c.dbg with
    tmask := v.extractLsb' 16 20, dwell := (v.extractLsb' 8 8).toNat, whalt := v.getLsbD 5, xin := v.getLsbD 4
    swbrk := v.getLsbD 3 } }
  let act : List Event :=
    if v.getLsbD 0 then [.halt clu]
    else if v.getLsbD 1 then [.resume clu]
    else if v.getLsbD 2 then [.stepOne clu (coreIdx (selCore n sel)) (slotIdx (selSlot n sel))]
    else []
  { s with agenda := act ++ s.agenda }

/-- A write of `DBG_PC` (R302): the halted thread goes on there. -/
def State.writeDbgPc (s : State) (n : Nat) (sel v : Word) : State :=
  s.modSlot (selSlot n sel) fun x => if x.live then x.goto v x.notBefore else { x with pc := v }

/-! ## Meanings -/

/-- `GETC` (R75). -/
def execGetc (d : Spec) (r : BitVec 12) (f : Form) (s : State) : Host.Outcome State Fault Refusal :=
  issue (.getc d r f) (do
    let reg := ctlNumber r f
    readGate reg
    if 0x181 ≤ reg ∧ reg ≤ 0x183 then
      selected fun sel _ => do
        let s ← get
        dst f d (s.readSelected s.cur reg sel) 3
    else
      let s ← get
      dst f d (s.readCtl s.cur reg) 3) s

/-- `SETC` (R75). -/
def execSetc (a : Spec) (r : BitVec 12) (f : Form) (s : State) : Host.Outcome State Fault Refusal :=
  issue (.setc a r f) (do
    let reg := ctlNumber r f
    if reg = 0x040 ∨ reg = 0x041 then mustHold
    let v ← src f a
    let s ← get
    raiseIf (!ctlOk (slotDie s.cur) reg v) 0x02 5 0 0
    writeGate reg
    if reg = 0x181 then
      selected fun sel _ => modify fun s => s.writeDbgCtl s.cur sel v
    else if reg = 0x183 then
      let sel := if s.me.phase = 50 then BitVec.ofNat 64 ((s.me.buf[1]?).getD 0) else s.me.debsel
      raiseIf (!(s.clu (coreClu (selCore s.cur sel))).dbg.halted) 0x02 5 0 0
      selected fun sel _ => modify fun s => s.writeDbgPc s.cur sel v
    else
      if reg = 0x158 ∨ reg = 0x159 then modMe fun x => { x with capAt := s.cyc }
      queueSetc reg v) s

/-- `RACE_CLR` (R295). -/
def execRaceClr (a : Spec) (f : Form) (s : State) : Host.Outcome State Fault Refusal :=
  issue (.raceClr a f) (do
    let v ← src f a
    raiseIf (v ≠ 0) 0x02 5 0 0
    queueSetc 0x143 v) s

/-- `CAP_OUT` (R296). -/
def execCapOut (d : Spec) (f : Form) (s : State) : Host.Outcome State Fault Refusal :=
  issue (.capOut d f) (do
    let x ← me
    let s ← get
    waitIf (x.capAt ≠ 0 && decide (s.cyc < x.capAt + 8)) 1
    let mac := Config.capMac (Config.deviceSecret s.resets) x.capIn.toNat (x.capTgt.extractLsb' 0 5).toNat
      (x.capTgt.extractLsb' 5 3).toNat
    dst f d (mac ++ x.capIn.extractLsb' 0 48) 3) s

/-- The `DBG_DATA` access that waits for the local-store port of a core, as an engine (R78, R302): its slot. -/
def State.dbgWaits (s : State) (core : Nat) : Option Nat :=
  (s.slots.find? fun t => t.2.live && t.2.phase = 51 && selCore t.1 (BitVec.ofNat 64 (t.2.buf.headD 0)) = core).map (·.1)

/-- The engine transfer of a `DBG_DATA` access (R302): the doubleword of the core's local store is written or read. -/
def State.dbgTransfer (s : State) (core : Nat) : State :=
  match s.dbgWaits core with
  | none => s
  | some n =>
    let g (i : Nat) : Nat := ((s.slot n).buf[i]?).getD 0
    let p := localPlace core (g 1)
    if g 2 = 1 then (s.store p (g 3) 8).modSlot n fun x => { x with phase := 52, buf := [0, s.cyc] }
    else if s.isPoisoned p 8 then s.modSlot n fun x => { x with phase := 53, buf := [g 1] }
    else s.modSlot n fun x => { x with phase := 52, buf := [s.readMem p.key 8, s.cyc] }

/-- `DBG_DATA` (R301, R302): twelve cycles after its issue, an engine transfer at the port of the selected core. Its phases: 50 the
twelve cycles, 51 the transfer waits for the port, 52 it is over, 53 it has met poison. -/
def execDbgData (wr : Bool) (r : Spec) (f : Form) (s : State) : Host.Outcome State Fault Refusal :=
  issue (.dbgData wr r f) (do
    let x ← me
    if x.phase = 52 then
      if !wr then lateDst f r (BitVec.ofNat 64 (x.buf.headD 0)) ((x.buf[1]?).getD 0)
    else
      raiseIf (x.phase = 53) 0x08 0 (BitVec.ofNat 64 (x.buf.headD 0)) 0
      waitIf (x.phase = 51) 3
      let v ← if wr then src f r else pure 0
      if !wr then loadDstCheck r
      selected fun sel a => do
        modMe fun x => { x with phase := 51, buf := [sel.toNat, a.toNat, wr.toNat, v.toNat] }
        wait 3) s

/-- `TRAP` (R281): the next instruction is the one to resume at. -/
def execTrap (a : Spec) (f : Form) (s : State) : Host.Outcome State Fault Refusal :=
  issue (.trap a f) (do
    let v ← src f a
    let n ← nextPc f
    takeOps (.trap a f)
    modify fun s => s.takeTrap s.cur { cause := 0x10, pc := s.me.pc, info := v } n
    quit) s

/-- `ERET` (R282). -/
def execEret (f : Form) (s : State) : Host.Outcome State Fault Refusal :=
  issue (.eret f) (do
    let x ← me
    raiseIf (x.trap.tepc.extractLsb' 0 2 ≠ 0) 0x04 0 x.trap.tepc 0
    let e ← myEff
    let w := x.trap.tewp
    raiseIf (w.extractLsb' 0 8 ≠ 0 || decide (0x40000 < w.toNat + 256) || decide (e.lsbound < w.toNat + 256)) 0x06 3 w 0
    modify fun s => s.leaveTrap s.cur (s.effPriv e)
    quit) s

/-- `DBRK` (R273, R303). -/
def execDbrk (f : Form) (s : State) : Host.Outcome State Fault Refusal :=
  issue (.dbrk f) (do
    let s ← get
    let clu := slotClu s.cur
    if (s.clu clu).dbg.swbrk then
      modify fun s => s.haltEvent clu 2 (coreIdx (slotCore s.cur)) (slotIdx s.cur)
    else raise 0x11 0 0 0) s

/-! ## `TLBINV` -/

/-- Whether core `c` lies in a scope of R39 around a core. -/
def coreInScope (core scope c : Nat) : Bool :=
  match scope with
  | 1 => c = core
  | 2 => coreClu c = coreClu core
  | 3 => cluDie (coreClu c) = cluDie (coreClu core)
  | _ => true

/-- Whether an entry for a root and a page is one that a `TLBINV` drops (R293): kind 0 the page of an address under a root, 1
a root, 2 every entry. -/
def tlbHit (kind root va : Nat) (e : TlbEntry) : Bool :=
  match kind with
  | 0 => e.root = root && (if e.big then e.page / 512 = va / 2 ^ 25 else e.page = va / 65536)
  | 1 => e.root = root
  | _ => true

/-- Whether an access at an address under a root may have been translated by such an entry, or a walk may fill one. -/
def vaHit (kind root va r a : Nat) : Bool :=
  match kind with
  | 0 => r = root && a / 2 ^ 25 = va / 2 ^ 25
  | 1 => r = root
  | _ => true

/-- The root of a slot's region, as a key. -/
def State.slotRoot (s : State) (n : Nat) : Nat := ((s.eff? (s.slot n).rcb).map fun e => rootKey e.troot).getD 0

/-- Numbers of what a `TLBINV` waits for (R293): accesses, owed answers and copy jobs in scope that an entry it drops may have
translated, and the cores in scope that move to a spare, which acknowledge it after the move (R298). -/
def State.tlbUsers (s : State) (core scope kind root va : Nat) : List Nat :=
  let slots := (s.slots.filter fun t => t.2.live && coreInScope core scope (slotCore t.1)).map (·.1)
  let ofSlot (n : Nat) : List Nat :=
    let x := s.slot n
    let r := s.slotRoot n
    let hit (a : Word) : Bool := 2 ^ 32 ≤ a.toNat && vaHit kind root va r a.toNat
    ((x.acc.filter fun a => hit a.va && !(match a.fin with | .waitw _ _ _ _ _ => true | _ => false)).map fun a =>
      4 * (x.cont * 2 ^ 40 + a.id))
      ++ (x.owed.filter fun o => hit o.va && (o.what ≤ 5 || 11 ≤ o.what)).map fun o => 4 * (x.cont * 2 ^ 40 + o.id) + 1
  let moves := s.clus.flatMap fun t => t.2.move.toList.filterMap fun m =>
    if m.begun && coreInScope core scope (t.1 * 20 + m.core) then some (4 * (t.1 * 20 + m.core) + 3) else none
  slots.flatMap ofSlot ++ moves
    ++ (s.clus.filter fun t => coreInScope core scope (t.1 * 20)).flatMap fun t =>
      t.2.chans.toList.flatMap fun c => c.queue.map fun u => 4 * (t.1 * 2 ^ 40 + u.job) + 2

/-- Drops the entries of a `TLBINV` from every TLB in scope, restarts the walks that could fill one, and makes the `WAITW`s
that such an entry may have translated translate again. -/
def State.tlbDrop (s : State) (core scope kind root va : Nat) : State :=
  let inS (c : Nat) : Bool := coreInScope core scope c
  let cluIn (c : Nat) : Bool := if scope = 1 then false else inS (c * 20)
  let fills (c : Nat) (w : Walk) : Bool := (cluIn c || inS w.core) && vaHit kind root va w.root w.va
  let s : State := { s with
    cores := s.cores.map fun t =>
      if inS t.1 then (t.1, { t.2 with tlb := t.2.tlb.filter fun e => !tlbHit kind root va e }) else t
    clus := s.clus.map fun t =>
      (t.1, { t.2 with
        tlb := if cluIn t.1 then t.2.tlb.filter fun e => !tlbHit kind root va e else t.2.tlb
        reads := t.2.reads.filter fun r => r.code || !(t.2.walks.any fun w => fills t.1 w && w.place.any fun p => p.key = r.key)
        walks := t.2.walks.map fun w =>
          if fills t.1 w then { w with level := 3, entry := w.rootEntry, bad := none } else w }) }
  let waits := (s.slots.filter fun t => t.2.live && inS (slotCore t.1) && t.2.phase = 0 && t.2.acc.any fun a =>
    (match a.fin with | .waitw _ _ _ _ _ => true | _ => false) && 2 ^ 32 ≤ a.va.toNat
      && vaHit kind root va (s.slotRoot t.1) a.va.toNat).map (·.1)
  waits.foldl (fun s n => s.leaveWait n) s

/-- `TLBINV` (R293). -/
def execTlbinv (a b : Spec) (f : Form) (s : State) : Host.Outcome State Fault Refusal :=
  issue (.tlbinv a b f) (do
    let va ← src f a
    let v ← src f b
    let kind := (v.extractLsb' 0 2).toNat
    let scope := (v.extractLsb' 2 3).toNat
    raiseIf (v.extractLsb' 5 59 ≠ 0 || kind = 3 || scope = 0 || 4 < scope
      || (kind = 0 && !(decide (2 ^ 32 ≤ va.toNat ∧ va.toNat < 2 ^ 48))) || (kind = 2 && va ≠ 0)) 0x02 5 0 0
    let x ← me
    let root ← if kind = 0 then (do return rootKey (← myEff).troot) else pure (rootKey va)
    let s ← get
    let core := slotCore s.cur
    if x.phase = 60 then
      let now := s.tlbUsers core scope kind root va.toNat
      waitIf (x.buf.any fun u => now.contains u) 3
    else
      waitIf (!x.storesDone) 3
      let users := s.tlbUsers core scope kind root va.toNat
      set (s.tlbDrop core scope kind root va.toNat)
      if !users.isEmpty then
        modMe fun x => { x with phase := 60, buf := users }
        wait 3) s

end Sys2Proof.Machine
end

