-- ==== Sys2Proof/Machine/Debug.lean ====
section
/-! DEFINITION. Waypoint records, the trace core and its filter (R309 to R316), halting, resuming and stepping a cluster (R303 to
R306), and the steps of trap delivery that no instruction raises (R279, R284, R285). -/

namespace Sys2Proof.Machine

/-! ## Records -/

/-- The tag of a record (R310). -/
def traceTag (kind core slot : Nat) : BitVec 16 :=
  BitVec.ofNat 16 (kind * 16384 + cluIdx (coreClu core) * 512 + coreIdx core * 16 + slot % 8 * 2)

/-- A record joins its cluster's queue of 64, or is lost (R310). -/
def State.pushTrace (s : State) (clu : Nat) (r : Word × BitVec 16) : State :=
  s.modClu clu fun c =>
    if c.tq.length < 64 then { c with tq := c.tq ++ [r] } else { c with tlost := c.tlost + 1 }

/-- A core emits a record dated at a cycle (R310), after a time mark where DT would exceed its field. -/
def State.emit (s : State) (core slot kind : Nat) (payload : Nat) (date : Nat) : State :=
  let clu := coreClu core
  let dt := date - (s.core core).wayDate
  let s := s.modCore core fun c => { c with wayDate := date }
  let word (d p : Nat) : Word := BitVec.ofNat 64 (d * 2 ^ 48 + p % 2 ^ 48)
  if dt ≤ 0xFFFF then s.pushTrace clu (word dt payload, traceTag kind core slot)
  else (s.pushTrace clu (word 0xFFFF date, traceTag 2 core slot)).pushTrace clu (word 0 payload, traceTag kind core slot)

/-- The software records of a core that have waited for an earlier state record go out, in their order (R310). -/
def State.flushWay (s : State) (core : Nat) : State :=
  (s.core core).wayHeld.foldl (fun s r => s.emit core r.2.1 1 r.2.2 r.1) (s.modCore core fun c => { c with wayHeld := [] })

/-- Whether a core may still emit a state record of an earlier cycle (R309). -/
def State.wayOpen (s : State) (core : Nat) : Bool :=
  (s.clu (coreClu core)).dbg.tmask.getLsbD (coreIdx core) && (s.core core).waySince.isSome

/-- `WAYPOINT_RECORD` (R309): a core whose state has differed from its last logged one for DWELL cycles emits a state record,
dated at the first of them. -/
def execWaypointRecord (core : Nat) (s : State) : Host.Outcome State Fault Refusal :=
  let c := s.core core
  match c.waySince with
  | none => .next s
  | some n =>
    let pc := if c.wayNew = 0 then 0 else c.wayPc.toNat / 4 % 2 ^ 46
    let s := s.emit core c.waySlot 0 (c.wayNew % 4 * 2 ^ 46 + pc) n
    .next ((s.modCore core fun c => { c with wayState := c.wayNew, waySince := none }).flushWay core)

/-- A software record of a thread (R273): records of one core go out in the order of their dates, so it waits for a state record of an
earlier cycle that may still come (R310). -/
def State.softRecord (s : State) (n payload : Nat) : State :=
  if s.wayOpen (slotCore n) then
    s.modCore (slotCore n) fun c => { c with wayHeld := c.wayHeld ++ [(s.cyc, slotIdx n, payload)] }
  else s.emit (slotCore n) (slotIdx n) 1 payload s.cyc

/-- `TRACEW` (R273): a software record, which never waits. -/
def execTracew (a : Spec) (f : Form) (s : State) : Host.Outcome State Fault Refusal :=
  issue (.tracew a f) (do
    let v ← src f a
    raiseIf (v.extractLsb' 48 16 ≠ 0) 0x02 5 0 0
    modify fun s => s.softRecord s.cur v.toNat) s

/-! ## The trace core -/

/-- An entry of the ring (R311): word, tag, label and four zero bytes. -/
def traceEntry (word : Word) (tag : BitVec 16) (label : BitVec 12) : List Byte :=
  leBytes 8 word.toNat ++ leBytes 2 tag.toNat ++ leBytes 2 label.toNat ++ leBytes 4 0

/-- A kept record waits for the service-port turn at which the trace core writes it (R311). -/
def State.keepRecord (s : State) (die : Nat) (word : Word) (tag : BitVec 16) (label : BitVec 12) : State :=
  s.modDie die fun d => { d with kept := d.kept ++ [traceEntry word tag label] }

/-- The place of the next entry of a die's ring (R311). -/
def State.ringPlace (s : State) (die : Nat) : Place :=
  let d := s.die die
  let size := 4096 * 2 ^ (d.tbase.extractLsb' 0 4).toNat
  comPlace die ((d.tbase.toNat / 4096 * 4096) % 0x4000000 + 16 * (d.twp % (size / 16)))

/-- Whether the trace core of a die wants the service-port turn of its cluster 0 (R311). -/
def State.ringWaits (s : State) (clu : Nat) : Bool :=
  cluIdx clu = 0 && !(s.die (cluDie clu)).kept.isEmpty && s.svcAt clu (s.ringPlace (cluDie clu))

/-- The trace core writes the oldest entry, and `TRC_WP` counts it (R311); at a missing turn it is held (R88). -/
def State.ringWrite (s : State) (die : Nat) : State :=
  match (s.die die).kept with
  | [] => s
  | b :: bs =>
    if s.missing (die * 32) (s.ringPlace die) then s.holdLine (die * 32) (s.ringPlace die)
    else (s.storeBytes (s.ringPlace die) b).modDie die fun d => { d with kept := bs, twp := d.twp + 1 }

/-- The oldest record of a cluster is taken, and an overflow record takes the place that becomes free (R310). -/
def Cluster.popTrace (c : Cluster) (clu : Nat) : Cluster :=
  let q := c.tq.drop 1
  if c.tlost = 0 then { c with tq := q }
  else { c with tq := q ++ [(BitVec.ofNat 64 (c.tlost % 2 ^ 48), traceTag 3 (clu * 20) 0)], tlost := 0 }

/-- `TRACE_RECORD` (R311): the next record of the die's clusters in rotation; without a filter it is kept. -/
def execTraceRecord (die : Nat) (s : State) : Host.Outcome State Fault Refusal :=
  let d := s.die die
  if !d.en || d.run.isSome then .next s
  else
    match (List.range 32).find? fun i => !(s.clu (die * 32 + (d.rot + i) % 32)).tq.isEmpty with
    | none => .next s
    | some i =>
      let k := (d.rot + i) % 32
      let clu := die * 32 + k
      match (s.clu clu).tq with
      | [] => .next s
      | (w, t) :: _ =>
        let s := (s.modClu clu fun c => c.popTrace clu).modDie die fun d => { d with rot := (k + 1) % 32 }
        if d.fen then
          .next (s.modDie die fun d => { d with run := some { word := w, tag := t, f := d.fconst } })
        else .next (s.keepRecord die w t 0)

/-! ## The filter -/

/-- A field of the record that a filter runs on (R313): zero where the number is reserved, which R314 refuses. -/
def FilterRun.field (r : FilterRun) (n : Nat) : Word :=
  let t := r.tag
  match n with
  | 0 => r.word
  | 1 => t.setWidth 64
  | 2 => (t.extractLsb' 14 2).setWidth 64
  | 3 => (t.extractLsb' 9 5).setWidth 64
  | 4 => (t.extractLsb' 4 5).setWidth 64
  | 5 => (t.extractLsb' 1 3).setWidth 64
  | 6 => (r.word.extractLsb' 48 16).setWidth 64
  | 7 => (r.word.extractLsb' 46 2).setWidth 64
  | 8 => if t.extractLsb' 14 2 = 0 then (r.word.extractLsb' 0 46).setWidth 64 <<< 2 else 0
  | 9 => (r.word.extractLsb' 0 48).setWidth 64
  | _ => 0

/-- A filter register. -/
def FilterRun.reg (r : FilterRun) (i : BitVec 3) : Word := (r.f[i.toNat]?).getD 0

/-- One filter instruction: what it makes of the run, none where the record is dropped. An index past FLEN drops it
(R312). -/
def filterStep (g : FilterRun → State → Option FilterRun × State) (s : State) : Host.Outcome State Fault Refusal :=
  match (s.die s.fdie).run with
  | none => .refused .noFilterRun
  | some r =>
    let (x, s) := g r s
    .next (s.modDie s.fdie fun d => { d with run := x.filter fun y => y.idx ≤ d.flen })

/-- Writes a filter register and goes on. -/
def FilterRun.put (r : FilterRun) (d : BitVec 3) (v : Word) : FilterRun :=
  { r with f := r.f.set! d.toNat v, idx := r.idx + 1 }

/-- A filter operation on two registers. -/
def filterOp (d a : BitVec 3) (op : Word → Word → Word) (s : State) : Host.Outcome State Fault Refusal :=
  filterStep (fun r s => (some (r.put d (op (r.reg d) (r.reg a))), s)) s

/-- A filter jump. -/
def filterJump (a b : BitVec 3) (o : BitVec 6) (p : Word → Word → Bool) (s : State) : Host.Outcome State Fault Refusal :=
  filterStep (fun r s => (some { r with idx := r.idx + 1 + (if p (r.reg a) (r.reg b) then o.toNat else 0) }, s)) s

/-- `LDF` (R312, R313). -/
def execLdf (d : BitVec 3) (n : BitVec 5) (s : State) : Host.Outcome State Fault Refusal :=
  filterStep (fun r s => (some (r.put d (r.field n.toNat)), s)) s

/-- `LDI` (R312). -/
def execLdi (d : BitVec 3) (i : BitVec 9) (s : State) : Host.Outcome State Fault Refusal :=
  filterStep (fun r s => (some (r.put d (i.setWidth 64)), s)) s

/-- `ADD` of the filter (R312). -/
def execFilterAdd (d a : BitVec 3) (s : State) : Host.Outcome State Fault Refusal := filterOp d a (· + ·) s
/-- `SUB` of the filter (R312). -/
def execFilterSub (d a : BitVec 3) (s : State) : Host.Outcome State Fault Refusal := filterOp d a (· - ·) s
/-- `AND` of the filter (R312). -/
def execFilterAnd (d a : BitVec 3) (s : State) : Host.Outcome State Fault Refusal := filterOp d a (· &&& ·) s
/-- `OR` of the filter (R312). -/
def execFilterOr (d a : BitVec 3) (s : State) : Host.Outcome State Fault Refusal := filterOp d a (· ||| ·) s

/-- `SHR` of the filter (R312). -/
def execFilterShr (d : BitVec 3) (n : BitVec 6) (s : State) : Host.Outcome State Fault Refusal :=
  filterStep (fun r s => (some (r.put d (r.reg d >>> n.toNat)), s)) s

/-- `JEQ` (R312). -/
def execJeq (a b : BitVec 3) (o : BitVec 6) (s : State) : Host.Outcome State Fault Refusal :=
  filterJump a b o (fun x y => x == y) s
/-- `JNE` (R312). -/
def execJne (a b : BitVec 3) (o : BitVec 6) (s : State) : Host.Outcome State Fault Refusal :=
  filterJump a b o (fun x y => x != y) s
/-- `JLT` (R312). -/
def execJlt (a b : BitVec 3) (o : BitVec 6) (s : State) : Host.Outcome State Fault Refusal :=
  filterJump a b o (fun x y => decide (x.toNat < y.toNat)) s

/-- `CNT` (R312). -/
def execCnt (n : BitVec 3) (s : State) : Host.Outcome State Fault Refusal :=
  filterStep (fun r s =>
    (some { r with idx := r.idx + 1 }, s.modDie s.fdie fun d => { d with fcnt := vmod d.fcnt n.toNat (· + 1) })) s

/-- `KEEP` (R312). -/
def execKeep (s : State) : Host.Outcome State Fault Refusal :=
  filterStep (fun r s => (none, s.keepRecord s.fdie r.word r.tag r.label)) s

/-- `DROP` (R312). -/
def execDrop (s : State) : Host.Outcome State Fault Refusal := filterStep (fun _ s => (none, s)) s

/-- `TRIG` (R303, R314): a halt event 8 cycles later in every cluster of the die with XIN set. -/
def execTrig (k : BitVec 1) (s : State) : Host.Outcome State Fault Refusal :=
  filterStep (fun r s =>
    let die := s.fdie
    let hit := ((List.range 32).map (die * 32 + ·)).filter fun c => (s.clu c).dbg.xin
    let s : State := { s with inputs := s.inputs ++ hit.map fun c => (s.cyc + 8, Event.haltEvent c 4 0 0) }
    (none, if k = 1 then s.keepRecord die r.word r.tag r.label else s)) s

/-- `MARK` (R312). -/
def execMark (l : BitVec 12) (s : State) : Host.Outcome State Fault Refusal :=
  filterStep (fun r s => (some { r with label := l, idx := r.idx + 1 }, s)) s

/-- Whether a filter word is an instruction with every reserved field zero and no reserved field number (R314). -/
def filterOk (w : BitVec 16) : Bool := (decodeFilter w).isSome

/-- `TRC_CTL` (R302, R314): with FEN set, every instruction up to FLEN is checked. -/
def execTrcCtl (a : Spec) (f : Form) (s : State) : Host.Outcome State Fault Refusal :=
  issue (.trcCtl a f) (do
    let v ← src f a
    let d ← myDie
    let n := (v.extractLsb' 8 6).toNat
    raiseIf (!ctlOk 0 0x190 v || (v.getLsbD 1 && !((List.range (n + 1)).all fun i => filterOk ((d.fmem[i]?).getD 0))))
      0x02 5 0 0
    queueSetc 0x190 v) s

/-- `TRC_FDATA` (R302, R314). -/
def execTrcFdata (a : Spec) (f : Form) (s : State) : Host.Outcome State Fault Refusal :=
  issue (.trcFdata a f) (do
    let v ← src f a
    raiseIf ((← myDie).fen || !ctlOk 0 0x194 v) 0x02 5 0 0
    queueSetc 0x194 v) s

/-! ## Halting -/

/-- `HALT` (R303): a request through `DBG_CTL`. -/
def execHalt (clu : Nat) (s : State) : Host.Outcome State Fault Refusal := .next (s.haltEvent clu 1 0 0)

/-- `HALT_EVENT` (R303, R304): from `DBRK` or a watchpoint, from a filter, or from the management core. -/
def execHaltEvent (clu why core slot : Nat) (s : State) : Host.Outcome State Fault Refusal :=
  .next (s.haltEvent clu why core slot)

/-- Whether a core has stopped under a halt event (R304). -/
def Debug.stops (d : Debug) (core cyc : Nat) : Bool :=
  match d.halting with
  | some h => decide (h + (if 16 ≤ core then 5 else 1 + core / 4) ≤ cyc)
  | none => false

/-- Whether a transfer has a line or a stamp under way (R304). -/
def Transfer.moving (t : Transfer) : Bool := !t.sent.isEmpty || !t.asked.isEmpty || (t.stampSent && !t.stampDone)

/-- Whether every core of a cluster has stopped and every channel is frozen (R304). -/
def State.haltDone (s : State) (clu : Nat) : Bool :=
  let c := s.clu clu
  match c.dbg.halting with
  | some h => decide (h + 5 ≤ s.cyc) && c.chans.all fun x => !(x.queue.head?.any Transfer.moving)
  | none => false

/-- Every slot's dirty workspace words are written back, and its cached words are absent (R304). -/
def State.flushCluster (s : State) (clu : Nat) : State :=
  let ns := (s.slots.filter fun t => t.2.live && slotClu t.1 = clu).map (·.1)
  ns.foldl (fun s n => (s.writeBack n).modSlot n fun x => { x with absent := true }) s

/-- `HALTED` (R304). -/
def execHalted (clu : Nat) (s : State) : Host.Outcome State Fault Refusal :=
  if s.haltDone clu then
    .next ((s.flushCluster clu).modClu clu fun c =>
      { c with dbg := { c.dbg with halted := true, halting := none, step := none, resumeAt := none } })
  else .next s

/-- `RESUME` (R306): issue and the copy channels go on two cycles later. -/
def execResume (clu : Nat) (s : State) : Host.Outcome State Fault Refusal :=
  .next (s.modClu clu fun c =>
    if c.dbg.halted && c.dbg.step.isNone then { c with dbg := { c.dbg with resumeAt := some (s.cyc + 2) } } else c)

/-- `STEP` (R306): one slot may issue, from two cycles later, until it has issued one instruction. -/
def execStepOne (clu core slot : Nat) (s : State) : Host.Outcome State Fault Refusal :=
  .next (s.modClu clu fun c =>
    if c.dbg.halted && c.dbg.resumeAt.isNone then
      { c with dbg := { c.dbg with step := some ((clu * 20 + core) * 8 + slot, s.cyc + 2) } }
    else c)

/-- `STEP_DONE` (R306): the cluster is halted again. -/
def execStepDone (clu : Nat) (s : State) : Host.Outcome State Fault Refusal :=
  .next ((s.flushCluster clu).modClu clu fun c =>
    { c with dbg := { c.dbg with halted := true, step := none, why := 5, hcyc := s.cyc % 2 ^ 48, hcore := 0, hslot := 0 } })

/-! ## Reports and escalation -/

/-- `REPORT_TAKEN` (R278, R279): the oldest report enters trap service; a waiting instruction is left. -/
def execReportTaken (slot : Nat) (s : State) : Host.Outcome State Fault Refusal :=
  match (s.slot slot).reports with
  | [] => .next s
  | t :: ts =>
    let s := s.leaveWait slot
    let s := s.modSlot slot fun x => { x with reports := ts }
    .next (s.takeTrap slot t (s.slot slot).pc)

/-- Whether a thread that escalates has departed and may write its record (R285): the frame is the one it holds, or a free one
of its region on the core. -/
def State.escalFrame (s : State) (n : Nat) : Option (Eff × Nat) :=
  let x := s.slot n
  if x.escal.isNone || !s.departed n || x.restore.isSome then none
  else
    match s.eff? x.rcb with
    | none => none
    | some e =>
      match (if x.keepsFrame x.frame then x.frame else none) with
      | some i => some (e, i)
      | none => ((s.core (slotCore n)).freeFrame x.region 0 (e.ns + 1)).map fun i => (e, i)

/-- The record of a thread that escalates (R285): the workspace at `TEWP`, `TEPC` and `TEPW`, REASON 7. -/
def State.escalRecord (s : State) (n : Nat) : Rec :=
  let x := s.slot n
  let word (i : Nat) : Word := BitVec.ofNat 64 (s.readMem (localPlace (slotCore n) (x.trap.tewp.toNat + 8 * i)).key 8)
  { w := Vector.ofFn fun i => word i.val
    pc := x.trap.tepc, pw := x.trap.tepw ||| 0x80000000#32, cls := x.cls, depth := x.depth, prio := x.prio, region := x.region
    reason := 7 }

/-- Aborts the routes that a thread holds, and the opens it waits for, when it leaves its slot (R169). -/
def State.abortRoutes (s : State) (n : Nat) : State :=
  (List.range 8).foldl (fun s q =>
    if (((s.slot n).ports[q]?).getD {}).isOpen then s.streamPacket n q 9 0 false else s)
    ((s.modSlot n fun x => { x with ports := x.ports.map fun p => { p with pend := [] } }).giveUpOpens n)

/-- `ESCALATION` (R284, R285): the thread departs, its record is written to a slot frame, which stays held, and the
fault-domain handler is entered with the record's address. -/
def execEscalation (slot : Nat) (s : State) : Host.Outcome State Fault Refusal :=
  match (s.slot slot).escal, s.escalFrame slot with
  | some t, some (e, i) =>
    let x := s.slot slot
    let core := slotCore slot
    let p := localPlace core (e.frameOff 0 i)
    let s := s.abortRoutes slot
    let s := (s.storeBytes p (s.escalRecord slot).bytes).claimPort core
    let s := s.freeSlot slot
    let s := s.modCore core fun c => { c with frames := c.frames ++ [{ region := x.region, kind := 0, num := i, escal := p.key }] }
    let s := s.faultHandler x.region core p.off t
    let clu := s.clu (coreClu core)
    let received := (clu.queues.toList.flatten ++ clu.handlers).any fun q => q.escRec = p.key
    .next (if received then s
      else s.modCore core fun c => { c with frames := c.frames.map fun f =>
        if f.escal = p.key then { f with mgmt := true } else f })
  | _, _ => .next s

/-- `BIND_RECORD_WRITE` (R234): the management core writes a bind record. -/
def execBindRecordWrite (clu idx : Nat) (val : Word) (s : State) : Host.Outcome State Fault Refusal :=
  .next (s.modClu clu fun c => { c with binds := vmod c.binds idx fun _ => val })

end Sys2Proof.Machine
end

