-- ==== Sys2Proof/Machine/Platform.lean ====
section
/-! DEFINITION. The host, the firmware image, the fabric's training, time, clocks, voltage and charge at interval boundaries, and
thermal moves (R297, R298, R319 to R331). -/

namespace Sys2Proof.Machine

/-! ## The mailbox -/

/-- A mailbox command completes (R321): DONE, its result, and vector 0. -/
def State.mailDone (s : State) (result : Nat) : State :=
  { s with mbox := { s.mbox with busy := false, done := true, result := result }, msix := s.msix ++ [0] }

/-- Which of a number's low bits are set, as bytes of the RESYNC summary (R322). -/
def summaryBits (bs : List Bool) : Nat := bs.foldr (fun b v => b.toNat + 2 * v) 0

/-- Entries of the RESYNC summary for one cluster (R322): bytes 192 to 703. -/
def Cluster.summary (c : Cluster) : Nat :=
  summaryBits [c.down.getLsbD ((c.phys[16]?).getD 16), !c.retire.spare, c.absent ≠ 0, c.retire.phase = 1 || c.retire.phase = 2,
    c.moved]

/-- VALID bits of the bind records (R322). -/
def Cluster.validBinds (c : Cluster) : Nat := summaryBits (c.binds.toList.map fun w => w.getLsbD 16)

/-- Common-store spares used by a die (R322), as its four bits hold them. -/
def Die.sparesUsed (d : Die) : Nat := min 15 ((d.retire.filter fun t => !t.2.spare).length)

/-- The RESYNC summary (R322). -/
def State.summary (s : State) : List Byte :=
  let clus := List.range 256
  let port (p : Nat) : Nat :=
    let rs := (List.range 4).map fun l => p / 8 * 32 + p % 8 * 4 + l
    (rs.filter fun r => !(s.clu r).laneDown).length * 4096 + (s.clu (rs.headD 0)).hopTime % 4096
  let regions := (s.dir.take 64).map fun t =>
    t.1 % 2 ^ 28 + 2 ^ 28 * (clus.filter fun c => (s.clu c).binds.any fun w => w.getLsbD 16 && (w.extractLsb' 36 28).toNat = t.1).length
  leBytes 4 1 ++ leBytes 4 4096 ++ leBytes 8 s.time ++ leBytes 8 s.cyc
    ++ leBytes 2 s.device ++ leBytes 2 (s.readHost 0 0x1C1).toNat ++ leBytes 2 s.bootstat ++ leBytes 2 0
    ++ leBytes 32 s.fwid.toNat
    ++ (List.range 64).flatMap (fun p => leBytes 2 (port p))
    ++ clus.flatMap (fun c => leBytes 2 (s.clu c).summary)
    ++ clus.flatMap (fun c => (s.clu c).queues.toList.flatMap fun q => leBytes 1 q.length)
    ++ (List.range 64).flatMap (fun i => leBytes 8 ((regions[i]?).getD 0))
    ++ clus.flatMap (fun c => leBytes 2 (s.clu c).validBinds)
    ++ (List.range 16).flatMap (fun i => leBytes 8
        (if i < 10 then clus.foldl (fun n c => n + ((s.clu c).tel.live[i]?).getD 0) 0 else 0))
    ++ leBytes 384 0
    ++ (List.range 8).flatMap (fun d => leBytes 8
        ((s.die d).sparesUsed + (s.die d).spareChans * 256 + (s.die d).failed.length % 16 * 4096))
    ++ leBytes 768 0

/-- `RESYNC` (R321, R322): result 3 for an address that is not 4 KiB aligned. -/
def execResync (s : State) : Host.Outcome State Fault Refusal :=
  if s.mbox.arg0.toNat % 4096 ≠ 0 then .next (s.mailDone 3)
  else
    let s : State := { s with host := s.host.writeBytes s.mbox.arg0.toNat s.summary
                              clus := s.clus.map fun t => (t.1, { t.2 with moved := false }) }
    .next (s.mailDone 0)

/-- The digest of an image (R328): of bytes 2,436 to the end. -/
def imageDigest (img : List Byte) : BitVec 256 := Config.sha3 (img.drop 2436)

/-- The checks of the boot ROM, in order (R328): 0 for a verified image, 4 for a signature that does not verify, and 3 for a
check before that. -/
def imageCheck (img : List Byte) : Nat :=
  let f (o n : Nat) : Nat := leNat ((img.drop o).take n)
  if f 0 8 ≠ 0x46525A4D38465731 then 3
  else if img.length ≠ 4096 + f 12 4 then 3
  else if f 8 4 < Config.fusedVersion then 3
  else if Config.signatureOk Config.fusedKey (imageDigest img).toNat ((img.drop 16).take 2420) then 0 else 4

/-- A verified image runs (R328). -/
def State.runImage (s : State) (img : List Byte) : State := { s with bootstat := 1, fwid := imageDigest img }

/-- `LOADFW` (R321, R328): a verified image is stored for the next reset; in recovery it is started. -/
def execLoadfw (s : State) : Host.Outcome State Fault Refusal :=
  let img := s.host.bytes s.mbox.arg0.toNat s.mbox.arg1.toNat
  let r := imageCheck img
  if r ≠ 0 then .next (s.mailDone r)
  else
    let s : State := { s with image := some img }
    .next ((if s.bootstat = 2 then s.runImage img else s).mailDone 0)

/-- `BOOT` (R328). -/
def execBoot (s : State) : Host.Outcome State Fault Refusal :=
  let img := s.image.getD Config.storedImage
  if imageCheck img = 0 then .next (s.runImage img) else .next { s with bootstat := 2 }

/-- `LAUNCH` (R321): `ENQ` of a record by the management core, under R231; it waits for an entry. -/
def execLaunch (s : State) : Host.Outcome State Fault Refusal :=
  let clu := s.mbox.arg1.toNat
  match windowPlace 0 s.mbox.arg0.toNat with
  | none => .next (s.mailDone 3)
  | some p =>
    let bs := s.readBytes p.key 256
    let r := Rec.ofBytes bs
    if s.mbox.arg0.toNat % 256 ≠ 0 || 256 ≤ clu || !recOk bs || (s.eff? (s.rcbOf r.region)).isNone || s.isPoisoned p 256 then
      .next (s.mailDone 3)
    else
      match s.enqueue clu { val := { r with reason := 0, home := 0 } } with
      | some s => .next (s.mailDone 0)
      | none => .next { s with inputs := s.inputs ++ [(s.cyc + 1, .launch)] }

/-- `RESET` (R321): everything is as after reset, but for the image that the next boot takes, and what lies outside. -/
def execReset (s : State) : Host.Outcome State Fault Refusal :=
  .next { State.reset with image := s.image, resets := s.resets + 1, host := s.host }

/-- `BAD_OPCODE` (R321). -/
def execBadOpcode (s : State) : Host.Outcome State Fault Refusal := .next (s.mailDone 2)

/-- The command that a bell starts (R321). -/
def mailCommand (cmd : Word) : Event :=
  match (cmd.extractLsb' 0 8).toNat with
  | 1 => .resync
  | 2 => .loadfw
  | 3 => .launch
  | 4 => .reset
  | _ => .badOpcode

/-- A host write to a register of BAR0 (R321). -/
def State.writeBar0 (s : State) (off : Nat) (v : Word) : State :=
  let m := s.mbox
  match off with
  | 0x000 => { s with mbox := { m with cmd := v } }
  | 0x008 => { s with mbox := { m with arg0 := v } }
  | 0x010 => { s with mbox := { m with arg1 := v } }
  | 0x040 =>
    if m.busy then { s with mbox := { m with result := 1 } }
    else
      { s with mbox := { m with busy := true, done := false, tag := m.cmd.extractLsb' 8 8 }
               agenda := mailCommand m.cmd :: s.agenda }
  | _ => s

/-- A register of BAR0 as the host reads it (R321). -/
def State.readBar0 (s : State) (off : Nat) : Word :=
  let m := s.mbox
  match off with
  | 0x000 => m.cmd
  | 0x008 => m.arg0
  | 0x010 => m.arg1
  | 0x048 => BitVec.ofNat 64 (m.result * 65536 + m.tag.toNat * 256 + bitAt m.done 1 + bitAt m.busy 0)
  | 0x100 => BitVec.ofNat 64 s.bootstat
  | _ => 0

/-! ## BAR2 -/

/-- The size of BAR2 (R320): offsets from it on stand for BAR0 in the two steps below (log entry 10). -/
def bar2Size : Nat := 2 ^ 38

/-- The place that a BAR2 offset names (R323): none at or above 192 MiB of a channel. -/
def bar2Place (off : Nat) : Option Place :=
  if off % 2 ^ 28 < 0xC000000 then some (dramPlace (off / 2 ^ 35 % 8 * 128 + off / 2 ^ 28 % 128) (off % 2 ^ 28)) else none

/-- The parts of `n` bytes at a place of a DRAM channel that lie in one line each, which its queue takes one by one (R200): place,
length, and the value of those bytes of a write. -/
def hostLines (p : Place) (n : Nat) (data : List Byte) : List (Place × Nat × Nat) :=
  let o := p.off % 128
  (List.range ((o + n + 127) / 128)).map fun i =>
    let lo := max (128 * i) o - o
    let hi := min (128 * (i + 1)) (o + n) - o
    (p.add lo, hi - lo, leNat ((data.drop lo).take (hi - lo)))

/-- A host access is complete (R323): a read returns its bytes. -/
def State.hostOver (s : State) (o : HostOp) : State :=
  let s : State := { s with hostOps := s.hostOps.filter fun q => q.id ≠ o.id }
  if o.wr then s
  else
    { s with hostRead := match o.reg with
        | some (off, len) => leBytes len (s.readBar0 off).toNat
        | none => o.got }

/-- Whether a host access that has nothing left to do may complete: a read only after every earlier write of its link (R323). -/
def State.hostMay (s : State) (o : HostOp) : Bool :=
  o.lines.isEmpty && (o.wr || !(s.hostOps.any fun q => q.wr && q.link = o.link && q.id < o.id))

/-- The host accesses that complete. -/
def State.hostSettle (s : State) : State :=
  s.hostOps.foldl (fun s o => if s.hostMay o then s.hostOver o else s) s

/-- A host access arrives. -/
def State.hostAsk (s : State) (link : Nat) (wr : Bool) (lines : List (Place × Nat × Nat)) (reg : Option (Nat × Nat)) : State :=
  { s with hostOps := s.hostOps ++ [{ id := s.hostNext, link := link, wr := wr, lines := lines, reg := reg }], hostNext := s.hostNext + 1 }

/-- Whether the next line of a host access may join its channel's queue of 16 (R200): accesses of one link to a channel stay in the
order of their arrival (R323). -/
def State.hostFeeds (s : State) (o : HostOp) (chan : Nat) : Bool :=
  !o.queued && (s.dram chan).queue.length < 16
    && !(s.hostOps.any fun q => q.link = o.link && q.id < o.id && q.lines.any fun l => l.1.unit = chan)

/-- The lines of host accesses that join the queues of their channels in a cycle. -/
def State.feedHost (s : State) : State :=
  s.hostOps.foldl (fun s o =>
    match o.lines with
    | [] => s
    | l :: _ =>
      if s.hostFeeds o l.1.unit then
        let s := s.modDram l.1.unit fun d => { d with queue := d.queue ++ [(hostRequester, o.id)] }
        { s with hostOps := s.hostOps.map fun q => if q.id = o.id then { q with queued := true } else q }
      else s) s

/-- `HOST_READ` (R323): of DRAM at the channel's queue, or of a register. -/
def execHostRead (link off len : Nat) (s : State) : Host.Outcome State Fault Refusal :=
  if bar2Size ≤ off then .next (s.hostAsk link false [] (some (off - bar2Size, len))).hostSettle
  else
    match bar2Place off with
    | none => .next (({ s with hostBad := s.hostBad + 1 } : State).hostAsk link false [] none).hostSettle
    | some p => .next (s.hostAsk link false (hostLines p len []) none)

/-- `HOST_WRITE` (R323): to DRAM at the channel's queue, or to a register at once. -/
def execHostWrite (link off : Nat) (data : List Byte) (s : State) : Host.Outcome State Fault Refusal :=
  if bar2Size ≤ off then .next (s.writeBar0 (off - bar2Size) (BitVec.ofNat 64 (leNat data)))
  else
    match bar2Place off with
    | none => .next { s with hostBad := s.hostBad + 1 }
    | some p => .next (s.hostAsk link true (hostLines p data.length data) none)

/-! ## Fabric and time -/

/-- `LINK_TRAINING` (R324): the sizes of the dimensions, and the hop time of each lane's router. -/
def execLinkTraining (n0 n1 n2 n3 : Nat) (hops : List (Nat × Nat)) (s : State) : Host.Outcome State Fault Refusal :=
  let ns := [n0, n1, n2, n3]
  if ns.all (fun n => 1 ≤ n && n ≤ 16) && n0 * n1 * n2 * n3 ≤ 512 then
    let s : State := { s with fabValid := true, fabN := Vector.ofFn fun i => (ns[i.val]?).getD 1 - 1 }
    .next (hops.foldl (fun s h => s.modClu h.1 fun c => { c with hopTime := h.2 }) s)
  else .next s

/-- `PTP_LOCK` (R319): `TIME` steps forward once, to grandmaster time. -/
def execPtpLock (t : Nat) (s : State) : Host.Outcome State Fault Refusal :=
  if s.locked then .next s else .next { s with locked := true, timeOff := t - s.time }

/-! ## Interval boundaries -/

/-- The least row voltage in mV that a divider code needs (R325). -/
def codeVolt (code : Nat) : Nat := ([850, 720, 660, 620, 580, 550][code]?).getD 550

/-- The voltage that a row's targets need (R325). -/
def rowVolt (l : List Nat) : Nat := (l.map codeVolt).foldl max 550

/-- The temperatures of an interval, and DOWN bits that it clears (R297, R298). -/
def Cluster.heat (c : Cluster) (clu cyc : Nat) : Cluster :=
  let t : Vector Nat 17 := Vector.ofFn fun p => Config.coreTemp clu p.val cyc
  let down := (List.range 17).foldl (fun (d : BitVec 17) p =>
    if (t[p]?).getD 0 + 10 ≤ c.thermlim then d &&& ~~~(1#17 <<< p) else d) c.down
  { c with temp := t, down := down }

/-- The temperature of a logical core. -/
def Cluster.tempOf (c : Cluster) (i : Nat) : Nat := (c.temp[(c.phys[i]?).getD 0]?).getD 0

/-- The core whose role moves to the spare at a boundary (R298): the hottest above the limit, the lowest on a tie. -/
def Cluster.hottest (c : Cluster) : Option Nat :=
  let spare := (c.phys[16]?).getD 16
  let hot := (List.range 16).filter fun i => c.thermlim < c.tempOf i
  if c.down.getLsbD spare || c.thermlim ≤ (c.temp[spare]?).getD 0 || c.move.isSome || c.dbg.still then none
  else
    match hot with
    | [] => none
    | i :: is => some (is.foldl (fun b j => if c.tempOf b < c.tempOf j then j else b) i)

/-- The thermal part of a core's target (R326). -/
def Cluster.thermCode (c : Cluster) (mover : Option Nat) (i : Nat) : Nat :=
  if c.thermlim < c.tempOf i ∧ mover ≠ some i then 5
  else if c.thermlim ≤ c.tempOf i + 5 then 1
  else 0

/-- The current part of every core's target (R326): of the module power over the interval. -/
def powerCode (cyc : Nat) : Nat :=
  let p := Config.modulePower cyc
  if 2520 < p then 3 else if 2400 < p then 1 else 0

/-- The row's voltage moves one step towards its target (R325). -/
def rowStep (cur tgt : Nat) : Nat := if cur < tgt then min tgt (cur + 10) else max tgt (cur - 10)

/-- A row at a boundary (R326): the new targets, and what they make of the ramp and the pending slot; the dividers that take
effect, none where they stay. -/
def Cluster.row (c : Cluster) (l : List Nat) : Cluster × Option (List Nat) :=
  let v := rowVolt l
  -- applies targets at the present voltage: a fall at once, otherwise a new ramp
  let start (c : Cluster) (l : List Nat) : Cluster × Option (List Nat) :=
    let v := rowVolt l
    if v ≤ c.rowCur then ({ c with rowTgt := v, ramp := decide (v ≠ c.rowCur), rampDiv := l, pending := none }, some l)
    else ({ c with rowTgt := v, ramp := true, rampDiv := l, pending := none }, none)
  if c.ramp && c.rowCur < c.rowTgt then
    let c := { c with rowCur := rowStep c.rowCur c.rowTgt, pending := if l = c.rampDiv then none else some l }
    if c.rowCur ≠ c.rowTgt then (c, none)
    else
      match c.pending with
      | none => ({ c with ramp := false }, some c.rampDiv)
      | some p =>
        let (c', d) := start c p
        (c', some (d.getD c.rampDiv))
  else if c.ramp then
    let c := { c with rowCur := rowStep c.rowCur c.rowTgt }
    let c := { c with ramp := decide (c.rowCur ≠ c.rowTgt) }
    if l = c.rampDiv then (c, none)
    else if v ≤ c.rowCur || !c.ramp then start c l
    else ({ c with pending := some l }, none)
  else if c.pending.isNone && l = c.rampDiv then (c, none)
  else start c l

/-- The refill of a cluster's bucket at a boundary (R326, R327): CUR moves toward the effective target. -/
def Cluster.refillRate (c : Cluster) (thr : Bool) : Cluster :=
  let boost := c.boostReq && !thr
  let goal := c.chgTgt + (if boost then c.chgTgt / 8 else 0)
  { c with boost := boost, boostReq := false
           chgCur := if c.chgCur < goal then min goal (c.chgCur + 1024) else max goal (c.chgCur - 1024) }

/-- What one cluster does at a boundary (R297, R298, R326, R327, R330). -/
def State.boundary (s : State) (clu : Nat) : State :=
  let c := (s.clu clu).heat clu s.cyc
  let mover := c.hottest
  let cl := powerCode s.cyc
  let code (i : Nat) : Nat := max (max (s.core (clu * 20 + i)).clkReq (c.thermCode mover i)) cl
  let th := (List.range 16).any fun i => c.thermCode mover i ≠ 0
  let tgts := (List.range 16).map code
  let (c, div) := c.row tgts
  let c := (c.refillRate (th || cl ≠ 0))
  let c := { c with cthr := cl ≠ 0, tthr := th, tel := { c.tel with last := c.tel.live }
                    move := match mover with
                      | some i => some { core := i }
                      | none => c.move }
  let s := s.setClu clu c
  (List.range 16).foldl (fun s i =>
    let tgt := (tgts[i]?).getD 0
    let cur := match div with
      | some l => (l[i]?).getD 0
      | none => (s.core (clu * 20 + i)).clkCur
    let k := s.core (clu * 20 + i)
    if k.clkCur = cur && k.clkTgt = tgt then s
    else s.setCore (clu * 20 + i) { k with clkCur := cur, clkTgt := tgt }) s

/-- `INTERVAL_BOUNDARY` (R326). -/
def execIntervalBoundary (s : State) : Host.Outcome State Fault Refusal :=
  .next ((List.range 256).foldl State.boundary s)

/-! ## Moves -/

/-- Whether a core has drained for a move (R241, R298): every waiting access served but for a `WAITW` that reads again, every
answer delivered, and the matrix unit empty. -/
def State.coreDrained (s : State) (core : Nat) : Bool :=
  (s.core core).munit.isEmpty
    && (List.range 8).all fun i =>
      let x := s.slot (core * 8 + i)
      x.owed.isEmpty && x.acc.all fun a => match a.fin with
        | .waitw _ _ _ _ _ => true
        | _ => false

/-- Cycles of the copy to the spare (R298). -/
def State.moveCycles (s : State) (core : Nat) : Nat :=
  1024 + 8 + 33 * s.classCount core 1 + 129 * s.classCount core 2 + 8

/-- `THERMAL_COPY` (R298): the drain is over, and the copy runs. -/
def execThermalCopy (clu : Nat) (s : State) : Host.Outcome State Fault Refusal :=
  match (s.clu clu).move with
  | none => .next s
  | some m =>
    let core := clu * 20 + m.core
    if m.begun && !m.copied && s.coreDrained core then
      .next (s.modClu clu fun c => { c with move := some { m with copied := true, doneAt := s.cyc + s.moveCycles core } })
    else .next s

/-- `THERMAL_REMAP` (R298): at an inner step 0 the spare takes the role; the old physical core is the spare, and DOWN. -/
def execThermalRemap (clu : Nat) (s : State) : Host.Outcome State Fault Refusal :=
  .next (s.modClu clu fun c =>
    match c.move with
    | none => c
    | some m =>
      if m.copied && m.doneAt ≤ s.cyc && c.wheel.step s.cyc = 0 then
        let old := (c.phys[m.core]?).getD 0
        let spare := (c.phys[16]?).getD 16
        { c with phys := (c.phys.set! m.core spare).set! 16 old, down := c.down ||| (1#17 <<< old), move := none
                 moved := c.moved || !m.wear, thermcnt := if m.wear then c.thermcnt else (c.thermcnt + 1) % 2 ^ 32 }
      else c)

/-- `WEAR_ROTATION` (R329): the same sequence on a core that holds no thread, at most once in 2^30 cycles. -/
def execWearRotation (clu core : Nat) (s : State) : Host.Outcome State Fault Refusal :=
  let c := s.clu clu
  let idle := (List.range 8).all fun i => !(s.slot ((clu * 20 + core) * 8 + i)).live
  if core < 16 && idle && c.move.isNone && !c.down.getLsbD ((c.phys[16]?).getD 16)
      && (c.lastWear = 0 || c.lastWear + 2 ^ 30 ≤ s.cyc) then
    .next (s.modClu clu fun c => { c with move := some { core := core, begun := true, wear := true }, lastWear := s.cyc })
  else .next s

end Sys2Proof.Machine
end

