-- ==== Sys2Proof/Machine/Fetch.lean ====
section
/-! DEFINITION. Instruction fetch (R26, R27, R63), and the page-table walker (R289 to R292). -/

namespace Sys2Proof.Machine

/-! ## Blocks -/

/-- The 64-byte block that an address lies in (R63). -/
def blockOf (va : Word) : Word := va &&& ~~~63#64

/-- The place that an instruction word is fetched from (R26, R93, R291): the causes 0x05, then 0x06. A page that holds a view has
no instructions. -/
def fetchPlace (va : Word) : M Place := do
  let n := va.toNat
  if 2 ^ 48 ≤ n then raise 0x05 8 va 0
  if n < 2 ^ 32 then
    if n < 0x40000 || (0x100000 ≤ n && n < 0x200000) || (windowPlace 0 n).isSome then deny 5 va
    else raise 0x05 8 va 0
  let e ← myEff
  let (pte, big) ← translate e.troot n false
  if pte.extractLsb' 12 2 = 3 || 2 ≤ (pte.extractLsb' 7 3).toNat || 2 ≤ (pte.extractLsb' 10 2).toNat
      || pte.extractLsb' 5 2 = 3 then deny 6 va
  if (pte.extractLsb' 16 12).toNat ≠ e.tenant then deny 1 va
  if !pte.getLsbD 4 || !pte.getLsbD 15 || pte.extractLsb' 7 3 ≠ 0 then deny 5 va
  match pageFrame pte big n with
  | none => raise 0x05 (4 + big.toNat) va pte
  | some f => return f.add (n % 65536)

/-- The block of a slot's fetch buffer that holds an address, once it may issue. -/
def Slot.fetched (x : Slot) (va : Word) (cyc : Nat) : Option Nat :=
  (x.fbuf.find? fun b => b.1 = blockOf va && decide (b.2.2 ≤ cyc)).map (·.2.1)

/-- A word of the current thread's code: from its fetch buffer, or not yet there; a page that faults at fetch traps at the PC
of the instruction (R27). -/
def fetchWord (va : Word) : M Word32 := do
  let s ← get
  match s.me.fetched va s.cyc with
  | some b => return BitVec.ofNat 32 (b / 2 ^ (8 * (va.toNat % 64)))
  | none =>
    if !(s.me.fbuf.any fun b => b.1 = blockOf va) then
      let p ← fetchPlace (blockOf va)
      modMe fun x => if x.freq.isNone then { x with freq := some (blockOf va, s.cyc, p.key) } else x
    wait 1

/-- The instruction at the current thread's PC (R25, R27, R43): its words in address order; cause 0x01 where they are no
instruction, decided by the base word alone where it can be, the class of the thread included. -/
def fetchInstr : M Instr := do
  let x ← me
  let pc := x.pc
  let w ← fetchWord pc
  raiseIf (baseIllegal w || (baseRaw w).needsClass.any (· ≠ x.cls)) 0x01 0 0 (w.setWidth 64)
  let ws ← forEach (fun i => fetchWord (pc + BitVec.ofNat 64 (4 * (i + 1)))) (List.range (lenWords (lenOf w) - 1))
  match decodeWords (w :: ws) with
  | some (i, _) => return i
  | none => raise 0x01 0 0 (w.setWidth 64)

/-- The block that a slot requests next (R63): the one at its PC, or the one after it, whichever its buffer has a free entry
for. -/
def Slot.wants (x : Slot) : Option (Word × Bool) :=
  let b := blockOf x.pc
  let has (v : Word) : Bool := x.fbuf.any fun e => e.1 = v
  if !x.live || x.freq.isSome || x.leaving || x.moving || x.escal.isSome then none
  else if !has b then some (b, true)
  else if !has (b + 64) then some (b + 64, false)
  else none

/-- A slot requests its next block at the end of a cycle, once the page is translated: a miss starts a walk, but not for the
block ahead. A thread's first request follows the cycle of its placement (R236). -/
def State.requestBlock (s : State) (n : Nat) : State :=
  let x := s.slot n
  match x.wants with
  | none => s
  | some (b, now) =>
    if x.fbuf.isEmpty && x.notBefore = s.cyc + 1 then s else
    let me := s.cur
    match fetchPlace b { s with cur := n } with
    | .ok (p, t) =>
      ({ t with cur := me } : State).modSlot n fun x =>
        { x with freq := some (b, s.cyc, p.key), fbuf := x.fbuf.filter fun e => e.1 = blockOf x.pc || e.1 = blockOf x.pc + 64 }
    | .error (.wait t _) => if now then { t with cur := me } else s
    | .error _ => s

/-- The slots of a cluster that wait for a block which the cache need not first refill, with the request of each. -/
def State.fetchers (s : State) (clu : Nat) : List (Nat × Word × Nat × Nat) :=
  let miss := (s.clu clu).misses
  s.slots.filterMap fun t =>
    if t.2.live && slotClu t.1 = clu then
      match t.2.freq with
      | some r => if miss.contains r.2.2 then none else some (t.1, r)
      | none => none
    else none

/-- Puts a block into a 64 KiB, 4-way instruction cache of 256 sets (R63). DESIGN CHOICE (log entry 59): R63 names no policy, and
the block that goes from a full set is the least recently used. -/
def cachePut (c : List (Nat × Nat)) (k v : Nat) : List (Nat × Nat) :=
  let same (e : Nat × Nat) : Bool := e.1 / 64 % 256 = k / 64 % 256
  (k, v) :: ((c.filter fun e => same e && e.1 ≠ k).take 3 ++ c.filter fun e => !same e)

/-- `FETCH_SERVE` (R63): the oldest request's block goes to every slot of the cluster that has requested it; a block that the
cache does not hold waits for its refill. -/
def State.fetchServe (s : State) (clu : Nat) : State :=
  match s.fetchers clu with
  | [] => s
  | r :: rs =>
    let k := (rs.foldl (fun (b x : Nat × Word × Nat × Nat) => if x.2.2.1 < b.2.2.1 then x else b) r).2.2.2
    match (s.clu clu).icache.find? fun e => e.1 = k with
    | none => s.modClu clu fun c => { c with misses := c.misses ++ [k] }
    | some e =>
      let s := s.modClu clu fun c => { c with icache := cachePut c.icache k e.2 }
      let ns := ((s.fetchers clu).filter fun x => x.2.2.2 = k).map (·.1)
      ns.foldl (fun s n => s.modSlot n fun x =>
        match x.freq with
        | some q => { x with fbuf := (q.1, e.2, s.cyc + 2) :: x.fbuf.take 1, freq := none }
        | none => x) s

def execFetchServe (clu : Nat) (s : State) : Host.Outcome State Fault Refusal := .next (s.fetchServe clu)

/-! ## What the service port reads -/

/-- What a cluster's service port can make of a read in a cycle (R63, R88, R292). -/
inductive PortView where
  /-- Nothing: its turn has not come, the queue of the DRAM channel is full, or the read is under way. -/
  | later
  /-- The turn is missing. -/
  | missing
  /-- It sends the read to a DRAM channel or another store. -/
  | send
  /-- The value, and whether it is poisoned or in an absent bank. -/
  | value (v : Nat) (bad : Bool)
  deriving DecidableEq, Repr

/-- Whether a place lies in a store at which a cluster's service port has turns (R79). -/
def portOwns (clu : Nat) (p : Place) : Bool := p.dev = 0 && chanServed clu p = 1

/-- Whether a place lies in a DRAM channel of the cluster (R292). -/
def portDram (clu : Nat) (p : Place) : Bool := p.dev = 0 && p.kind = 4 && chanClu p.unit = clu

/-- The read of a table entry, or of a block of code, as the service port sees it. -/
def State.portView (s : State) (clu : Nat) (code : Bool) (p : Place) : PortView :=
  let n := if code then 64 else 8
  if portOwns clu p then
    if !s.svcAt clu p then .later
    else if s.missing clu p then .missing
    else .value (s.readMem p.key n) (s.isPoisoned p n || s.bankAbsent p)
  else
    match (s.clu clu).reads.find? fun r => r.key = p.key && r.code = code with
    | some r => if r.due ≠ 0 && r.due ≤ s.cyc then .value r.val r.bad else .later
    | none => if portDram clu p && 16 ≤ (s.dram p.unit).queue.length then .later else .send

/-- Sends for a read: to the queue of a channel of the cluster (R200), or over the network. -/
def State.sendRead (s : State) (clu : Nat) (code : Bool) (p : Place) : State :=
  let c := s.clu clu
  let r : PortRead := { seq := c.readNext, key := p.key, code := code }
  let s := s.setClu clu { c with reads := c.reads ++ [r], readNext := c.readNext + 1 }
  if portDram clu p then s.modDram p.unit fun d => { d with queue := d.queue ++ [(portRequester clu, r.seq)] }
  else
    s.send
      { pid := 0, kind := if code then 3 else 0, ddev := if p.dev = 0 then s.device else p.dev - 1
        dst := if p.kind = 2 then p.unit else if p.kind = 3 then p.unit * 32 + p.group else chanClu p.unit
        dep := 30, src := clu, sep := portEp code, place := r.span.1, size := r.span.2, owed := r.seq }

/-- A read that has been used is over. -/
def Cluster.readOver (c : Cluster) (code : Bool) (key : Nat) : Cluster :=
  { c with reads := c.reads.filter fun r => !(r.code = code && r.key = key) }

/-- `ICACHE_REFILL` (R63): a block that was missed is read from its page's home. -/
def execIcacheRefill (block : Nat × Nat) (s : State) : Host.Outcome State Fault Refusal :=
  let (clu, key) := block
  let p := Place.ofKey key
  if !(s.clu clu).misses.contains key then .next s
  else
    .next (match s.portView clu true p with
      | .later => s
      | .missing => (s.holdLine clu p).event clu 9
      | .send => s.sendRead clu true p
      | .value v _ => s.modClu clu fun c =>
        { c.readOver true key with misses := c.misses.filter (· ≠ key), icache := cachePut c.icache key v })

/-! ## The walker -/

/-- The walks of a cluster that its walker makes (R292): the first eight, in request order. -/
def Cluster.walkers (c : Cluster) : List Walk :=
  (c.walks.foldl (fun l w => if !w.walking || w.bad.isSome || l.any w.joins then l else l ++ [w]) []).take 8

/-- Changes a walk, and every request that joins it (R292). -/
def State.walkOn (s : State) (clu : Nat) (w : Walk) (g : Walk → Walk) : State :=
  s.modClu clu fun c => { c with walks := c.walks.map fun v => if v.joins w && v.walking && v.bad.isNone then g v else v }

/-- A walk is complete (R292): the cluster TLB has its entry, and every core TLB that requested it. -/
def State.walkDone (s : State) (clu : Nat) (w : Walk) (e : TlbEntry) : State :=
  let cores := ((s.clu clu).walks.filter fun v => v.joins w).map (·.core)
  let s := s.modClu clu fun c => { c with tlb := tlbPutClu c.tlb e, walks := c.walks.filter fun v => !v.joins w }
  cores.foldl (fun s c => s.modCore c fun x => { x with tlb := tlbPut 96 x.tlb e }) s

/-- A walk has read the entry of its level (R289 to R292): a fault fills no TLB. -/
def State.walkRead (s : State) (clu : Nat) (w : Walk) (p : Place) (v : Nat) (bad : Bool) : State :=
  let s := s.modClu clu fun c => c.readOver false p.key
  match walkEntry (BitVec.ofNat 64 v) bad w.level with
  | .bad k x => s.walkOn clu w fun v => { v with bad := some (w.level, k, x) }
  | .table x => s.walkOn clu w fun v => { v with level := w.level - 1, entry := x }
  | .leaf pte big => s.walkDone clu w ⟨w.root, w.va / 65536, big, pte⟩

/-- One level of a walk. -/
def State.tableWalk (s : State) (clu : Nat) (w : Walk) : State :=
  if w.level = 3 && !w.entry.getLsbD 0 then s.walkOn clu w fun v => { v with bad := some (3, 0, w.rootEntry) }
  else
    match w.place with
    | none => s.walkOn clu w fun v => { v with bad := some (w.level, 1, w.entry) }
    | some p =>
      match s.portView clu false p with
      | .later => s
      | .missing => (s.holdLine clu p).event clu 9
      | .send => s.sendRead clu false p
      | .value v bad => s.walkRead clu w p v bad

/-- `TABLE_WALK` (R292): one level of the walk for a root and page. -/
def execTableWalk (walk : Nat × Nat × Nat) (s : State) : Host.Outcome State Fault Refusal :=
  let (clu, root, page) := walk
  match (s.clu clu).walkers.find? fun w => w.root = root && w.va / 65536 = page with
  | none => .next s
  | some w => .next (s.tableWalk clu w)

/-- The walks that need no turn of the service port in a cycle, and can go on. -/
def State.walkAway (s : State) (clu : Nat) (w : Walk) : Bool :=
  w.place.all fun p => !portOwns clu p && s.portView clu false p ≠ .later

/-- The lookups of the cluster TLB that begin in a cycle, two at most, and those that are over in it (R292): a hit fills the core TLB,
and what is not found is walked. -/
def State.lookups (s : State) (clu : Nat) : State :=
  let first := (((s.clu clu).walks.filter fun w => w.look = 0).take 2).map fun w => (w.core, w.root, w.va)
  let s := s.modClu clu fun c =>
    { c with walks := c.walks.map fun w => if first.contains (w.core, w.root, w.va) then { w with look := s.cyc + 6 } else w }
  ((s.clu clu).walks.filter fun w => w.look ≠ 0 && w.look ≤ s.cyc && !w.walking).foldl (fun s w =>
    match tlbFind (s.clu clu).tlb w.root w.va with
    | some e => (s.fillTlb w.core e).modClu clu fun c => { c with walks := c.walks.erase w }
    | none => s.modClu clu fun c => { c with walks := c.walks.map fun v => if v = w then { v with walking := true } else v }) s

end Sys2Proof.Machine
end

