-- ==== Sys2Proof/Machine/Cycle.lean ====
section
/-! DEFINITION. What the device does in one cycle, and in which order: the end of the cycle before, the counters of the new one, the
hardware steps that fall due, the turns, then the issue stages (R45, R79 to R82, R189). It chooses the instructions that
`step` runs, one at a time. -/

namespace Sys2Proof.Machine

/-! ## Steps of the device -/

/-- What a step of the device does: the meaning that `exec` gives the instruction of the same name. -/
def Event.run (e : Event) (s : State) : Host.Outcome State Fault Refusal :=
  match e with
  | .traceRecord die => execTraceRecord die s
  | .waypointRecord core => execWaypointRecord core s
  | .halt clu => execHalt clu s
  | .haltEvent clu why core slot => execHaltEvent clu why core slot s
  | .halted clu => execHalted clu s
  | .resume clu => execResume clu s
  | .stepOne clu core slot => execStepOne clu core slot s
  | .stepDone clu => execStepDone clu s
  | .resync => execResync s
  | .loadfw => execLoadfw s
  | .launch => execLaunch s
  | .reset => execReset s
  | .badOpcode => execBadOpcode s
  | .boot => execBoot s
  | .hostRead link off len => execHostRead link off len s
  | .hostWrite link off data => execHostWrite link off data s
  | .linkTraining n0 n1 n2 n3 hops => execLinkTraining n0 n1 n2 n3 hops s
  | .ptpLock t => execPtpLock t s
  | .sliceInstant => execSliceInstant s
  | .intervalBoundary => execIntervalBoundary s
  | .thermalCopy clu => execThermalCopy clu s
  | .thermalRemap clu => execThermalRemap clu s
  | .timerExpiry slot => execTimerExpiry slot s
  | .budgetExhausted clu region => execBudgetExhausted clu region s
  | .preemption slot reason => execPreemption slot reason s
  | .preemptSave slot => execPreemptSave slot s
  | .preemptEnqueue slot => execPreemptEnqueue slot s
  | .queueAging clu => execQueueAging clu s
  | .dispatch clu => execDispatch clu s
  | .contextRestore slot part => execContextRestore slot part s
  | .parkWake core => execParkWake core s
  | .deposit pid => execDeposit pid s
  | .remoteCall pid => execRemoteCall pid s
  | .matrixCommand pid => execMatrixCommand pid s
  | .migrationArrival pid => execMigrationArrival pid s
  | .migrationResend pid => execMigrationResend pid s
  | .remoteAccess pid => execRemoteAccess pid s
  | .responseDelivery pid => execResponseDelivery pid s
  | .lossNotice pid => execLossNotice pid s
  | .mcastDelivery pid => execMcastDelivery pid s
  | .streamOpen pid => execStreamOpen pid s
  | .streamWord pid => execStreamWord pid s
  | .streamEnd pid => execStreamEnd pid s
  | .streamTimeout slot port => execStreamTimeout slot port s
  | .streamAbort pid => execStreamAbort pid s
  | .groupWatchdog slot => execGroupWatchdog slot s
  | .packetForward pid => execPacketForward pid s
  | .laneDrop clu dir => execLaneDrop clu dir s
  | .routerGate clu => execRouterGate clu s
  | .routerWake clu => execRouterWake clu s
  | .turnService slot acc => execTurnService slot acc s
  | .waitwReread slot => execWaitwReread slot s
  | .wheelSwap outer unit => execWheelSwap outer unit s
  | .stripeCommit slot => execStripeCommit slot s
  | .bldPass slot => execBldPass slot s
  | .retirementSwap common unit => execRetirementSwap common unit s
  | .retirementDone common unit => execRetirementDone common unit s
  | .errorThreshold kind unit group bank => execErrorThreshold kind unit group bank s
  | .bankLoss common unit group bank => execBankLoss common unit group bank s
  | .scrub clu bank => execScrub clu bank s
  | .dramRequest chan => execDramRequest chan s
  | .refreshWindow chan => execRefreshWindow chan s
  | .copyTransferStart clu ch => execCopyTransferStart clu ch s
  | .copyLine clu ch => execCopyLine clu ch s
  | .copyStamp clu ch => execCopyStamp clu ch s
  | .chainHop clu ch => execChainHop clu ch s
  | .copyStop clu ch cause => execCopyStop clu ch cause s
  | .footprintRelease clu job => execFootprintRelease clu job s
  | .kvcommitHoldEnd slot => execKvcommitHoldEnd slot s
  | .unitCommand core => execUnitCommand core s
  | .isochronePass clu => execIsochronePass clu s
  | .fetchServe clu => execFetchServe clu s
  | .icacheRefill block => execIcacheRefill block s
  | .tableWalk walk => execTableWalk walk s
  | .reportTaken slot => execReportTaken slot s
  | .escalation slot => execEscalation slot s
  | .bindRecordWrite clu idx val => execBindRecordWrite clu idx val s
  | .wearRotation clu core => execWearRotation clu core s
  | .uncorrectableError key => execUncorrectableError key s

/-! ## Ranges -/

/-- The slots that hold a thread, with their threads. -/
def State.live (s : State) : List (Nat × Slot) := s.slots.filter fun t => t.2.live

/-- The cores that hold a thread, in rising order. -/
def State.liveCores (s : State) : List Nat := (s.live.map fun t => slotCore t.1).eraseDups

/-- Whether the cluster of a slot is halted, or steps (R305). -/
def State.still (s : State) (clu : Nat) : Bool := (s.clu clu).dbg.still

/-- Whether a core's role moves to the spare (R298): no slot of it issues, and packets for it wait. -/
def State.moving (s : State) (core : Nat) : Bool :=
  (s.clu (coreClu core)).move.any fun m => m.begun && m.core = coreIdx core

/-- Changes every slot that holds a thread. -/
def State.mapLive (s : State) (g : Nat → Slot → Slot) : State :=
  { s with slots := s.slots.map fun t => if t.2.live then (t.1, g t.1 t.2) else t }

/-- Changes every cluster that the state lists; the others stand as at reset, where `g` changes nothing. -/
def State.mapClus (s : State) (g : Nat → Cluster → Cluster) : State :=
  { s with clus := s.clus.map fun t => (t.1, g t.1 t.2) }

/-! ## The end of a cycle -/

/-- Whether a slot waits on memory (R309), a `WTURN` that waits for its turn included. -/
def Slot.onMemory (x : Slot) (cyc : Nat) : Bool :=
  x.live && (x.waiting = 3 || x.wturn.any fun t => decide (cyc < t.2) && x.notBefore = t.2)

/-- The state of a core in the cycle that ends (R309), with the PC and the slot that a record of it names (R310). -/
def State.wayNow (s : State) (core : Nat) : Nat × Word × Nat :=
  let c := s.core core
  if c.issued then (1, c.issuedPc, c.issuedSlot)
  else
    let x (i : Nat) : Slot := s.slot (core * 8 + i)
    let onMem (i : Nat) : Bool := (x i).onMemory s.cyc
    let onMsg (i : Nat) : Bool := (x i).live && (x i).waiting = 2
    match (List.range 8).find? fun i => onMem i || onMsg i with
    | none => (0, 0, 0)
    | some i => (if (List.range 8).any onMem then 3 else 2, (x i).pc, i)

/-- Notes the state of a logged core (R309). -/
def State.wayStep (s : State) (core : Nat) : State :=
  let (k, pc, i) := s.wayNow core
  s.modCore core fun c =>
    { c with wayNew := k, wayPc := pc, waySlot := i
             waySince := if k = c.wayState then none else some (c.waySince.getD s.cyc) }

/-- The cores that a cluster logs (R302): a halted one emits nothing. -/
def Cluster.logged (c : Cluster) (clu : Nat) : List Nat :=
  if c.dbg.still then [] else ((List.range 20).filter fun i => c.dbg.tmask.getLsbD i).map (clu * 20 + ·)

/-- Whether an access of a slot meets a missing turn in this cycle (R88). -/
def State.missed (s : State) (n : Nat) (a : Access) : Bool :=
  let clu := slotClu n
  a.units.any fun u => decide (2 ≤ u.place.kind ∧ u.place.kind ≤ 3)
    && s.turnAt clu (if a.svc then 17 else requester (slotCore n)) u.place s.cyc && s.missing clu u.place

/-- Whether an event of R315 has occurred in the cycle that ends: code and core. -/
def State.occurred (s : State) (clu code core : Nat) : Bool :=
  let c := s.clu clu
  match code with
  | 1 => true
  | 2 => (s.core (clu * 20 + core)).issued
  | 3 | 4 => c.events.contains (code + 16 * core)
  | 5 | 6 | 7 => c.events.contains code
  | 8 => c.jobs.any fun j => j.held
  | 9 => c.events.contains 9 || s.live.any fun t => slotClu t.1 = clu && t.2.acc.any (s.missed t.1)
  | _ => false

/-- The counters of a cluster count the events of the cycle that ends (R315). -/
def State.countEvents (s : State) (clu : Nat) : State :=
  let c := s.clu clu
  let core := (c.pmsel.extractLsb' 16 5).toNat
  let hit (i : Nat) : Bool := s.occurred clu (c.pmsel.extractLsb' (4 * i) 4).toNat core
  if c.pmsel.extractLsb' 0 16 = 0 then s
  else s.modClu clu fun c => { c with pmc := Vector.ofFn fun i => (c.pmc[i.val]?).getD 0 + (if hit i.val then 1 else 0) }

/-- A cluster's bucket gains a sixteenth of CUR at the end of a cycle (R327). -/
def Cluster.recharge (c : Cluster) : Cluster :=
  let v := min (16 * 65536) (16 * c.chgLvl + c.chgFrac + c.chgCur)
  { c with chgLvl := v / 16, chgFrac := v % 16 }

/-- The cycle ends: waypoints, event counters, charge. -/
def State.endCycle (s : State) : State :=
  let logged := s.clus.flatMap fun t => t.2.logged t.1
  let s := logged.foldl State.wayStep s
  let s := ((s.cores.filter fun t => !t.2.wayHeld.isEmpty && !s.wayOpen t.1).map (·.1)).foldl State.flushWay s
  let s := (s.clus.map (·.1)).foldl State.countEvents s
  { s with
      clus := s.clus.map fun t => (t.1, { t.2.recharge with events := [] })
      cores := s.cores.map fun t => (t.1, { t.2 with issued := false }) }

/-! ## The counters of a cycle -/

/-- What a thread counts in a cycle of its slot: `TIMER` (R240), the routes it holds or opens (R175), and the group watchdog
(R153), which `hold` holds. -/
def Slot.count (x : Slot) (still hold : Bool) : Slot :=
  if still then x
  else
    { x with
        timer := if x.leaving then x.timer else x.timer - 1
        ports := x.ports.map fun p => { p with
          age := if p.isOpen then p.age + 1 else p.age, since := if p.isOpen || p.opening then p.since + 1 else p.since }
        watchdog := if x.cls = 2 && x.rxWait.isSome && x.waiting = 2 && !hold then x.watchdog + 1 else x.watchdog }

/-- Whether the watchdogs of a region hold (R153): an M-class thread of it serves a cause of R152. -/
def State.watchdogHeld (s : State) (region : BitVec 28) : Bool :=
  s.live.any fun t => t.2.cls = 2 && t.2.region = region && t.2.trap.tmode && t.2.trap.tile

/-- Slot-cycles of each region of a cluster since the last slice instant (R243). -/
def State.occupy (s : State) (clu : Nat) (c : Cluster) : Cluster :=
  let rs := (s.live.filter fun t => slotClu t.1 = clu).map fun t => t.2.region
  { c with occ := rs.foldl (fun o r =>
      if o.any (·.1 = r) then o.map fun p => if p.1 = r then (r, p.2 + 1) else p else o ++ [(r, 1)]) c.occ }

/-- Waits of queue entries do not count while the cluster is halted (R305). -/
def Cluster.holdQueues (c : Cluster) : Cluster :=
  { c with queues := c.queues.map fun q => q.map fun e => { e with since := e.since + 1 } }

/-- The core-shared registers that become available (R68), and the response slots that are free again (R164). -/
def Core.tick (c : Core) (cyc : Nat) : Core :=
  let due := c.spend.filter fun p => decide (p.at' ≤ cyc)
  { c with
      s := due.foldl (fun v p => v.set! p.reg p.val) c.s
      spend := c.spend.filter fun p => decide (cyc < p.at')
      resp := c.resp + c.respBack, respBack := 0 }

/-- A resumption takes effect, and a step begins, two cycles after the write (R306). -/
def Debug.tick (d : Debug) (cyc : Nat) : Debug :=
  if d.resumeAt.any fun r => decide (r ≤ cyc) then { d with halted := false, resumeAt := none }
  else if d.step.any fun p => decide (p.2 ≤ cyc) then { d with halted := false }
  else d

/-- A thermal move begins at its boundary, or once no thread of the core is in trap service (R283, R298); a halt holds it. -/
def State.beginMove (s : State) (clu : Nat) (c : Cluster) : Cluster :=
  match c.move with
  | none => c
  | some m =>
    let busy := (List.range 8).any fun i =>
      let x := s.slot ((clu * 20 + m.core) * 8 + i)
      x.live && (x.trap.tmode || x.leaving)
    if m.begun || busy || c.dbg.still then c else { c with move := some { m with begun := true } }

/-- Handler entries that wait take queue room as it comes (R284). -/
def State.enterHandlers (s : State) (clu : Nat) : State :=
  (s.clu clu).handlers.foldl (fun s q =>
    match s.enqueueAt clu 0 q with
    | some t => t.modClu clu fun c => { c with handlers := c.handlers.erase q }
    | none => s) s

/-- The reports of control blocks found broken go out (R226). -/
def State.sendBad (s : State) : State :=
  s.badNew.foldl (fun s b => s.reportBad b.1 b.2) { s with badNew := [] }

/-- The control-register writes that take effect in this cycle (R75). -/
def State.dueSetcs (s : State) : State :=
  let due := s.setcs.filter fun w => decide (w.at' ≤ s.cyc)
  due.foldl State.applySetc { s with setcs := s.setcs.filter fun w => decide (s.cyc < w.at') }

/-- The writes of `SLICE` that the management core has made (R244): the last one waits for the next slice instant. -/
def State.dueSlices (s : State) : State :=
  match (s.sliceIn.filter fun w => decide (w.1 ≤ s.cyc)).getLast? with
  | none => s
  | some w => { s with slicePend := some w.2, sliceIn := s.sliceIn.filter fun w => decide (s.cyc < w.1) }

/-- The next cycle begins: what counts and what takes effect in it without a step of its own. -/
def State.tick (s : State) : State :=
  let s : State := { s with cyc := s.cyc + 1 }
  let s := s.mapClus fun _ c => { c with dbg := c.dbg.tick s.cyc }
  let s := s.mapLive fun n x => x.count (s.still (slotClu n)) (x.cls = 2 && s.watchdogHeld x.region)
  let s := ((s.live.map fun t => slotClu t.1).eraseDups).foldl (fun s n =>
    if s.still n then s else s.modClu n (s.occupy n)) s
  let s := s.mapClus fun _ c => if c.dbg.still then c.holdQueues else c
  let s : State := { s with cores := s.cores.map fun t => (t.1, t.2.tick s.cyc) }
  let s := s.dueSetcs.sendBad.dueSlices.hostSettle.feedHost
  let s := s.live.foldl (fun s t => s.freeRestored t.1) s
  let s := s.mapClus fun n c => s.beginMove n c
  let s := ((s.clus.filter fun t => t.2.walks.any fun w => !w.walking).map (·.1)).foldl State.lookups s
  ((s.clus.filter fun t => !t.2.handlers.isEmpty).map (·.1)).foldl State.enterHandlers s

/-! ## The steps that fall due -/

/-- Steps of a cluster's debug module (R304, R309). -/
def State.debugSteps (s : State) : List Event :=
  s.clus.flatMap fun (t : Nat × Cluster) =>
    (if s.haltDone t.1 then [.halted t.1] else [])
      ++ ((t.2.logged t.1).filter fun k =>
          (s.core k).waySince.any fun n => decide (n + max t.2.dbg.dwell 1 ≤ s.cyc)).map Event.waypointRecord

/-- Swaps of the wheels (R85), and the phases of bank retirements (R88). -/
def State.wheelSteps (s : State) : List Event :=
  let phase (common : Bool) (unit : Nat) (r : Retire) (w : Wheel) : List Event :=
    if r.phase = 1 && retireLines common ≤ r.done && w.boundary s.cyc then [.retirementSwap common unit]
    else if r.phase = 2 && r.swapEnd ≤ s.cyc then [.retirementDone common unit]
    else []
  (s.clus.flatMap fun t =>
      (if t.2.wheel.armed && t.2.wheel.boundary s.cyc then [.wheelSwap false t.1] else [])
        ++ phase false t.1 t.2.retire t.2.wheel)
    ++ s.dies.flatMap fun t =>
      (if t.2.wheel.armed && t.2.wheel.boundary s.cyc then [.wheelSwap true t.1] else [])
        ++ t.2.retire.flatMap fun r => phase true (t.1 * 32 + r.1) r.2 t.2.wheel

/-- Passes that end or begin (R98). -/
def State.passSteps (s : State) (c : Cluster) : List Pass :=
  let isPass (a : Access) : Bool := match a.fin with
    | .bld _ _ _ _ => true
    | _ => false
  c.passes.filter fun p =>
    match (s.slot p.slot).acc.find? isPass with
    | some a => a.last.isSome
    | none => c.wheel.step s.cyc = 0

/-- Passes, then the commit of each cluster (R97, R98): a pass that begins in the cycle holds it already. -/
def State.blockSteps (s : State) : List Event :=
  s.clus.flatMap fun t =>
    let ps := s.passSteps t.2
    let commit := if t.2.commits.isEmpty then none
      else ((ps.foldl (fun s p => s.bldPass p.slot) s).clu t.1).nextCommit s.cyc
    (ps.map fun p => .bldPass p.slot) ++ commit.toList.map fun m => .stripeCommit m.slot

/-- Units whose work ends: matrix commands (R135) and isochrone passes (R267). -/
def State.unitSteps (s : State) : List Event :=
  ((s.cores.filter fun t => (t.2.munit.head?).any fun u => u.doneAt ≠ 0 && u.doneAt ≤ s.cyc).map fun t => .unitCommand t.1)
    ++ (s.clus.filter fun t => t.2.iso.pleft ≠ 0 && t.2.iso.nextPass < s.cyc).map fun t => .isochronePass t.1

/-- DRAM channels (R200): a request that starts, and the end of a refresh window. -/
def State.dramSteps (s : State) : List Event :=
  s.chans.flatMap fun t =>
    (if inRefresh t.1 (s.cyc - 1) && !inRefresh t.1 s.cyc && (!t.2.rows.isEmpty || !t.2.acts.isEmpty) then
        [.refreshWindow t.1] else [])
      ++ (if !t.2.queue.isEmpty && t.2.busFree ≤ s.cyc && !inRefresh t.1 s.cyc then [.dramRequest t.1] else [])

/-- Puts a packet in its place among others. -/
def insertPacket (p : Packet) : List Packet → List Packet
  | [] => [p]
  | q :: l => if p.before q then p :: q :: l else q :: insertPacket p l

/-- The packets that may do something in this cycle. -/
def State.duePackets (s : State) : List Packet := s.net.filter fun p => decide (p.due ≤ s.cyc)

/-- Packets that move on (R159, R165). -/
def State.forwardSteps (s : State) : List Event :=
  (((s.duePackets.filter fun p => !p.arrived && p.dev = s.device).foldr insertPacket []).map fun p => .packetForward p.pid)

/-- Whether a request is one that takes a turn of the network port of its cluster (R80, R178). -/
def State.wantsPort (s : State) (p : Packet) : Bool :=
  p.dev = s.device && p.arrived && p.kind ≤ 5 && !p.forPlan && !p.forDram

/-- The place whose turn such a request can use now: none where no turn of the port falls on it, or where an earlier request of its
source to the same line has still to be performed (R162). -/
def State.portPlace (s : State) (p : Packet) : Option Place :=
  if s.behind p then none
  else if p.kind = 5 then (s.pieceAt p).map fun q => cluPlace p.dst q.2.1
  else if s.turnAt p.dst 16 p.part s.cyc then some p.part
  else none

/-- The requests that the network ports serve in this cycle: at each cluster one for each store, in order of arrival. -/
def State.portSteps (s : State) : List Event :=
  let rec go : List Packet → List (Nat × Nat) → List Event
    | [], _ => []
    | p :: ps, used =>
      match s.portPlace p with
      | none => go ps used
      | some q =>
        if used.contains (p.dst, q.kind) then go ps used
        else (if p.kind = 5 then .mcastDelivery p.pid else .remoteAccess p.pid) :: go ps ((p.dst, q.kind) :: used)
  go ((s.duePackets.filter s.wantsPort).foldr insertPacket []) []

/-- The core whose local store an answer fills, if it is the line of an `RLDV` (R178): the write is an engine transfer. -/
def State.fills (s : State) (p : Packet) : Option Nat :=
  if p.kind ≤ 13 || p.kind = 16 || p.forChannel || p.forPort || p.trap.isSome || !((s.owedOf p).any fun o => o.what = 2) then none
  else some (slotCore p.slot)

/-- What a packet that has arrived at a core, a channel or another device does now. -/
def State.arrivalStep (s : State) (p : Packet) : List Event :=
  let core := p.dst * 20 + p.dep
  let here := p.dev = s.device
  let held := here && p.dep < 20 && s.moving core
  let earlier (q : Packet) : Bool := q.isStream && q.sid = p.sid && q.pid < p.pid
  match p.kind with
  | 0 | 1 | 2 | 3 | 4 =>
    let room := p.forDram && p.lost = 0 && (s.dram p.place.unit).queue.length < 16
    if here && !room then [] else [.remoteAccess p.pid]
  | 5 => if here then [] else [.mcastDelivery p.pid]
  | 6 => if held || (s.openTaker p).isNone then [] else [.streamOpen p.pid]
  | 7 => if held || s.wordTo p = .stall then [] else [.streamWord p.pid]
  | 8 => if held || s.net.any earlier then [] else [.streamEnd p.pid]
  | 9 => [.streamAbort p.pid]
  | 10 => if held then [] else [.remoteCall p.pid]
  | 11 => if held then [] else [.deposit p.pid]
  | 12 => if held then [] else [.matrixCommand p.pid]
  | 13 => if !p.ok then [.migrationResend p.pid] else if held then [] else [.migrationArrival p.pid]
  | 16 => [.lossNotice p.pid]
  | _ => if (s.fills p).isSome then [] else [.responseDelivery p.pid]

/-- Packets that have arrived; one that its receiver refused waits at its sender (R246). -/
def State.arrivalSteps (s : State) : List Event :=
  (((s.duePackets.filter fun p => p.arrived).foldr insertPacket []).flatMap s.arrivalStep)

/-- Routers that hold a stream route or a packet stay awake (R167). -/
def State.routerBusy (s : State) (r : Nat) : Bool :=
  (s.net.any fun p => p.dev = s.device && !p.arrived && p.at' = r)
    || s.lanes.any fun l => l.1 / 16 = r || neighbour (l.1 / 16) (l.1 / 2 % 8) = r

/-- Routers that fall idle, and routers whose wake is over (R167). -/
def State.gateSteps (s : State) : List Event :=
  (List.range 256).flatMap fun r =>
    let c := s.clu r
    if c.gated then (if c.rready ≠ 0 && c.rready ≤ s.cyc then [.routerWake r] else [])
    else if c.pwrRgate && c.rlast + 256 ≤ s.cyc && !s.routerBusy r then [.routerGate r]
    else []

/-- Timeouts of ports and groups (R153, R175): held in trap service (R283). -/
def State.timeoutSteps (s : State) : List Event :=
  s.live.flatMap fun t =>
    (if t.2.trap.tmode || s.still (slotClu t.1) then []
      else ((List.range 8).filter fun q =>
          let p := (t.2.ports[q]?).getD {}
          (p.isOpen || p.opening) && 1048576 < p.since).map fun q => .streamTimeout t.1 q)
      ++ (if 1048576 ≤ t.2.watchdog then [.groupWatchdog t.1] else [])

/-- Budgets that run out (R243). -/
def State.budgetSteps (s : State) : List Event :=
  s.clus.flatMap fun t =>
    (t.2.occ.filter fun o => !t.2.spent.contains o.1 && match s.eff? (s.rcbOf o.1) with
      | some e => e.budget ≠ 0 && e.budget ≤ o.2
      | none => false).map fun o => .budgetExhausted t.1 o.1.toNat

/-- Slice instants (R244) and interval boundaries (R297). -/
def State.clockSteps (s : State) : List Event :=
  (if s.sliceNext ≤ s.time then [.sliceInstant] else []) ++ (if s.cyc % 1300 = 0 then [.intervalBoundary] else [])

/-- Thermal moves (R298): a halt holds them (R305). -/
def State.moveSteps (s : State) : List Event :=
  s.clus.flatMap fun t =>
    match t.2.move with
    | none => []
    | some m =>
      if t.2.dbg.still || !m.begun then []
      else if !m.copied then (if s.coreDrained (t.1 * 20 + m.core) then [.thermalCopy t.1] else [])
      else if m.doneAt ≤ s.cyc && t.2.wheel.step s.cyc = 0 then [.thermalRemap t.1]
      else []

/-- Whether a deferred report of a thread is taken before its next instruction (R279): a halt or a move holds it. -/
def State.reportDue (s : State) (n : Nat) (x : Slot) : Bool :=
  x.live && !x.reports.isEmpty && !x.trap.tmode && x.escal.isNone && !x.leaving && !x.moving && x.atWait && !s.frozen n

/-- What becomes of one slot's thread by itself: parts of its context, reports, escalation, pre-emption (R241, R279, R285,
R346). -/
def State.slotSteps (s : State) (n : Nat) (x : Slot) : List Event :=
  (match x.restore with
    | some (p, c) => if c ≤ s.cyc then [.contextRestore n p] else []
    | none => [])
    ++ (if s.reportDue n x then [.reportTaken n]
      else if x.escal.isSome && !s.frozen n && (s.escalFrame n).isSome then [.escalation n]
      else match x.preempt with
        | none => []
        | some r =>
          if x.leaving then
            if x.saveEnd = 0 then []
            else if x.saveEnd ≤ s.cyc then [.preemptEnqueue n] else []
          else if !s.frozen n && ((s.yielding n).slot n).mayLeave then [.preemption n r]
          else [])

/-- The threads whose contexts are saved in a cycle: before anything arrives for them in it (R241, R242). -/
def State.saveSteps (s : State) : List Event :=
  (s.live.filter fun t => t.2.preempt.isSome && s.saveReady t.1).map fun t => .preemptSave t.1

/-- Every slot's, and the continuations that wait in their frames for queue room. -/
def State.threadSteps (s : State) : List Event :=
  let waiting := s.clus.flatMap fun t => (t.2.leaving.filter fun q =>
    decide (q.since ≤ s.cyc) && !((s.slot q.slotNo).live && (s.slot q.slotNo).saveEnd ≠ 0)).map fun q => q.slotNo
  (s.live.flatMap fun t => s.slotSteps t.1 t.2) ++ waiting.eraseDups.map .preemptEnqueue

/-- Queue aging (R233) and dispatch (R235): a halt holds both. -/
def State.queueSteps (s : State) : List Event :=
  let aged (c : Cluster) : Bool := [1, 2, 3].any fun q => ((c.queues[q]?).getD []).any fun e => decide (e.since + 65536 ≤ s.cyc)
  s.clus.flatMap fun t =>
    if t.2.dbg.still then []
    else (if aged t.2 then [.queueAging t.1] else [])
      ++ (if t.2.heads.any fun h => decide (h.2.since + 3 ≤ s.cyc) then [.dispatch t.1] else [])

/-- Parked continuations that are due (R239). -/
def State.parkSteps (s : State) : List Event :=
  (s.cores.filter fun t => t.2.park.any fun p => p.due s.cyc).map fun t => .parkWake t.1

/-- The footprint table (R192) and `KVCOMMIT` holds (R147), transfers that start (R182) or stop (R190): a halt freezes the
channels (R305). -/
def State.jobSteps (s : State) : List Event :=
  s.clus.flatMap fun t =>
    (t.2.jobs.flatMap fun j =>
      if j.over s.cyc then [.footprintRelease t.1 j.id]
      else if j.held && !heldBy (t.2.jobs.filter fun j => !j.over s.cyc) j then
        (if j.kv then (if (s.slot j.slot).phase = 42 then [.kvcommitHoldEnd j.slot] else [])
          else [.footprintRelease t.1 j.id])
      else [])
    ++ (if t.2.dbg.still || t.2.dbg.halting.isSome then []
      else (List.range 4).flatMap fun ch =>
        match s.head t.1 ch with
        | none => []
        | some h =>
          if h.stop ≠ 0 then [.copyStop t.1 ch h.stop]
          else if !h.started && !(t.2.jobs.any fun j => j.id = h.job && j.held) then [.copyTransferStart t.1 ch]
          else [])

/-- Trace records that the trace cores take (R311). -/
def State.traceSteps (s : State) : List Event :=
  (s.dies.filter fun t => t.2.en && t.2.run.isNone && (List.range 32).any fun i => !(s.clu (t.1 * 32 + i)).tq.isEmpty).map
    fun t => .traceRecord t.1

/-- `WAITW`s of the local store that read again (R100): one of a core, once the word has changed and no block-buffer transfer
holds the port (log entry 5). -/
def State.waitwSteps (s : State) : List Event :=
  let due (a : Access) : Bool := a.again && a.units.any fun u => u.place.kind = 1 && u.acts.any fun b => match b with
    | .rd _ k _ => s.isPoisoned (Place.ofKey k) 8 || decide (s.readMem k 8 ≠ SMap.get 0 a.got 0)
    | _ => false
  s.liveCores.flatMap fun k =>
    if (s.core k).portHeld s.cyc then []
    else (((List.range 8).filter fun i => (s.slot (k * 8 + i)).acc.any due).take 1).map fun i => .waitwReread (k * 8 + i)

/-- Blocks that the fetch ports serve (R63). -/
def State.fetchSteps (s : State) : List Event :=
  (((s.live.map fun t => slotClu t.1).eraseDups).filter fun c => !(s.fetchers c).isEmpty).map .fetchServe

/-- A cycle begins: the counters, the block requests, and the steps that fall due in it, with those from outside. -/
def State.beginCycle (s : State) : State :=
  let expired := (s.live.filter fun t =>
    t.2.timer = 1 && !t.2.leaving && !(s.still (slotClu t.1))).map fun t => Event.timerExpiry t.1
  let s := ((s.live.map (·.1)).foldl State.requestBlock s).endCycle.tick
  let inputs := (s.inputs.filter fun i => decide (i.1 ≤ s.cyc)).map (·.2)
  { s with
      inputs := s.inputs.filter fun i => decide (s.cyc < i.1)
      frun := (s.dies.filter fun t => t.2.en && t.2.run.isSome).map (·.1)
      turned := []
      agenda := inputs ++ s.debugSteps ++ s.wheelSteps ++ s.blockSteps ++ s.unitSteps ++ s.dramSteps ++ s.waitwSteps
        ++ s.gateSteps ++ s.forwardSteps ++ s.portSteps ++ s.saveSteps ++ s.arrivalSteps ++ s.clockSteps ++ expired
        ++ s.timeoutSteps ++ s.budgetSteps ++ s.moveSteps ++ s.jobSteps ++ s.queueSteps ++ s.threadSteps ++ s.parkSteps
        ++ s.traceSteps ++ s.fetchSteps
      stage := 1 }

/-! ## Turns -/

/-- Notes that the turn of a requester at a store, by kind of place, is used in this cycle (R81). -/
def State.useTurn (s : State) (core kind : Nat) : State := { s with turned := (2 * core + (kind - 2)) :: s.turned }

/-- The first memory core of a cluster, which stands for its service port in `turned`. -/
def svcPort (clu : Nat) : Nat := clu * 20 + 16

/-- The access of a core that a kind of service serves now, as a step (R81, R100). -/
def State.turnStep (s : State) (core kind : Nat) : List Event :=
  match s.pickAccess core kind with
  | none => []
  | some (n, id) =>
    if (s.slot n).acc.any fun a => a.id = id && a.again then [.waitwReread n] else [.turnService n (4 * id + kind)]

/-- The bank at which the service port of a cluster has its turn in this cycle, a missing one included (R79, R88). -/
def State.svcTurn (s : State) (clu : Nat) : Option Nat :=
  (List.range 16).find? fun b => (s.clu clu).wheel.holds b s.cyc = 17

/-- Whether the scrubber copies a line of a retiring bank at the service-port turn (R88). -/
def State.copyingBank (s : State) (clu kind b : Nat) : Bool :=
  let g := (s.die (cluDie clu)).wheel.holds (cluIdx clu) s.cyc
  let r := if kind = 2 then (s.clu clu).retire else s.retireOf true (cluDie clu) g
  r.phase = 1 && r.bank = b && r.done < retireLines (kind = 3)

/-- An isochrone load of a cluster that the service-port turn serves (R189, R265): the one at the lowest address. -/
def State.isoLoad (s : State) (clu kind : Nat) : List Event :=
  (s.live.flatMap fun t =>
    if slotClu t.1 ≠ clu then []
    else t.2.acc.filterMap fun a =>
      if a.svc && a.issued ≤ s.cyc && (s.servable t.1 a (kind - 1)).isSome then
        some (Event.turnService t.1 (4 * a.id + (kind - 1))) else none).take 1

/-- What a channel does next, as a step, with the port or the turn that it needs (R182, R185, R187). -/
def State.chanStep (s : State) (clu ch needs : Nat) : List Event :=
  let n := ch + 4 * needs
  match s.chanAction clu ch needs with
  | none => []
  | some (.stamp _) | some .over => [.copyStamp clu n]
  | some _ => if (s.head clu ch).any fun t => t.hop ≠ 0 && !t.kv then [.chainHop clu n] else [.copyLine clu n]

/-- The engines of a core that want the local-store port now, with the step that serves each (R78): the vector and tile accesses
of slots 0 to 7, from the cycle after their issue, the deliveries of channels 0 to 3, numbered from 8, and the lines of `RLDV`
(R178), numbered 12, and the accesses of debuggers (R302), numbered 13. -/
def State.engines (s : State) (core : Nat) : List (Nat × List Event) :=
  let clu := coreClu core
  let ofSlot (i : Nat) : List (Nat × List Event) :=
    match (s.slot (core * 8 + i)).acc.find? fun a =>
        decide (a.issued < s.cyc ∨ (a.svc = true ∧ a.issued = s.cyc)) && !a.again && (s.servable (core * 8 + i) a 0).isSome with
    | some a => [(i, [.turnService (core * 8 + i) (4 * a.id)])]
    | none => []
  let ofChan (ch : Nat) : List (Nat × List Event) :=
    if ((s.chanAction clu ch 1).bind Todo.place).any fun p => p.unit = core then [(8 + ch, s.chanStep clu ch 1)] else []
  let line : List (Nat × List Event) :=
    match s.duePackets.find? fun p => p.arrived && s.fills p = some core with
    | some p => [(12, [.responseDelivery p.pid])]
    | none => []
  (List.range 8).flatMap ofSlot ++ (List.range 4).flatMap ofChan ++ line ++ if (s.dbgWaits core).isSome then [(13, [])] else []

/-- The first of a core's engines in its rotation (R78), if any satisfies a condition. -/
def State.nextEngine (s : State) (core : Nat) (ok : Nat → Bool) : Option (Nat × List Event) :=
  let es := s.engines core
  (List.range 14).findSome? fun i =>
    let e := ((s.core core).engLast + 1 + i) % 14
    if ok e then es.find? fun x => x.1 = e else none

/-- An engine has the port, or none; the others that want it are passed over once more (R78). -/
def State.enginePass (s : State) (core : Nat) (got : Option Nat) : State :=
  let wants := (s.engines core).map (·.1)
  let s := if got = some 13 then s.dbgTransfer core else s
  s.modCore core fun c =>
    { c with
        portEng := if got.isSome then s.cyc + 1 else c.portEng
        engLast := got.getD c.engLast
        engWait := (wants.filter fun e => got ≠ some e).map fun e => (e, SMap.get 0 c.engWait e + 1) }

/-- Whether an engine has been passed over for eight cycles in a row: it goes ahead of issue (R78). -/
def Core.starved (c : Core) (e : Nat) : Bool := 8 ≤ SMap.get 0 c.engWait e

/-- The starved engine of a core that takes the port ahead of issue. -/
def State.engineFirst (s : State) (core : Nat) : State × List Event :=
  if (s.core core).engWait.isEmpty || (s.core core).portHeld s.cyc then (s, [])
  else
    match s.nextEngine core (s.core core).starved with
    | none => (s, [])
    | some (e, l) => ((s.enginePass core (some e)).claimPort core, l)

/-- The engine of a core that takes the port once the issue stage has left it free. -/
def State.engineLate (s : State) (core : Nat) : State × List Event :=
  let c := s.core core
  if c.portEng = s.cyc + 1 || (c.engWait.isEmpty && (s.engines core).isEmpty) then (s, [])
  else if c.portHeld s.cyc || c.portIssue = s.cyc + 1 then (s.enginePass core none, [])
  else
    match s.nextEngine core fun _ => true with
    | none => (s.enginePass core none, [])
    | some (e, l) => (s.enginePass core (some e), l)

/-- The cores whose engines may want the port: those that hold a thread, and those that a channel or a debugger reaches; an answer
that fills a line goes to a thread. -/
def State.portCores (s : State) : List Nat :=
  let chans := s.clus.flatMap fun t => (List.range 4).flatMap fun ch =>
    (((s.chanAction t.1 ch 1).bind Todo.place).map Place.unit).toList
  let dbg := (s.live.filter fun t => t.2.phase = 51).map fun t => selCore t.1 (BitVec.ofNat 64 (t.2.buf.headD 0))
  (s.liveCores ++ chans ++ dbg).eraseDups

/-- The plan instruction that a cluster's plan unit carries on at the service-port turn of a store (R189, R248): the first to arrive, at
the line that it reads or writes next. -/
def State.planTurn (s : State) (clu kind : Nat) : List Event :=
  let ps := s.net.filter fun p => p.forPlan && p.arrived && p.dev = s.device && p.dst = clu
  let first := ps.foldl (fun (b : Option Packet) p => match b with
    | none => some p
    | some q => if q.lost = 0 && (p.lost ≠ 0 || p.due < q.due || (p.due = q.due && p.before q)) then some p else b) none
  match first with
  | none => []
  | some p => if p.due ≤ s.cyc && p.part.kind = kind && s.turnAt clu 17 p.part s.cyc then [.remoteAccess p.pid] else []

/-- What requester `k` of the rotation of R189 does at the service-port turn of a store: 0 to 3 the memory cores, 4 to 7 the
channels, 8 the plan unit. -/
def State.rotor (s : State) (clu kind k : Nat) : List Event :=
  if k < 4 then s.turnStep (clu * 20 + 16 + k) (kind - 1)
  else if k < 8 then s.chanStep clu (k - 4) kind
  else s.planTurn clu kind

/-- The requesters of classes 3 to 5 that want the service-port turn of a store (R189), each with what it does at it: those of the
rotation, 9 the isochrone loads, 11 the trace core's ring, and 10 the background scrubber, which wants every turn and leaves no
trace. -/
def State.svcUsers (s : State) (clu kind : Nat) : List (Nat × List Event) :=
  (((List.range 9).map fun k => (k, s.rotor clu kind k)) ++ [(9, s.isoLoad clu kind)]).filter (fun u => !u.2.isEmpty)
    ++ (if kind = 3 && s.ringWaits clu then [(11, [])] else []) ++ [(10, [])]

/-- The number under which a cluster keeps how long a requester has been passed over at a bank of a store. -/
def svcKey (kind bank r : Nat) : Nat := (16 * (kind - 2) + bank) * 16 + r

/-- Where a requester stands in the order of R189 at a turn, the least first: one passed over for sixteen revolutions by how long it
has been, then the class, then the rotation. -/
def State.svcRank (s : State) (clu kind bank r : Nat) : Nat :=
  let c := s.clu clu
  let last := SMap.get 8 c.svcLast (16 * (kind - 2) + bank)
  let since := SMap.get s.cyc c.svcWait (svcKey kind bank r)
  let cls := if r = 9 then 0 else if r = 11 then 2 else if r = 10 then 3 else 1
  (if since + 16 * c.wheel.revolution ≤ s.cyc then since else s.cyc + 1) * 64 + cls * 16 + (r + 8 - last) % 9

/-- The requester that comes first at a turn (R189). -/
def State.svcFirst (s : State) (clu kind bank : Nat) (us : List (Nat × List Event)) : Nat × List Event :=
  us.foldl (fun b u => if s.svcRank clu kind bank u.1 < s.svcRank clu kind bank b.1 then u else b) (us.headD (10, []))

/-- A turn of the service port has gone to requester `got`, or to classes 1 and 2: the others that wanted it are passed over, and the
rotation starts after `got` (R189). -/
def State.passOver (s : State) (clu kind bank : Nat) (us : List (Nat × List Event)) (got : Option Nat) : State :=
  let c := s.clu clu
  let waits := (List.range 12).foldl (fun m r =>
    let k := svcKey kind bank r
    if us.any (·.1 = r) && got ≠ some r then SMap.set m k (SMap.get s.cyc m k) else SMap.erase m k) c.svcWait
  match got with
  | some r =>
    if r < 9 then s.setClu clu { c with svcWait := waits, svcLast := SMap.set c.svcLast (16 * (kind - 2) + bank) r }
    else s.setClu clu { c with svcWait := waits }
  | none => s.setClu clu { c with svcWait := waits }

/-- The step that takes the service-port turn of a cluster at a store, in the order of R189; a refill and a walk whose home is
elsewhere take none. A turn that only the scrubber wants is left to an access that issues in the cycle. -/
def State.svcStep (s : State) (clu kind : Nat) : State × List Event :=
  match s.svcTurn clu with
  | none => (s, [])
  | some bank =>
    let here (p : Place) : Bool := p.kind = kind && portOwns clu p && s.svcAt clu p
    let us := s.svcUsers clu kind
    let ahead : Option (List Event) :=
      ((s.clu clu).misses.find? fun k => here (Place.ofKey k)).map (fun k => [.icacheRefill (clu, k)])
        <|> ((s.clu clu).walkers.find? fun w => w.place.any here).map (fun w => [.tableWalk (clu, w.root, w.va / 65536)])
        <|> (if s.copyingBank clu kind bank then some [.scrub clu (bank + 16 * (kind - 2))] else none)
    match ahead with
    | some l => ((((s.passOver clu kind bank us none).useTurn (svcPort clu) kind)).event clu 5, l)
    | none =>
      let (r, l) := s.svcFirst clu kind bank us
      if us.length = 1 then (if (s.clu clu).svcWait.isEmpty then s else s.passOver clu kind bank us (some r), [])
      else
        let t := (s.passOver clu kind bank us (some r)).useTurn (svcPort clu) kind
        (if r = 11 then t.ringWrite (cluDie clu) else if r < 4 then t else t.event clu 5, l)

/-- What an access issued in this cycle makes of a service-port turn that nothing has used (R189). -/
def State.svcLate (s : State) (clu kind : Nat) : State × List Event :=
  match s.svcTurn clu with
  | none => (s, [])
  | some bank =>
    let us := (s.svcUsers clu kind).filter fun u => u.1 < 4 || u.1 = 9 || u.1 = 10
    let (r, l) := s.svcFirst clu kind bank us
    if us.length = 1 then (s, [])
    else
      let t := s.passOver clu kind bank us (some r)
      (if r < 4 then t else t.event clu 5, l)

/-- The steps of a cluster's service port in one cycle, with the actions of its channels and refills that need no turn. -/
def State.svcSteps (s : State) (clu : Nat) : State × List Event :=
  let (s, a) := s.svcStep clu 2
  let (s, b) := s.svcStep clu 3
  let away (k : Nat) : Bool := !portOwns clu (Place.ofKey k) && s.portView clu true (Place.ofKey k) ≠ .later
  let free := (List.range 4).flatMap fun ch => s.chanStep clu ch 0
  (s, a ++ b ++ (((s.clu clu).misses.filter away).map fun k => .icacheRefill (clu, k))
    ++ (((s.clu clu).walkers.filter (s.walkAway clu)).map fun w => .tableWalk (clu, w.root, w.va / 65536)) ++ free)

/-- The turns of a cycle (R80, R81): of the cores, then of the service ports. -/
def State.turns (s : State) : State :=
  let (s, first) := s.portCores.foldl (fun (r : State × List Event) k =>
    let (t, l) := r.1.engineFirst k
    (t, r.2 ++ l)) (s, [])
  let cores := s.liveCores.flatMap fun k => if isMemCore k then [] else s.turnStep k 1 ++ s.turnStep k 2
  let clus := (s.clus.map (·.1) ++ s.live.map fun t => slotClu t.1).eraseDups
  let (s, svc) := clus.foldl (fun (r : State × List Event) c =>
    let (t, l) := r.1.svcSteps c
    (t, r.2 ++ l)) (s, [])
  let s := s.liveCores.foldl (fun s k =>
    if isMemCore k then s
    else [2, 3].foldl (fun s kind => if (s.turnStep k (kind - 1)).isEmpty then s else s.useTurn k kind) s) s
  { s with agenda := first ++ cores ++ svc, stage := 2 }

/-- The turns of a cycle that no access had used before its issue stages, and that an access issued in it takes (R81): it is
eligible in its issue cycle. Then the local-store ports go to the block buffers, and to an engine (R78). -/
def State.lateTurns (s : State) : State :=
  let free (core kind : Nat) : Bool := !s.turned.contains (2 * core + (kind - 2))
  let cores := s.liveCores.flatMap fun k =>
    [2, 3].flatMap fun kind => if isMemCore k || !free k kind then [] else s.turnStep k (kind - 1)
  let clus := ((s.live.filter fun t => !t.2.acc.isEmpty).map fun t => slotClu t.1).eraseDups
  let (s, svc) := clus.foldl (fun (r : State × List Event) c =>
    [2, 3].foldl (fun (r : State × List Event) kind =>
      if free (svcPort c) kind then
        let (t, l) := r.1.svcLate c kind
        (t, r.2 ++ l)
      else r) r) (s, [])
  let (s, eng) := s.portCores.foldl (fun (r : State × List Event) k =>
    let (t, l) := (r.1.blockCycle k).engineLate k
    (t, r.2 ++ l)) (s, [])
  { s with agenda := cores ++ svc ++ eng, stage := 4 }

/-! ## Issue -/

/-- Whether the issue stage of a core may issue in this cycle: its divider (R47), a move (R298), a halt that has stopped it
(R304). -/
def State.coreIssues (s : State) (core : Nat) : Bool :=
  let c := s.clu (coreClu core)
  (isMemCore core || s.cyc % dividerOf (s.core core).clkCur = 0) && !s.moving core && !c.dbg.halted
    && !c.dbg.stops (coreIdx core) s.cyc

/-- Whether a slot may issue in this cycle (R45), its instruction apart. -/
def State.mayIssue (s : State) (n : Nat) : Bool :=
  let x := s.slot n
  x.live && !x.leaving && !x.moving && x.escal.isNone && !x.unrestored.contains 0 && x.notBefore ≤ s.cyc
    && !s.reportDue n x
    && (match (s.clu (slotClu n)).dbg.step with
        | some (m, c) => m = n && c ≤ s.cyc
        | none => true)

/-- The slots of a core in the order in which its issue stage examines them (R45): after the one that issued last, a slot that
yields after the others (R64). -/
def State.slotOrder (s : State) (core : Nat) : List Nat :=
  let l := (List.range 8).map fun i => core * 8 + ((s.core core).last + 1 + i) % 8
  let l := l.filter fun n => (s.slot n).live
  let late (n : Nat) : Bool := decide (s.cyc < (s.slot n).yieldUntil)
  (l.filter fun n => !late n) ++ l.filter late

/-- The issue stages of a cycle. -/
def State.issueStage (s : State) : State :=
  let s := (s.live.filter fun t => !t.2.acc.isEmpty).foldl (fun s t => s.sendHeld t.1) s
  let s := (s.live.filter fun t => t.2.ports.any fun p => !p.pend.isEmpty).foldl (fun s t => s.pumpPorts t.1) s
  { s with sched := (s.liveCores.filter s.coreIssues).flatMap s.slotOrder, stage := 3 }

/-- A fetch that does not give an instruction (R27, R63): the thread waits, or traps at its PC. -/
def State.fetchHalt (s : State) : Halt → State
  | .trap t => (s.dropBadWalks.takeTrap s.cur t s.me.pc).issuedBy s.cur s.me.pc false
  | .trapWith t s' => (s'.dropBadWalks.takeTrap s.cur t s.me.pc).issuedBy s.cur s.me.pc false
  | .wait s' why => s'.modSlot s.cur fun x => { x with waiting := max why 1 }
  | .quit s' => s'

/-- What runs next: a step of the device, an instruction of the current thread or trace core, or nothing while the cycle only
goes on. -/
inductive Next where
  | event (e : Event)
  | instr (i : Instr)
  | goOn
  deriving DecidableEq, Repr

/-- The mark of a slot that is examined again in a cycle in which its waiting instruction has completed. -/
def again : Nat := 2 ^ 20

/-- Whether the waiting instruction of a slot has completed before the cycle, so that the next one may issue in it: an array load
(R265, R266), an `ISCAP` (R268), a `BLD` (R98), an access of `DBG_DATA` (R302), or a `CALLRM` whose caller is ready again (R73). -/
def State.completedWait (s : State) (n : Nat) : Bool :=
  let x := s.slot n
  x.phase = 31 || x.phase = 32 || x.phase = 24 || x.phase = 52
    || x.calls.any fun c => c.1 = x.pc && c.2.2.1 = 0 && !s.tokenArmed c.2.1

/-- One slot is examined: the instruction that it runs, if it has one (R45). One that has issued and waits takes no issue
opportunity; where it has completed, the next instruction may issue in the same cycle. -/
def State.attempt (s : State) (m : Nat) : State × Next :=
  let n := m % again
  let s := { s with cur := n }
  if !s.mayIssue n || ((s.core (slotCore n)).issued && !s.me.hasIssued) then (s, .goOn)
  else
    match fetchInstr s with
    | .ok (i, t) => ({ t with sched := if s.completedWait n && m < again then (n + again) :: t.sched else t.sched }, .instr i)
    | .error h => (s.fetchHalt h, .goOn)

/-- The clusters whose step has issued its instruction (R306). -/
def State.stepsDone (s : State) : List Event :=
  (s.clus.filter fun t => t.2.dbg.step.any fun p =>
    let c := s.core (slotCore p.1)
    c.issued && c.issuedSlot = slotIdx p.1).map fun t => .stepDone t.1

/-! ## What comes next -/

/-- The filter instruction that the trace core of a die runs (R311, R312): a word that is none drops the record. -/
def State.filterNext (s : State) (die : Nat) : State × Next :=
  let s := { s with fdie := die }
  match (s.die die).run with
  | none => (s, .goOn)
  | some r =>
    match decodeFilter (((s.die die).fmem[r.idx]?).getD 0) with
    | some i => (s, .instr i)
    | none => (s.modDie die fun d => { d with run := none }, .goOn)

/-- What the machine does next, and the state in which it does it. -/
def State.next (s : State) : State × Next :=
  match s.agenda, s.frun, s.sched with
  | e :: rest, _, _ => ({ s with agenda := rest }, .event e)
  | [], d :: ds, _ => ({ s with frun := ds } : State).filterNext d
  | [], [], n :: ns => ({ s with sched := ns } : State).attempt n
  | [], [], [] =>
    match s.stage with
    | 0 => (s.beginCycle, .goOn)
    | 1 => (s.turns, .goOn)
    | 2 => (s.issueStage, .goOn)
    | 3 => (s.lateTurns, .goOn)
    | _ => ({ s.completeTagged with agenda := s.stepsDone, stage := 0 }, .goOn)

/-! ## Placing an instruction -/

/-- The region block of a thread that is placed for one instruction (log entry 6): the whole local store, and a partition of
the own cluster. -/
def placedEff : Eff :=
  { rcb := (comPlace 0 0).key, id := 1, chain := [1], rcbs := [(comPlace 0 0).key], part := [0], lsbound := 0x40000
    budget := 0, quota := [8, 4, 2, 2, 1] }

/-- The class of a thread that may issue an instruction whose base word has a major opcode (R11): S where any may. -/
def placedClass (maj number : Nat) : Nat :=
  if 0x24 ≤ maj ∧ maj ≤ 0x2F then 1
  else if 0x30 ≤ maj ∧ maj ≤ 0x35 then 2
  else if maj = 0x1B then 3
  else if maj = 0x1E then 4
  else if maj = 0x1F ∨ maj = 0x20 then
    if 0x010 ≤ number ∧ number ≤ 0x018 then 2
    else if 0x020 ≤ number ∧ number ≤ 0x02F then 3
    else if 0x040 ≤ number ∧ number ≤ 0x042 then 4
    else 0
  else 0

/-- A thread about to issue the instruction that a number's low 160 bits hold, in a cycle at slot 0's turn (log entry 6). -/
def State.placeCode (s : State) (w : Nat) : State :=
  let maj := w / 2 ^ 24 % 64
  let number := if w / 2 ^ 31 % 2 = 1 then w / 2 ^ 64 % 2 ^ 32 else w % 4096
  let pc : Word := 0x100000000
  let x : Slot :=
    { live := true, cls := placedClass maj number, cont := s.contNext, pc := pc, pw := 0x80000000#32
      rcb := placedEff.rcb, region := placedEff.id, fbuf := [(pc, w % 2 ^ 160, s.cyc)]
      trap := { priv := true, tmode := decide (maj = 0x21 ∧ w % 64 = 1) } }
  { ((s.setSlot 0 x).cacheEff placedEff.rcb placedEff).modCore 0 fun c => { c with issued := false } with
    contNext := s.contNext + 1, agenda := [], frun := [], sched := [0], stage := 3 }

/-- A filter run of die 0 about to run the instruction that a 16-bit word holds (log entry 6). -/
def State.placeFilter (s : State) (w : Nat) : State :=
  { s.modDie 0 fun d => { d with en := true, fen := true, flen := 63, fmem := d.fmem.set! 0 (BitVec.ofNat 16 w)
                                 run := some { word := 0, tag := 0 } } with
    agenda := [], frun := [0] }

end Sys2Proof.Machine
end

