-- ==== Sys2Proof/Machine/Dispatch.lean ====
section
/-! DEFINITION. The meaning of every instruction, by name. -/

namespace Sys2Proof.Machine

def exec (i : Instr) (s : State) : Host.Outcome State Fault Refusal :=
  match i with
  | .nop f => Sys2Proof.Machine.execNop f s
  | .yield f => Sys2Proof.Machine.execYield f s
  | .realign f => Sys2Proof.Machine.execRealign f s
  | .add d a b f => Sys2Proof.Machine.execAdd d a b f s
  | .sub d a b f => Sys2Proof.Machine.execSub d a b f s
  | .and d a b f => Sys2Proof.Machine.execAnd d a b f s
  | .or d a b f => Sys2Proof.Machine.execOr d a b f s
  | .xor d a b f => Sys2Proof.Machine.execXor d a b f s
  | .andn d a b f => Sys2Proof.Machine.execAndn d a b f s
  | .shl d a b f => Sys2Proof.Machine.execShl d a b f s
  | .shr d a b f => Sys2Proof.Machine.execShr d a b f s
  | .sar d a b f => Sys2Proof.Machine.execSar d a b f s
  | .rol d a b f => Sys2Proof.Machine.execRol d a b f s
  | .min d a b f => Sys2Proof.Machine.execMin d a b f s
  | .max d a b f => Sys2Proof.Machine.execMax d a b f s
  | .minn d a b f => Sys2Proof.Machine.execMinn d a b f s
  | .maxn d a b f => Sys2Proof.Machine.execMaxn d a b f s
  | .mul d a b f => Sys2Proof.Machine.execMul d a b f s
  | .mulh d a b f => Sys2Proof.Machine.execMulh d a b f s
  | .mulhn d a b f => Sys2Proof.Machine.execMulhn d a b f s
  | .div d a b f => Sys2Proof.Machine.execDiv d a b f s
  | .divn d a b f => Sys2Proof.Machine.execDivn d a b f s
  | .rem d a b f => Sys2Proof.Machine.execRem d a b f s
  | .remn d a b f => Sys2Proof.Machine.execRemn d a b f s
  | .clz d a f => Sys2Proof.Machine.execClz d a f s
  | .popc d a f => Sys2Proof.Machine.execPopc d a f s
  | .ctz d a f => Sys2Proof.Machine.execCtz d a f s
  | .addi d a imm f => Sys2Proof.Machine.execAddi d a imm f s
  | .andi d a imm f => Sys2Proof.Machine.execAndi d a imm f s
  | .ori d a imm f => Sys2Proof.Machine.execOri d a imm f s
  | .xori d a imm f => Sys2Proof.Machine.execXori d a imm f s
  | .shfi d a o n f => Sys2Proof.Machine.execShfi d a o n f s
  | .movi d imm f => Sys2Proof.Machine.execMovi d imm f s
  | .cmp d a b c f => Sys2Proof.Machine.execCmp d a b c f s
  | .cmpi d a c imm f => Sys2Proof.Machine.execCmpi d a c imm f s
  | .pand d a b f => Sys2Proof.Machine.execPand d a b f s
  | .por d a b f => Sys2Proof.Machine.execPor d a b f s
  | .pxor d a b f => Sys2Proof.Machine.execPxor d a b f s
  | .pandn d a b f => Sys2Proof.Machine.execPandn d a b f s
  | .pnot d a f => Sys2Proof.Machine.execPnot d a f s
  | .pset d f => Sys2Proof.Machine.execPset d f s
  | .pclr d f => Sys2Proof.Machine.execPclr d f s
  | .pmovr d f => Sys2Proof.Machine.execPmovr d f s
  | .pmovw a f => Sys2Proof.Machine.execPmovw a f s
  | .sel d a b n p f => Sys2Proof.Machine.execSel d a b n p f s
  | .lea d a b sh f => Sys2Proof.Machine.execLea d a b sh f s
  | .bitf d b f => Sys2Proof.Machine.execBitf d b f s
  | .br g p o => Sys2Proof.Machine.execBr g p o s
  | .call g p o => Sys2Proof.Machine.execCall g p o s
  | .jmpr a f => Sys2Proof.Machine.execJmpr a f s
  | .callg d a f => Sys2Proof.Machine.execCallg d a f s
  | .ret a f => Sys2Proof.Machine.execRet a f s
  | .callrm d a b f => Sys2Proof.Machine.execCallrm d a b f s
  | .reply a b f => Sys2Proof.Machine.execReply a b f s
  | .wpset a f => Sys2Proof.Machine.execWpset a f s
  | .semwait n f => Sys2Proof.Machine.execSemwait n f s
  | .sempost n f => Sys2Proof.Machine.execSempost n f s
  | .ld d a w o f => Sys2Proof.Machine.execLd d a w o f s
  | .lds d a w o f => Sys2Proof.Machine.execLds d a w o f s
  | .st d a w o f => Sys2Proof.Machine.execSt d a w o f s
  | .ldx d a b h sh w f => Sys2Proof.Machine.execLdx d a b h sh w f s
  | .stx d a b h w f => Sys2Proof.Machine.execStx d a b h w f s
  | .bat d a b z o f => Sys2Proof.Machine.execBat d a b z o f s
  | .batCas d a b z f => Sys2Proof.Machine.execBatCas d a b z f s
  | .bst a b f => Sys2Proof.Machine.execBst a b f s
  | .bld a b f => Sys2Proof.Machine.execBld a b f s
  | .waitw d a b c f => Sys2Proof.Machine.execWaitw d a b c f s
  | .seal a b f => Sys2Proof.Machine.execSeal a b f s
  | .unseal a b f => Sys2Proof.Machine.execUnseal a b f s
  | .wturn a f => Sys2Proof.Machine.execWturn a f s
  | .turnq d a f => Sys2Proof.Machine.execTurnq d a f s
  | .rld d a f => Sys2Proof.Machine.execRld d a f s
  | .rst a b f => Sys2Proof.Machine.execRst a b f s
  | .rldv d a f => Sys2Proof.Machine.execRldv d a f s
  | .rstv a b f => Sys2Proof.Machine.execRstv a b f s
  | .rat d a b f => Sys2Proof.Machine.execRat d a b f s
  | .pbind d a f => Sys2Proof.Machine.execPbind d a f s
  | .mcast d a b f => Sys2Proof.Machine.execMcast d a b f s
  | .pclose a f => Sys2Proof.Machine.execPclose a f s
  | .pstat d a f => Sys2Proof.Machine.execPstat d a f s
  | .cpfwd d a b f => Sys2Proof.Machine.execCpfwd d a b f s
  | .cpwait d a b f => Sys2Proof.Machine.execCpwait d a b f s
  | .cbinit d a b f => Sys2Proof.Machine.execCbinit d a b f s
  | .cbprod d a b f => Sys2Proof.Machine.execCbprod d a b f s
  | .cbcons d a b f => Sys2Proof.Machine.execCbcons d a b f s
  | .cbstat d a f => Sys2Proof.Machine.execCbstat d a f s
  | .fence sh k e f => Sys2Proof.Machine.execFence sh k e f s
  | .bari a b f => Sys2Proof.Machine.execBari a b f s
  | .bara d a b f => Sys2Proof.Machine.execBara d a b f s
  | .barw a b f => Sys2Proof.Machine.execBarw a b f s
  | .bart d a f => Sys2Proof.Machine.execBart d a f s
  | .spawn d a b f => Sys2Proof.Machine.execSpawn d a b f s
  | .enq a b f => Sys2Proof.Machine.execEnq a b f s
  | .park a b f => Sys2Proof.Machine.execPark a b f s
  | .endT f => Sys2Proof.Machine.execEndT f s
  | .migr a f => Sys2Proof.Machine.execMigr a f s
  | .disp d f => Sys2Proof.Machine.execDisp d f s
  | .tdone a f => Sys2Proof.Machine.execTdone a f s
  | .planw a f => Sys2Proof.Machine.execPlanw a f s
  | .plansw d f => Sys2Proof.Machine.execPlansw d f s
  | .rgsync a f => Sys2Proof.Machine.execRgsync a f s
  | .rgenter a f => Sys2Proof.Machine.execRgenter a f s
  | .rgexit f => Sys2Proof.Machine.execRgexit f s
  | .trel a f => Sys2Proof.Machine.execTrel a f s
  | .isclaim d f => Sys2Proof.Machine.execIsclaim d f s
  | .isrel f => Sys2Proof.Machine.execIsrel f s
  | .iswin a f => Sys2Proof.Machine.execIswin a f s
  | .ismode a f => Sys2Proof.Machine.execIsmode a f s
  | .isldw a f => Sys2Proof.Machine.execIsldw a f s
  | .isldv a f => Sys2Proof.Machine.execIsldv a f s
  | .isgo a f => Sys2Proof.Machine.execIsgo a f s
  | .iscap a b f => Sys2Proof.Machine.execIscap a b f s
  | .isclr f => Sys2Proof.Machine.execIsclr f s
  | .getc d r f => Sys2Proof.Machine.execGetc d r f s
  | .setc a r f => Sys2Proof.Machine.execSetc a r f s
  | .cpLaunch d f => Sys2Proof.Machine.execCpLaunch d f s
  | .trap a f => Sys2Proof.Machine.execTrap a f s
  | .eret f => Sys2Proof.Machine.execEret f s
  | .tlbinv a b f => Sys2Proof.Machine.execTlbinv a b f s
  | .whlset a b f => Sys2Proof.Machine.execWhlset a b f s
  | .whlsw a f => Sys2Proof.Machine.execWhlsw a f s
  | .bankret a f => Sys2Proof.Machine.execBankret a f s
  | .dbrk f => Sys2Proof.Machine.execDbrk f s
  | .tracew a f => Sys2Proof.Machine.execTracew a f s
  | .vld d a imm f => Sys2Proof.Machine.execVld d a imm f s
  | .vst d a imm f => Sys2Proof.Machine.execVst d a imm f s
  | .vldx d a b f => Sys2Proof.Machine.execVldx d a b f s
  | .vstx d a b f => Sys2Proof.Machine.execVstx d a b f s
  | .vadd d a b f => Sys2Proof.Machine.execVadd d a b f s
  | .vsub d a b f => Sys2Proof.Machine.execVsub d a b f s
  | .vmul d a b f => Sys2Proof.Machine.execVmul d a b f s
  | .vdiv d a b f => Sys2Proof.Machine.execVdiv d a b f s
  | .vmin d a b f => Sys2Proof.Machine.execVmin d a b f s
  | .vmax d a b f => Sys2Proof.Machine.execVmax d a b f s
  | .vsqrt d a f => Sys2Proof.Machine.execVsqrt d a f s
  | .vrcp d a f => Sys2Proof.Machine.execVrcp d a f s
  | .vrsq d a f => Sys2Proof.Machine.execVrsq d a f s
  | .vexp2 d a f => Sys2Proof.Machine.execVexp2 d a f s
  | .vlog2 d a f => Sys2Proof.Machine.execVlog2 d a f s
  | .vabs d a f => Sys2Proof.Machine.execVabs d a f s
  | .vneg d a f => Sys2Proof.Machine.execVneg d a f s
  | .vrint d a f => Sys2Proof.Machine.execVrint d a f s
  | .vfma d a b f => Sys2Proof.Machine.execVfma d a b f s
  | .vfms d a b f => Sys2Proof.Machine.execVfms d a b f s
  | .vfnma d a b f => Sys2Proof.Machine.execVfnma d a b f s
  | .viadd d a b f => Sys2Proof.Machine.execViadd d a b f s
  | .visub d a b f => Sys2Proof.Machine.execVisub d a b f s
  | .vimul d a b f => Sys2Proof.Machine.execVimul d a b f s
  | .vimulh d a b f => Sys2Proof.Machine.execVimulh d a b f s
  | .vand d a b f => Sys2Proof.Machine.execVand d a b f s
  | .vor d a b f => Sys2Proof.Machine.execVor d a b f s
  | .vxor d a b f => Sys2Proof.Machine.execVxor d a b f s
  | .vshl d a b f => Sys2Proof.Machine.execVshl d a b f s
  | .vshr d a b f => Sys2Proof.Machine.execVshr d a b f s
  | .vsar d a b f => Sys2Proof.Machine.execVsar d a b f s
  | .vimin d a b f => Sys2Proof.Machine.execVimin d a b f s
  | .vimax d a b f => Sys2Proof.Machine.execVimax d a b f s
  | .viminn d a b f => Sys2Proof.Machine.execViminn d a b f s
  | .vimaxn d a b f => Sys2Proof.Machine.execVimaxn d a b f s
  | .vimulhn d a b f => Sys2Proof.Machine.execVimulhn d a b f s
  | .vcvt d a sh t f => Sys2Proof.Machine.execVcvt d a sh t f s
  | .vcmp d a b c f => Sys2Proof.Machine.execVcmp d a b c f s
  | .kand d a b f => Sys2Proof.Machine.execKand d a b f s
  | .kor d a b f => Sys2Proof.Machine.execKor d a b f s
  | .kxor d a b f => Sys2Proof.Machine.execKxor d a b f s
  | .knot d a f => Sys2Proof.Machine.execKnot d a f s
  | .kpop d a f => Sys2Proof.Machine.execKpop d a f s
  | .kmovw d a f => Sys2Proof.Machine.execKmovw d a f s
  | .kmovk d a f => Sys2Proof.Machine.execKmovk d a f s
  | .vsel d a b f => Sys2Proof.Machine.execVsel d a b f s
  | .vradd d a f => Sys2Proof.Machine.execVradd d a f s
  | .vrmax d a f => Sys2Proof.Machine.execVrmax d a f s
  | .vrmin d a f => Sys2Proof.Machine.execVrmin d a f s
  | .vriadd d a f => Sys2Proof.Machine.execVriadd d a f s
  | .vrand d a f => Sys2Proof.Machine.execVrand d a f s
  | .vror d a f => Sys2Proof.Machine.execVror d a f s
  | .vrimax d a f => Sys2Proof.Machine.execVrimax d a f s
  | .vrimin d a f => Sys2Proof.Machine.execVrimin d a f s
  | .vbcast d a f => Sys2Proof.Machine.execVbcast d a f s
  | .vperm d a b f => Sys2Proof.Machine.execVperm d a b f s
  | .vrot d a b f => Sys2Proof.Machine.execVrot d a b f s
  | .vgetl d a b f => Sys2Proof.Machine.execVgetl d a b f s
  | .vsetl d a b f => Sys2Proof.Machine.execVsetl d a b f s
  | .viota d a f => Sys2Proof.Machine.execViota d a f s
  | .vflgr d f => Sys2Proof.Machine.execVflgr d f s
  | .vflgc f => Sys2Proof.Machine.execVflgc f s
  | .vatom d a b o p f => Sys2Proof.Machine.execVatom d a b o p f s
  | .tld d a b z g t f => Sys2Proof.Machine.execTld d a b z g t f s
  | .tst d a b f => Sys2Proof.Machine.execTst d a b f s
  | .tmma d a b c t f => Sys2Proof.Machine.execTmma d a b c t f s
  | .tzero d f => Sys2Proof.Machine.execTzero d f s
  | .tscale d a b f => Sys2Proof.Machine.execTscale d a b f s
  | .tadd d a b f => Sys2Proof.Machine.execTadd d a b f s
  | .tgetr d a b f => Sys2Proof.Machine.execTgetr d a b f s
  | .tputr d a b f => Sys2Proof.Machine.execTputr d a b f s
  | .tmask d a b f => Sys2Proof.Machine.execTmask d a b f s
  | .twait f => Sys2Proof.Machine.execTwait f s
  | .tcmd a b f => Sys2Proof.Machine.execTcmd a b f s
  | .kvcommit d a b f => Sys2Proof.Machine.execKvcommit d a b f s
  | .ldf d n => Sys2Proof.Machine.execLdf d n s
  | .ldi d imm => Sys2Proof.Machine.execLdi d imm s
  | .filterAdd d a => Sys2Proof.Machine.execFilterAdd d a s
  | .filterSub d a => Sys2Proof.Machine.execFilterSub d a s
  | .filterAnd d a => Sys2Proof.Machine.execFilterAnd d a s
  | .filterOr d a => Sys2Proof.Machine.execFilterOr d a s
  | .filterShr d sh => Sys2Proof.Machine.execFilterShr d sh s
  | .jeq a b o => Sys2Proof.Machine.execJeq a b o s
  | .jne a b o => Sys2Proof.Machine.execJne a b o s
  | .jlt a b o => Sys2Proof.Machine.execJlt a b o s
  | .cnt n => Sys2Proof.Machine.execCnt n s
  | .keep => Sys2Proof.Machine.execKeep s
  | .drop => Sys2Proof.Machine.execDrop s
  | .trig k => Sys2Proof.Machine.execTrig k s
  | .mark l => Sys2Proof.Machine.execMark l s
  | .traceRecord die => Sys2Proof.Machine.execTraceRecord die s
  | .waypointRecord core => Sys2Proof.Machine.execWaypointRecord core s
  | .halt clu => Sys2Proof.Machine.execHalt clu s
  | .haltEvent clu why core slot => Sys2Proof.Machine.execHaltEvent clu why core slot s
  | .halted clu => Sys2Proof.Machine.execHalted clu s
  | .resume clu => Sys2Proof.Machine.execResume clu s
  | .stepOne clu core slot => Sys2Proof.Machine.execStepOne clu core slot s
  | .stepDone clu => Sys2Proof.Machine.execStepDone clu s
  | .dbgData wr r f => Sys2Proof.Machine.execDbgData wr r f s
  | .trcCtl a f => Sys2Proof.Machine.execTrcCtl a f s
  | .trcFdata a f => Sys2Proof.Machine.execTrcFdata a f s
  | .raceClr a f => Sys2Proof.Machine.execRaceClr a f s
  | .capOut d f => Sys2Proof.Machine.execCapOut d f s
  | .resync => Sys2Proof.Machine.execResync s
  | .loadfw => Sys2Proof.Machine.execLoadfw s
  | .launch => Sys2Proof.Machine.execLaunch s
  | .reset => Sys2Proof.Machine.execReset s
  | .badOpcode => Sys2Proof.Machine.execBadOpcode s
  | .boot => Sys2Proof.Machine.execBoot s
  | .hostRead link off len => Sys2Proof.Machine.execHostRead link off len s
  | .hostWrite link off data => Sys2Proof.Machine.execHostWrite link off data s
  | .linkTraining n0 n1 n2 n3 hops => Sys2Proof.Machine.execLinkTraining n0 n1 n2 n3 hops s
  | .ptpLock t => Sys2Proof.Machine.execPtpLock t s
  | .sliceInstant => Sys2Proof.Machine.execSliceInstant s
  | .intervalBoundary => Sys2Proof.Machine.execIntervalBoundary s
  | .thermalCopy clu => Sys2Proof.Machine.execThermalCopy clu s
  | .thermalRemap clu => Sys2Proof.Machine.execThermalRemap clu s
  | .timerExpiry slot => Sys2Proof.Machine.execTimerExpiry slot s
  | .budgetExhausted clu region => Sys2Proof.Machine.execBudgetExhausted clu region s
  | .preemption slot reason => Sys2Proof.Machine.execPreemption slot reason s
  | .preemptSave slot => Sys2Proof.Machine.execPreemptSave slot s
  | .preemptEnqueue slot => Sys2Proof.Machine.execPreemptEnqueue slot s
  | .queueAging clu => Sys2Proof.Machine.execQueueAging clu s
  | .dispatch clu => Sys2Proof.Machine.execDispatch clu s
  | .contextRestore slot part => Sys2Proof.Machine.execContextRestore slot part s
  | .parkWake core => Sys2Proof.Machine.execParkWake core s
  | .deposit pid => Sys2Proof.Machine.execDeposit pid s
  | .remoteCall pid => Sys2Proof.Machine.execRemoteCall pid s
  | .matrixCommand pid => Sys2Proof.Machine.execMatrixCommand pid s
  | .migrationArrival pid => Sys2Proof.Machine.execMigrationArrival pid s
  | .migrationResend pid => Sys2Proof.Machine.execMigrationResend pid s
  | .remoteAccess pid => Sys2Proof.Machine.execRemoteAccess pid s
  | .responseDelivery pid => Sys2Proof.Machine.execResponseDelivery pid s
  | .lossNotice pid => Sys2Proof.Machine.execLossNotice pid s
  | .mcastDelivery pid => Sys2Proof.Machine.execMcastDelivery pid s
  | .streamOpen pid => Sys2Proof.Machine.execStreamOpen pid s
  | .streamWord pid => Sys2Proof.Machine.execStreamWord pid s
  | .streamEnd pid => Sys2Proof.Machine.execStreamEnd pid s
  | .streamTimeout slot port => Sys2Proof.Machine.execStreamTimeout slot port s
  | .streamAbort pid => Sys2Proof.Machine.execStreamAbort pid s
  | .groupWatchdog slot => Sys2Proof.Machine.execGroupWatchdog slot s
  | .packetForward pid => Sys2Proof.Machine.execPacketForward pid s
  | .laneDrop clu dir => Sys2Proof.Machine.execLaneDrop clu dir s
  | .routerGate clu => Sys2Proof.Machine.execRouterGate clu s
  | .routerWake clu => Sys2Proof.Machine.execRouterWake clu s
  | .turnService slot acc => Sys2Proof.Machine.execTurnService slot acc s
  | .waitwReread slot => Sys2Proof.Machine.execWaitwReread slot s
  | .wheelSwap outer unit => Sys2Proof.Machine.execWheelSwap outer unit s
  | .stripeCommit slot => Sys2Proof.Machine.execStripeCommit slot s
  | .bldPass slot => Sys2Proof.Machine.execBldPass slot s
  | .retirementSwap common unit => Sys2Proof.Machine.execRetirementSwap common unit s
  | .retirementDone common unit => Sys2Proof.Machine.execRetirementDone common unit s
  | .errorThreshold kind unit group bank => Sys2Proof.Machine.execErrorThreshold kind unit group bank s
  | .bankLoss common unit group bank => Sys2Proof.Machine.execBankLoss common unit group bank s
  | .scrub clu bank => Sys2Proof.Machine.execScrub clu bank s
  | .dramRequest chan => Sys2Proof.Machine.execDramRequest chan s
  | .refreshWindow chan => Sys2Proof.Machine.execRefreshWindow chan s
  | .copyTransferStart clu ch => Sys2Proof.Machine.execCopyTransferStart clu ch s
  | .copyLine clu ch => Sys2Proof.Machine.execCopyLine clu ch s
  | .copyStamp clu ch => Sys2Proof.Machine.execCopyStamp clu ch s
  | .chainHop clu ch => Sys2Proof.Machine.execChainHop clu ch s
  | .copyStop clu ch cause => Sys2Proof.Machine.execCopyStop clu ch cause s
  | .footprintRelease clu job => Sys2Proof.Machine.execFootprintRelease clu job s
  | .kvcommitHoldEnd slot => Sys2Proof.Machine.execKvcommitHoldEnd slot s
  | .unitCommand core => Sys2Proof.Machine.execUnitCommand core s
  | .isochronePass clu => Sys2Proof.Machine.execIsochronePass clu s
  | .fetchServe clu => Sys2Proof.Machine.execFetchServe clu s
  | .icacheRefill block => Sys2Proof.Machine.execIcacheRefill block s
  | .tableWalk walk => Sys2Proof.Machine.execTableWalk walk s
  | .reportTaken slot => Sys2Proof.Machine.execReportTaken slot s
  | .escalation slot => Sys2Proof.Machine.execEscalation slot s
  | .bindRecordWrite clu idx val => Sys2Proof.Machine.execBindRecordWrite clu idx val s
  | .wearRotation clu core => Sys2Proof.Machine.execWearRotation clu core s
  | .uncorrectableError key => Sys2Proof.Machine.execUncorrectableError key s

end Sys2Proof.Machine
end

