-- ==== Sys2Proof/Machine/Step.lean ====
section
/-! DEFINITION. One step of the machine: what comes next in the cycle is chosen by Cycle.lean and runs here. -/

namespace Sys2Proof.Machine

/-- One step: a step of the device that is due, one instruction of a thread or of a trace core, or the cycle going on. -/
def step (s : State) : Host.Outcome State Fault Refusal :=
  match s.next with
  | (t, .event e) => e.run t
  | (t, .instr i) => exec i t
  | (t, .goOn) => .next t

/-- The state with an instruction placed where `step` takes its next one from (log entry 6): a 16-bit word in the running
filter of die 0, any other in the fetch buffer of slot 0, whose turn to issue it is. -/
def State.withFetchWord (s : State) (nbits w : Nat) : State :=
  if nbits ≤ 16 then s.placeFilter w else s.placeCode (w % 2 ^ nbits)

end Sys2Proof.Machine
end

