-- ==== Sys2Proof/Safety.lean ====
section
/-! DEFINITION. The terms of the claims: what a safe run is; when an instruction is ready to execute (R43 to R46); what its
operands read as and what writing its destination does; and what an instruction that has completed leaves. -/

namespace Sys2Proof

/-- A run of `n` steps from a state that ends in a next state. -/
def Runs (n : Nat) (s t : Machine.State) : Prop := core.run n s = .next t

/-- Every step of a run of `n` steps answers a next state. -/
def SafeFor (n : Nat) (s : Machine.State) : Prop := ∃ t, Runs n s t

namespace Machine

/-- The state in which an instruction's own effect begins: the thread waits for no port, and the register cache holds the
words of its workspace where the instruction names one (R48). -/
def State.entered (s : State) (r : Raw) : State :=
  let u := s.modSlot s.cur fun x => { x with rxWait := none }
  if r.needsCache s.me then u.refill s.cur else u

/-- An instruction may issue (R43 to R46): its encoding, class and privilege are right, and every register, control register
and unit of charge that it needs is available. -/
structure Issues (i : Instr) (r : Raw) (s : State) : Prop where
  raw : i.raw = some r
  live : s.me.live = true
  wf : i.wf = true
  cls : ∀ c, r.needsClass = some c → c = s.me.cls
  priv : r.needsPriv = true → s.me.privileged = true
  tmode : r.isEret = true → s.me.trap.tmode = true
  time : s.me.notBefore ≤ s.cyc
  plain : ∀ o ∈ s.me.owed, ¬ (11 ≤ o.what ∧ o.what ≤ 13)
  regs : ∀ q ∈ r.resources, s.me.ready s.cyc q = true
  ctl : ∀ w ∈ s.setcs, ¬ (w.slot = s.cur ∧ w.cont = s.me.cont ∧ w.reg ∈ r.ctlRegs)
  shared : ∀ p ∈ r.roles, (p.2.2 = .dst ∨ p.2.2 = .both ∨ p.2.2 = .reply ∨ p.2.2 = .remote) → sharedBusy s p.2.1 = false
  cache : r.needsCache s.me = true →
    s.me.ready s.cyc (.spec 51) = true ∧ (s.core (slotCore s.cur)).portFirst s.cyc = false
  covers : s.me.begun = true ∨ s.covers r.charge = true

/-- An instruction executes: it may issue, its guard holds, its operands are right, and the part of a saved context that it
names has been restored (R43, R44, R346). -/
structure Ready (i : Instr) (r : Raw) (s : State) : Prop extends Issues i r s where
  guard : guardHolds r s.me = true
  operands : r.badOperand = none
  context : ∀ p, r.touches = some p → p ∉ s.me.unrestored

/-- The local address of the slot that a buffer operand names (R195), where enough slots are filled, or free. -/
def State.bufferAt? (s : State) (f : Form) (x : Spec) (tail : Bool) : Option Nat :=
  let h := handleOf s x
  let c := f.c.toNat
  if h.scount = 0 ∨ h.scount < c ∨ (if tail then h.scount - h.fill else h.fill) < c then none
  else some (h.base + (if tail then h.tail else h.head) * h.ssize)

/-- What a source operand reads as (R34), where it has a value: a register, the word at the head of a port (R172), `pv` (R69)
or a word of a buffer slot that the order of the thread's accesses lets it read (R195, R204). -/
def State.reads (s : State) (f : Form) (x : Spec) : Option Word :=
  match s.value? s.cur x with
  | some v => some v
  | none =>
    if isPort x then ((s.me.ports[x.toNat % 8]?).bind fun p => p.queue.head?).map (·.1)
    else if x = 48 then (if s.cyc < s.me.pvAt then none else s.me.pv)
    else if isHandle x then
      match s.bufferAt? f x false with
      | some a =>
        let p := localPlace (slotCore s.cur) a
        if s.ordered p s.windowOrd 8 false ∨ s.isPoisoned p 8 ∨ (s.core (slotCore s.cur)).portHeld s.cyc then none
        else some (BitVec.ofNat 64 (s.readMem p.key 8))
      | none => none
    else none

/-- The B operand: the literal where the words have one (R33). -/
def State.readsB (s : State) (f : Form) (b : Spec) : Option Word := if f.hasLit then some f.litVal else s.reads f b

/-- A read of a buffer slot takes the local-store port for the cycle (R78); any other read changes nothing. -/
def State.touched (s : State) (x : Spec) : State :=
  if isHandle x then s.modCore (slotCore s.cur) fun c => { c with portIssue := s.cyc + 1 } else s

def State.touchedB (s : State) (f : Form) (b : Spec) : State := if f.hasLit then s else s.touched b

/-- A destination can take a result now (R34, R69, R73, R171, R195): a port holds its route and has a credit of the first hop; a
buffer slot is free, and no order, tile load or claim of the local-store port holds it. -/
def State.canWrite (s : State) (f : Form) (x : Spec) : Prop :=
  if isPort x then
    let p := (s.me.ports[x.toNat % 8]?).getD {}
    p.bound = true ∧ p.lost = false ∧ p.isOpen = true ∧ s.hopRoom s.cur (x.toNat % 8) = true ∧
      s.me.portPending (x.toNat % 8) = false
  else if isHandle x then
    (∃ a, s.bufferAt? f x true = some a ∧ s.ordered (localPlace (slotCore s.cur) a) s.windowOrd 8 true = false ∧
      s.tileHolds (localPlace (slotCore s.cur) a) 8 = false) ∧ (s.core (slotCore s.cur)).portHeld s.cyc = false
  else if x = 49 then (s.slot (nextSlot s.cur)).live = true →
    (s.slot (nextSlot s.cur)).pv = none ∧ (s.slot (nextSlot s.cur)).pvClaim = none
  else isArmed s x = false

/-- The state after a result is written to a destination (R34): a general register, a port word (R171), a buffer slot (R195),
`pv` of the next slot (R69), a core-shared register (R68), or nowhere (`wz`). -/
def State.put (s : State) (f : Form) (x : Spec) (v : Word) (lat : Nat) : State :=
  if isPort x then s.portWord s.cur (x.toNat % 8) v f.endMark
  else if isHandle x then
    match s.bufferAt? f x true with
    | some a =>
      (s.modCore (slotCore s.cur) fun c => { c with portIssue := s.cyc + 1 }).store (localPlace (slotCore s.cur) a) v.toNat 8
    | none => s
  else if x.toNat < 32 then s.modSlot s.cur fun y => (y.setReg x v).later (.spec x) (s.cyc + lat)
  else if x = 49 then
    if (s.slot (nextSlot s.cur)).live then
      s.modSlot (nextSlot s.cur) fun y => { y with pv := some v, pvAt := s.cyc + lat }
    else s
  else if 52 ≤ x.toNat ∧ x.toNat ≤ 55 then
    (s.setShared s.cur (x.toNat - 52) v (s.cyc + lat)).modSlot s.cur fun y => y.later (.spec x) (s.cyc + lat)
  else s

/-- A destination can take the result of an instruction that has been performed (R23): a word for a port waits there. -/
def State.canTake (s : State) (f : Form) (x : Spec) : Prop := isPort x = true ∨ s.canWrite f x

/-- The state after such a result, whose value came in cycle `c`, is written to its destination (R23, R46). -/
def State.putLate (s : State) (f : Form) (x : Spec) (v : Word) (c : Nat) : State :=
  if isPort x then s.deliver s.cur 0 s.me.wp x v f.endMark c else s.put f x v (c + 3 - s.cyc)

/-- The state after a predicate is written (R50): a write to `p31` is discarded. -/
def State.putPred (s : State) (p : BitVec 5) (v : Bool) (lat : Nat) : State :=
  if p = 31 then s
  else s.modSlot s.cur fun x =>
    Slot.later { x with pw := if v then x.pw ||| (1#32 <<< p.toNat) else x.pw &&& ~~~(1#32 <<< p.toNat) } (.pred p) (s.cyc + lat)

/-- The base of an address (R195): a buffer slot, with the bytes that its buffer covers, or a value. -/
def State.baseAt (s : State) (f : Form) (a : Spec) (tail : Bool) : Option (Word × Option (Nat × Nat)) :=
  if isHandle a then
    let h := handleOf s a
    (s.bufferAt? f a tail).map fun k => (BitVec.ofNat 64 k, some (h.base, h.base + h.ssize * h.scount))
  else (s.reads f a).map fun v => (v, none)

/-- The current thread has one more access that waits for its turns (R81), or for its DRAM channel (R200). -/
def State.withAccess (s : State) (a : Access) : State :=
  let x := s.me
  let a := { a with id := x.accNext, issued := max a.issued s.cyc, pc := x.pc, ws := x.wp }
  (a.units.filter fun u => u.place.kind = 4).foldl
    (fun s u => s.modDram u.place.unit fun d =>
      if d.queue.length < 16 then { d with queue := d.queue ++ [(s.cur, a.id)] } else d)
    (s.modSlot s.cur fun x => { x with acc := x.acc ++ [a], accNext := x.accNext + 1 })

/-- A thread has room for one more access (R81), and the queue of every channel that it names room for one of its units (R200). -/
def State.hasRoom (s : State) (a : Access) : Prop :=
  s.me.acc.length < 4 ∧ ∀ u ∈ a.units, u.place.kind = 4 → (s.dram u.place.unit).queue.length < 16

/-- A load into `nx`, the thread's latest access, has claimed the next slot's `pv` (R69). -/
def State.claimed (s : State) (d : Spec) : State :=
  if d = 49 ∧ (s.slot (nextSlot s.cur)).live = true then
    s.modSlot (nextSlot s.cur) fun y => { y with pvClaim := some (s.me.accNext - 1) }
  else s

/-- The local-store port is free for an instruction in this cycle, and taken by it (R78). -/
def State.portFree (s : State) : Prop := (s.core (slotCore s.cur)).portHeld s.cyc = false
def State.portTaken (s : State) : State := s.modCore (slotCore s.cur) fun c => { c with portIssue := s.cyc + 1 }

/-- A check passes: it ends no instruction and changes nothing. -/
def Passes (c : M Unit) (s : State) : Prop := c s = .ok ((), s)

/-- A bucket that has paid a charge, and the counter of charges (R327, R330). -/
def Cluster.paid (x : Cluster) (n : Nat) : Cluster :=
  { x with chgLvl := x.chgLvl - n, tel := { x.tel with live := x.tel.live.set! 0 (x.tel.live[0] + n) } }

/-- A core whose issue stage has just issued an instruction of a slot (R45, R309). -/
def Core.noted (x : Core) (slot : Nat) (pc : Word) : Core :=
  { x with last := slotIdx slot, issued := true, issuedSlot := slotIdx slot, issuedPc := pc }

/-- What an instruction leaves whose own effect has ended in `v`: the state of `v`, and with it only that the thread's program
counter has moved past the words, that the core notes the issue, and that the cluster's bucket has paid the charge (R25, R45,
R327). Every byte of memory, every other slot and every other unit is that of `v`. -/
structure Finished (r : Raw) (s v t : State) : Prop where
  slot : t.slot s.cur =
    { v.slot s.cur with
        pc := (v.slot s.cur).pc + BitVec.ofNat 64 r.f.size, phase := 0, buf := [], sampled := none, waiting := 0
        trap := { (v.slot s.cur).trap with wskip := (v.slot s.cur).trap.wskip && s.me.hasIssued } }
  slots : ∀ n, n ≠ s.cur → t.slot n = v.slot n
  cores : ∀ c, t.core c =
    if c = slotCore s.cur ∧ s.me.hasIssued = false then (v.core c).noted s.cur s.me.pc else v.core c
  clus : ∀ c, t.clu c =
    if c = slotClu s.cur ∧ s.me.begun = false ∧ isMemCore (slotCore s.cur) = false ∧ (v.clu c).pwrChg = true then
      (v.clu c).paid r.charge
    else v.clu c
  rest : t = { v with slots := t.slots, cores := t.cores, clus := t.clus }
  mem : ∀ a, t.mem.read a = v.mem.read a

/-- As `Finished`, of an instruction that has placed the program counter itself. -/
structure Placed (r : Raw) (s v t : State) : Prop where
  slot : t.slot s.cur =
    { v.slot s.cur with
        waiting := 0
        trap := { (v.slot s.cur).trap with wskip := (v.slot s.cur).trap.wskip && (r.isEret || s.me.hasIssued) } }
  slots : ∀ n, n ≠ s.cur → t.slot n = v.slot n
  cores : ∀ c, t.core c =
    if c = slotCore s.cur ∧ s.me.hasIssued = false then (v.core c).noted s.cur s.me.pc else v.core c
  clus : ∀ c, t.clu c =
    if c = slotClu s.cur ∧ s.me.begun = false ∧ isMemCore (slotCore s.cur) = false ∧ (v.clu c).pwrChg = true then
      (v.clu c).paid r.charge
    else v.clu c
  rest : t = { v with slots := t.slots, cores := t.cores, clus := t.clus }
  mem : ∀ a, t.mem.read a = v.mem.read a

/-- An instruction that has raised a cause outside trap service (R278), `u` being the state with the part of its effect that has
been performed (R7): the saved address, status and workspace, the record, trap service, the trap workspace and the handler's
address; the dirty words of the register cache are written back, and nothing else changes. -/
structure Trapped (x : TrapRec) (s u t : State) : Prop where
  slot : t.slot s.cur =
    { u.slot s.cur with
        pc := (u.clu (slotClu s.cur)).trapbase + BitVec.ofNat 64 (64 * x.cause)
        wp := (u.core (slotCore s.cur)).twsbase + BitVec.ofNat 64 (256 * slotIdx s.cur)
        absent := true, dirty := 0, fbuf := [], freq := none, notBefore := u.cyc + 4, phase := 0, buf := [], sampled := none
        waiting := 0
        trap := { (u.slot s.cur).trap with
          tmode := true, wskip := (u.slot s.cur).trap.wskip && s.me.hasIssued
          tepc := (u.slot s.cur).pc, tepw := (u.slot s.cur).pw, tewp := (u.slot s.cur).wp
          trec0 := x.word0, trec1 := x.pc, trec2 := x.addr, trec3 := x.info, tile := x.tile } }
  slots : ∀ n, n ≠ s.cur → t.slot n = u.slot n
  mem : t.mem = (u.writeBack s.cur).mem
  cores : ∀ c, ∃ q l i k p, t.core c =
    { u.core c with portClaim := q, last := l, issued := i, issuedSlot := k, issuedPc := p }
  clus : ∀ c, ∃ w, t.clu c = { u.clu c with walks := w }
  rest : t = { u with slots := t.slots, cores := t.cores, clus := t.clus, mem := t.mem, poison := t.poison }

end Machine
end Sys2Proof
end

