-- ==== Sys2Proof/Certificates/Slice0/Obligations.lean ====
section
/-! DEFINITION. The statements that the provers are asked to prove, each from a rule of the spec, with the tables of
instructions and the terms that several of them share. -/

namespace Sys2Proof.Claims
end Sys2Proof.Claims

open Sys2Proof Sys2Proof.Machine Sys2Proof.Claims

/-! ## What holds of every machine instruction -/

/-- R48, R78: as an effect begins, every byte of memory is as it was, and so is every other slot; a register cache that was absent
holds, for an instruction that names a register, the words of the workspace in the local store. -/
def Sys2Proof.Claims.EffectBegins : Prop :=
  ∀ (r : Raw) (s : State),
    (∀ a, (s.entered r).mem.read a = s.mem.read a) ∧ (∀ n, n ≠ s.cur → (s.entered r).slot n = s.slot n) ∧
    (∀ c, (s.entered r).clu c = s.clu c) ∧
    (r.needsCache s.me = false → (s.entered r).me = { s.me with rxWait := none } ∧ ∀ c, (s.entered r).core c = s.core c) ∧
    (r.needsCache s.me = true → (s.entered r).me = { s.me with rxWait := none, absent := false, dirty := 0, w := (s.entered r).me.w } ∧
      ∀ k < 32, (s.entered r).me.reg (BitVec.ofNat 6 k)
        = BitVec.ofNat 64 (s.readMem (localPlace (slotCore s.cur) (s.me.wp.toNat + 8 * k)).key 8))

/-- R34, R68, R69, R195: a result is written to the named register and nowhere else: a general register keeps every other one, `wz`
keeps them all, a core-shared register is queued for every thread of the core, `nx` deposits into the next slot, and no byte of
memory changes but those of a buffer slot. -/
def Obligations.DestinationWrites : Prop :=
  ∀ (s : State) (f : Form) (d : Spec) (v : Word) (lat : Nat),
    let t := s.put f d v lat
    (d.toNat < 32 → t.me.reg d = v ∧ (∀ e : Spec, e.toNat < 32 → e ≠ d → t.me.reg e = s.me.reg e) ∧
      t.me.dirty.getLsbD d.toNat = true ∧ t.me.pw = s.me.pw ∧ (∀ c, t.core c = s.core c) ∧
      (∀ n, n ≠ s.cur → t.slot n = s.slot n)) ∧
    (d = 50 → t = s) ∧
    (52 ≤ d.toNat → d.toNat ≤ 55 → t.me.w = s.me.w ∧
      (t.core (slotCore s.cur)).spend = (s.core (slotCore s.cur)).spend ++ [⟨d.toNat - 52, v, s.cyc + lat, s.cur⟩]) ∧
    (d = 49 → nextSlot s.cur ≠ s.cur → (s.slot (nextSlot s.cur)).live = true →
      (t.slot (nextSlot s.cur)).pv = some v ∧ t.me = s.me) ∧
    (isHandle d = false → ∀ a, t.mem.read a = s.mem.read a) ∧
    (∀ k, s.bufferAt? f d true = some k →
      ∀ a, (a < (localPlace (slotCore s.cur) k).key ∨ (localPlace (slotCore s.cur) k).key + 8 ≤ a) →
        t.mem.read a = s.mem.read a)

/-- R19, R44: a machine instruction whose guard is false waits for its registers as an unguarded one does, for a word of each port
and for `pv` where it reads them and for an empty `pv` where it writes `nx`; then it completes, and changes nothing but the program
counter and when its destination is available. -/
def Sys2Proof.Claims.FalseGuard : Prop :=
  ∀ (i : Instr) (r : Raw) (s : State), Issues i r s → guardHolds r s.me = false →
    (∀ x ∈ r.taken, (s.reads .base x).isSome = true) →
    ((∃ p ∈ r.roles, p.2.1 = 49 ∧ (p.2.2 = .dst ∨ p.2.2 = .both)) → (s.slot (nextSlot s.cur)).live = true →
      (s.slot (nextSlot s.cur)).pv = none ∧ (s.slot (nextSlot s.cur)).pvClaim = none) →
    ∃ t w, exec i s = .next t ∧ Finished r s ((s.entered r).modSlot s.cur fun x => { x with avail := w }) t

/-- R19, R44, R48, R78: an instruction that may issue performs its own effect where its guard holds, and only moves on where it does
not. -/
def Obligations.IssueStage : Prop := Claims.EffectBegins ∧ Claims.FalseGuard

/-- R43, R41, R278: a machine instruction with an illegal encoding, or of another class than its thread's, traps with cause 0x01 and
the base word in `TREC3`, whatever its guard and operands. -/
def Sys2Proof.Claims.IllegalInstruction : Prop :=
  ∀ (i : Instr) (r : Raw) (s : State), i.raw = some r → s.me.live = true → s.me.trap.tmode = false →
    (i.wf = false ∨ ∃ c, r.needsClass = some c ∧ c ≠ s.me.cls) →
      ∃ t, exec i s = .next t ∧ Trapped { cause := 1, pc := s.me.pc, info := r.base.setWidth 64, tile := r.maj = 0x30 || r.maj = 0x31 } s s t

/-- R43, R272, R278: a well-formed instruction of the thread's class that needs privilege which the thread lacks traps with cause
0x03, whatever its guard. -/
def Sys2Proof.Claims.PrivilegeTrap : Prop :=
  ∀ (i : Instr) (r : Raw) (s : State), i.raw = some r → s.me.live = true → i.wf = true →
    (∀ c, r.needsClass = some c → c = s.me.cls) → s.me.privileged = false → (r.needsPriv = true ∨ r.isEret = true) →
      ∃ t, exec i s = .next t ∧ Trapped { cause := 3, pc := s.me.pc, info := r.base.setWidth 64 } s s t

/-- R43, R34, R278: an instruction that may issue and whose guard holds traps with cause 0x02 and the number of the misused operand
in SUB. -/
def Sys2Proof.Claims.OperandMisuse : Prop :=
  ∀ (i : Instr) (r : Raw) (s : State) (k : Nat), Issues i r s → s.me.trap.tmode = false → guardHolds r s.me = true →
    r.badOperand = some k →
      ∃ t, exec i s = .next t ∧ Trapped { cause := 2, sub := k, pc := s.me.pc, info := r.base.setWidth 64, tile := r.maj = 0x30 || r.maj = 0x31 } s s t

/-- R34, R41, R43, R272, R278: the causes that an instruction raises before its own effect begins. -/
def Obligations.IssueTraps : Prop := Claims.IllegalInstruction ∧ Claims.PrivilegeTrap ∧ Claims.OperandMisuse

/-- R283, R285: a cause raised by a thread in trap service does not enter a handler: the record waits to escalate, and the program
counter, the registers and memory stay. -/
def Sys2Proof.Claims.CauseInService : Prop :=
  ∀ (i : Instr) (r : Raw) (s : State), i.raw = some r → s.me.live = true → s.me.trap.tmode = true → i.wf = false →
    ∃ t, exec i s = .next t ∧
      (t.slot s.cur).escal = some { cause := 1, pc := s.me.pc, info := r.base.setWidth 64, tile := r.maj = 0x30 || r.maj = 0x31 } ∧
      (t.slot s.cur).pc = s.me.pc ∧ (t.slot s.cur).w = s.me.w ∧ (t.slot s.cur).trap.trec0 = s.me.trap.trec0 ∧
      (∀ n, n ≠ s.cur → t.slot n = s.slot n) ∧ (∀ a, t.mem.read a = s.mem.read a)

/-! ## Integer, compare, predicate, select and bit-field instructions -/

namespace Sys2Proof.Claims

/-- The two-operand instructions of R51 that do not divide: the result, and the cycles until it is available (R46). -/
def intTable (d a b : Spec) (f : Form) : List (Instr × (Word → Word → Word) × Nat) := [
  (.add d a b f, (fun x y => x + y), 3), (.sub d a b f, (fun x y => x - y), 3), (.and d a b f, (fun x y => x &&& y), 3),
  (.or d a b f, (fun x y => x ||| y), 3), (.xor d a b f, (fun x y => x ^^^ y), 3), (.andn d a b f, (fun x y => x &&& ~~~y), 3),
  (.shl d a b f, (fun x y => x <<< (y.toNat % 64)), 3), (.shr d a b f, (fun x y => x >>> (y.toNat % 64)), 3),
  (.sar d a b f, (fun x y => x.sshiftRight (y.toNat % 64)), 3), (.rol d a b f, (fun x y => x.rotateLeft (y.toNat % 64)), 3),
  (.min d a b f, (fun x y => if x.toInt ≤ y.toInt then x else y), 3),
  (.max d a b f, (fun x y => if y.toInt < x.toInt then x else y), 3),
  (.minn d a b f, (fun x y => if x.toNat ≤ y.toNat then x else y), 3),
  (.maxn d a b f, (fun x y => if y.toNat < x.toNat then x else y), 3), (.mul d a b f, (fun x y => x * y), 5),
  (.mulh d a b f, (fun x y => BitVec.ofInt 64 (x.toInt * y.toInt / 2 ^ 64)), 5),
  (.mulhn d a b f, (fun x y => BitVec.ofNat 64 (x.toNat * y.toNat / 2 ^ 64)), 5)]

/-- The quotients of R51 and R52. -/
def quotient (x y : Word) : Word := if y = 0 then 0xFFFFFFFFFFFFFFFF else BitVec.ofInt 64 (x.toInt.tdiv y.toInt)
def quotientN (x y : Word) : Word := if y = 0 then 0xFFFFFFFFFFFFFFFF else BitVec.ofNat 64 (x.toNat / y.toNat)

/-- The divide family: a remainder is A less B times the quotient (R52). -/
def divTable (d a b : Spec) (f : Form) : List (Instr × (Word → Word → Word)) := [
  (.div d a b f, quotient), (.divn d a b f, quotientN), (.rem d a b f, fun x y => x - y * quotient x y),
  (.remn d a b f, fun x y => x - y * quotientN x y)]

/-- The bit counts of R51: zeros above the highest one, ones, and zeros below the lowest one. -/
def bitTable (d a : Spec) (f : Form) : List (Instr × (Word → Nat)) := [
  (.clz d a f, fun x => ((List.range 64).takeWhile fun i => !x.getLsbD (63 - i)).length),
  (.popc d a f, fun x => ((List.range 64).filter fun i => x.getLsbD i).length),
  (.ctz d a f, fun x => ((List.range 64).takeWhile fun i => !x.getLsbD i).length)]

/-- The immediate of form I (R53): sign-extended from the base word or from IMM32, or the literal. -/
def immediate (imm : BitVec 12) : Form → Word
  | .base => imm.signExtend 64
  | .lit l => l
  | .ext _ m => m.signExtend 64
  | .extLit _ _ l => l

/-- The operation that `SHFI` names (R54), in the base word or in IMM32[7:0]. -/
def shiftImm (o : BitVec 2) (n : BitVec 6) (f : Form) (x : Word) : Word :=
  let op : BitVec 2 := match f.ext? with
    | some _ => f.imm.extractLsb' 6 2
    | none => o
  let k := (match f.ext? with
    | some _ => f.imm.extractLsb' 0 6
    | none => n).toNat
  if op = 0 then x <<< k else if op = 1 then x >>> k else if op = 2 then x.sshiftRight k else x.rotateLeft k

/-- The immediate instructions of R53 and R54 that have one source. -/
def immTable (d a : Spec) (imm : BitVec 12) (o : BitVec 2) (n : BitVec 6) (f : Form) : List (Instr × (Word → Word)) := [
  (.addi d a imm f, fun x => x + immediate imm f), (.andi d a imm f, fun x => x &&& immediate imm f),
  (.ori d a imm f, fun x => x ||| immediate imm f), (.xori d a imm f, fun x => x ^^^ immediate imm f),
  (.shfi d a o n f, shiftImm o n f)]

/-- The conditions of R55 by code. -/
def conditions : List (BitVec 6 × (Word → Word → Prop)) := [
  (0, fun x y => x = y), (1, fun x y => x ≠ y), (2, fun x y => x.toInt < y.toInt), (3, fun x y => x.toInt ≥ y.toInt),
  (4, fun x y => x.toInt ≤ y.toInt), (5, fun x y => x.toInt > y.toInt), (6, fun x y => x.toNat < y.toNat),
  (7, fun x y => x.toNat ≥ y.toNat), (8, fun x y => x.toNat ≤ y.toNat), (9, fun x y => x.toNat > y.toNat),
  (10, fun x y => x &&& y = 0), (11, fun x y => x &&& y ≠ 0)]

/-- The predicate instructions of R56 over predicates: what they write, from what `A` and `B` read as. -/
def predTable (d a b : Spec) (f : Form) : List (Instr × (Bool → Bool → Bool)) := [
  (.pand d a b f, fun x y => x && y), (.por d a b f, fun x y => x || y), (.pxor d a b f, fun x y => x ^^ y),
  (.pandn d a b f, fun x y => x && !y), (.pnot d a f, fun x _ => !x), (.pset d f, fun _ _ => true),
  (.pclr d f, fun _ _ => false)]

end Sys2Proof.Claims

/-- R51: each of the seventeen integer instructions completes with its result in its destination, and changes nothing else. -/
def Obligations.IntegerTwoOperand : Prop :=
  ∀ (d a b : Spec) (f : Form) (p : Instr × (Word → Word → Word) × Nat), p ∈ intTable d a b f →
    ∀ (r : Raw) (s : State) (x y : Word), Ready p.1 r s →
      let u := s.entered r
      u.reads f a = some x → (u.touched a).readsB f b = some y → u.canWrite f d →
        ∃ t, exec p.1 s = .next t ∧
          Finished r s ((((u.touched a).touchedB f b).put f d (p.2.1 x y) p.2.2).take s.cur r.taken) t

/-- R52, R46: the divide family completes, with the results of R52 in the borderline cases, and keeps the divider for 20
cycles. -/
def Sys2Proof.Claims.DivideFamily : Prop :=
  ∀ (d a b : Spec) (f : Form) (p : Instr × (Word → Word → Word)), p ∈ divTable d a b f →
    ∀ (r : Raw) (s : State) (x y : Word), Ready p.1 r s → (s.core (slotCore s.cur)).divFree ≤ s.cyc →
      let u := s.entered r
      u.reads f a = some x → (u.touched a).readsB f b = some y → u.canWrite f d →
        ∃ t, exec p.1 s = .next t ∧
          Finished r s (((((u.touched a).touchedB f b).put f d (p.2 x y) 22).modCore (slotCore s.cur)
            fun c => { c with divFree := s.cyc + 20 }).take s.cur r.taken) t

/-- R51: `CLZ`, `POPC` and `CTZ` complete with the count of their source. -/
def Sys2Proof.Claims.BitCounts : Prop :=
  ∀ (d a : Spec) (f : Form) (p : Instr × (Word → Nat)), p ∈ bitTable d a f →
    ∀ (r : Raw) (s : State) (x : Word), Ready p.1 r s →
      let u := s.entered r
      u.reads f a = some x → u.canWrite f d →
        ∃ t, exec p.1 s = .next t ∧
          Finished r s (((u.touched a).put f d (BitVec.ofNat 64 (p.2 x)) 3).take s.cur r.taken) t

/-- R46, R51, R52: division with its corners, and the counts of bits. -/
def Obligations.DivideAndCount : Prop := Claims.DivideFamily ∧ Claims.BitCounts

/-- R53, R54: the immediate instructions complete with their result, `MOVI` with its immediate. -/
def Sys2Proof.Claims.Immediates : Prop :=
  (∀ (d a : Spec) (imm : BitVec 12) (o : BitVec 2) (n : BitVec 6) (f : Form) (p : Instr × (Word → Word)),
    p ∈ immTable d a imm o n f → ∀ (r : Raw) (s : State) (x : Word), Ready p.1 r s →
      let u := s.entered r
      u.reads f a = some x → u.canWrite f d →
        ∃ t, exec p.1 s = .next t ∧ Finished r s (((u.touched a).put f d (p.2 x) 3).take s.cur r.taken) t) ∧
  (∀ (d : Spec) (imm : BitVec 12) (f : Form) (r : Raw) (s : State), Ready (.movi d imm f) r s →
    (s.entered r).canWrite f d →
      ∃ t, exec (.movi d imm f) s = .next t ∧
        Finished r s (((s.entered r).put f d (immediate imm f) 3).take s.cur r.taken) t)

/-- R55: `CMP` and `CMPI` complete with the condition in their predicate; a write to `p31` is discarded. -/
def Sys2Proof.Claims.Compares : Prop :=
  ∀ (d a : Spec) (f : Form) (c : BitVec 6 × (Word → Word → Prop)), c ∈ conditions →
    (∀ (b : Spec) (r : Raw) (s : State) (x y : Word) (v : Bool), Ready (.cmp d a b c.1 f) r s →
      let u := s.entered r
      u.reads f a = some x → (u.touched a).readsB f b = some y → (v = true ↔ c.2 x y) →
        ∃ t, exec (.cmp d a b c.1 f) s = .next t ∧
          Finished r s ((((u.touched a).touchedB f b).putPred (d.extractLsb' 0 5) v 3).take s.cur r.taken) t) ∧
    (∀ (imm : BitVec 6) (r : Raw) (s : State) (x : Word) (v : Bool), Ready (.cmpi d a c.1 imm f) r s →
      let u := s.entered r
      u.reads f a = some x → (v = true ↔ c.2 x (immediate (imm.signExtend 12) f)) →
        ∃ t, exec (.cmpi d a c.1 imm f) s = .next t ∧
          Finished r s (((u.touched a).putPred (d.extractLsb' 0 5) v 3).take s.cur r.taken) t)

/-- R56: the predicate instructions complete; `PMOVR` and `PMOVW` read and write all of `pw` once every predicate is
available, and `p31` stays 1. -/
def Sys2Proof.Claims.PredicateInstructions : Prop :=
  (∀ (d a b : Spec) (f : Form) (p : Instr × (Bool → Bool → Bool)), p ∈ predTable d a b f →
    ∀ (r : Raw) (s : State), Ready p.1 r s →
      let u := s.entered r
      ∃ t, exec p.1 s = .next t ∧
        Finished r s ((u.putPred (d.extractLsb' 0 5)
          (p.2 (u.me.pred (a.extractLsb' 0 5)) (u.me.pred (b.extractLsb' 0 5))) 3).take s.cur r.taken) t) ∧
  (∀ (d : Spec) (f : Form) (r : Raw) (s : State), Ready (.pmovr d f) r s →
    let u := s.entered r
    u.canWrite f d →
      ∃ t, exec (.pmovr d f) s = .next t ∧
        Finished r s ((u.put f d ((u.me.pw ||| 0x80000000#32).setWidth 64) 3).take s.cur r.taken) t) ∧
  (∀ (a : Spec) (f : Form) (r : Raw) (s : State) (x : Word), Ready (.pmovw a f) r s →
    let u := s.entered r
    u.reads f a = some x →
      ∃ t w, exec (.pmovw a f) s = .next t ∧
        Finished r s (((u.touched a).modSlot s.cur fun y =>
          { y with pw := x.setWidth 32 ||| 0x80000000#32, avail := w }).take s.cur r.taken) t)

/-- R55, R56: what compares and predicate instructions write. -/
def Obligations.CompareAndPredicate : Prop := Claims.Compares ∧ Claims.PredicateInstructions

/-- R57, R58: `SEL` and `LEA` complete with their result. -/
def Sys2Proof.Claims.SelectAndAddress : Prop :=
  ∀ (d a b : Spec) (f : Form) (r : Raw) (s : State) (x y : Word),
    let u := s.entered r
    u.reads f a = some x → (u.touched a).readsB f b = some y → u.canWrite f d →
      (∀ (n : BitVec 1) (p : BitVec 5), Ready (.sel d a b n p f) r s →
        ∃ t, exec (.sel d a b n p f) s = .next t ∧
          Finished r s ((((u.touched a).touchedB f b).put f d
            (if (u.me.pred p ^^ decide (n = 1)) = true then x else y) 3).take s.cur r.taken) t) ∧
      (∀ sh : BitVec 2, Ready (.lea d a b sh f) r s →
        ∃ t, exec (.lea d a b sh f) s = .next t ∧
          Finished r s ((((u.touched a).touchedB f b).put f d (x + y <<< sh.toNat + f.imm.signExtend 64) 3).take s.cur r.taken) t)

/-- R59: `BITF` completes; bit by bit, it inserts the low bits of B into D at `pos`, or extracts them with zero or sign
extension. -/
def Sys2Proof.Claims.BitFields : Prop :=
  ∀ (d b : Spec) (x : Ext) (m : Word32) (l : Option Word) (r : Raw) (s : State) (y : Word),
    let f : Form := match l with
      | none => .ext x m
      | some k => .extLit x m k
    let u := s.entered r
    let pos := x.xfn.toNat
    let wid := if m.extractLsb' 0 6 = 0 then 64 else (m.extractLsb' 0 6).toNat
    Ready (.bitf d b f) r s → pos + wid ≤ 64 → u.readsB f b = some y → u.canWrite f d →
      (m.getLsbD 9 = false → ∃ t v, exec (.bitf d b f) s = .next t ∧
        Finished r s (((u.touchedB f b).put f d v 3).take s.cur r.taken) t ∧
        ∀ i < 64, v.getLsbD i = if i < wid then y.getLsbD (pos + i) else m.getLsbD 8 && y.getLsbD (pos + wid - 1)) ∧
      (m.getLsbD 9 = true → ∀ w, (u.touchedB f b).reads f d = some w → ∃ t v, exec (.bitf d b f) s = .next t ∧
        Finished r s ((((u.touchedB f b).touched d).put f d v 3).take s.cur r.taken) t ∧
        ∀ i < 64, v.getLsbD i = if pos ≤ i ∧ i < pos + wid then y.getLsbD (i - pos) else w.getLsbD i)

/-- R53, R54, R57 to R59: immediates, selection, addresses and bit fields. -/
def Obligations.ImmediatesAndFields : Prop := Claims.Immediates ∧ Claims.SelectAndAddress ∧ Claims.BitFields

/-! ## Control flow, semaphores, workspaces and calls -/

/-- R64, R65: `NOP` completes and changes nothing; `YIELD` lowers its slot for 8 cycles; `REALIGN` holds the thread until the next
multiple of 64 cycles. -/
def Sys2Proof.Claims.NopYieldRealign : Prop :=
  ∀ (f : Form) (r : Raw) (s : State),
    let u := s.entered r
    (Ready (.nop f) r s → ∃ t, exec (.nop f) s = .next t ∧ Finished r s (u.take s.cur r.taken) t) ∧
    (Ready (.yield f) r s → ∃ t, exec (.yield f) s = .next t ∧
      Finished r s ((u.modSlot s.cur fun x => { x with yieldUntil := s.cyc + 8 }).take s.cur r.taken) t) ∧
    (Ready (.realign f) r s → ∃ t n, exec (.realign f) s = .next t ∧ n % 64 = 0 ∧ s.cyc < n ∧ n ≤ s.cyc + 64 ∧
      Finished r s ((u.modSlot s.cur fun x => { x with notBefore := n }).take s.cur r.taken) t)

/-- R29, R60: a branch or a call whose predicate holds goes to its target, 4 times its signed offset from its own address; the
call leaves the address of the next instruction in `w23`. -/
def Sys2Proof.Claims.BranchAndCall : Prop :=
  ∀ (g : BitVec 1) (p : BitVec 5) (o : BitVec 18) (r : Raw) (s : State),
    let u := s.entered r
    let target := s.me.pc + o.signExtend 64 * 4
    (Ready (.br g p o) r s → ∃ t, exec (.br g p o) s = .next t ∧
      Placed r s ((u.take s.cur r.taken).modSlot s.cur fun x => x.goto target (s.cyc + 3)) t) ∧
    (Ready (.call g p o) r s → u.canWrite .base 23 → ∃ t, exec (.call g p o) s = .next t ∧
      Placed r s (((u.put .base 23 (s.me.pc + 4) 3).take s.cur r.taken).modSlot s.cur fun x => x.goto target (s.cyc + 3)) t)

/-- R61: register jumps to an aligned address go there, and `CALLG` leaves the address of the next instruction in its
destination. -/
def Sys2Proof.Claims.RegisterJumps : Prop :=
  ∀ (d a : Spec) (f : Form) (r : Raw) (s : State) (x : Word),
    let u := s.entered r
    u.reads f a = some x → x.extractLsb' 0 2 = 0 →
      (∀ i ∈ [Instr.jmpr a f, Instr.ret a f], Ready i r s → ∃ t, exec i s = .next t ∧
        Placed r s (((u.touched a).take s.cur r.taken).modSlot s.cur fun y => y.goto x (s.cyc + 3)) t) ∧
      (Ready (.callg d a f) r s → u.canWrite f d → ∃ t, exec (.callg d a f) s = .next t ∧
        Placed r s ((((u.touched a).put f d (s.me.pc + BitVec.ofNat 64 f.size) 3).take s.cur r.taken).modSlot s.cur
          fun y => y.goto x (s.cyc + 3)) t)

/-- R29, R60, R61, R64, R65: where the program counter goes. -/
def Obligations.Jumps : Prop := Claims.NopYieldRealign ∧ Claims.BranchAndCall ∧ Claims.RegisterJumps

/-- R61, R4: a register jump to an address that is no multiple of 4 traps with cause 0x04 and the target in `TREC2`, and changes
nothing else. -/
def Sys2Proof.Claims.MisalignedJump : Prop :=
  ∀ (d a : Spec) (f : Form) (r : Raw) (s : State) (x : Word),
    (s.entered r).reads f a = some x → x.extractLsb' 0 2 ≠ 0 → s.me.trap.tmode = false →
      ∀ i ∈ [Instr.jmpr a f, Instr.ret a f, Instr.callg d a f], Ready i r s → ∃ t, exec i s = .next t ∧
        Trapped { cause := 4, pc := s.me.pc, addr := x } s s t

/-- R66: `SEMWAIT` takes one from a positive count, and `SEMPOST` adds one up to 65,535, once the thread's writes to the shared
registers and its local stores are done (R67). -/
def Sys2Proof.Claims.Semaphores : Prop :=
  ∀ (n : BitVec 4) (f : Form) (r : Raw) (s : State),
    let u := s.entered r
    let core := slotCore s.cur
    let count := ((u.core core).sems[n.toNat]).toNat
    (Ready (.semwait n f) r s → 0 < count → ∃ t, exec (.semwait n f) s = .next t ∧
      Finished r s ((u.modCore core fun c => { c with sems := c.sems.set! n.toNat (BitVec.ofNat 16 (count - 1)) }).take
        s.cur r.taken) t) ∧
    (Ready (.sempost n f) r s → (∀ p ∈ (u.core core).spend, p.slot = s.cur → p.at' ≤ s.cyc) →
      (∀ q ∈ [52, 53, 54, 55], u.me.ready s.cyc (.spec q) = true) → u.me.localStoresDone core = true →
        ∃ t, exec (.sempost n f) s = .next t ∧
          Finished r s ((u.modCore core fun c =>
            { c with sems := c.sems.set! n.toNat (BitVec.ofNat 16 (min (count + 1) 65535)) }).take s.cur r.taken) t)

/-- R66: a `SEMWAIT` at a count of zero is not ready: its attempt leaves the count and the program counter as they were. -/
def Sys2Proof.Claims.SemaphoreWaits : Prop :=
  ∀ (n : BitVec 4) (f : Form) (r : Raw) (s : State), Ready (.semwait n f) r s → s.me.phase = 0 →
    (s.core (slotCore s.cur)).sems[n.toNat] = 0 →
      ∃ t, exec (.semwait n f) s = .next t ∧ (t.slot s.cur).pc = s.me.pc ∧
        (∀ c, (t.core c).sems = (s.core c).sems) ∧ (∀ a, t.mem.read a = s.mem.read a) ∧ (t.slot s.cur).waiting = 2

/-- R66: what the semaphore instructions do, and when they wait. -/
def Obligations.SemaphoreInstructions : Prop := Claims.Semaphores ∧ Claims.SemaphoreWaits

/-- R48: `WPSET` to an aligned workspace inside the bound writes the dirty words back and changes the workspace, whose words are
absent until they are refilled; `wp` and every `w` register are available 4 cycles later. -/
def Sys2Proof.Claims.WorkspaceChange : Prop :=
  ∀ (a : Spec) (f : Form) (r : Raw) (s u' : State) (x : Word) (bound : Nat), Ready (.wpset a f) r s →
    let u := s.entered r
    u.reads f a = some x → x.extractLsb' 0 8 = 0 → x.toNat + 256 ≤ 0x40000 →
    localBound (u.touched a) = .ok (bound, u') → u'.cur = s.cur → x.toNat + 256 ≤ bound →
    (∀ k < 32, u'.me.ready u'.cyc (.spec (BitVec.ofNat 6 k)) = true) →
      ∃ t, exec (.wpset a f) s = .next t ∧
        Finished r s (((u'.writeBack s.cur).modSlot s.cur fun y =>
          { y.later (.spec 51) (u'.cyc + 4) with wp := x, absent := true, dirty := 0 }).take s.cur r.taken) t

/-- R48: a write-back stores word `k` at `wp + 8k` of the core's local store for each dirty word, and leaves every other byte of
memory, where the workspace does not leave the address space. -/
def Sys2Proof.Claims.WriteBackStores : Prop :=
  ∀ (s : State) (n : Nat), s.mem.wf = true →
    let x := s.slot n
    let at' (k : Nat) : Nat := (localPlace (slotCore n) (x.wp.toNat + 8 * k)).key
    (∀ k < 32, x.dirty.getLsbD k = true → (s.writeBack n).readMem (at' k) 8 = (x.reg (BitVec.ofNat 6 k)).toNat) ∧
    (∀ a, (∀ k < 32, x.dirty.getLsbD k = true → a < at' k ∨ at' k + 8 ≤ a) → (s.writeBack n).mem.read a = s.mem.read a) ∧
    ((s.writeBack n).slot n).dirty = 0 ∧ ((s.writeBack n).slot n).w = x.w

/-- R48: a change of workspace, and the write-back. -/
def Obligations.WorkspaceInstructions : Prop := Claims.WorkspaceChange ∧ Claims.WriteBackStores

/-- R70, R73: `CALLRM` sends the call with its token, its callee's address, priority and depth and the first eight registers, and
arms its reply register; it completes once the reply has disarmed the token. -/
def Sys2Proof.Claims.RemoteCallInstruction : Prop :=
  ∀ (d a b : Spec) (f : Form) (r : Raw) (s : State), Ready (.callrm d a b f) r s →
    let u := s.entered r
    (∀ x w u', u.me.calls.find? (fun c => c.1 = u.me.pc) = none → u.reads f a = some x → (u.touched a).reads f b = some w →
      u.me.depth < 7 → x.extractLsb' 0 2 = 0 → destCheck w false ((u.touched a).touched b) = .ok ((), u') →
      u'.me = u.me → u'.net = s.net → u'.mem = s.mem → u'.cur = s.cur →
      isArmed u d = false → 0 < (u'.core (slotCore s.cur)).credits →
        let tok := u.token s.cur u.me.callSeq d
        ∃ t p, exec (.callrm d a b f) s = .next t ∧ t.net = s.net ++ [p] ∧ p.kind = 10 ∧ p.ddev = destDev w ∧
          p.dst = destClu w ∧ p.dep = destEp w ∧ p.val = x.toNat ∧
          p.ws = [tok, BitVec.ofNat 64 u.me.prio, BitVec.ofNat 64 u.me.depth] ++ (List.range 8).map (fun i => u.word s.cur i) ∧
          (t.slot s.cur).pc = s.me.pc ∧ (t.slot s.cur).callSeq = u.me.callSeq + 1 ∧
          (d.toNat < 32 → (t.slot s.cur).armed = u.me.armed ++ [(tok, u.me.wp)]) ∧
          (∀ k, t.mem.read k = s.mem.read k)) ∧
    (∀ tok link, u.me.calls.find? (fun c => c.1 = u.me.pc) = some (u.me.pc, tok, 0, link) → u.tokenArmed tok = false →
      ∃ t, exec (.callrm d a b f) s = .next t ∧
        Placed r s ((u.modSlot s.cur fun x => { x with calls := x.calls.filter fun c => c.2.1 ≠ tok }).modSlot s.cur
          fun x => x.advance f) t)

/-- R72: `REPLY` sends a deposit of its value to the device, cluster and core that its token names. -/
def Sys2Proof.Claims.ReplyInstruction : Prop :=
  ∀ (a b : Spec) (f : Form) (r : Raw) (s : State) (x y : Word), Ready (.reply a b f) r s →
    let u := s.entered r
    u.reads f a = some x → (u.touched a).reads f b = some y →
      let w := (u.touched a).touched b
      ∃ t, exec (.reply a b f) s = .next t ∧
        Finished r s ((w.send { w.packetOf s.cur 11 with
          ddev := tokenDev x, dst := tokenClu x, dep := tokenEp x, ws := [x, y] }).take s.cur r.taken) t

/-- R70, R72, R73: a call to another core, and a reply. -/
def Obligations.CallInstructions : Prop := Claims.RemoteCallInstruction ∧ Claims.ReplyInstruction

/-! ## Loads, stores and atomics -/

namespace Sys2Proof.Claims

/-- The bytes and the offset of a form-I access (R32, R90). -/
def accessBytes (w : BitVec 2) : Form → Nat
  | .base => 2 ^ w.toNat
  | f => 2 ^ (f.imm.extractLsb' 30 2).toNat

def accessOffset (o : BitVec 10) (w : BitVec 2) (f : Form) : Word :=
  (match f with
    | .base => o.signExtend 64
    | f => (f.imm.extractLsb' 0 30).signExtend 64) * BitVec.ofNat 64 (accessBytes w f)

/-- The scalar loads (R90, R91): whether there is an index, the address from base and index, the bytes, and whether the value is
sign-extended. -/
def loadTable (d a b : Spec) (w : BitVec 2) (o : BitVec 10) (h : BitVec 2) (sx : BitVec 1) (f : Form) :
    List (Instr × Bool × (Word → Word → Word) × Nat × Bool) := [
  (.ld d a w o f, false, (fun v _ => v + accessOffset o w f), accessBytes w f, false),
  (.lds d a w o f, false, (fun v _ => v + accessOffset o w f), accessBytes w f, true),
  (.ldx d a b h sx w f, true, (fun v i => v + i <<< h.toNat), 2 ^ w.toNat, decide (sx = 1))]

/-- The scalar stores (R90, R91). -/
def storeTable (d a b : Spec) (w : BitVec 2) (o : BitVec 10) (h : BitVec 2) (f : Form) :
    List (Instr × Bool × (Word → Word → Word) × Nat) := [
  (.st d a w o f, false, (fun v _ => v + accessOffset o w f), accessBytes w f),
  (.stx d a b h w f, true, (fun v i => v + i <<< h.toNat), 2 ^ w.toNat)]

/-- The value of a load of `n` bytes (R90). -/
def extended (n : Nat) (sx : Bool) (v : Nat) : Word :=
  if sx then BitVec.signExtend 64 (BitVec.ofNat (8 * n) v) else BitVec.ofNat 64 v

/-- An access of `n` bytes at an aligned address inside its buffer resolves to a target, and passes every check made before it
is performed (R77, R92, R93, R195, R206 to R211, R280). -/
structure Reaches (k : Acc) (kind : Nat) (st : Bool) (buf : Option (Nat × Nat)) (ea : Word) (n : Nat) (s u : State) (t : Target) :
    Prop where
  aligned : ea.toNat % n = 0
  inside : Passes (inBuffer buf ea n) s
  resolved : resolve k ea s = .ok (t, u)
  path : Passes (checkPath t ea) u
  watch : Passes (checkWatch kind ea n) u
  stays : migTarget u t = none
  ordered : Passes (orderGate t.place t.ord n st) u

/-- The qualifier that an access honours (R40, R208): that of its words, on a release-consistent page. -/
def honoured (f : Form) (t : Target) : Nat := if t.ord = 1 then f.qual else 0

end Sys2Proof.Claims

/-- R90, R91: a load of the own local store completes with the bytes at its address, little-endian, zero- or sign-extended, in its
destination; it stores nothing. -/
def Sys2Proof.Claims.LocalLoads : Prop :=
  ∀ (d a b : Spec) (w : BitVec 2) (o : BitVec 10) (h : BitVec 2) (sx : BitVec 1) (f : Form)
    (p : Instr × Bool × (Word → Word → Word) × Nat × Bool), p ∈ loadTable d a b w o h sx f →
    ∀ (r : Raw) (s u' : State) (v i : Word) (buf : Option (Nat × Nat)) (t : Target), Ready p.1 r s →
      let u := s.entered r
      let ea := p.2.2.1 v i
      u.baseAt f a false = some (v, buf) → (p.2.1 = true → u.reads f b = some i) →
      Reaches .load 1 false buf ea p.2.2.2.1 u u' t → u'.cur = s.cur → t.place.kind = 1 →
      u'.isPoisoned t.place p.2.2.2.1 = false → Passes (loadDstCheck d) u' → u'.portFree →
      u'.canWrite f d →
        ∃ t', exec p.1 s = .next t' ∧
          Finished r s ((u'.portTaken.put f d
            (extended p.2.2.2.1 p.2.2.2.2 (u'.readMem t.place.key p.2.2.2.1)) 3).take s.cur r.taken) t'

/-- R81, R93: a load of raw data in the own cluster store, the own common store or an owned DRAM channel completes at once as an
instruction: the thread has one more access, which reads its bytes at a turn and then delivers the value. -/
def Sys2Proof.Claims.TurnLoads : Prop :=
  ∀ (d a b : Spec) (w : BitVec 2) (o : BitVec 10) (h : BitVec 2) (sx : BitVec 1) (f : Form)
    (p : Instr × Bool × (Word → Word → Word) × Nat × Bool), p ∈ loadTable d a b w o h sx f →
    ∀ (r : Raw) (s u' : State) (v i : Word) (buf : Option (Nat × Nat)) (t : Target), Ready p.1 r s →
      let u := s.entered r
      let ea := p.2.2.1 v i
      let a' : Access :=
        { id := 0, units := [{ place := t.place.line, acts := [.rd 0 t.place.key p.2.2.2.1] }]
          fin := .reg d p.2.2.2.1 p.2.2.2.2 f.endMark 0, va := ea, ord := t.ord
          acq := decide (honoured f t = 1) || decide (honoured f t = 3), scope := f.scope }
      u.baseAt f a false = some (v, buf) → (p.2.1 = true → u.reads f b = some i) →
      Reaches .load 1 false buf ea p.2.2.2.1 u u' t → u'.cur = s.cur → t.place.kind ≠ 1 → servedBy u' t.place ≠ 4 → t.view = 0 →
      Passes (loadDstCheck d) u' → Passes (loadReady d) u' → u'.hasRoom a' →
        ∃ t', exec p.1 s = .next t' ∧ Finished r s (((u'.withAccess a').claimed d).take s.cur r.taken) t'

/-- R81, R90, R91, R93: a load of the own local store reads at once; any other waits for its turns. -/
def Obligations.ScalarLoads : Prop := Claims.LocalLoads ∧ Claims.TurnLoads

/-- R90, R91, R92: a store to the own local store writes the low bytes of its source at its address and at no other. -/
def Sys2Proof.Claims.LocalStores : Prop :=
  ∀ (d a b : Spec) (w : BitVec 2) (o : BitVec 10) (h : BitVec 2) (f : Form)
    (p : Instr × Bool × (Word → Word → Word) × Nat), p ∈ storeTable d a b w o h f →
    ∀ (r : Raw) (s u' : State) (v i x : Word) (buf : Option (Nat × Nat)) (t : Target), Ready p.1 r s →
      let u := s.entered r
      let ea := p.2.2.1 v i
      let n := p.2.2.2
      u.baseAt f a true = some (v, buf) → (p.2.1 = true → u.reads f b = some i) →
      Reaches .store 2 true buf ea n u u' t → u'.cur = s.cur → t.place.kind = 1 → u'.reads f d = some x →
      Passes (releaseGate f.qual f.scope t.ord) u' → Passes (tileGate t.place n) u' → u'.portFree →
        ∃ t', exec p.1 s = .next t' ∧
          Finished r s ((u'.portTaken.store t.place x.toNat n).take s.cur r.taken) t' ∧
          (∀ k, (k < t.place.key ∨ t.place.key + n ≤ k) → t'.mem.read k = u'.mem.read k) ∧
          (u'.mem.wf = true → t'.readMem t.place.key n = x.toNat % 256 ^ n)

/-- R81, R93: a store to the own cluster store, the own common store or an owned DRAM channel completes as an instruction with no
byte of memory changed: the thread has one more access, which writes its bytes at a turn. -/
def Sys2Proof.Claims.TurnStores : Prop :=
  ∀ (d a b : Spec) (w : BitVec 2) (o : BitVec 10) (h : BitVec 2) (f : Form)
    (p : Instr × Bool × (Word → Word → Word) × Nat), p ∈ storeTable d a b w o h f →
    ∀ (r : Raw) (s u' : State) (v i x : Word) (buf : Option (Nat × Nat)) (t : Target), Ready p.1 r s →
      let u := s.entered r
      let ea := p.2.2.1 v i
      let n := p.2.2.2
      let a' : Access :=
        { id := 0, units := [{ place := t.place.line, acts := [.wr t.place.key n x.toNat] }], fin := .store, va := ea
          ord := t.ord, rel := decide (2 ≤ honoured f t), scope := f.scope }
      u.baseAt f a true = some (v, buf) → (p.2.1 = true → u.reads f b = some i) →
      Reaches .store 2 true buf ea n u u' t → u'.cur = s.cur → t.place.kind ≠ 1 → servedBy u' t.place ≠ 4 →
      u'.reads f d = some x → u'.hasRoom a' →
        ∃ t', exec p.1 s = .next t' ∧ Finished r s ((u'.withAccess a').take s.cur r.taken) t'

/-- R81, R90 to R93: a store to the own local store is performed at once; any other waits for its turns. -/
def Obligations.ScalarStores : Prop := Claims.LocalStores ∧ Claims.TurnStores

/-- R94: a bank atomic at the own local store writes the updated bytes and returns the old ones; elsewhere in the own stores the
thread has one more access, a read-modify-write at one turn. -/
def Sys2Proof.Claims.BankAtomics : Prop :=
  ∀ (d a b : Spec) (z : BitVec 1) (o : BitVec 4) (f : Form) (r : Raw) (s u' : State) (v x c : Word) (t : Target)
    (p : Instr × Nat), (p = (.bat d a b z o f, o.toNat) ∧ c = 0) ∨ p = (.batCas d a b z f, 9) → Ready p.1 r s →
      let u := s.entered r
      let ea := v + f.imm.signExtend 64
      let n := if z = 1 then 4 else 8
      let q := honoured f t
      let a' : Access :=
        { id := 0, units := [{ place := t.place.line, acts := [.rmw 0 t.place.key n p.2 x.toNat c.toNat] }]
          fin := .reg d n false f.endMark 0, va := ea, ord := t.ord, acq := decide (q = 1) || decide (q = 3), rel := decide (2 ≤ q)
          scope := f.scope }
      u.reads f a = some v → u.readsB f b = some x → (p.1 = .batCas d a b z f → u.reads f f.c = some c) →
      Reaches .atomic 3 true none ea n u u' t → u'.cur = s.cur → servedBy u' t.place ≠ 4 → Passes (loadDstCheck d) u' →
        (t.place.kind = 1 → u'.isPoisoned t.place n = false → Passes (releaseGate f.qual f.scope t.ord) u' → Passes (tileGate t.place n) u' →
          u'.portFree → u'.canWrite f d →
          ∃ t', exec p.1 s = .next t' ∧
            Finished r s (((u'.portTaken.store t.place (atomicOp p.2 n (u'.readMem t.place.key n) x.toNat c.toNat) n).put f d
              (BitVec.ofNat 64 (u'.readMem t.place.key n)) 3).take s.cur r.taken) t' ∧
            (∀ k, (k < t.place.key ∨ t.place.key + n ≤ k) → t'.mem.read k = u'.mem.read k)) ∧
        (t.place.kind ≠ 1 → Passes (loadReady d) u' → u'.hasRoom a' →
          ∃ t', exec p.1 s = .next t' ∧ Finished r s (((u'.withAccess a').claimed d).take s.cur r.taken) t')

/-- R94: the integer operations of a bank atomic on the old value, the operand and the compare value, for 8 and for 4 bytes. -/
def Sys2Proof.Claims.AtomicOperations : Prop :=
  (∀ old x c : BitVec 64,
    let op (k : Nat) : BitVec 64 := BitVec.ofNat 64 (atomicOp k 8 old.toNat x.toNat c.toNat)
    op 0 = old + x ∧ op 1 = old &&& x ∧ op 2 = old ||| x ∧ op 3 = old ^^^ x ∧
    op 4 = (if old.toInt ≤ x.toInt then old else x) ∧ op 5 = (if x.toInt < old.toInt then old else x) ∧
    op 6 = (if old.toNat ≤ x.toNat then old else x) ∧ op 7 = (if x.toNat < old.toNat then old else x) ∧
    op 8 = x ∧ op 9 = (if old = c then x else old)) ∧
  (∀ (old x c : BitVec 32) (hx hc : BitVec 32),
    let op (k : Nat) : BitVec 32 := BitVec.ofNat 32 (atomicOp k 4 old.toNat (hx ++ x).toNat (hc ++ c).toNat)
    op 0 = old + x ∧ op 1 = old &&& x ∧ op 2 = old ||| x ∧ op 3 = old ^^^ x ∧
    op 4 = (if old.toInt ≤ x.toInt then old else x) ∧ op 5 = (if x.toInt < old.toInt then old else x) ∧
    op 6 = (if old.toNat ≤ x.toNat then old else x) ∧ op 7 = (if x.toNat < old.toNat then old else x) ∧
    op 8 = x ∧ op 9 = (if old = c then x else old))

/-- R94: bank atomics, and what each operation computes. -/
def Obligations.AtomicInstructions : Prop := Claims.BankAtomics ∧ Claims.AtomicOperations

/-- R90, R94: a load, store or atomic at an address that is no multiple of its size traps with cause 0x04 and the address in
`TREC2`, and changes nothing else. -/
def Sys2Proof.Claims.MisalignedAccess : Prop :=
  ∀ (d a b : Spec) (w : BitVec 2) (o : BitVec 10) (h : BitVec 2) (sx z : BitVec 1) (op : BitVec 4) (f : Form) (i : Instr)
    (r : Raw) (s : State) (v x c : Word) (buf : Option (Nat × Nat)) (ea : Word), Ready i r s → s.me.trap.tmode = false →
    let u := s.entered r
    ((∃ p ∈ loadTable d a b w o h sx f, i = p.1 ∧ u.baseAt f a false = some (v, buf) ∧ (p.2.1 = true → u.reads f b = some x) ∧
        ea = p.2.2.1 v x ∧ ea.toNat % p.2.2.2.1 ≠ 0) ∨
      (∃ p ∈ storeTable d a b w o h f, i = p.1 ∧ u.baseAt f a true = some (v, buf) ∧ (p.2.1 = true → u.reads f b = some x) ∧
        ea = p.2.2.1 v x ∧ ea.toNat % p.2.2.2 ≠ 0) ∨
      (u.reads f a = some v ∧ u.readsB f b = some x ∧
        ea = v + f.imm.signExtend 64 ∧ ea.toNat % (if z = 1 then 4 else 8) ≠ 0 ∧
        (i = .bat d a b z op f ∨ (i = .batCas d a b z f ∧ u.reads f f.c = some c)))) →
      ∃ t, exec i s = .next t ∧ Trapped { cause := 4, pc := s.me.pc, addr := ea } s s t

/-- R4, R61, R90, R94: an address that is not aligned traps with cause 0x04 and no effect. -/
def Obligations.MisalignmentTraps : Prop := Claims.MisalignedJump ∧ Claims.MisalignedAccess

/-! ## Turns, sealing, stripe blocks, waiting on a word, fences and barriers -/

/-- R103: `TURNQ` answers 0 for the own local store, the cycles to the next turn of the core for the own cluster and common stores,
and all ones elsewhere. -/
def Sys2Proof.Claims.TurnQuery : Prop :=
  ∀ (d a : Spec) (f : Form) (r : Raw) (s u' : State) (x : Word) (t : Target), Ready (.turnq d a f) r s →
    let u := s.entered r
    let clu := slotClu s.cur
    let turn (n : Nat) : Bool := u'.turnAt clu (requester (slotCore s.cur)) t.place n
    u.reads f a = some x → resolve .load x u = .ok (t, u') → u'.cur = s.cur → u'.cyc = s.cyc → Passes (checkWatch 1 x 1) u' →
    u'.canWrite f d →
      ∃ t' v, exec (.turnq d a f) s = .next t' ∧ Finished r s ((u'.put f d v 3).take s.cur r.taken) t' ∧
        (servedBy u' t.place = 0 → v = 0) ∧
        (servedBy u' t.place = 1 ∨ servedBy u' t.place = 2 → ∀ k < u'.turnPeriod clu, turn (s.cyc + k) = true →
          (∀ j < k, turn (s.cyc + j) = false) → v = BitVec.ofNat 64 k) ∧
        (3 ≤ servedBy u' t.place → v = 0xFFFFFFFFFFFFFFFF)

/-- R104: `WTURN` holds the thread until the last issue opportunity before the next turn of the core on the named line, and returns
at once for the own local store. -/
def Sys2Proof.Claims.TurnWait : Prop :=
  ∀ (a : Spec) (f : Form) (r : Raw) (s u' : State) (x : Word) (t : Target), Ready (.wturn a f) r s →
    let u := s.entered r
    let clu := slotClu s.cur
    let n := dividerOf (u'.core (slotCore s.cur)).clkCur
    let turn (m : Nat) : Bool := u'.turnAt clu (requester (slotCore s.cur)) t.place m
    u.reads f a = some x → resolve .load x u = .ok (t, u') → u'.cur = s.cur → u'.cyc = s.cyc → Passes (checkWatch 1 x 1) u' →
      (t.place.kind = 1 ∨ 3 ≤ servedBy u' t.place →
        ∃ t', exec (.wturn a f) s = .next t' ∧ Finished r s (u'.take s.cur r.taken) t') ∧
      (servedBy u' t.place = 1 ∨ servedBy u' t.place = 2 → ∀ k < u'.turnPeriod clu, turn (s.cyc + n + k) = true →
        (∀ j < k, turn (s.cyc + n + j) = false) →
          ∃ t', exec (.wturn a f) s = .next t' ∧
            Finished r s ((u'.modSlot s.cur fun y =>
              { y with notBefore := n * ((s.cyc + n + k) / n), wturn := some (t.place, n * ((s.cyc + n + k) / n)) }).take
              s.cur r.taken) t')

/-- R101, R102: on an empty range that does not pass 2^48 `SEAL` and `UNSEAL` complete and change nothing; on one 64 KiB page they set and clear the SEAL bit
of its leaf, store those eight bytes alone, and leave no copy of the entry in a TLB. -/
def Sys2Proof.Claims.SealAndUnseal : Prop :=
  ∀ (a b : Spec) (f : Form) (r : Raw) (s : State) (x n : Word) (p : Instr × Bool),
    (p = (.seal a b f, true) ∨ p = (.unseal a b f, false)) → Ready p.1 r s →
    let u := s.entered r
    u.reads f a = some x → u.reads f b = some n → x.toNat % 65536 = 0 →
      (n = 0 → ∀ (e : Eff) (u' : State), myEff u = .ok (e, u') → u'.cur = s.cur → x.toNat ≤ 2 ^ 48 →
        ∃ t, exec p.1 s = .next t ∧ Finished r s (u'.take s.cur r.taken) t) ∧
      (n = 65536 → ∀ (e : Eff) (q : Place) (pte : Word) (u' : State), myEff u = .ok (e, u') → 2 ^ 32 ≤ x.toNat → x.toNat + 65536 ≤ 2 ^ 48 →
        e.troot.getLsbD 0 = true → leafOf u x.toNat 3 e.troot = .ok (q, pte, false) →
        (pte.extractLsb' 16 12).toNat = e.tenant → pte.getLsbD 3 = true → u.me.storesDone = true →
          ∃ (t v : State), exec p.1 s = .next t ∧ Finished r s (v.take s.cur r.taken) t ∧
            v.mem = (u.store q (if p.2 then pte ||| 0x8000#64 else pte &&& ~~~0x8000#64).toNat 8).mem ∧
            (∀ k, (k < q.key ∨ q.key + 8 ≤ k) → v.mem.read k = u.mem.read k) ∧
            (∀ k, (v.slot k).w = (u.slot k).w ∧ (v.slot k).pw = (u.slot k).pw) ∧
            (∀ c, ∀ g ∈ (v.core c).tlb, ¬ (g.root = rootKey e.troot ∧ g.page = x.toNat / 65536)))

/-- R101 to R104: the turn instructions. -/
def Obligations.TurnInstructions : Prop := Claims.TurnQuery ∧ Claims.TurnWait ∧ Claims.SealAndUnseal

/-- R95 to R98: a block instruction that has passed its checks begins to stage or to read its lines and stays at its address with memory
unchanged, the local lines of a `BST` waiting to be moved into the block buffer; it completes once its commit, or a pass with one
version, has marked it done. The model's choice in it: the causes of a stripe in no place, and the local range under a partial mask (log
entry 23). -/
def Obligations.StripeBlocks : Prop :=
  ∀ (a b : Spec) (f : Form) (r : Raw) (s : State),
    let u := s.entered r
    let m := if f.ext?.isSome then (f.imm.extractLsb' 0 16).toNat else 0xFFFF
    (∀ p ∈ [(Instr.bst a b f, 2), (Instr.bld a b f, 32)], Ready p.1 r s → u.me.phase = p.2 →
      ∃ t, exec p.1 s = .next t ∧ Finished r s (u.take s.cur r.taken) t) ∧
    (∀ (x y : Word) (buf : Option (Nat × Nat)) (p : Place) (ord l : Nat) (u' : State), Ready (.bst a b f) r s → u.me.phase = 0 →
      u.reads f a = some x → u.baseAt f b false = some (y, buf) → blockChecks .store x y buf m u = .ok ((p, ord, l), u') →
      u'.cur = s.cur → u'.me.acc.length < 4 → p.kind = 2 →
        ∃ t g, exec (.bst a b f) s = .next t ∧ (t.slot s.cur).pc = s.me.pc ∧ (t.slot s.cur).phase = 1 ∧
          (t.slot s.cur).acc = u'.me.acc ++ [g] ∧ g.fin = .stage p.key m ∧
          (∃ lines, (t.core (slotCore s.cur)).blocks = (u'.core (slotCore s.cur)).blocks ++ [⟨s.cur, false, u.me.accNext, lines⟩] ∧
            ∀ k, k ∈ lines ↔ ∃ i ∈ maskBanks m, k = (i, l + 128 * i, 0)) ∧
          (∀ k, t.mem.read k = u'.mem.read k)) ∧
    (∀ (x y : Word) (buf : Option (Nat × Nat)) (p : Place) (ord l : Nat) (u' : State), Ready (.bld a b f) r s → u.me.phase = 0 →
      u.reads f b = some x → u.baseAt f a true = some (y, buf) → blockChecks .load x y buf m u = .ok ((p, ord, l), u') →
      u'.cur = s.cur → u.me.acc.length < 4 →
        ∃ t, exec (.bld a b f) s = .next t ∧ (t.slot s.cur).pc = s.me.pc ∧ (t.slot s.cur).phase = 1 ∧
          (t.slot s.cur).buf = [1, p.key, m, l] ∧ (∀ k, t.mem.read k = u'.mem.read k))

/-- R100: `WAITW` completes with the word that met its condition in its destination: at once where the word lies in the own local
store and meets it, and otherwise after a read that met it, three cycles after which the destination is available. -/
def Sys2Proof.Claims.WaitOnWord : Prop :=
  ∀ (d a b : Spec) (f : Form) (c : BitVec 6 × (Word → Word → Prop)),
    c ∈ [((0 : BitVec 6), fun (w y : Word) => w ≠ y), (1, fun w y => y.toNat ≤ w.toNat), (2, fun w y => w = y)] →
    ∀ (r : Raw) (s : State), Ready (.waitw d a b c.1 f) r s →
      let u := s.entered r
      (∀ k n, u.me.phase = 2 → u.me.buf = [k, n] → u.canWrite f d → ∃ t, exec (.waitw d a b c.1 f) s = .next t ∧
        Finished r s ((u.put f d (BitVec.ofNat 64 k) (n + 3 - s.cyc)).take s.cur r.taken) t) ∧
      (∀ (u' : State) (v y : Word) (t : Target),
        let ea := v + f.imm.signExtend 64
        let w : Word := BitVec.ofNat 64 (u'.readMem t.place.key 8)
        u.me.phase = 0 → (∀ g ∈ u.me.acc, ∀ x k z us v, g.fin ≠ .waitw x k z us v) → u.reads f a = some v → u.readsB f b = some y →
        ea.toNat % 8 = 0 → resolve .load ea u = .ok (t, u') → u'.cur = s.cur → u'.me.acc.length < 4 → t.view = 0 → servedBy u' t.place = 0 →
        t.place.kind = 1 → Passes (loadDstCheck d) u' → u'.isPoisoned t.place 8 = false → Passes (checkWatch 1 ea 8) u' →
        Passes (orderGate t.place t.ord 8) u' → u'.portFree → u'.canWrite f d → c.2 w y →
          ∃ t', exec (.waitw d a b c.1 f) s = .next t' ∧
            Finished r s ((u'.portTaken.put f d w 3).take s.cur r.taken) t')

/-- R209: a `FENCE` without the engine bit, or with every engine job of its thread complete, completes; it holds the thread's later
accesses only while an earlier one that its kind names is not done within its scope. -/
def Sys2Proof.Claims.Fences : Prop :=
  ∀ (sc : BitVec 3) (k : BitVec 2) (e : BitVec 1) (f : Form) (r : Raw) (s : State), Ready (.fence sc k e f) r s →
    let u := s.entered r
    let scope := match f.ext? with
      | some x => x.scope.toNat
      | none => sc.toNat
    (e = 1 → u.engineBusy s.cur = false) →
      ∃ t l, exec (.fence sc k e f) s = .next t ∧
        Finished r s ((u.modSlot s.cur fun x => { x with fences := l }).take s.cur r.taken) t ∧
        (∀ g ∈ l, g ∈ u.me.fences ∨ g = ⟨k.toNat, scope, u.me.accNext⟩) ∧ (u.me.acc = [] → u.me.owed = [] → l = []) ∧
        (∀ g ∈ u.me.acc, g.id < u.me.accNext → g.inScope (slotCore s.cur) scope = true → k ≠ 1 →
          (⟨k.toNat, scope, u.me.accNext⟩ : Fence) ∈ l)

/-- R100, R209: waits on a word, and fences. -/
def Obligations.WaitAndFence : Prop := Claims.WaitOnWord ∧ Claims.Fences

namespace Sys2Proof.Claims

/-- A barrier that an operand names (R214): its number, not 0 and below 256, and its state. -/
def namesBarrier (s : State) (f : Form) (a : Spec) (n : Nat) : Prop :=
  ∃ v : Word, s.reads f a = some v ∧ v.toNat = n ∧ n ≠ 0 ∧ n < 256

end Sys2Proof.Claims

/-- R214, R215, R217: `BARI` sets a barrier up; `BARA` adds an arrival and the expected bytes, answers the phase, and completes the
phase where it is the last; `BARW` passes once the phase has moved on; `BART` reads the barrier. -/
def Sys2Proof.Claims.Barriers : Prop :=
  ∀ (d a b : Spec) (f : Form) (r : Raw) (s : State) (i : Nat),
    let u := s.entered r
    let clu := slotClu s.cur
    let x := u.barrier clu i
    let own := x.count = 0 ∨ x.region = none ∨ x.region = some u.me.region
    namesBarrier u f a i →
      (∀ n : Word, Ready (.bari a b f) r s → u.reads f b = some n → n ≠ 0 → n.toNat ≤ 65535 → (x.broken = true ∨ x.arrivals = 0) →
        ∃ t, exec (.bari a b f) s = .next t ∧
          Finished r s ((u.setBarrier clu i { x with count := n.toNat, arrivals := 0, counter := 0, broken := false, tagged := false
                                                     region := some u.me.region, rcb := u.me.rcb }).take s.cur r.taken) t) ∧
      (∀ n : Word, own → Ready (.bara d a b f) r s → u.reads f b = some n → n.toNat < 2 ^ 32 → x.count ≠ 0 → x.broken = false →
        u.me.performed (slotCore s.cur) 4 = true → x.arrivals ≠ x.count → x.counter + n.toNat ≤ 2 ^ 31 - 1 → u.canWrite f d →
          ∃ t, exec (.bara d a b f) s = .next t ∧
            Finished r s ((((u.put f d (BitVec.ofNat 64 x.phase) 3).setBarrier clu i
              { x with arrivals := x.arrivals + 1, counter := x.counter + n.toNat }).completeBar clu i (slotCore s.cur)).take
              s.cur r.taken) t) ∧
      (∀ n : Word, own → Ready (.barw a b f) r s → u.reads f b = some n → n.toNat < 2 ^ 16 → x.count ≠ 0 → x.broken = false →
        x.phase ≠ n.toNat → ∃ t, exec (.barw a b f) s = .next t ∧ Finished r s (u.take s.cur r.taken) t) ∧
      (own → Ready (.bart d a f) r s → u.canWrite f d → ∃ t, exec (.bart d a f) s = .next t ∧
        Finished r s ((u.put f d (BitVec.ofNat 64 (x.phase * 2 ^ 48 + x.arrivals * 2 ^ 32) +
          (BitVec.ofInt 32 x.counter).setWidth 64) 3).take s.cur r.taken) t)

/-- R217: an arrival that brings the arrivals to the count with a counter of zero starts the next phase, modulo 65,536, with no arrival;
one with bytes outstanding leaves the barrier as it is; a negative counter breaks it. The model's choice in it: the core that a broken
barrier names (log entry 19). -/
def Sys2Proof.Claims.BarrierCompletes : Prop :=
  ∀ (s : State) (clu b core : Nat),
    let x := s.barrier clu b
    let y := (s.completeBar clu b core).barrier clu b
    x.count ≠ 0 → x.arrivals = x.count →
      (x.counter = 0 → y = { x with phase := (x.phase + 1) % 65536, arrivals := 0, tagged := false }) ∧
      (0 < x.counter → y = { x with tagged := false }) ∧
      (x.counter < 0 → y.broken = true ∧ y.count = x.count ∧ y.phase = x.phase)

/-- R214, R215, R217: the barrier instructions, and when a barrier completes. The model's choice in it: the core that a broken barrier
names (log entry 19). -/
def Obligations.BarrierInstructions : Prop := Claims.Barriers ∧ Claims.BarrierCompletes

/-! ## Remote accesses, ports and multicast -/

namespace Sys2Proof.Claims

/-- A remote access of `n` bytes at an address has a target, and nothing holds it: no earlier access of its thread to the place
(R204), no held release (R162), no tile load (R141), no order (R206 to R211). -/
structure Remote (k : Acc) (kind : Nat) (st : Bool) (f : Form) (ea : Word) (n : Nat) (u u' : State) (t : Target) : Prop where
  target : remoteTarget k ea n u = .ok (t, u')
  same : u'.cur = u.cur ∧ u'.me = u.me ∧ u'.net = u.net ∧ u'.mem = u.mem
  watch : Passes (checkWatch kind ea n) u'
  ordered : Passes (orderGate t.place t.ord n st) u'
  free : Passes (remoteGate t.place false) u'
  apart : ∀ g ∈ u.me.acc, ∀ m ∈ g.units, t.place.meets n m.place m.place.span = false
  tiles : k = .load ∨ Passes (tileGate t.place n) u'
  unheld : k = .load ∨ honoured f t < 2 ∨ u'.me.performed (slotCore u.cur) f.scope = true
  slots : 0 < (u'.core (slotCore u.cur)).resp ∧ 0 < (u'.core (slotCore u.cur)).credits

/-- A remote request has been sent and its answer is owed (R178): the instruction is complete, no register and no byte of memory has
changed. -/
structure Requested (r : Raw) (s u t : State) (p : Packet) (o : Owed) : Prop where
  net : t.net = u.net ++ [p]
  owed : (t.slot s.cur).owed = u.me.owed ++ [o]
  names : p.owed = o.id ∧ o.id = u.me.accNext ∧ p.slot = s.cur ∧ p.cont = u.me.cont ∧ p.region = u.me.region
  pc : (t.slot s.cur).pc = s.me.pc + BitVec.ofNat 64 r.f.size
  regs : (t.slot s.cur).w = u.me.w ∧ (t.slot s.cur).pw = u.me.pw
  mem : ∀ a, t.mem.read a = s.mem.read a

end Sys2Proof.Claims

/-- R178: each remote access that nothing holds sends one request to the cluster of its target, and the thread goes on. The model's
choice in it: that requests of a core to one line leave in the order of their issue (log entry 53). -/
def Obligations.RemoteAccesses : Prop :=
  ∀ (d a b : Spec) (f : Form) (r : Raw) (s u' : State) (ea x : Word) (t : Target),
    let u := s.entered r
    let cluster := if t.place.kind = 2 then t.place.unit else t.place.unit * 32 + t.place.group
    u.reads f a = some ea →
      (Ready (.rld d a f) r s → Remote .load 1 false f ea 8 u u' t → Passes (loadDstCheck d) u' → Passes (loadReady d) u' →
        ∃ t' p o, exec (.rld d a f) s = .next t' ∧ Requested r s u t' p o ∧ p.kind = 0 ∧ p.dst = cluster ∧ p.place = t.place ∧
          p.size = 8 ∧ o.what = 0 ∧ o.d = d) ∧
      (Ready (.rst a b f) r s → u'.reads f b = some x → (f.imm.extractLsb' 0 16).toNat < 256 → Remote .store 2 true f ea 8 u u' t →
        ∃ t' p o, exec (.rst a b f) s = .next t' ∧ Requested r s u t' p o ∧ p.kind = 1 ∧ p.dst = cluster ∧ p.place = t.place ∧
          p.size = 8 ∧ p.val = x.toNat ∧ p.btag = (f.imm.extractLsb' 0 16).toNat ∧ o.what = 1) ∧
      (∀ q : Place, Ready (.rldv d a f) r s → u.reads f d = some x → Remote .load 1 true f ea 128 u u' t →
        remoteLocal x u' = .ok (q, u') → Passes (checkWatch 2 x 128) u' → Passes (orderGate q u'.windowOrd 128 true) u' →
        Passes (tileGate q 128) u' →
        ∃ t' p o, exec (.rldv d a f) s = .next t' ∧ Requested r s u t' p o ∧ p.kind = 3 ∧ p.dst = cluster ∧ p.place = t.place ∧
          p.size = 128 ∧ o.what = 2 ∧ o.lcl = x.toNat) ∧
      (∀ q : Place, Ready (.rstv a b f) r s → u.reads f b = some x → (f.imm.extractLsb' 0 16).toNat < 256 →
        Remote .store 2 true f ea 128 u u' t → remoteLocal x u' = .ok (q, u') → u'.isPoisoned q 128 = false →
        Passes (checkWatch 1 x 128) u' → Passes (orderGate q u'.windowOrd 128) u' → u'.portFree →
        ∃ t' p o, exec (.rstv a b f) s = .next t' ∧ Requested r s u t' p o ∧ p.kind = 4 ∧ p.dst = cluster ∧ p.place = t.place ∧
          p.size = 128 ∧ p.val = s.readMem (localPlace (slotCore s.cur) x.toNat).key 128 ∧ o.what = 3) ∧
      (∀ c : Word, let op := (f.xfn.extractLsb' 0 4).toNat
        Ready (.rat d a b f) r s → u.reads f b = some x → (op = 9 → u.reads f f.c = some c) → (op ≠ 9 → c = 0) →
        Remote .atomic 3 true f ea (if f.ty 7 = 5 then 4 else 8) u u' t → Passes (loadDstCheck d) u' → Passes (loadReady d) u' →
        ∃ t' p o, exec (.rat d a b f) s = .next t' ∧ Requested r s u t' p o ∧ p.kind = 2 ∧ p.dst = cluster ∧ p.place = t.place ∧
          p.op = op ∧ p.val = x.toNat ∧ p.cmp = c.toNat ∧ o.what = 4 ∧ o.d = d)

/-- R170, R173, R174: `PBIND` binds a port that holds no route; `PCLOSE` ends an open stream with an end packet and leaves a closed
port as it is; `PSTAT` reads the port's status and clears its abort bit. -/
def Sys2Proof.Claims.Ports : Prop :=
  ∀ (d a : Spec) (f : Form) (r : Raw) (s : State),
    let u := s.entered r
    (∀ (w : Word) (u' : State), Ready (.pbind d a f) r s → u.reads f a = some w →
      u.me.portPending (d.toNat % 8) = false → (u.me.ports[d.toNat % 8]).isOpen = false →
      destCheck w true u = .ok ((), u') → u'.cur = s.cur →
        ∃ t, exec (.pbind d a f) s = .next t ∧
          Finished r s ((u'.modSlot s.cur fun x => { x with ports := vmod x.ports (d.toNat % 8) fun p =>
            { p with bound := true, dest := w } }).take s.cur r.taken) t) ∧
    (Ready (.pclose a f) r s → u.me.portPending (a.toNat % 8) = false → (u.me.ports[a.toNat % 8]).lost = false →
      ((u.me.ports[a.toNat % 8]).isOpen = false →
        ∃ t, exec (.pclose a f) s = .next t ∧ Finished r s (u.take s.cur r.taken) t) ∧
      ((u.me.ports[a.toNat % 8]).isOpen = true →
        ∃ t, exec (.pclose a f) s = .next t ∧
          Finished r s (((u.streamPacket s.cur (a.toNat % 8) 8 0 false).modSlot s.cur fun x =>
            { x with ports := vmod x.ports (a.toNat % 8) fun p => { p with isOpen := false, age := 0, since := 0 } }).take s.cur r.taken) t)) ∧
    (Ready (.pstat d a f) r s → u.canWrite f d →
      let p := u.me.ports[a.toNat % 8]
      ∃ t, exec (.pstat d a f) s = .next t ∧
        Finished r s (((u.put f d (BitVec.ofNat 64 ((if p.isOpen then min p.age (2 ^ 21 - 1) else 0) * 4096 + p.queue.length * 512
            + p.inOpen.toNat * 256 + p.lastE.toNat * 128 + p.abort.toNat * 64 + p.isOpen.toNat * 8 + p.bound.toNat * 4)) 3).modSlot
          s.cur fun x => { x with ports := vmod x.ports (a.toNat % 8) fun p => { p with abort := false } }).take s.cur r.taken) t)

/-- R176: `MCAST` completes with the number of acknowledgements once every member has answered, with a deferred report of the members
lost; while it waits it stays at its address. The model's choice in it: that losses make one deferred report (log entry 41). -/
def Sys2Proof.Claims.Multicast : Prop :=
  ∀ (d a b : Spec) (f : Form) (r : Raw) (s : State) (k l : Nat), Ready (.mcast d a b f) r s →
    let u := s.entered r
    (u.me.phase = 2 → u.me.buf = [k, l] → l < 2 ^ 64 → u.canTake f d →
      let v := u.putLate f d (BitVec.ofNat 64 k) s.cyc
      ∃ t, exec (.mcast d a b f) s = .next t ∧
        Finished r s ((if l = 0 then v else v.report s.cur
          { cause := 0x0E, pc := s.me.pc, info := BitVec.ofNat 64 l }).take s.cur r.taken) t) ∧
    (u.me.phase = 1 → ∃ t, exec (.mcast d a b f) s = .next t ∧ (t.slot s.cur).pc = s.me.pc ∧ (t.slot s.cur).w = u.me.w ∧
      ∀ n, t.mem.read n = s.mem.read n)

/-- R170, R173, R174, R176: port instructions and multicast. The model's choice in it: that losses make one deferred report (log entry
41). -/
def Obligations.PortsAndMulticast : Prop := Claims.Ports ∧ Claims.Multicast

/-! ## Copy channels, circular buffers and KVCOMMIT -/

namespace Sys2Proof.Claims

/-- The lines of rows: `n` rows of `l` bytes from a base at a pitch. -/
def rowSpans (base pitch : Word) (l n : Nat) : List (Word × Nat) :=
  (List.range n).flatMap fun i => pageSpans (base + BitVec.ofNat 64 i * pitch) l

/-- The 28 low bits of the launch number, the channel, and the rest of the number (R184). -/
def sequence (ch q : Nat) : Word := BitVec.ofNat 64 (q / 2 ^ 28 * 2 ^ 32 + ch * 2 ^ 28 + q % 2 ^ 28)

end Sys2Proof.Claims

/-- R184: a read of `CP_LAUNCH` whose shadow set breaks no limit and whose lines resolve answers the channel's next sequence number and
queues one transfer of the set there; no byte of memory changes. The model's choice in it: that an overlap is one of addresses (log
entry 38), the pages translated (log entry 39) and the start of `CP_WP` (log entry 37). -/
def Sys2Proof.Claims.CopyLaunch : Prop :=
  ∀ (d : Spec) (f : Form) (r : Raw) (s u1 u2 u3 u4 u5 u6 : State) (e : Eff) (pages : List (Nat × Place))
    (rs rd rt : List (Except TrapRec (Nat × Place × Nat))) (all : List (Nat × Place × Nat)) (slo shi dlo dhi : Int),
    Ready (.cpLaunch d f) r s →
    let u := s.entered r
    let c := u.me.copy
    c.limits = true → (∀ w ∈ [c.src, c.dst, c.sstr, c.dstr, c.stamp], w.toNat % 8 = 0) →
    c.srcBound = (slo, shi) → c.dstBound = (dlo, dhi) → (c.rowCount < 2 ∨ c.rowLen ≤ c.dstr.toInt.natAbs) →
    ¬ (slo < dhi ∧ dlo < shi) → ¬ (dlo < (c.stamp.toNat : Int) + 8 ∧ (c.stamp.toNat : Int) < dhi) →
    myEff u = .ok (e, u1) →
    (c.chain = false → pages = [] ∧ u2 = u1) →
    (c.chain = true → c.hopList ≠ [] ∧ (∀ h ∈ c.hopList, (e.logical s.device h).isSome) ∧
      ∃ v q, ownPages e dlo.toNat (dhi - dlo).toNat u1 = .ok ((pages, true), v) ∧ locate e c.stamp.toNat v = .ok (q, u2) ∧
        ∀ p, q = some p → servedBy u p = 1) →
    spanPlaces e .load (rowSpans c.src c.sstr c.len.toNat c.rows.toNat) u2 = .ok (rs, u3) →
    spanPlaces e .store (rowSpans c.dst c.dstr c.rowLen c.rowCount) u3 = .ok (rd, u4) →
    spanPlaces e .store [(c.stamp, 8)] u4 = .ok (rt, u5) → allOk (rs ++ rd ++ rt) u5 = .ok (all, u6) →
    u6.cur = s.cur → u6.me = u.me → u6.mem = s.mem → u6.cyc = s.cyc → Passes (loadDstCheck d) u6 → Passes launchGate u6 →
    u.me.storesDone = true → u6.canWrite f d → ∀ k : Fin 4, k.val = c.chan →
    let ch := (u6.clu (slotClu s.cur)).chans[k]
    ch.queue.length < 4 → (u6.clu (slotClu s.cur)).jobs.length < 32 →
      ∃ t tr, exec (.cpLaunch d f) s = .next t ∧ (t.slot s.cur).pc = s.me.pc + BitVec.ofNat 64 f.size ∧
        (d.toNat < 32 → (t.slot s.cur).reg d = sequence c.chan (ch.count + 1)) ∧
        (t.slot s.cur).lastCopy = some (sequence c.chan (ch.count + 1)) ∧
        ((t.clu (slotClu s.cur)).chans[k]).count = ch.count + 1 ∧
        ((t.clu (slotClu s.cur)).chans[k]).queue = ch.queue ++ [tr] ∧
        tr.seq = sequence c.chan (ch.count + 1) ∧ tr.set = c ∧ tr.bytes = 0 ∧ tr.started = false ∧
        (∀ a, t.mem.read a = s.mem.read a)

/-- R187, R188: `CPFWD` of a kept transfer queues a one-hop transfer of its destination bound on its channel and answers its sequence
number; `CPWAIT`
answers the bytes delivered once they reach B or the transfer has ended, and all ones for a transfer that the channel no longer
keeps. -/
def Sys2Proof.Claims.CopyForwardAndWait : Prop :=
  ∀ (d a b : Spec) (f : Form) (r : Raw) (s : State) (n y : Word) (k : Fin 4) (q : Nat),
    let u := s.entered r
    let ch := (u.clu (slotClu s.cur)).chans[k]
    u.reads f a = some n → u.reads f b = some y → seqParts n = some (k.val, q) → q ≠ 0 → q ≤ ch.count →
      (∀ (t : CopyDone) (e : Eff) (u' w : State) (own : List (Nat × Place)) (z : Bool), Ready (.cpfwd d a b f) r s → y.toNat < 256 →
        (∀ g ∈ ch.queue, g.kv = true ∨ g.seq ≠ n) → ch.done.find? (fun g => g.seq = n) = some t → t.own = true →
        myEff u = .ok (e, u') → u'.me = u.me → u'.cur = s.cur → u'.mem = s.mem → u'.clu (slotClu s.cur) = u.clu (slotClu s.cur) →
        (e.logical s.device y.toNat).isSome →
        Passes (loadDstCheck d) u' → Passes launchGate u' → u.me.storesDone = true → ch.queue.length < 4 →
        (u.clu (slotClu s.cur)).jobs.length < 32 → ownPages e t.lo t.len u' = .ok ((own, z), w) → w.me = u.me → w.cur = s.cur →
        w.mem = s.mem → w.clu (slotClu s.cur) = u.clu (slotClu s.cur) → w.canWrite f d →
          ∃ t' tr, exec (.cpfwd d a b f) s = .next t' ∧ (t'.slot s.cur).pc = s.me.pc + BitVec.ofNat 64 f.size ∧
            (d.toNat < 32 → (t'.slot s.cur).reg d = sequence k.val (ch.count + 1)) ∧
            ((t'.clu (slotClu s.cur)).chans[k]).count = ch.count + 1 ∧
            ((t'.clu (slotClu s.cur)).chans[k]).queue = ch.queue ++ [tr] ∧ tr.seq = sequence k.val (ch.count + 1) ∧
            tr.hops = [y.toNat] ∧ tr.pages = t.pages ++ own.filter (fun p => !(t.pages.any fun q => q.1 = p.1)) ∧ tr.lo = t.lo ∧ tr.len = t.len ∧ tr.fwd = true ∧
            (∀ m, t'.mem.read m = s.mem.read m)) ∧
      (∀ v : Nat, Ready (.cpwait d a b f) r s → u.canWrite f d →
        ((∃ t, ch.queue.find? (fun g => !g.kv && g.seq = n) = some t ∧ min y.toNat t.total ≤ t.bytes ∧ v = t.bytes) ∨
          (ch.queue.find? (fun g => !g.kv && g.seq = n) = none ∧
            ((∃ t, ch.done.find? (fun g => g.seq = n) = some t ∧ v = t.bytes) ∨
              (ch.done.find? (fun g => g.seq = n) = none ∧ v = 2 ^ 64 - 1)))) →
          ∃ t', exec (.cpwait d a b f) s = .next t' ∧
            Finished r s ((u.put f d (BitVec.ofNat 64 v) 3).take s.cur r.taken) t')

/-- R184, R187, R188: the copy instructions. The model's choice in it: that an overlap is one of addresses (log entry 38), the pages
translated (log entry 39) and the start of `CP_WP` (log entry 37). -/
def Obligations.CopyInstructions : Prop := Claims.CopyLaunch ∧ Claims.CopyForwardAndWait

/-- R194, R196, R197: `CBINIT` sets a buffer up empty; `CBPROD` fills slots at TAIL and `CBCONS` frees them at HEAD, where no earlier
load of the thread reads them any more, each answering the fill; `CBSTAT` reads HEAD, TAIL and FILL. -/
def Sys2Proof.Claims.CircularBuffers : Prop :=
  ∀ (d a b : Spec) (f : Form) (r : Raw) (s : State),
    let u := s.entered r
    let core := slotCore s.cur
    let h := handleOf u a
    let with' (v : State) (g : Handle) : State := v.modCore core fun c => { c with handles := vmod c.handles (a.toNat % 8) fun _ => g }
    (∀ (base w : Word) (bound : Nat) (u' : State), Ready (.cbinit d a b f) r s → u.reads f d = some base → u.reads f b = some w →
      let z := (w.extractLsb' 0 16).toNat
      let n := (w.extractLsb' 16 16).toNat
      w.extractLsb' 32 32 = 0 → z ≠ 0 → z % 8 = 0 → n ≠ 0 → base.toNat % 8 = 0 → localBound u = .ok (bound, u') → u'.cur = s.cur →
      base.toNat + z * n ≤ bound →
        ∃ t, exec (.cbinit d a b f) s = .next t ∧
          Finished r s ((with' u' { base := base.toNat, ssize := z, scount := n, head := 0, tail := 0, fill := 0 }).take
            s.cur r.taken) t) ∧
    (∀ n : Word, Ready (.cbprod d a b f) r s → u.reads f b = some n → h.scount ≠ 0 → n ≠ 0 → n.toNat ≤ h.scount →
      u.me.localStoresDone core = true → n.toNat ≤ h.scount - h.fill → u.canWrite f d →
        ∃ t, exec (.cbprod d a b f) s = .next t ∧
          Finished r s ((with' (u.put f d (BitVec.ofNat 64 (h.fill + n.toNat)) 3)
            { h with tail := (h.tail + n.toNat) % h.scount, fill := h.fill + n.toNat }).take s.cur r.taken) t) ∧
    (∀ n : Word, Ready (.cbcons d a b f) r s → u.reads f b = some n → h.scount ≠ 0 → n ≠ 0 → n.toNat ≤ h.scount →
      (∀ g ∈ u.me.acc, ∀ m ∈ g.units, ∀ i k z, Act.rd i k z ∈ m.acts → ∀ j < n.toNat,
        let lo := (localPlace core h.base).key + (h.head + j) % h.scount * h.ssize
        k + z ≤ lo ∨ lo + h.ssize ≤ k) → n.toNat ≤ h.fill → u.canWrite f d →
        ∃ t, exec (.cbcons d a b f) s = .next t ∧
          Finished r s ((with' (u.put f d (BitVec.ofNat 64 (h.fill - n.toNat)) 3)
            { h with head := (h.head + n.toNat) % h.scount, fill := h.fill - n.toNat }).take s.cur r.taken) t) ∧
    (Ready (.cbstat d a f) r s → u.canWrite f d →
      ∃ t, exec (.cbstat d a f) s = .next t ∧
        Finished r s ((u.put f d (BitVec.ofNat 64 (h.head + h.tail * 2 ^ 16 + h.fill * 2 ^ 32)) 3).take s.cur r.taken) t)

/-- R147: `KVCOMMIT` completes with the new length in its destination once its moves and its length word are in place; while its job is
held or moves it stays at its address and changes no byte of memory itself. The model's choice in it: that a length word on another
device is off-chip, and the cause of a bank lost while entries move (log entry 24). -/
def Sys2Proof.Claims.KvCommit : Prop :=
  ∀ (d a b : Spec) (f : Form) (r : Raw) (s : State), Ready (.kvcommit d a b f) r s →
    let u := s.entered r
    (∀ n c, u.me.phase = 44 → u.me.buf = [n, c] → u.canTake f d →
      ∃ t, exec (.kvcommit d a b f) s = .next t ∧
        Finished r s ((u.putLate f d (BitVec.ofNat 64 n) c).take s.cur r.taken) t) ∧
    (u.me.phase ∈ [40, 42, 43, 46] → ∃ t, exec (.kvcommit d a b f) s = .next t ∧ (t.slot s.cur).pc = s.me.pc ∧
      (t.slot s.cur).phase = u.me.phase ∧ (t.slot s.cur).w = u.me.w ∧ ∀ k, t.mem.read k = s.mem.read k)

/-- R147, R194, R196, R197: the circular-buffer instructions and KVCOMMIT. The model's choice in it: that a length word on another
device is off-chip, and the cause of a bank lost while entries move (log entry 24). -/
def Obligations.BufferInstructions : Prop := Claims.CircularBuffers ∧ Claims.KvCommit

/-! ## Tasks, regions and plans -/

/-- R231, R232: `ENQ` of a record in the own local store, read once, enters it in the ready queue of the own cluster, and `SPAWN` enters
a child with the thread's registers, one level deeper, answering 0; both complete when the queue has room, or when the answer of
another cluster has come. -/
def Sys2Proof.Claims.EnqueueAndSpawn : Prop :=
  ∀ (d a b : Spec) (f : Form) (r : Raw) (s : State) (x w : Word),
    let u := s.entered r
    u.reads f a = some x → u.reads f b = some w →
      (∀ (u1 u2 u3 u4 u5 : State) (t : Target) (k : Rec), Ready (.enq a b f) r s → u.me.phase = 0 →
        recordPlace .load x u = .ok (t, u1) → u1.cur = s.cur → u1.me = u.me → t.place.kind = 1 →
        Passes (orderGate t.place t.ord 256) u1 → u1.portFree →
        recordChecks (u1.readBytes t.place.key 256) w u1.portTaken = .ok (k, u2) →
        placeTarget w u2 = .ok ((u3.device, slotClu s.cur), u3) → u3.cur = s.cur → u3.isPoisoned t.place 256 = false →
        Passes (checkWatch 1 x 256) u3 →
        placeTarget w (u3.modSlot s.cur fun y => { y with phase := 12, buf := [leNat (u1.readBytes t.place.key 256)] })
          = .ok ((u4.device, slotClu s.cur), u4) → u4.cur = s.cur → u4.enqueue (slotClu s.cur) { val := k } = some u5 →
          ∃ t', exec (.enq a b f) s = .next t' ∧
            Finished r s ((u5.freeEscal s.cur (localPlace (slotCore s.cur) x.toNat)).take s.cur r.taken) t') ∧
      (∀ (n : Nat) (u4 u5 : State), Ready (.enq a b f) r s → u.me.phase = 12 → u.me.buf = [n] →
        placeTarget w u = .ok ((u4.device, slotClu s.cur), u4) → u4.cur = s.cur →
        u4.enqueue (slotClu s.cur) { val := { Rec.ofBytes (leBytes 256 n) with reason := 0, home := 0 } } = some u5 →
          ∃ t', exec (.enq a b f) s = .next t' ∧
            Finished r s ((u5.freeEscal s.cur (localPlace (slotCore s.cur) x.toNat)).take s.cur r.taken) t') ∧
      (∀ (u3 u4 : State), Ready (.spawn d a b f) r s → u.me.phase = 0 →
        let cls := (w.extractLsb' 0 3).toNat
        let mc := w.getLsbD 6
        let core := (w.extractLsb' 8 4).toNat
        let child : Rec :=
          { w := Vector.ofFn fun i => if i.val = d.toNat then 1 else u.word s.cur i.val
            pc := x, pw := u.me.pw, cls := cls, depth := u.me.depth + 1, prio := (w.extractLsb' 4 2).toNat
            flags := BitVec.ofNat 8 ((w.getLsbD 7).toNat * 128 + mc.toNat * 64 + core), region := u.me.region }
        u.me.depth ≠ 7 → x.extractLsb' 0 2 = 0 → placeReserved w = false → cls ≤ 4 →
        (mc = true → core ≤ 3 ∧ cls ≠ 2 ∧ cls ≠ 4) → isArmed u d = false →
        placeTarget w u = .ok ((u3.device, slotClu s.cur), u3) → u3.cur = s.cur →
        u3.enqueue (slotClu s.cur) { val := child } = some u4 → u4.canWrite f d →
          ∃ t', exec (.spawn d a b f) s = .next t' ∧ Finished r s ((u4.put f d 0 3).take u4.cur r.taken) t') ∧
      (Ready (.spawn d a b f) r s → u.me.phase = 2 → u.canWrite f d →
        ∃ t', exec (.spawn d a b f) s = .next t' ∧ Finished r s ((u.put f d 0 3).take s.cur r.taken) t')

/-- R230: a record entered in a queue of a cluster stands behind every entry that was there, with the cycle of its entry, and
changes no other queue. -/
def Sys2Proof.Claims.QueueEntry : Prop :=
  ∀ (s t : State) (clu : Nat) (q : Fin 4) (e : QEntry), s.enqueueAt clu q e = some t →
    (∃ g, (t.clu clu).queues[q] = (s.clu clu).queues[q] ++ [{ e with general := g, since := s.cyc }] ∧
      (g = true → ((s.clu clu).queues[q].filter (·.general)).length < 57) ∧
      (g = false → 1 ≤ e.val.depth ∧ ∀ x ∈ (s.clu clu).queues[q], x.general = false → x.val.depth ≠ e.val.depth)) ∧
    (∀ p : Fin 4, p ≠ q → (t.clu clu).queues[p] = (s.clu clu).queues[p]) ∧ (∀ n, t.slot n = s.slot n) ∧ t.mem = s.mem

/-- R230 to R232: ENQ and SPAWN, and the entry that they make. -/
def Obligations.TaskEntry : Prop := Claims.EnqueueAndSpawn ∧ Claims.QueueEntry

namespace Sys2Proof.Claims

/-- A thread whose slot may be left (R237, R238, R261): it holds no route, every access and answer of it is done, and no pass of an
array that it holds runs. -/
structure MayLeave (n : Nat) (u : State) : Prop where
  route : u.me.holdsRoute = false
  departed : u.departed n = true
  array : u.holdsArray n = false ∨ (u.clu (slotClu n)).iso.pleft = 0

/-- A `PARK` whose operands name a record and a number of cycles passes its checks (R238). -/
structure Parks (a b : Spec) (f : Form) (x w : Word) (t : Target) (s u u' : State) : Prop extends MayLeave s.cur u' where
  phase : u.me.phase = 0 ∨ u.me.phase = 7
  plain : u.me.trap.tmode = false
  addr : u.reads f a = some x
  wake : u.reads f b = some w ∧ w.toNat < 2 ^ 32
  place : recordPlace .store x u = .ok (t, u')
  same : u'.cur = s.cur ∧ u'.me = u.me
  watch : Passes (checkWatch 2 x 256) u'
  tiles : Passes (tileGate t.place 256) u'
  room : u'.parkUsed (slotCore s.cur) < 24

end Sys2Proof.Claims

/-- R237, R238, R49: `END` completes and leaves the slot empty. `PARK` completes and leaves the slot empty: at a record in the own local
store it stores the 256 bytes of the record, to resume at the next instruction, and nothing else; elsewhere once its lines are
written. Dirty words of the register cache go to the workspace first. -/
def Sys2Proof.Claims.EndAndPark : Prop :=
  ∀ (a b : Spec) (f : Form) (r : Raw) (s : State),
    let u := s.entered r
    (Ready (.endT f) r s → MayLeave s.cur u →
      ∃ t, exec (.endT f) s = .next t ∧ Placed r s (u.freeSlot s.cur) t ∧ (t.slot s.cur).live = false ∧
        ∀ k, t.mem.read k = s.mem.read k) ∧
    (∀ (x w : Word) (t : Target) (u' : State), Ready (.park a b f) r s → Parks a b f x w t s u u' →
      (u.me.dirty = 0 → t.place.kind = 1 → u'.portFree →
        ∃ t' v, exec (.park a b f) s = .next t' ∧ Placed r s v t' ∧ (t'.slot s.cur).live = false ∧
          (∀ k, (k < t.place.key ∨ t.place.key + 256 ≤ k) → t'.mem.read k = u'.mem.read k) ∧
          (u'.mem.wf = true → t'.readBytes t.place.key 256
            = ({ u'.recordOf s.cur (s.me.pc + BitVec.ofNat 64 f.size) with link := 0 } : Rec).bytes)) ∧
      (u.me.dirty = 0 → t.place.kind ≠ 1 →
        ∃ t' g, exec (.park a b f) s = .next t' ∧ (t'.slot s.cur).pc = s.me.pc ∧ (t'.slot s.cur).phase = 8 ∧
          (t'.slot s.cur).acc = u'.me.acc ++ [g] ∧ g.fin = .park ∧ (∀ k, t'.mem.read k = u'.mem.read k)) ∧
      (u.me.dirty ≠ 0 →
        ∃ t', exec (.park a b f) s = .next t' ∧ (t'.slot s.cur).pc = s.me.pc ∧ (t'.slot s.cur).phase = 7 ∧
          (t'.slot s.cur).dirty = 0 ∧ t'.mem = (u'.writeBack s.cur).mem)) ∧
    (Ready (.park a b f) r s → u.me.phase = 9 → ∃ t v, exec (.park a b f) s = .next t ∧ Placed r s v t ∧ (t.slot s.cur).live = false ∧
      ∀ k, (∀ p ∈ (u.core (slotCore s.cur)).park, p.rcd.key = u.me.buf.headD 0 → ∀ i y, p.late = some (i, y) →
        k < p.rcd.key + 8 * i ∨ p.rcd.key + 8 * i + 8 ≤ k) → t.mem.read k = s.mem.read k)

namespace Sys2Proof.Claims

/-- A thread that may migrate to a cluster, or to a memory core there (R246). -/
structure MayMove (mc : Option Nat) (n : Nat) (u : State) : Prop where
  route : u.me.holdsRoute = false
  array : u.holdsArray n = false
  armed : u.me.armed = [] ∧ ∀ p ∈ (u.core (slotCore n)).armedS, slotIdx n ≠ (p.2.extractLsb' 37 3).toNat
  cls : mc.isSome = true → u.me.cls ≠ 2 ∧ u.me.cls ≠ 4
  departed : u.departed n = true
  credit : 0 < (u.core (slotCore n)).credits

end Sys2Proof.Claims

/-- R246: `MIGR` completes. To a place that homes no thread elsewhere, or in a cluster outside the thread's partition, it changes
nothing; to one that does, it sends the thread's record, to resume at the same instruction, to that cluster or to the memory core
there, and the thread issues nothing until it is answered. -/
def Sys2Proof.Claims.Migrate : Prop :=
  ∀ (a : Spec) (f : Form) (r : Raw) (s u' : State) (x : Word) (t : Target), Ready (.migr a f) r s →
    let u := s.entered r
    u.reads f a = some x → u.me.trap.tmode = false → resolve .load x u = .ok (t, u') → u'.cur = s.cur → u'.me = u.me →
    u'.bankAbsent t.place = false →
      (migTarget u' t = none → ∃ t', exec (.migr a f) s = .next t' ∧ Finished r s (u'.take s.cur r.taken) t') ∧
      (∀ (c : Nat) (mc : Option Nat) (e : Eff) (u2 : State), migTarget u' t = some (c, mc) → myEff u' = .ok (e, u2) →
        u2.cur = s.cur → u2.me = u.me → u2.net = s.net → u2.mem = s.mem →
          (mc = none → e.logical u'.device c = none →
            ∃ t', exec (.migr a f) s = .next t' ∧ Finished r s (u2.take s.cur r.taken) t') ∧
          ((mc = none → (e.logical u'.device c).isSome = true) → MayMove mc s.cur u2 →
            ∃ t' v p, exec (.migr a f) s = .next t' ∧ Placed r s v t' ∧ t'.net = s.net ++ [p] ∧ p.kind = 13 ∧ p.dst = c ∧
              p.dep = (mc.map (16 + ·)).getD 30 ∧ p.val'.pc = s.me.pc ∧ p.val'.reason = 6 ∧ p.val'.home = x ∧
              (t'.slot s.cur).moving = true ∧ (t'.slot s.cur).pc = s.me.pc ∧ ∀ k, t'.mem.read k = s.mem.read k))

/-- R49, R237, R238, R246: the instructions by which a thread leaves its slot. -/
def Obligations.LeaveInstructions : Prop := Claims.EndAndPark ∧ Claims.Migrate

namespace Sys2Proof.Claims

/-- The plan instructions: the request that each makes, its argument and the staging words, and the destination that takes the
first answer (R249 to R252). -/
def planTable (d a : Spec) (f : Form) : List (Instr × Nat × Option Spec) := [
  (.disp d f, 0, some d), (.tdone a f, 1, none), (.planw a f, 2, none), (.plansw d f, 3, some d), (.trel a f, 4, none)]

end Sys2Proof.Claims

/-- R248 to R252: a plan instruction sends its request to the plan unit of its region's plan cluster, where it has arrived at once if
that is the own cluster, and waits; at turns of its service port the plan unit reads the block and the lines of the map that it needs,
and then writes those of the map before those of the block, and sends back the words it answers; the instruction then completes, with
the first word in the destination of `DISP` and `PLANSW`, and for `PLANW` 2 the plan registers holding the answer. The model's choice in
it: the order in which the plan unit reads lines (log entry 60) and the sub-code of an address out of reach (log entry 15). -/
def Sys2Proof.Claims.PlanInstructions : Prop :=
  (∀ (d a : Spec) (f : Form) (p : Instr × Nat × Option Spec), p ∈ planTable d a f →
    ∀ (r : Raw) (s : State) (x : Word), Ready p.1 r s →
      let u := s.entered r
      (p.2.2 = none → u.reads f a = some x) → (p.2.2 ≠ none → x = 0) → (p.2.1 = 2 → x.toNat < 3) → (p.2.1 = 4 → u.me.hdl = true) →
        (∀ (e : Eff) (q : Place) (u1 : State), u.me.phase = 0 → (p.2.1 = 1 → u.me.performed (slotCore s.cur) 4 = true) →
          (p.2.2 ≠ none → Passes (loadDstCheck d) u ∧ Passes (loadReady d) u) → myEff u = .ok (e, u1) → u1.cur = s.cur →
          u1.me = u.me → u1.net = s.net → u1.mem = s.mem → e.plan ≠ 0 → planPlace e = some q → (e.logical u1.device q.unit).isSome →
          0 < (u1.core (slotCore s.cur)).resp →
            ∃ t k, exec p.1 s = .next t ∧ t.net = s.net ++ [k] ∧ k.kind = 2 ∧ k.op = 64 + p.2.1 ∧ k.place = q ∧ k.dst = q.unit ∧
              k.arrived = decide (q.unit = slotClu s.cur) ∧
              k.ws = [BitVec.ofNat 64 ((e.logical u1.device (slotClu s.cur)).getD 64), BitVec.ofNat 64 e.part.length, x]
                ++ (if p.2.1 = 2 then u.me.plan.words else []) ∧
              (t.slot s.cur).pc = s.me.pc ∧ (t.slot s.cur).phase = 1 ∧ ∀ m, t.mem.read m = s.mem.read m) ∧
        (∀ (c : Nat) (l : List Nat), u.me.phase = 2 → u.me.buf = c :: l → (p.2.2 ≠ none → u.canTake f d) →
            ∃ t, exec p.1 s = .next t ∧ Finished r s ((match p.2.2 with
              | some d => u.putLate f d (BitVec.ofNat 64 (l.headD 0)) c
              | none => if p.2.1 = 2 ∧ x = 2 then
                  u.modSlot s.cur fun y => { y with plan := PlanSet.ofWords fun i => BitVec.ofNat 64 ((l[i]?).getD 0) }
                else u).take s.cur r.taken) t)) ∧
  ∀ (s : State) (k : Packet), k.forPlan = true → k.dev = s.device → s.bankAbsent k.part = false →
    let t := s.serveRequest k
    let answered (v : Nat) : Prop := ∃ q ∈ t.net, q.kind = 14 ∧ q.owed = k.owed ∧ q.slot = k.slot ∧ q.val = v
    (k.lost < 3 → t.mem = s.mem) ∧
    (∀ w, s.planWork k = .ok w → (k.lost = 1 ∧ (planReads s k.place (k.op - 64) (k.arg 0) (k.arg 1) (k.arg 2)).1 = []) ∨
        (k.lost = 2 ∧ k.plan.length ≤ 1) →
      let v := w.words.foldr (fun y acc => y + 2 ^ 64 * acc) 0
      (w.map ++ w.block = [] → answered v) ∧
      (w.map ++ w.block ≠ [] → k ∈ s.net → ∃ q ∈ t.net, q.pid = k.pid ∧ q.plan = w.map ++ w.block ∧ q.lost = 3 ∧ q.val = v)) ∧
    (3 ≤ k.lost → t.mem = (s.storeLine k.lineStores).mem ∧ (k.plan.drop k.lineStores.length = [] → answered k.val) ∧
      (k.plan.drop k.lineStores.length ≠ [] → k ∈ s.net →
        ∃ q ∈ t.net, q.pid = k.pid ∧ q.plan = k.plan.drop k.lineStores.length ∧ q.val = k.val))

/-- R227, R228: `RGSYNC` leaves no cached copy of the named block or of one derived from it; `RGENTER` of a block below the thread's
region, and `RGEXIT`, move the thread into the other region, with its privilege sampled there. -/
def Sys2Proof.Claims.RegionInstructions : Prop :=
  ∀ (a : Spec) (f : Form) (r : Raw) (s : State),
    let u := s.entered r
    let free (v : State) : Prop := v.me.trap.tmode = false ∧ v.me.holdsRoute = false ∧ v.me.armed = [] ∧
      v.holdsArray s.cur = false ∧ (∀ p ∈ (v.core (slotCore s.cur)).armedS, slotIdx s.cur ≠ (p.2.extractLsb' 37 3).toNat)
    let left (v : State) : Prop := v.departed s.cur = true ∧ v.me.unrestored = []
    (∀ x : Word, Ready (.rgsync a f) r s → u.reads f a = some x → x.toNat % 128 = 0 →
      ∃ t, exec (.rgsync a f) s = .next t ∧ (∀ g ∈ t.effs, rcbKey u x ∉ g.2.rcbs) ∧
        (∀ g ∈ u.effs, rcbKey u x ∉ g.2.rcbs → g ∈ t.effs) ∧ (∀ n, t.mem.read n = s.mem.read n) ∧
        (t.slot s.cur).pc = s.me.pc + BitVec.ofNat 64 f.size) ∧
    (∀ (x : Word) (e n : Eff) (u' : State), Ready (.rgenter a f) r s → u.reads f a = some x → x.toNat % 128 = 0 → free u →
      myEff u = .ok (e, u') → u'.cur = s.cur → u'.me = u.me → left u' → u'.eff? (rcbKey u x) = some n → u.me.region ∈ n.chain.drop 1 →
      (n.tenant = e.tenant ∨ u.me.privileged = true) →
        ∃ t, exec (.rgenter a f) s = .next t ∧
          Finished r s (((u'.cacheEff (rcbKey u x) n).modSlot s.cur fun y =>
            { y with rcb := rcbKey u x, region := n.id, trap := { y.trap with priv := u'.effPriv n } }).take s.cur r.taken) t) ∧
    (∀ (e g n : Eff) (u' u2 : State), Ready (.rgexit f) r s → free u → myEff u = .ok (e, u') → u'.cur = s.cur → u'.me = u.me →
      e.parent ≠ 0 → myEff u' = .ok (g, u2) → u2.cur = s.cur → u2.me = u.me → left u2 → u2.eff? e.parent = some n →
      (n.tenant = g.tenant ∨ u.me.privileged = true) →
        ∃ t, exec (.rgexit f) s = .next t ∧
          Finished r s (((u2.cacheEff e.parent n).modSlot s.cur fun y =>
            { y with rcb := e.parent, region := n.id, trap := { y.trap with priv := u2.effPriv n } }).take s.cur r.taken) t)

/-- R227, R228, R248 to R252: the plan and region instructions. The model's choice in it: the order in which the plan unit reads lines
(log entry 60) and the sub-code of an address out of reach (log entry 15). -/
def Obligations.PlanAndRegion : Prop := Claims.PlanInstructions ∧ Claims.RegionInstructions

/-! ## The isochrone array -/

namespace Sys2Proof.Claims

/-- The array of the current thread's cluster, and the state with another array there. -/
def arrayOf (s : State) : Iso := (s.clu (slotClu s.cur)).iso
def withArray (s : State) (x : Iso) : State := s.modClu (slotClu s.cur) fun c => { c with iso := x }

/-- No `SETC` of a register of the array by a thread of the cluster is still to take effect. -/
def without (s : State) (regs : List Nat) : State :=
  { s with setcs := s.setcs.filter fun w => !(slotClu w.slot = slotClu s.cur && regs.contains w.reg) }

/-- A thread may act on the array: it holds the claim, and no passes run (R262, R270). -/
def drives (s : State) : Prop := s.holdsArray s.cur = true ∧ (arrayOf s).pleft = 0

/-- The arrival of input `i`, the delay from input `i` to output `j`, and an output (R254): 255 never, or open. -/
def arrival (x : Iso) (i : Nat) : Nat := at8 x.a i
def delay (x : Iso) (i j : Nat) : Nat := at8 (x.dl[i]?.getD 0) j
def output (x : Iso) (j : Nat) : Nat := at8 x.o j

end Sys2Proof.Claims

/-- R255: a pass sets an OR output to the least sum of an arrival and its delay, an AND output to the greatest sum where every
connected input has arrived, and to never what reaches the window or has no such sum; it relaxes an OR arrival to the lesser of
itself and the output, sets an AND arrival to the output, and changes nothing else. -/
def Sys2Proof.Claims.IsochronePass : Prop :=
  ∀ (x : Iso) (w : Nat) (mode : Word) (j : Nat), w ≤ 255 → j < 64 →
    let y := x.pass w mode
    let conn (i : Nat) : Prop := i < 64 ∧ delay x i j ≠ 255
    let sum (i : Nat) : Nat := arrival x i + delay x i j
    (mode.getLsbD j = false →
      (∀ t < w, output y j = t ↔ (∃ i, conn i ∧ arrival x i ≠ 255 ∧ sum i = t) ∧ ∀ i, conn i → arrival x i ≠ 255 → t ≤ sum i) ∧
      (output y j = 255 ↔ ∀ i, conn i → arrival x i ≠ 255 → w ≤ sum i) ∧ arrival y j = min (arrival x j) (output y j)) ∧
    (mode.getLsbD j = true →
      (∀ t < w, output y j = t ↔ (∃ i, conn i ∧ sum i = t) ∧ ∀ i, conn i → arrival x i ≠ 255 ∧ sum i ≤ t) ∧
      (output y j = 255 ↔ (∀ i, ¬ conn i) ∨ ∃ i, conn i ∧ (arrival x i = 255 ∨ w ≤ sum i)) ∧ arrival y j = output y j) ∧
    y.dl = x.dl ∧ y.win = x.win ∧ y.mode = x.mode ∧ y.holder = x.holder ∧ y.pleft = x.pleft

/-- R260, R261, R264, R269: `ISCLAIM` of a free array claims it, clears it where its last region was another one, and answers
whether it did; one by its holder answers 0. `ISREL` releases it; `ISWIN`, `ISMODE` and `ISCLR` set and clear what they name, which no
earlier `SETC` then changes. -/
def Sys2Proof.Claims.IsochroneClaim : Prop :=
  ∀ (d a : Spec) (f : Form) (r : Raw) (s : State),
    let u := s.entered r
    let x := arrayOf u
    (Ready (.isclaim d f) r s → u.canWrite f d →
      (u.holdsArray s.cur = true → ∃ t, exec (.isclaim d f) s = .next t ∧ Finished r s ((u.put f d 0 3).take s.cur r.taken) t) ∧
      (u.holdsArray s.cur = false → x.holder = none → u.claimBefore s.cur (if u.me.phase = 20 then u.me.buf.headD s.cyc else s.cyc) = false →
        ∃ t, exec (.isclaim d f) s = .next t ∧
          Finished r s ((withArray (u.put f d (if x.lastRegion = some u.me.region then 0 else 1) 3)
            { (if x.lastRegion = some u.me.region then x else x.clear) with
                holder := some (s.cur, u.me.cont), hslot := s.cur, away := false, lastRegion := some u.me.region }).take
            s.cur r.taken) t)) ∧
    (Ready (.isrel f) r s → drives u →
      ∃ t, exec (.isrel f) s = .next t ∧ Finished r s ((u.releaseArray s.cur).take s.cur r.taken) t) ∧
    (∀ v : Word, drives u → u.reads f a = some v →
      (Ready (.iswin a f) r s → v ≠ 0 → v.toNat < 256 → ∃ t, exec (.iswin a f) s = .next t ∧
        Finished r s ((withArray (without u [0x040]) { x with win := v.toNat }).take s.cur r.taken) t) ∧
      (Ready (.ismode a f) r s → ∃ t, exec (.ismode a f) s = .next t ∧
        Finished r s ((withArray (without u [0x041]) { x with mode := v }).take s.cur r.taken) t)) ∧
    (Ready (.isclr f) r s → drives u → ∃ t, exec (.isclr f) s = .next t ∧
      Finished r s ((withArray (without u [0x040, 0x041]) { x with
        dl := Vector.replicate 64 (BitVec.allOnes 512), a := BitVec.allOnes 512, o := BitVec.allOnes 512, win := 255
        mode := 0 }).take s.cur r.taken) t)

/-- R265 to R268: `ISLDW` and `ISLDV` complete once their lines are read, with byte 64i + j as the delay from i to j and byte i as
the arrival of i; `ISGO` starts its passes with the window and the modes sampled; `ISCAP` hands the outputs, or the ranks of those that
rose, to one transfer to the own local store and to nowhere else, and completes once it is done. -/
def Sys2Proof.Claims.IsochroneRuns : Prop :=
  ∀ (a b : Spec) (f : Form) (r : Raw) (s : State) (v : Word),
    let u := s.entered r
    let x := arrayOf u
    u.reads f a = some v →
      (Ready (.isldw a f) r s → u.holdsArray s.cur = true → u.me.phase = 31 →
        ∃ t y, exec (.isldw a f) s = .next t ∧ Finished r s ((withArray u y).take s.cur r.taken) t ∧ y = { x with dl := y.dl } ∧
          ∀ i < 64, ∀ j < 64, delay y i j = (u.me.buf[i / 2]?).getD 0 / 256 ^ (64 * (i % 2) + j) % 256) ∧
      (Ready (.isldv a f) r s → u.holdsArray s.cur = true → u.me.phase = 31 →
        ∃ t y, exec (.isldv a f) s = .next t ∧ Finished r s ((withArray u y).take s.cur r.taken) t ∧ y = { x with a := y.a } ∧
          ∀ i < 64, arrival y i = u.me.buf.headD 0 / 256 ^ i % 256) ∧
      (Ready (.isgo a f) r s → drives u → v ≠ 0 → v.toNat < 256 → u.covers (2 * v.toNat) = true →
        ∃ t, exec (.isgo a f) s = .next t ∧
          Finished r s ((withArray (u.takeCharge s.cur (2 * v.toNat)) { x with
            pleft := v.toNat, pdone := 0, gwin := x.win, gmode := x.mode, nextPass := s.cyc + (x.win + 5) / 2 }).take
            s.cur r.taken) t) ∧
      (Ready (.iscap a b f) r s → u.holdsArray s.cur = true → u.me.phase = 24 →
        ∃ t, exec (.iscap a b f) s = .next t ∧ Finished r s (u.take s.cur r.taken) t) ∧
      (∀ (k : Word) (bound : Nat) (u' : State), Ready (.iscap a b f) r s → drives u → u.me.phase = 0 ∨ u.me.phase = 22 →
        u.reads f b = some k → k.toNat ≤ 64 → v.toNat % 128 = 0 →
          let p := localPlace (slotCore s.cur) v.toNat
          let n := if k = 0 then 64 else 2 * k.toNat
          v.toNat + n ≤ 0x40000 → localBound u = .ok (bound, u') → v.toNat + n ≤ bound → u'.cur = s.cur → u'.me = u.me →
          arrayOf u' = x → u'.mem = s.mem → Passes (checkWatch 2 v n) u' → Passes (orderGate p u'.windowOrd n true) u' →
          Passes (tileGate p n) u' → u.me.acc.length < 4 →
            ∃ t g, exec (.iscap a b f) s = .next t ∧ (t.slot s.cur).pc = s.me.pc ∧ (t.slot s.cur).phase = 23 ∧
              (t.slot s.cur).acc = u.me.acc ++ [g] ∧
              g.units = [{ place := p.line, acts := [.wr p.key n (leNat (x.capture k.toNat))] }] ∧
              (x.capture k.toNat).length = n ∧ (∀ m, t.mem.read m = s.mem.read m) ∧
              (k = 0 → ∀ j < 64, ((x.capture 0)[j]?).map (·.toNat) = some (output x j)))

/-- R260, R261, R264 to R269: the array instructions. -/
def Obligations.IsochroneInstructions : Prop := Claims.IsochroneClaim ∧ Claims.IsochroneRuns

/-- R268: the ranks are the outputs that rose, each once, as its time times 256 plus its index, in ascending order. -/
def Sys2Proof.Claims.IsochroneRanks : Prop :=
  ∀ x : Iso, x.ranks.Pairwise (· < ·) ∧
    ∀ n, n ∈ x.ranks ↔ ∃ j < 64, output x j ≠ 255 ∧ n = output x j * 256 + j

/-- R255, R268: a pass of the array, and its ranks. -/
def Obligations.IsochroneArithmetic : Prop := Claims.IsochronePass ∧ Claims.IsochroneRanks

/-! ## Control registers, traps, and the privileged instructions -/

namespace Sys2Proof.Claims

/-- The identity registers (R224, R274, R319): what a `GETC` of each answers. -/
def identity (s : State) : List (Nat × Nat) := [
  (0x000, s.cyc), (0x001, s.time), (0x003, coreIdx (slotCore s.cur) % 16), (0x004, cluIdx (slotClu s.cur)), (0x005, slotDie s.cur),
  (0x006, s.device % 512), (0x007, s.me.region.toNat), (0x008, s.me.depth), (0x060, s.me.timer)]

/-- The control registers that read as they were written (R133, R183, R240, R248, R257, R276, R294 to R297, R302, R307, R318). -/
def plainRegister (n : Nat) : Prop :=
  (0x010 ≤ n ∧ n ≤ 0x018) ∨ (0x020 ≤ n ∧ n ≤ 0x028) ∨ (0x030 ≤ n ∧ n ≤ 0x03A) ∨ n = 0x040 ∨ n = 0x041 ∨
  (0x060 ≤ n ∧ n ≤ 0x064) ∨ (0x101 ≤ n ∧ n ≤ 0x107) ∨ n = 0x110 ∨ n = 0x120 ∨ n = 0x132 ∨ n = 0x13B ∨ n = 0x140 ∨ n = 0x148 ∨
  n = 0x150 ∨ n = 0x152 ∨ n = 0x158 ∨ n = 0x159 ∨ n = 0x180 ∨ n = 0x184 ∨ (0x188 ≤ n ∧ n ≤ 0x18C) ∨ n = 0x191 ∨ n = 0x193 ∨
  (0x198 ≤ n ∧ n ≤ 0x1A7) ∨ n = 0x1C6 ∨ n = 0x1C8

/-- The control register that `GETC` and `SETC` name (R32, R75): in IMM12, or in IMM32 of the extended form. -/
def register (n : BitVec 12) (f : Form) : Nat :=
  match f with
  | .base | .lit _ => n.toNat
  | .ext _ m | .extLit _ m _ => m.toNat

/-- The bits of a register that a read shows (R5, R183): reserved bits of the copy registers read as zero. -/
def shown (n : Nat) (v : Word) : Word :=
  if n = 0x026 then v &&& 0xFFFF0313 else if n = 0x028 then v &&& 0x3FFFFFF else v

/-- The selected registers (R301): an access ends 12 cycles after its issue. -/
def selectedRegister (n : Nat) : Prop := 0x181 ≤ n ∧ n ≤ 0x183

/-- A selected access that began 12 cycles ago: the selection and the address as they stood then. -/
def selectedDone (u : State) (sel addr : Word) : Prop :=
  u.me.phase = 50 ∧ ∃ c, u.me.buf = [c, sel.toNat, addr.toNat] ∧ c ≤ u.cyc

/-- The state in which a `SETC` takes effect three cycles from now. -/
def withWrite (u : State) (n : Nat) (v : Word) : State :=
  { u with setcs := u.setcs ++ [{ slot := u.cur, cont := u.me.cont, region := u.me.region, reg := n, val := v, at' := u.cyc + 3 }] }

end Sys2Proof.Claims

/-- R75: a `GETC` of an identity register answers it, and of any other unselected register what that register holds; a `SETC` of a legal
value completes at once with the write three cycles away, and the register then reads as it was written but for its reserved bits, in
that slot alone. The model's choice in it: that a read within three cycles of a write reads the old value (log entry 20) and the limits
of log entry 46. -/
def Obligations.ControlRegisters : Prop :=
  (∀ (d : Spec) (n : BitVec 12) (f : Form) (r : Raw) (s : State), Ready (.getc d n f) r s →
    let u := s.entered r
    let reg := register n f
    ¬ selectedRegister reg → Passes (readGate reg) u → u.canWrite f d →
      ∃ t v, exec (.getc d n f) s = .next t ∧ Finished r s ((u.put f d v 3).take s.cur r.taken) t ∧
        v = u.readCtl s.cur reg ∧ ∀ p ∈ identity s, p.1 = reg → v = BitVec.ofNat 64 p.2) ∧
  (∀ (a : Spec) (n : BitVec 12) (f : Form) (r : Raw) (s : State) (v : Word), Ready (.setc a n f) r s →
    let u := s.entered r
    let reg := register n f
    ¬ selectedRegister reg → (reg = 0x040 ∨ reg = 0x041 → u.holdsArray s.cur = true) → u.reads f a = some v →
    ctlOk (slotDie s.cur) reg v = true → Passes (writeGate reg) u →
      ∃ t, exec (.setc a n f) s = .next t ∧
        Finished r s ((withWrite (if reg = 0x158 ∨ reg = 0x159 then u.modSlot s.cur fun x => { x with capAt := s.cyc } else u) reg v).take
          s.cur r.taken) t) ∧
  (∀ (s : State) (w : CtlWrite), plainRegister w.reg → ctlOk (slotDie w.slot) w.reg w.val = true →
    (s.slot w.slot).live = true → (s.slot w.slot).cont = w.cont →
    (∀ h, (s.clu (slotClu w.slot)).iso.holder = some h → h.2 = w.cont) →
      (s.applySetc w).readCtl w.slot w.reg = shown w.reg w.val ∧
      (∀ n, n ≠ w.slot → (s.applySetc w).slot n = s.slot n) ∧ (s.applySetc w).mem = s.mem)

/-- R278, R279: taking a cause outside trap service saves the address, the status and the workspace, records the cause, enters trap
service, writes the dirty words of the workspace back, switches to the slot's trap workspace and goes to the handler's entry; it
leaves every other slot, and every byte of memory but those words. -/
def Sys2Proof.Claims.TrapEntry : Prop :=
  ∀ (s : State) (n : Nat) (c : TrapRec) (pc : Word), (s.slot n).trap.tmode = false →
    let x := s.slot n
    let t := s.takeTrap n c pc
    let y := t.slot n
    y.pc = (s.clu (slotClu n)).trapbase + BitVec.ofNat 64 (64 * c.cause) ∧
    y.wp = (s.core (slotCore n)).twsbase + BitVec.ofNat 64 (256 * slotIdx n) ∧
    y.trap.tmode = true ∧ y.trap.tepc = pc ∧ y.trap.tepw = x.pw ∧ y.trap.tewp = x.wp ∧
    y.trap.trec0 = c.word0 ∧ y.trap.trec1 = c.pc ∧ y.trap.trec2 = c.addr ∧ y.trap.trec3 = c.info ∧
    (y.trap.trec0.extractLsb' 0 8).toNat = c.cause % 256 ∧
    y.pw = x.pw ∧ y.w = x.w ∧ y.absent = true ∧ y.notBefore = s.cyc + 4 ∧ y.live = x.live ∧ y.privileged = true ∧
    (∀ m, m ≠ n → t.slot m = s.slot m) ∧ t.mem = (s.writeBack n).mem ∧ (∀ m, t.clu m = s.clu m)

/-- R278, R279, R283, R285: a cause taken outside trap service, and one raised in it. -/
def Obligations.TrapTaken : Prop := Claims.CauseInService ∧ Claims.TrapEntry

/-- R273, R281, R282, R303: `TRAP` enters the handler of cause 0x10 with its operand recorded and the next instruction's address saved;
`ERET` resumes the saved address, status and workspace outside trap service; `DBRK` halts its cluster where `SWBRK` is set, and traps
with cause 0x11 otherwise. -/
def Obligations.TrapAndReturn : Prop :=
  (∀ (a : Spec) (f : Form) (r : Raw) (s : State) (v : Word), Ready (.trap a f) r s →
    let u := s.entered r
    u.reads f a = some v → s.me.trap.tmode = false →
      ∃ t, exec (.trap a f) s = .next t ∧
        Placed r s ((u.take s.cur r.taken).takeTrap s.cur { cause := 0x10, pc := s.me.pc, info := v } (s.me.pc + BitVec.ofNat 64 f.size)) t) ∧
  (∀ (f : Form) (r : Raw) (s u' : State) (e : Eff), Ready (.eret f) r s →
    let u := s.entered r
    let w := u.me.trap.tewp
    u.me.trap.tepc.extractLsb' 0 2 = 0 → myEff u = .ok (e, u') → u'.cur = s.cur → u'.me = u.me → w.extractLsb' 0 8 = 0 →
    w.toNat + 256 ≤ 0x40000 → w.toNat + 256 ≤ e.lsbound →
      ∃ t, exec (.eret f) s = .next t ∧ Placed r s (u'.leaveTrap s.cur (u'.effPriv e)) t ∧
        (t.slot s.cur).pc = s.me.trap.tepc ∧ (t.slot s.cur).pw = s.me.trap.tepw ||| 0x80000000#32 ∧ (t.slot s.cur).wp = w ∧
        (t.slot s.cur).trap.tmode = false ∧ (t.slot s.cur).trap.priv = u'.effPriv e ∧
        (t.slot s.cur).trap.wskip = decide (s.me.trap.trec0.extractLsb' 0 8 = 0x0F) ∧ (t.slot s.cur).trap.trec0 = s.me.trap.trec0) ∧
  (∀ (f : Form) (r : Raw) (s : State), Ready (.dbrk f) r s →
    let u := s.entered r
    ((s.clu (slotClu s.cur)).dbg.swbrk = true → ∃ t, exec (.dbrk f) s = .next t ∧
      Finished r s ((u.haltEvent (slotClu s.cur) 2 (coreIdx (slotCore s.cur)) (slotIdx s.cur)).take s.cur r.taken) t) ∧
    ((s.clu (slotClu s.cur)).dbg.swbrk = false → s.me.trap.tmode = false → ∃ t, exec (.dbrk f) s = .next t ∧
      Trapped { cause := 0x11, pc := s.me.pc } s s t))

/-- R84 to R87, R293: `WHLSET` writes the shadow table alone; `WHLSW` arms a swap and completes once it has taken effect; `BANKRET`
starts a retirement; `TLBINV` with no user left drops every entry that it names, in scope, and no other. The model's choice in it: the
checks of operands of log entry 46. -/
def Obligations.PrivilegedInstructions : Prop :=
  ∀ (a b : Spec) (f : Form) (r : Raw) (s : State) (x v : Word),
    let u := s.entered r
    let outer (w : Word) (i : Nat) : Bool := w.getLsbD i
    let wheel (o : Bool) : Wheel := if o then (u.die (slotDie s.cur)).wheel else (u.clu (slotClu s.cur)).wheel
    let withWheel (o : Bool) (w : Wheel) : State :=
      if o then u.modDie (slotDie s.cur) fun y => { y with wheel := w } else u.modClu (slotClu s.cur) fun y => { y with wheel := w }
    u.reads f a = some x →
      (Ready (.whlset a b f) r s → u.reads f b = some v → whlsetOk x v = true → (wheel (outer x 8)).armed = false →
        ∃ t w, exec (.whlset a b f) s = .next t ∧ Finished r s ((withWheel (outer x 8) w).take s.cur r.taken) t ∧
          w.table = (wheel (outer x 8)).table ∧ w.len = (wheel (outer x 8)).len ∧ w.dwell = (wheel (outer x 8)).dwell ∧
          w.base = (wheel (outer x 8)).base ∧ w.armed = false ∧
          (x.getLsbD 9 = true → w.slen = (v.extractLsb' 0 7).toNat ∧ w.sdwell = (v.extractLsb' 16 12).toNat + 1 ∧
            w.shadow = (wheel (outer x 8)).shadow) ∧
          (x.getLsbD 9 = false → w.slen = (wheel (outer x 8)).slen ∧ w.sdwell = (wheel (outer x 8)).sdwell ∧
            ∀ e j, e < (wheel (outer x 8)).shadow.length → j < ((wheel (outer x 8)).shadow[e]?.getD []).length →
              (w.shadow[e]?.getD [])[j]? =
                if e = (x.extractLsb' 0 6).toNat ∧ j / 8 = (x.extractLsb' 6 2).toNat then some (v.extractLsb' (5 * (j % 8)) 5).toNat
                else ((wheel (outer x 8)).shadow[e]?.getD [])[j]?)) ∧
      (Ready (.whlsw a f) r s → (u.me.phase = 0 → x.toNat < 2 → (wheel (outer x 0)).armed = false →
          (wheel (outer x 0)).shadowOk (outer x 0) = true →
          ∃ t, exec (.whlsw a f) s = .next t ∧ (t.slot s.cur).pc = s.me.pc ∧ (t.slot s.cur).phase = 1 ∧
            (if outer x 0 then (t.die (slotDie s.cur)).wheel else (t.clu (slotClu s.cur)).wheel) = { wheel (outer x 0) with armed := true } ∧
            ∀ k, t.mem.read k = s.mem.read k) ∧
        (u.me.phase = 1 → u.me.buf.headD 0 < (wheel (outer x 0)).base →
          ∃ t, exec (.whlsw a f) s = .next t ∧ Finished r s (u.take s.cur r.taken) t)) ∧
      (Ready (.bankret a f) r s →
        let common := x.getLsbD 15
        let group := (x.extractLsb' 4 5).toNat
        let unit := if common then slotDie s.cur else slotClu s.cur
        x.extractLsb' 16 48 = 0 → x.extractLsb' 9 6 = 0 → (common = false → group = 0) →
        (u.retireOf common unit group).spare = true → (u.retireOf common unit group).phase ≠ 1 →
        (u.retireOf common unit group).phase ≠ 2 →
          ∃ t, exec (.bankret a f) s = .next t ∧ Finished r s ((u.startRetire common unit group (x.extractLsb' 0 4).toNat).take s.cur r.taken) t ∧
            t.retireOf common unit group = { u.retireOf common unit group with
              phase := 1, bank := (x.extractLsb' 0 4).toNat, group := group, done := 0, spare := false }) ∧
      (∀ (e : Eff) (u' : State), Ready (.tlbinv a b f) r s → u.reads f b = some v → u.me.phase = 0 → u.me.storesDone = true →
        let kind := (v.extractLsb' 0 2).toNat
        let scope := (v.extractLsb' 2 3).toNat
        v.toNat < 32 → kind < 3 → 1 ≤ scope → scope ≤ 4 → (kind = 0 → 2 ^ 32 ≤ x.toNat ∧ x.toNat < 2 ^ 48) → (kind = 2 → x = 0) →
        myEff u = .ok (e, u') → u'.cur = s.cur → u'.me = u.me → u'.cores = u.cores → u'.mem = s.mem →
        let root := if kind = 0 then rootKey e.troot else rootKey x
        let w := if kind = 0 then u' else u
        w.tlbUsers (slotCore s.cur) scope kind root x.toNat = [] →
          ∃ (t : State), exec (.tlbinv a b f) s = .next t ∧
            Finished r s ((w.tlbDrop (slotCore s.cur) scope kind root x.toNat).take s.cur r.taken) t ∧
            (∀ c, coreInScope (slotCore s.cur) scope c = true →
              (t.core c).tlb = (u.core c).tlb.filter fun g => !tlbHit kind root x.toNat g) ∧
            (∀ c, coreInScope (slotCore s.cur) scope c = false → (t.core c).tlb = (u.core c).tlb) ∧
            (∀ k, t.mem.read k = s.mem.read k))

/-- R273, R295, R296, R301, R302, R310, R314: the selected registers are read and written 12 cycles after issue, `DBG_DATA` reads and
stores a doubleword of the selected core's local store in an engine transfer after them, `TRACEW` emits its record, `RACE_CLR`,
`TRC_CTL` and `TRC_FDATA` complete with their write three cycles away, and `CAP_OUT` answers the capability of its inputs. The model's
choice in it: when a write of a selected register takes effect (log entry 44); the check code is a free value (log entry 7). -/
def Obligations.DebugInstructions : Prop :=
  ∀ (a d : Spec) (f : Form) (r : Raw) (s : State) (v sel addr : Word),
    let u := s.entered r
    let dbg (w : Word) : Debug := (u.clu (coreClu (selCore s.cur w))).dbg
    (∀ n : BitVec 12, Ready (.getc d n f) r s → selectedRegister (register n f) → selectedDone u sel addr → u.canWrite f d →
      ∃ t, exec (.getc d n f) s = .next t ∧
        Finished r s ((u.put f d (u.readSelected s.cur (register n f) sel) 3).take s.cur r.taken) t) ∧
    (∀ n : BitVec 12, register n f = 0x181 → Ready (.setc a n f) r s → u.reads f a = some v → ctlOk (slotDie s.cur) 0x181 v = true →
      selectedDone u sel addr →
      ∃ t, exec (.setc a n f) s = .next t ∧ Finished r s ((u.writeDbgCtl s.cur sel v).take s.cur r.taken) t) ∧
    (∀ n : BitVec 12, register n f = 0x183 → Ready (.setc a n f) r s → u.reads f a = some v → v.extractLsb' 0 2 = 0 →
      selectedDone u sel addr → (dbg sel).halted = true →
      ∃ t, exec (.setc a n f) s = .next t ∧ Finished r s ((u.writeDbgPc s.cur sel v).take s.cur r.taken) t) ∧
    (∀ wr : Bool, Ready (.dbgData wr (if wr then a else d) f) r s → selectedDone u sel addr → (wr = true → u.reads f a = some v) →
      (wr = false → v = 0 ∧ u.canTake f d) →
      ∃ t, exec (.dbgData wr (if wr then a else d) f) s = .next t ∧ (t.slot s.cur).pc = s.me.pc ∧ (t.slot s.cur).phase = 51 ∧
        (t.slot s.cur).buf = [sel.toNat, addr.toNat, wr.toNat, v.toNat] ∧ ∀ k, t.mem.read k = s.mem.read k) ∧
    (∀ (core n : Nat) (wr : Bool), s.dbgWaits core = some n → (s.slot n).buf = [sel.toNat, addr.toNat, wr.toNat, v.toNat] →
      let p := localPlace core addr.toNat
      let t := s.dbgTransfer core
      (wr = true → s.mem.wf = true → (t.slot n).phase = 52 ∧ t.readMem p.key 8 = v.toNat ∧
        ∀ k, (k < p.key ∨ p.key + 8 ≤ k) → t.mem.read k = s.mem.read k) ∧
      (wr = false → s.isPoisoned p 8 = false → (t.slot n).phase = 52 ∧ (t.slot n).buf = [s.readMem p.key 8, s.cyc] ∧ t.mem = s.mem) ∧
      (wr = false → s.isPoisoned p 8 = true → (t.slot n).phase = 53 ∧ t.mem = s.mem)) ∧
    (Ready (.dbgData true a f) r s → u.me.phase = 52 →
      ∃ t, exec (.dbgData true a f) s = .next t ∧ Finished r s (u.take s.cur r.taken) t) ∧
    (∀ n c, Ready (.dbgData false d f) r s → u.me.phase = 52 → u.me.buf = [n, c] → u.canTake f d →
      ∃ t, exec (.dbgData false d f) s = .next t ∧
        Finished r s ((u.putLate f d (BitVec.ofNat 64 n) c).take s.cur r.taken) t) ∧
    (∀ i, (∃ n, register n f = 0x182 ∧ i = Instr.getc d n f) ∨ i = Instr.dbgData false d f → Ready i r s → u.me.phase = 0 →
      ∃ t, exec i s = .next t ∧ (t.slot s.cur).pc = s.me.pc ∧ (t.slot s.cur).phase = 50 ∧
        (t.slot s.cur).buf = [s.cyc + 12, s.me.debsel.toNat, s.me.dbgAddr.toNat] ∧ ∀ k, t.mem.read k = s.mem.read k) ∧
    (Ready (.tracew a f) r s → u.reads f a = some v → v.extractLsb' 48 16 = 0 → u.wayOpen (slotCore s.cur) = false →
      ∃ t, exec (.tracew a f) s = .next t ∧
        Finished r s ((u.emit (slotCore s.cur) (slotIdx s.cur) 1 v.toNat s.cyc).take s.cur r.taken) t ∧
        (s.cyc - (s.core (slotCore s.cur)).wayDate ≤ 0xFFFF → (s.clu (slotClu s.cur)).tq.length < 64 →
          (t.clu (slotClu s.cur)).tq = (s.clu (slotClu s.cur)).tq ++
            [(BitVec.ofNat 64 ((s.cyc - (s.core (slotCore s.cur)).wayDate) * 2 ^ 48 + v.toNat),
              BitVec.ofNat 16 (0x4000 + cluIdx (slotClu s.cur) * 512 + coreIdx (slotCore s.cur) * 16 + slotIdx s.cur * 2))])) ∧
    (Ready (.tracew a f) r s → u.reads f a = some v → v.extractLsb' 48 16 = 0 → u.wayOpen (slotCore s.cur) = true →
      ∃ t, exec (.tracew a f) s = .next t ∧
        Finished r s ((u.modCore (slotCore s.cur) fun c =>
          { c with wayHeld := c.wayHeld ++ [(s.cyc, slotIdx s.cur, v.toNat)] }).take s.cur r.taken) t) ∧
    (Ready (.raceClr a f) r s → u.reads f a = some 0 →
      ∃ t, exec (.raceClr a f) s = .next t ∧ Finished r s ((withWrite u 0x143 0).take s.cur r.taken) t) ∧
    (Ready (.trcCtl a f) r s → u.reads f a = some v → v &&& ~~~0x3F03#64 = 0 →
      (v.getLsbD 1 = true → ∀ i ≤ (v.extractLsb' 8 6).toNat,
        (decodeFilter (((u.die (slotDie s.cur)).fmem[i]?).getD 0)).isSome = true) →
      ∃ t, exec (.trcCtl a f) s = .next t ∧ Finished r s ((withWrite u 0x190 v).take s.cur r.taken) t) ∧
    (Ready (.trcFdata a f) r s → u.reads f a = some v → v.toNat < 2 ^ 16 → (u.die (slotDie s.cur)).fen = false →
      ∃ t, exec (.trcFdata a f) s = .next t ∧ Finished r s ((withWrite u 0x194 v).take s.cur r.taken) t) ∧
    (Ready (.capOut d f) r s → u.me.capAt = 0 ∨ u.me.capAt + 8 ≤ s.cyc → u.canWrite f d →
      ∃ t w, exec (.capOut d f) s = .next t ∧ Finished r s ((u.put f d w 3).take s.cur r.taken) t ∧
        w.extractLsb' 0 48 = u.me.capIn.extractLsb' 0 48 ∧
        w = Config.capMac (Config.deviceSecret s.resets) u.me.capIn.toNat (u.me.capTgt.extractLsb' 0 5).toNat
          (u.me.capTgt.extractLsb' 5 3).toNat ++ u.me.capIn.extractLsb' 0 48)

/-! ## The trace filter -/

namespace Sys2Proof.Claims

/-- The fields of a record (R313). -/
def recordField (g : FilterRun) : List (BitVec 5 × Nat) :=
  let w := g.word.toNat
  let t := g.tag.toNat
  [(0, w), (1, t), (2, t / 2 ^ 14), (3, t / 2 ^ 9 % 32), (4, t / 2 ^ 4 % 32), (5, t / 2 % 8), (6, w / 2 ^ 48), (7, w / 2 ^ 46 % 4),
   (8, if t < 2 ^ 14 then w % 2 ^ 46 * 4 else 0), (9, w % 2 ^ 48)]

/-- The filter instructions that write a register (R312). -/
def filterTable (g : FilterRun) (d a : BitVec 3) (i : BitVec 9) (n : BitVec 6) : List (Instr × Word) := [
  (.ldi d i, i.setWidth 64), (.filterAdd d a, g.f[d.toNat]! + g.f[a.toNat]!), (.filterSub d a, g.f[d.toNat]! - g.f[a.toNat]!),
  (.filterAnd d a, g.f[d.toNat]! &&& g.f[a.toNat]!), (.filterOr d a, g.f[d.toNat]! ||| g.f[a.toNat]!),
  (.filterShr d n, g.f[d.toNat]! >>> n.toNat)]

/-- The filter jumps and their conditions (R312). -/
def jumpTable (a b : BitVec 3) (o : BitVec 6) : List (Instr × (Word → Word → Prop)) := [
  (.jeq a b o, fun x y => x = y), (.jne a b o, fun x y => x ≠ y), (.jlt a b o, fun x y => x.toNat < y.toNat)]

/-- The filter's run goes on at an index, and the record is dropped where that lies beyond `FLEN` (R312). -/
def goesOn (s : State) (g : FilterRun) : State :=
  s.modDie s.fdie fun x => { x with run := if g.idx ≤ x.flen then some g else none }

/-- A kept record waits for its turn at the ring: the word, the tag, the label and four zero bytes (R311). -/
def keptEntry (w : Word) (g : BitVec 16) (l : BitVec 12) : List Byte :=
  leBytes 8 w.toNat ++ leBytes 2 g.toNat ++ leBytes 2 l.toNat ++ leBytes 4 0

/-- The run has ended. -/
def runEnds (s : State) : State := s.modDie s.fdie fun x => { x with run := none }

end Sys2Proof.Claims

/-- R312, R313, R314: every filter instruction does what its row of the table says to the registers, the label, the counters, the
index and the record, and nothing else. -/
def Sys2Proof.Claims.FilterInstructions : Prop :=
  ∀ (s : State) (g : FilterRun) (d a b n : BitVec 3) (i : BitVec 9) (o : BitVec 6) (l : BitVec 12),
    (s.die s.fdie).run = some g →
      (∀ p ∈ recordField g, exec (.ldf d p.1) s = .next (goesOn s { g with f := g.f.set! d.toNat (BitVec.ofNat 64 p.2), idx := g.idx + 1 })) ∧
      (∀ p ∈ filterTable g d a i o, exec p.1 s = .next (goesOn s { g with f := g.f.set! d.toNat p.2, idx := g.idx + 1 })) ∧
      (∀ p ∈ jumpTable a b o,
        (p.2 g.f[a.toNat]! g.f[b.toNat]! → exec p.1 s = .next (goesOn s { g with idx := g.idx + 1 + o.toNat })) ∧
        (¬ p.2 g.f[a.toNat]! g.f[b.toNat]! → exec p.1 s = .next (goesOn s { g with idx := g.idx + 1 }))) ∧
      exec (.mark l) s = .next (goesOn s { g with label := l, idx := g.idx + 1 }) ∧
      exec (.cnt n) s = .next (goesOn (s.modDie s.fdie fun x => { x with fcnt := vmod x.fcnt n.toNat (· + 1) })
        { g with idx := g.idx + 1 }) ∧
      exec .keep s = .next (runEnds (s.modDie s.fdie fun x => { x with kept := x.kept ++ [keptEntry g.word g.tag g.label] })) ∧
      exec .drop s = .next (runEnds s) ∧
      (∀ k : BitVec 1, ∃ t, exec (.trig k) s = .next t ∧
        t.mem = s.mem ∧ (t.die s.fdie).run = none ∧
        (t.die s.fdie).kept = (s.die s.fdie).kept ++ (if k = 1 then [keptEntry g.word g.tag g.label] else []) ∧
        (∀ c < 32, (s.clu (s.fdie * 32 + c)).dbg.xin = true →
          (s.cyc + 8, Event.haltEvent (s.fdie * 32 + c) 4 0 0) ∈ t.inputs) ∧
        (∀ e ∈ t.inputs, e ∈ s.inputs ∨ ∃ c < 32, (s.clu (s.fdie * 32 + c)).dbg.xin = true ∧
          e = (s.cyc + 8, Event.haltEvent (s.fdie * 32 + c) 4 0 0)))

/-- R311: the oldest kept record is stored as 16 bytes at entry `TRC_WP` of its ring, the word, the tag, the label and four zero bytes,
and at no other address; `TRC_WP` moves on by one. -/
def Sys2Proof.Claims.TraceRecordKept : Prop :=
  ∀ (s : State) (die : Nat) (w : Word) (g : BitVec 16) (l : BitVec 12) (rest : List (List Byte)),
    let d := s.die die
    let size := 4096 * 2 ^ (d.tbase.extractLsb' 0 4).toNat
    let place := comPlace die (d.tbase.toNat / 4096 * 4096 % 0x4000000 + 16 * (d.twp % (size / 16)))
    let key := place.key
    let t := s.ringWrite die
    s.mem.wf = true → d.kept = keptEntry w g l :: rest → s.missing (die * 32) place = false →
      t.readMem key 8 = w.toNat ∧ t.readMem (key + 8) 2 = g.toNat ∧ t.readMem (key + 10) 2 = l.toNat ∧ t.readMem (key + 12) 4 = 0 ∧
      (∀ k, (k < key ∨ key + 16 ≤ k) → t.mem.read k = s.mem.read k) ∧ (t.die die).twp = d.twp + 1 ∧ (t.die die).kept = rest ∧
      ∀ n, t.slot n = s.slot n

/-- R311 to R314: the filter instructions, and the record that is kept. -/
def Obligations.FilterAndRing : Prop := Claims.FilterInstructions ∧ Claims.TraceRecordKept

/-! ## Records, halting, reports: steps that no instruction word issues -/

namespace Sys2Proof.Claims

/-- Only one unit differs between two states. -/
def onlyClu (k : Nat) (f : Cluster → Cluster) (s t : State) : Prop :=
  t = { s with clus := t.clus } ∧ t.clu k = f (s.clu k) ∧ ∀ c, c ≠ k → t.clu c = s.clu c
def onlySlot (k : Nat) (f : Slot → Slot) (s t : State) : Prop :=
  t = { s with slots := t.slots } ∧ t.slot k = f (s.slot k) ∧ ∀ n, n ≠ k → t.slot n = s.slot n

/-- The debug module of one cluster is set. -/
def debugSet (k : Nat) (d : Debug) (s t : State) : Prop := onlyClu k (fun c => { c with dbg := d }) s t

/-- The address of a cached word of a slot's workspace (R48). -/
def wordKey (s : State) (n i : Nat) : Nat := (localPlace (slotCore n) ((s.slot n).wp.toNat + 8 * i)).key

/-- The dirty cached words of the live slots of a cluster. -/
def dirtyWord (s : State) (k n i : Nat) : Prop :=
  slotClu n = k ∧ (s.slot n).live = true ∧ i < 32 ∧ (s.slot n).dirty.getLsbD i = true

/-- Every live slot of a cluster has written its dirty workspace words back, and has no word cached (R304). -/
def flushed (k : Nat) (s t : State) : Prop :=
  (∀ n, slotClu n = k → (s.slot n).live = true → t.slot n = { s.slot n with absent := true, dirty := 0 }) ∧
  (∀ n, slotClu n ≠ k → t.slot n = s.slot n) ∧
  (∀ a, (∀ n i, dirtyWord s k n i → a < wordKey s n i ∨ wordKey s n i + 8 ≤ a) → t.mem.read a = s.mem.read a) ∧
  (s.mem.wf = true → ∀ n i, dirtyWord s k n i →
    (∀ m j, dirtyWord s k m j → (m, j) ≠ (n, i) → wordKey s m j + 8 ≤ wordKey s n i ∨ wordKey s n i + 8 ≤ wordKey s m j) →
    t.readMem (wordKey s n i) 8 = ((s.slot n).w[i]?.getD 0).toNat)

/-- The tag of a record (R310): its kind, and the cluster, the core and the slot that it comes from. -/
def tagOf (kind core slot : Nat) : BitVec 16 :=
  BitVec.ofNat 16 (kind * 2 ^ 14 + cluIdx (coreClu core) * 2 ^ 9 + coreIdx core * 2 ^ 4 + slot % 8 * 2)

/-- A cluster whose oldest record has left its queue; an overflow record counts those lost before it (R310). -/
def tookRecord (k : Nat) (c : Cluster) : Cluster :=
  { c with tlost := 0, tq := c.tq.tail ++ if c.tlost = 0 then [] else [(BitVec.ofNat 64 (c.tlost % 2 ^ 48), tagOf 3 (k * 20) 0)] }

end Sys2Proof.Claims

/-- R309, R310, R311: a core whose state has differed from the last one logged logs it, dated at the first cycle of it; the trace core
takes the oldest record of the next cluster in rotation, and keeps it, or runs its filter on it. The model's choice in it: the tag of an
overflow record (log entry 19) and that a new trace drops entries not yet written (log entry 43). -/
def Obligations.RecordSteps : Prop :=
  (∀ (s : State) (core n date slot v : Nat), (s.core core).waySince = some n → (s.core core).wayHeld = [(date, slot, v)] →
    let c := s.core core
    let clu := coreClu core
    n - c.wayDate ≤ 0xFFFF → date - n ≤ 0xFFFF → (s.clu clu).tq.length < 63 → v < 2 ^ 48 →
      ∃ t p, exec (.waypointRecord core) s = .next t ∧ (t.core core).wayHeld = [] ∧ (t.clu clu).tq = (s.clu clu).tq ++
        [(p, tagOf 0 core c.waySlot), (BitVec.ofNat 64 ((date - n) * 2 ^ 48 + v), tagOf 1 core slot)]) ∧
  (∀ (s : State) (core n : Nat), (s.core core).waySince = some n → (s.core core).wayHeld = [] →
    let c := s.core core
    let clu := coreClu core
    ∃ t, exec (.waypointRecord core) s = .next t ∧
      t = { s with cores := t.cores, clus := t.clus } ∧
      t.core core = { c with wayState := c.wayNew, waySince := none, wayDate := n } ∧
      (∀ k, k ≠ core → t.core k = s.core k) ∧ (∀ k, k ≠ clu → t.clu k = s.clu k) ∧
      (n - c.wayDate ≤ 0xFFFF → (s.clu clu).tq.length < 64 → t.clu clu = { s.clu clu with tq := (s.clu clu).tq ++
        [(BitVec.ofNat 64 ((n - c.wayDate) * 2 ^ 48 + (c.wayNew % 4 * 2 ^ 46 + if c.wayNew = 0 then 0 else c.wayPc.toNat / 4 % 2 ^ 46)),
          tagOf 0 core c.waySlot)] }) ∧
      (n - c.wayDate ≤ 0xFFFF → 64 ≤ (s.clu clu).tq.length →
        t.clu clu = { s.clu clu with tlost := (s.clu clu).tlost + 1 }) ∧
      (0xFFFF < n - c.wayDate → (s.clu clu).tq.length < 63 → ∃ p, t.clu clu = { s.clu clu with tq := (s.clu clu).tq ++
        [(BitVec.ofNat 64 (0xFFFF * 2 ^ 48 + n % 2 ^ 48), tagOf 2 core c.waySlot), (p, tagOf 0 core c.waySlot)] })) ∧
  (∀ (s : State) (die i : Nat) (w : Word) (g : BitVec 16) (l : List (Word × BitVec 16)),
    let d := s.die die
    let k := (d.rot + i) % 32
    d.en = true → d.run = none → i < 32 → (s.clu (die * 32 + k)).tq = (w, g) :: l →
    (∀ j < i, (s.clu (die * 32 + (d.rot + j) % 32)).tq = []) →
      ∃ t, exec (.traceRecord die) s = .next t ∧ t.clu (die * 32 + k) = tookRecord (die * 32 + k) (s.clu (die * 32 + k)) ∧
        (∀ c, c ≠ die * 32 + k → t.clu c = s.clu c) ∧ (∀ n, t.slot n = s.slot n) ∧ (∀ e, e ≠ die → t.die e = s.die e) ∧
        (d.fen = true → t.mem = s.mem ∧
          t.die die = { d with rot := (k + 1) % 32, run := some { word := w, tag := g, f := d.fconst, label := 0, idx := 0 } }) ∧
        (d.fen = false → t.mem = s.mem ∧ t.die die = { d with rot := (k + 1) % 32, kept := d.kept ++ [keptEntry w g 0] })) ∧
  (∀ (s : State) (die : Nat), (s.die die).en = false ∨ (s.die die).run.isSome = true ∨ (∀ c < 32, (s.clu (die * 32 + c)).tq = []) →
    exec (.traceRecord die) s = .next s)

/-- R303 to R306: a halt event takes hold once; the halt is complete when every core has stopped and every channel is frozen; a resume
and a step take effect two cycles later; a step done halts the cluster again. -/
def Sys2Proof.Claims.HaltSteps : Prop :=
  ∀ (s : State) (k core slot why : Nat),
    let d := (s.clu k).dbg
    (d.halted = false → d.halting = none →
      (∃ t, exec (.halt k) s = .next t ∧
        debugSet k { d with halting := some s.cyc, hcyc := s.cyc % 2 ^ 48, why := 1, hcore := 0, hslot := 0 } s t) ∧
      ∃ t, exec (.haltEvent k why core slot) s = .next t ∧
        debugSet k { d with halting := some s.cyc, hcyc := s.cyc % 2 ^ 48, why := why, hcore := core, hslot := slot } s t) ∧
    (d.halted = true ∨ d.halting.isSome = true →
      (∃ t, exec (.halt k) s = .next t ∧ debugSet k d s t) ∧ ∃ t, exec (.haltEvent k why core slot) s = .next t ∧ debugSet k d s t) ∧
    (∀ h, d.halting = some h → h + 5 ≤ s.cyc → (∀ c : Fin 4, ∀ x, (s.clu k).chans[c].queue.head? = some x → x.moving = false) →
      ∃ t, exec (.halted k) s = .next t ∧ flushed k s t ∧
        (t.clu k).dbg = { d with halted := true, halting := none, step := none, resumeAt := none } ∧
        ∀ c, c ≠ k → t.clu c = s.clu c) ∧
    ((d.halting = none ∨ ∃ c : Fin 4, ∃ x, (s.clu k).chans[c].queue.head? = some x ∧ x.moving = true) →
      exec (.halted k) s = .next s) ∧
    (d.halted = true → d.step = none →
      ∃ t, exec (.resume k) s = .next t ∧ debugSet k { d with resumeAt := some (s.cyc + 2) } s t) ∧
    (d.halted = true → d.resumeAt = none →
      ∃ t, exec (.stepOne k core slot) s = .next t ∧ debugSet k { d with step := some ((k * 20 + core) * 8 + slot, s.cyc + 2) } s t) ∧
    (d.halted = false →
      (∃ t, exec (.resume k) s = .next t ∧ debugSet k d s t) ∧ ∃ t, exec (.stepOne k core slot) s = .next t ∧ debugSet k d s t) ∧
    ∃ t, exec (.stepDone k) s = .next t ∧ flushed k s t ∧
      (t.clu k).dbg = { d with halted := true, step := none, why := 5, hcyc := s.cyc % 2 ^ 48, hcore := 0, hslot := 0 } ∧
      ∀ c, c ≠ k → t.clu c = s.clu c

/-- R279, R284, R285: the oldest report of a slot enters trap service; a thread that escalates leaves its slot, and its record, with
reason 7 and the address and status saved when its own trap was taken, is in a slot frame of its region. -/
def Sys2Proof.Claims.ReportSteps : Prop :=
  (∀ (s : State) (n : Nat) (c : TrapRec) (l : List TrapRec), (s.slot n).reports = c :: l → (s.slot n).trap.tmode = false →
    let x := s.slot n
    ∃ t, exec (.reportTaken n) s = .next t ∧
      (t.slot n).reports = l ∧ (t.slot n).pc = (s.clu (slotClu n)).trapbase + BitVec.ofNat 64 (64 * c.cause) ∧
      (t.slot n).trap.tmode = true ∧ (t.slot n).trap.tepc = x.pc ∧ (t.slot n).trap.tepw = x.pw ∧ (t.slot n).trap.tewp = x.wp ∧
      (t.slot n).trap.trec0 = c.word0 ∧ (t.slot n).trap.trec1 = c.pc ∧ (t.slot n).trap.trec2 = c.addr ∧
      (t.slot n).trap.trec3 = c.info ∧ (t.slot n).phase = 0 ∧ t.mem = (s.writeBack n).mem ∧
      ∀ m, m ≠ n → t.slot m = s.slot m) ∧
  (∀ (s : State) (n : Nat), (s.slot n).reports = [] → exec (.reportTaken n) s = .next s) ∧
  (∀ (s : State) (n i : Nat) (c : TrapRec) (e : Eff), (s.slot n).escal = some c → s.escalFrame n = some (e, i) → s.mem.wf = true →
    let x := s.slot n
    let core := slotCore n
    let p := localPlace core (e.frameOff 0 i)
    ∃ t, exec (.escalation n) s = .next t ∧ (t.slot n).live = false ∧
      (∃ q ∈ (t.core core).frames, q.region = x.region ∧ q.kind = 0 ∧ q.num = i ∧ q.escal = p.key) ∧
      t.readBytes p.key 256 = (s.escalRecord n).bytes ∧
      (s.escalRecord n).reason = 7 ∧ (s.escalRecord n).pc = x.trap.tepc ∧ (s.escalRecord n).pw = x.trap.tepw ||| 0x80000000#32 ∧
      (∀ j : Fin 24, (s.escalRecord n).w[j] =
        BitVec.ofNat 64 (s.readMem (localPlace core (x.trap.tewp.toNat + 8 * j.val)).key 8))) ∧
  (∀ (s : State) (n : Nat), (s.slot n).escal = none → exec (.escalation n) s = .next s)

/-- R279, R284, R285, R303 to R306: halts, resumes and steps of a cluster, and reports. -/
def Obligations.HaltAndReportSteps : Prop := Claims.HaltSteps ∧ Claims.ReportSteps

/-! ## The host, time, and the care of the stores -/

namespace Sys2Proof.Claims

/-- A mailbox command has completed with a result, and interrupted the host (R321). -/
def mailed (result : Nat) (s t : State) : Prop :=
  t.mbox = { s.mbox with busy := false, done := true, result := result } ∧ t.msix = s.msix ++ [0]

/-- The number that the `n` bytes of a string from `o` on stand for (R3). -/
def bytesAt (l : List Byte) (o n : Nat) : Nat := ((l.drop o).take n).foldr (fun b v => b.toNat + 256 * v) 0

/-- The checks of a firmware image (R328), in their order. -/
def imageLaw (img : List Byte) (result : Nat) : Prop :=
  (bytesAt img 0 8 ≠ 0x46525A4D38465731 → result = 3) ∧
  (bytesAt img 0 8 = 0x46525A4D38465731 →
    (img.length ≠ 4096 + bytesAt img 12 4 → result = 3) ∧
    (img.length = 4096 + bytesAt img 12 4 →
      (bytesAt img 8 4 < Config.fusedVersion → result = 3) ∧
      (Config.fusedVersion ≤ bytesAt img 8 4 →
        result = if Config.signatureOk Config.fusedKey (Config.sha3 (img.drop 2436)).toNat ((img.drop 16).take 2420) then 0 else 4)))

/-- A host access of a link that waits for its lines, one after the other (R323). -/
def asked (link : Nat) (wr : Bool) (lines : List (Place × Nat × Nat)) (s : State) : State :=
  { s with hostOps := s.hostOps ++ [{ id := s.hostNext, link := link, wr := wr, lines := lines }], hostNext := s.hostNext + 1 }

/-- The head of a DRAM channel's queue is a line of a host access, and may start (R200). -/
def hostHead (s : State) (chan : Nat) (o : HostOp) (p : Place) (n v : Nat) : Prop :=
  (s.dram chan).queue.head? = some (hostRequester, o.id) ∧ s.hostOps.find? (fun q => q.id = o.id) = some o ∧
    o.lines.head? = some (p, n, v) ∧ p.kind = 4 ∧ (s.dram chan).busFree ≤ s.cyc ∧ inRefresh chan s.cyc = false

/-- Where a `BAR2` offset leads (R323). -/
def bar2 (off : Nat) : Place := dramPlace (off / 2 ^ 35 * 128 + off / 2 ^ 28 % 128) (off % 2 ^ 28)

/-- The commands of the mailbox (R321). -/
def commandTable : List (Nat × Event) := [(1, .resync), (2, .loadfw), (3, .launch), (4, .reset), (5, .badOpcode), (0, .badOpcode)]

/-- The temperature of a physical core at this boundary (R297; free, log entry 8). -/
def heat (s : State) (k p : Nat) : Nat := Config.coreTemp k p s.cyc

/-- What a charge rate moves to (R327). -/
def rateGoal (c : Cluster) (thr : Bool) : Nat := c.chgTgt + if c.boostReq && !thr then c.chgTgt / 8 else 0

end Sys2Proof.Claims

/-- R321, R322, R328: what each mailbox command does, and what the boot of an image does. The model's choice in it: the results of log
entry 9 and the parts of the summary of log entry 18; the signature check, the digest and the fused values are free (log entry 9). -/
def Sys2Proof.Claims.MailboxCommands : Prop :=
  ∀ s : State,
    let img := s.host.bytes s.mbox.arg0.toNat s.mbox.arg1.toNat
    (s.mbox.arg0.toNat % 4096 ≠ 0 → ∃ t, exec .resync s = .next t ∧ mailed 3 s t ∧ t.host = s.host) ∧
    (s.mbox.arg0.toNat % 4096 = 0 → s.host.wf = true → ∃ t, exec .resync s = .next t ∧ mailed 0 s t ∧
      t.host.bytes s.mbox.arg0.toNat 4096 = s.summary ∧ bytesAt s.summary 8 8 = s.time % 2 ^ 64 ∧
      bytesAt s.summary 16 8 = s.cyc % 2 ^ 64 ∧ bytesAt s.summary 24 2 = s.device % 2 ^ 16 ∧ bytesAt s.summary 28 2 = s.bootstat % 2 ^ 16 ∧
      bytesAt s.summary 32 32 = s.fwid.toNat ∧ t.mem = s.mem ∧ ∀ n, t.slot n = s.slot n) ∧
    (∃ r, imageLaw img r ∧
      (r ≠ 0 → ∃ t, exec .loadfw s = .next t ∧ mailed r s t ∧ t.image = s.image ∧ t.bootstat = s.bootstat ∧ t.fwid = s.fwid) ∧
      (r = 0 → ∃ t, exec .loadfw s = .next t ∧ mailed 0 s t ∧ t.image = some img ∧
        (s.bootstat = 2 → t.bootstat = 1 ∧ t.fwid = Config.sha3 (img.drop 2436)) ∧
        (s.bootstat ≠ 2 → t.bootstat = s.bootstat ∧ t.fwid = s.fwid))) ∧
    (∃ r, imageLaw (s.image.getD Config.storedImage) r ∧
      (r = 0 → exec .boot s = .next { s with bootstat := 1, fwid := Config.sha3 ((s.image.getD Config.storedImage).drop 2436) }) ∧
      (r ≠ 0 → exec .boot s = .next { s with bootstat := 2 })) ∧
    (∀ p, windowPlace 0 s.mbox.arg0.toNat = some p → s.mbox.arg0.toNat % 256 = 0 → s.mbox.arg1.toNat < 256 →
      recOk (s.readBytes p.key 256) = true → s.isPoisoned p 256 = false →
      let r := Rec.ofBytes (s.readBytes p.key 256)
      let q : QEntry := { val := { r with reason := 0, home := 0 } }
      (s.eff? (s.rcbOf r.region)).isSome = true →
        (∀ u, s.enqueue s.mbox.arg1.toNat q = some u → ∃ t, exec .launch s = .next t ∧ mailed 0 s t ∧ t.clus = u.clus) ∧
        (s.enqueue s.mbox.arg1.toNat q = none → ∃ t, exec .launch s = .next t ∧ t.mbox = s.mbox ∧ (s.cyc + 1, Event.launch) ∈ t.inputs)) ∧
    (windowPlace 0 s.mbox.arg0.toNat = none ∨ s.mbox.arg0.toNat % 256 ≠ 0 ∨ 256 ≤ s.mbox.arg1.toNat →
      ∃ t, exec .launch s = .next t ∧ mailed 3 s t ∧ t.clus = s.clus) ∧
    (∃ t, exec .reset s = .next t ∧ t = { State.reset with image := s.image, resets := t.resets, host := s.host } ∧
      t.resets ≠ s.resets) ∧
    ∃ t, exec .badOpcode s = .next t ∧ mailed 2 s t

/-- R320, R321, R323: a host access through `BAR2` reads or writes the DRAM channel that its offset names, below 192 MiB of it, a line
at a time at the head of the channel's queue; one through `BAR0` reads or writes its registers, and the bell starts the command where
none is in progress. A read completes only once every earlier write of its link has been performed. The model's choice in it: that
`BAR0` is reached at offsets from 2^38 on and acts at once, and that the lines of an access wait for one another (log entry 10). -/
def Sys2Proof.Claims.HostAccesses : Prop :=
  ∀ (s : State) (link off len : Nat) (data : List Byte) (v : Word),
    (off < 2 ^ 38 → off % 2 ^ 28 < 0xC000000 → off % 128 + len ≤ 128 → 0 < len → data.length = len →
      exec (.hostRead link off len) s = .next (asked link false [(bar2 off, len, leNat [])] s) ∧
      exec (.hostWrite link off data) s = .next (asked link true [(bar2 off, len, leNat data)] s)) ∧
    (∀ chan o p n w, hostHead s chan o p n w →
      (o.wr = true → s.chanFailed p = false → s.mem.wf = true → ∃ t, exec (.dramRequest chan) s = .next t ∧
        t.readBytes p.key n = leBytes n w ∧ (∀ a, (a < p.key ∨ p.key + n ≤ a) → t.mem.read a = s.mem.read a) ∧
        (∀ m, t.slot m = s.slot m) ∧
        t.hostOps = s.hostOps.map fun q => if q.id = o.id then { q with lines := q.lines.drop 1, queued := false } else q) ∧
      (o.wr = false → ∃ t, exec (.dramRequest chan) s = .next t ∧ t.mem = s.mem ∧ (∀ m, t.slot m = s.slot m) ∧
        t.hostOps = s.hostOps.map fun q =>
          if q.id = o.id then { q with lines := q.lines.drop 1, queued := false, got := q.got ++ s.readBytes p.key n } else q)) ∧
    (∀ o, s.hostOps = [o] → o.lines = [] → o.reg = none →
      s.hostSettle = { s with hostOps := [], hostRead := if o.wr then s.hostRead else o.got }) ∧
    (∀ q o, s.hostOps = [q, o] → q.wr = true → q.lines ≠ [] → o.wr = false → q.link = o.link → q.id < o.id → s.hostSettle = s) ∧
    (off < 2 ^ 38 → 0xC000000 ≤ off % 2 ^ 28 →
      (s.hostOps = [] → exec (.hostRead link off len) s =
        .next { s with hostBad := s.hostBad + 1, hostRead := [], hostNext := s.hostNext + 1 }) ∧
      exec (.hostWrite link off data) s = .next { s with hostBad := s.hostBad + 1 }) ∧
    (data = leBytes 8 v.toNat →
      exec (.hostWrite link (2 ^ 38) data) s = .next { s with mbox := { s.mbox with cmd := v } } ∧
      exec (.hostWrite link (2 ^ 38 + 8) data) s = .next { s with mbox := { s.mbox with arg0 := v } } ∧
      exec (.hostWrite link (2 ^ 38 + 0x10) data) s = .next { s with mbox := { s.mbox with arg1 := v } } ∧
      (s.mbox.busy = true →
        exec (.hostWrite link (2 ^ 38 + 0x40) data) s = .next { s with mbox := { s.mbox with result := 1 } }) ∧
      (s.mbox.busy = false → ∀ c ∈ commandTable, (s.mbox.cmd.extractLsb' 0 8).toNat = c.1 →
        ∃ t, exec (.hostWrite link (2 ^ 38 + 0x40) data) s = .next t ∧ t.agenda = c.2 :: s.agenda ∧
          t.mbox = { s.mbox with busy := true, done := false, tag := s.mbox.cmd.extractLsb' 8 8 })) ∧
    (s.hostOps = [] → ∃ t, exec (.hostRead link (2 ^ 38 + 0x48) 8) s = .next t ∧ t.hostOps = [] ∧
      t.hostRead = leBytes 8 (s.mbox.result % 2 ^ 48 * 2 ^ 16 + s.mbox.tag.toNat * 2 ^ 8 + s.mbox.done.toNat * 2 + s.mbox.busy.toNat))

/-- R320 to R323, R328: the mailbox and the host accesses. The model's choice in it: the results of log entry 9 and the parts of the
summary of log entry 18; the signature check, the digest and the fused values are free (log entry 9); that `BAR0` is reached at offsets
from 2^38 on and acts at once, and that the lines of an access wait for one another (log entry 10). -/
def Obligations.HostSteps : Prop := Claims.MailboxCommands ∧ Claims.HostAccesses

/-- R318, R319, R244, R297, R325, R326, R327, R330: training and the clock's lock; the slice instant; and what every cluster does at an
interval boundary. The model's choice in it: the borderline cases of log entry 49; temperatures and power are free values (log entry 8).
-/
def Obligations.TimeSteps : Prop :=
  ∀ s : State,
    (∀ n0 n1 n2 n3 hops, 1 ≤ n0 → n0 ≤ 16 → 1 ≤ n1 → n1 ≤ 16 → 1 ≤ n2 → n2 ≤ 16 → 1 ≤ n3 → n3 ≤ 16 → n0 * n1 * n2 * n3 ≤ 512 →
      ∃ t, exec (.linkTraining n0 n1 n2 n3 hops) s = .next t ∧ t.fabValid = true ∧
        t.fabN = #v[n0 - 1, n1 - 1, n2 - 1, n3 - 1] ∧ (∀ n, t.slot n = s.slot n) ∧ t.mem = s.mem ∧
        ∀ k, (∀ h ∈ hops, h.1 ≠ k) → t.clu k = s.clu k) ∧
    (∀ n, s.locked = false → s.time ≤ n → ∃ t, exec (.ptpLock n) s = .next t ∧ t.time = n ∧ t.cyc = s.cyc) ∧
    (∀ n, s.locked = true → exec (.ptpLock n) s = .next s) ∧
    (∃ t, exec .sliceInstant s = .next t ∧ t.slicePend = none ∧
      (∀ l c, s.slicePend = some (l, c) → t.sliceLen = l ∧ t.sliceCnt = c) ∧
      (s.slicePend = none → t.sliceLen = s.sliceLen ∧ t.sliceCnt = s.sliceCnt) ∧
      (1 ≤ t.sliceLen → t.slice = s.time / t.sliceLen % (t.sliceCnt + 1) ∧ s.time < t.sliceNext ∧ t.sliceNext % t.sliceLen = 0 ∧
        t.sliceNext ≤ s.time + t.sliceLen) ∧
      (∀ k, (t.clu k).occ = [] ∧ (t.clu k).spent = []) ∧
      ∀ n, (s.slot n).live = false → t.slot n = s.slot n) ∧
    ∃ t, exec .intervalBoundary s = .next t ∧ t.mem = s.mem ∧ t.slots = s.slots ∧ t.net = s.net ∧ t.cyc = s.cyc ∧
      ∀ k < 256,
        let c := s.clu k
        let d := t.clu k
        d.tel.last = c.tel.live ∧ (∀ p : Fin 17, d.temp[p] = heat s k p.val) ∧
        (∀ p < 17, d.down.getLsbD p = (c.down.getLsbD p && !decide (heat s k p + 10 ≤ c.thermlim))) ∧
        d.cthr = decide (2400 < Config.modulePower s.cyc) ∧
        (d.tthr = false → ∀ (i : Fin 16) (p : Nat), c.phys[i.val]? = some p → p < 17 → heat s k p + 5 < c.thermlim) ∧
        (d.boost = (c.boostReq && !(d.tthr || d.cthr))) ∧ d.boostReq = false ∧
        (let g := rateGoal c (d.tthr || d.cthr)
         (c.chgCur < g → d.chgCur = min g (c.chgCur + 1024)) ∧ (g ≤ c.chgCur → d.chgCur = max g (c.chgCur - 1024))) ∧
        (d.rowCur ≤ c.rowCur + 10 ∧ c.rowCur ≤ d.rowCur + 10) ∧
        (∀ i < 16, (s.core (k * 20 + i)).clkReq ≤ (t.core (k * 20 + i)).clkTgt ∧
          (2400 < Config.modulePower s.cyc → 1 ≤ (t.core (k * 20 + i)).clkTgt) ∧
          (2520 < Config.modulePower s.cyc → 3 ≤ (t.core (k * 20 + i)).clkTgt)) ∧
        ((∀ p < 17, heat s k p ≤ c.thermlim) → d.move = c.move) ∧ d.wheel = c.wheel ∧ d.queues = c.queues ∧ d.binds = c.binds

namespace Sys2Proof.Claims

/-- The retirement record of a store (R87): of a cluster store, or of a group of a die's common store. -/
def retireAt (s : State) (common : Bool) (unit group : Nat) : Retire :=
  if common then SMap.get {} (s.die unit).retire group else (s.clu unit).retire

/-- An unused spare, and no retirement in progress (R87). -/
def spareFree (r : Retire) : Prop := r.spare = true ∧ r.phase ≠ 1 ∧ r.phase ≠ 2

/-- A retirement has started. -/
def retiring (bank : Nat) (r : Retire) : Prop := r.phase = 1 ∧ r.bank = bank ∧ r.done = 0 ∧ r.spare = false

/-- Every byte of memory and every slot is as before. -/
def sameData (s t : State) : Prop := t.mem = s.mem ∧ t.slots = s.slots

/-- A wheel at the boundary of a revolution (R85). -/
def atBoundary (w : Wheel) (n : Nat) : Prop := (n - w.base) % w.dwell = 0 ∧ w.step n = 0

/-- The wheel of a cluster's store, or of a die's common store. -/
def wheelOf (s : State) (outer : Bool) (unit : Nat) : Wheel := if outer then (s.die unit).wheel else (s.clu unit).wheel

end Sys2Proof.Claims

/-- R85 to R89, R92, R234, R298, R329, R331: swaps of wheels, retirements, losses, errors, bind records and moves of a core's role. The
model's choice in it: the loss of a channel with no spare left (log entry 45). -/
def Obligations.CareSteps : Prop :=
  ∀ (s : State) (k g b : Nat) (common : Bool),
    (let w := wheelOf s common k
     (w.armed = true → atBoundary w s.cyc → ∃ t, exec (.wheelSwap common k) s = .next t ∧
        wheelOf t common k = { w with table := w.shadow, len := w.slen, dwell := w.sdwell, base := s.cyc, armed := false } ∧
        t.mem = s.mem ∧ ∀ n, (t.slot n).pc = (s.slot n).pc ∧ (t.slot n).w = (s.slot n).w) ∧
     (w.armed = false ∨ ¬ atBoundary w s.cyc → exec (.wheelSwap common k) s = .next s)) ∧
    (let u := if common then k / 32 else k
     let r := retireAt s common u (k % 32)
     (r.phase = 1 → (if common then 2048 else 512) ≤ r.done → atBoundary (wheelOf s common u) s.cyc →
        ∃ t, exec (.retirementSwap common k) s = .next t ∧ sameData s t ∧
          retireAt t common u (k % 32) = { r with phase := 2, swapEnd := s.cyc + (wheelOf s common u).revolution }) ∧
     (r.phase ≠ 1 → exec (.retirementSwap common k) s = .next s) ∧
     ∃ t, exec (.retirementDone common k) s = .next t ∧ sameData s t ∧
       retireAt t common u (k % 32) = if r.phase = 2 ∧ r.swapEnd ≤ s.cyc then { r with phase := 3 } else r) ∧
    (let g := (s.die (k / 32)).wheel.holds (k % 32) s.cyc
     let r (common : Bool) := retireAt s common (if common then k / 32 else k) g
     (b < 16 → ∃ t, exec (.scrub k b) s = .next t ∧ sameData s t ∧
       (retireAt t false k g = if (r false).phase = 1 ∧ (r false).bank = b
         then { r false with done := min 512 ((r false).done + 1) } else r false) ∧
       ∀ d h, retireAt t true d h = retireAt s true d h) ∧
     (b < 16 → ∃ t, exec (.scrub k (16 + b)) s = .next t ∧ sameData s t ∧
       (retireAt t true (k / 32) g = if (r true).phase = 1 ∧ (r true).bank = b
         then { r true with done := min 2048 ((r true).done + 1) } else r true) ∧
       (∀ d h, (d, h) ≠ (k / 32, g) → retireAt t true d h = retireAt s true d h) ∧
       ∀ c, retireAt t false c 0 = retireAt s false c 0)) ∧
    (spareFree (retireAt s common k g) →
      (∃ t, exec (.bankLoss common k g b) s = .next t ∧ sameData s t ∧ retiring b (retireAt t common k g)) ∧
      ∃ t, exec (.errorThreshold (if common then 1 else 0) k g b) s = .next t ∧ sameData s t ∧ retiring b (retireAt t common k g)) ∧
    (¬ spareFree (retireAt s common k g) → b < 16 →
      (∃ t m, exec (.bankLoss common k g b) s = .next t ∧ sameData s t ∧ t.mgmt = s.mgmt ++ [m] ∧
        (common = false → (t.clu k).absent = (s.clu k).absent ||| (1#16 <<< b)) ∧
        (common = true → SMap.get 0 (t.die k).absent g = SMap.get 0 (s.die k).absent g ||| (1#16 <<< b))) ∧
      ∃ t m, exec (.errorThreshold (if common then 1 else 0) k g b) s = .next t ∧ sameData s t ∧ t.mgmt = s.mgmt ++ [m]) ∧
    (∃ t, exec (.errorThreshold 2 k g b) s = .next t ∧ sameData s t ∧
      ((s.die (k / 128)).spareChans < 4 → (t.die (k / 128)).spareChans = (s.die (k / 128)).spareChans + 1) ∧
      (4 ≤ (s.die (k / 128)).spareChans → k ∈ (t.die (k / 128)).failed)) ∧
    (∀ key, ∃ t, exec (.uncorrectableError key) s = .next t ∧ sameData s t ∧
      (Place.ofKey key).unitBase.key ∈ t.poison ∧ (∀ p ∈ s.poison, p ∈ t.poison) ∧
      ∀ p ∈ t.poison, p ∈ s.poison ∨ p = (Place.ofKey key).unitBase.key) ∧
    (∀ (i : Fin 16) (v : Word), ∃ t, exec (.bindRecordWrite k i.val v) s = .next t ∧
      onlyClu k (fun c => { c with binds := c.binds.set i v }) s t) ∧
    (∀ m, (s.clu k).move = some m → m.begun = true → m.copied = false → s.coreDrained (k * 20 + m.core) = true →
      ∃ t, exec (.thermalCopy k) s = .next t ∧ onlyClu k (fun c => { c with move := some { m with
        copied := true, doneAt := s.cyc + (1040 + 33 * s.classCount (k * 20 + m.core) 1 + 129 * s.classCount (k * 20 + m.core) 2) } }) s t) ∧
    ((s.clu k).move = none → exec (.thermalCopy k) s = .next s) ∧
    (∀ m, (s.clu k).move = some m → m.core < 16 → m.copied = true → m.doneAt ≤ s.cyc → (s.clu k).wheel.step s.cyc = 0 → m.wear = false →
      ∃ t, exec (.thermalRemap k) s = .next t ∧ sameData s t ∧
        (t.clu k).phys[m.core]? = (s.clu k).phys[16]? ∧ (t.clu k).phys[16]? = (s.clu k).phys[m.core]? ∧
        (∀ p, (s.clu k).phys[m.core]? = some p → p < 17 → (t.clu k).down.getLsbD p = true) ∧ (t.clu k).move = none ∧
        (t.clu k).thermcnt = ((s.clu k).thermcnt + 1) % 2 ^ 32) ∧
    (g < 16 → (∀ i < 8, (s.slot ((k * 20 + g) * 8 + i)).live = false) → (s.clu k).move = none → (s.clu k).lastWear = 0 →
      (s.clu k).down = 0 → ∃ t, exec (.wearRotation k g) s = .next t ∧
        onlyClu k (fun c => { c with move := some { core := g, begun := true, copied := false, doneAt := 0, wear := true }, lastWear := s.cyc }) s t)

/-! ## Tasks: steps that no instruction word issues -/

namespace Sys2Proof.Claims

/-- A thread is due to leave its slot for a reason, the first one standing; nothing else of what it computes changes (R241, R242). -/
def toLeave (s t : State) (n reason : Nat) : Prop :=
  (t.slot n).preempt = some ((s.slot n).preempt.getD reason) ∧ (t.slot n).pc = (s.slot n).pc ∧ (t.slot n).pw = (s.slot n).pw ∧
  (t.slot n).w = (s.slot n).w ∧ (t.slot n).live = true ∧ ((s.slot n).leaving = true → (t.slot n).leaving = true) ∧
  ((s.slot n).mayLeave = true → s.frozen n = false → (t.slot n).leaving = true) ∧
  ((s.slot n).mayLeave = false → (∀ a ∈ (s.slot n).acc, s.turnless n a = false) → (t.slot n).leaving = (s.slot n).leaving) ∧
  t.mem = s.mem ∧ ∀ m, m ≠ n → t.slot m = s.slot m

/-- A continuation stands in a slot (R235): its record's fields, its workspace, its timer and its region. -/
def placed (q : QEntry) (e : Eff) (t : State) (n : Nat) : Prop :=
  let x := t.slot n
  let r := q.val
  x.live = true ∧ x.pc = r.pc ∧ x.pw = r.pw ||| 0x80000000#32 ∧ x.wp = BitVec.ofNat 64 (e.wsbase + 256 * slotIdx n) ∧
  (∀ i : Fin 24, x.w[i.val]'(by omega) = r.w[i]) ∧ (∀ i : Fin 32, 24 ≤ i.val → x.w[i] = 0) ∧ x.cls = r.cls ∧ x.depth = r.depth ∧
  x.prio = r.prio ∧ x.region = r.region ∧ x.rcb = e.rcb ∧ x.reason = r.reason ∧ x.home = r.home ∧ x.link = r.link ∧
  x.timer = (if r.resid ≠ 0 then r.resid else e.quantum) ∧ x.trap.tmode = false ∧ x.reports = [] ∧
  (q.frame = none → q.val.ctx = false → x.unrestored = []) ∧ (q.frame.isSome = true → 1 ∈ x.unrestored) ∧
  (q.val.ctx = true → 1 ∈ x.unrestored)

/-- The entry that joins a queue of a cluster at its tail (R230), and the others as before. -/
def joined (k p : Nat) (q : QEntry) (s t : State) : Prop :=
  p < 4 → ∃ g, (t.clu k).queues[p]? = some (((s.clu k).queues[p]?).getD [] ++ [{ q with general := g, since := s.cyc }]) ∧
    ∀ j, j ≠ p → (t.clu k).queues[j]? = (s.clu k).queues[j]?

/-- Packet numbers are those given so far. -/
def freshNumbers (s : State) : Prop := ∀ p ∈ s.net, p.pid < s.pidNext

/-- A request is gone from the network, and its answer is on its way to the endpoint that waits for it (R159, R178). -/
def answered (p : Packet) (kind val : Nat) (ok : Bool) (trap : Option TrapRec) (s t : State) : Prop :=
  ∃ q, t.net = s.net.filter (fun q => q.pid ≠ p.pid) ++ [q] ∧ q.kind = kind ∧ q.val = val ∧ q.ok = ok ∧ q.trap = trap ∧ q.op = p.kind ∧
    q.ddev = p.sdev ∧ q.dst = p.src ∧ q.dep = p.sep ∧ q.slot = p.slot ∧ q.cont = p.cont ∧ q.owed = p.owed

/-- A packet that the network holds under its number, on this device. -/
def inNet (p : Packet) (s : State) : Prop := s.packet? p.pid = some p ∧ p.dev = s.device ∧ freshNumbers s

end Sys2Proof.Claims

/-- R240 to R244: what a timer, a spent budget and any other cause of a pre-emption do to a thread; what the save leaves in the save
area and the record; and the slot's end. -/
def Obligations.PreemptionSteps : Prop :=
  ∀ (s : State) (n reason : Nat),
    let x := s.slot n
    let core := slotCore n
    (x.live = true → x.phase ≠ 42 → x.phase ≠ 43 → x.phase ≠ 45 →
      (∃ t, exec (.preemption n reason) s = .next t ∧ toLeave s t n reason) ∧
      ∃ t, exec (.timerExpiry n) s = .next t ∧ toLeave s t n 1) ∧
    (x.live = false → (∃ t, exec (.preemption n reason) s = .next t ∧ ∀ m, t.slot m = s.slot m) ∧
      ∃ t, exec (.timerExpiry n) s = .next t ∧ ∀ m, t.slot m = s.slot m) ∧
    (∀ (k : Nat) (g : BitVec 28), ∃ t, exec (.budgetExhausted k g.toNat) s = .next t ∧ g ∈ (t.clu k).spent ∧
      ((∀ m, slotClu m = k → (s.slot m).region = g → (s.slot m).phase ≠ 43) → t.mem = s.mem) ∧
      (∀ m, slotClu m = k → (s.slot m).live = true → (s.slot m).region = g → (t.slot m).preempt.isSome = true) ∧
      ∀ m, (s.slot m).live = false ∨ (s.slot m).region ≠ g → t.slot m = s.slot m) ∧
    (∀ e, s.eff? x.rcb = some e → x.cls = 0 → x.calls = [] → x.reports = [] → x.absent = false → s.mem.wf = true →
      ∃ t q, exec (.preemptSave n) s = .next t ∧ (t.clu (slotClu n)).leaving = (s.clu (slotClu n)).leaving ++ [q] ∧
        q.slotNo = n ∧ q.cont = some x.cont ∧ q.val.pc = x.pc ∧ q.val.pw = x.pw ||| 0x80000000#32 ∧ q.val.region = x.region ∧
        (∀ i : Fin 24, q.val.w[i] = x.w[i.val]'(by omega)) ∧ q.val.reason = x.preempt.getD 1 ∧ q.val.resid = x.timer ∧
        q.val.depth = x.depth ∧ q.val.bound = true ∧ q.val.ctx = true ∧ s.cyc < (t.slot n).saveEnd ∧ q.since = (t.slot n).saveEnd ∧
        (∀ i, q.frame = some i → t.readBytes (localPlace core (e.frameOff 0 i)).key 256 = q.val.bytes) ∧
        (∀ i, x.frame = some i → x.frameRegion = x.region → q.frame = some i) ∧ ∀ m, m ≠ n → t.slot m = s.slot m) ∧
    (x.live = true → x.saveEnd ≠ 0 → x.saveEnd ≤ s.cyc →
      ∃ t, exec (.preemptEnqueue n) s = .next t ∧ (t.slot n).live = false ∧ t.mem = s.mem ∧ ∀ m, m ≠ n → t.slot m = s.slot m) ∧
    (∀ (q : QEntry) (g : Bool), (s.clu (slotClu n)).leaving = [q] → q.slotNo = n → q.since ≤ s.cyc → q.await = none →
      queueRoom (((s.clu (slotClu n)).queues[s.queueNo (slotClu n) q.val]?).getD []) q.val.depth = some g →
        ∃ t, exec (.preemptEnqueue n) s = .next t ∧ joined (slotClu n) (s.queueNo (slotClu n) q.val) q s t ∧
          (t.clu (slotClu n)).leaving = [])

/-- R233, R235, R239, R346: an aged entry moves up a queue; dispatch places the entry that it picks; each part of a saved context is
restored from its frame; a due park-table entry is enqueued. -/
def Obligations.DispatchSteps : Prop :=
  ∀ (s : State) (k n : Nat),
    ((∀ q : Fin 4, ∀ e ∈ (s.clu k).queues[q], s.cyc < e.since + 65536) → exec (.queueAging k) s = .next s) ∧
    (∀ (e : QEntry) (g : Bool), (s.clu k).queues[1] = [e] → (s.clu k).queues[2] = [] → (s.clu k).queues[3] = [] →
      e.since + 65536 ≤ s.cyc → queueRoom (s.clu k).queues[0] e.val.depth = some g →
        ∃ t, exec (.queueAging k) s = .next t ∧
          (t.clu k).queues[0] = (s.clu k).queues[0] ++ [{ e with general := g, since := s.cyc }] ∧ (t.clu k).queues[1] = []) ∧
    (∀ (u : State) (i : Fin 4) (q : QEntry) (m : Nat) (e : Eff), s.pickEntry k (s.clu k).heads = (u, some (i.val, q, m, e)) →
      ∃ t, exec (.dispatch k) s = .next t ∧ q ∈ (s.clu k).queues[i] ∧ q.since + 3 ≤ s.cyc ∧ (s.slot m).live = false ∧
        placed q e t m ∧ (t.slot m).notBefore = s.cyc + 1 ∧ (∀ j, j ≠ m → t.slot j = s.slot j) ∧
        (t.clu k).queues[i] = (s.clu k).queues[i].erase q ∧
        (s.mem.wf = true → ∀ j : Fin 24, t.readMem (localPlace (slotCore m) (e.wsbase + 256 * slotIdx m + 8 * j.val)).key 8 =
          q.val.w[j].toNat)) ∧
    (∀ u, s.pickEntry k (s.clu k).heads = (u, none) →
      ∃ t, exec (.dispatch k) s = .next t ∧ t.mem = s.mem ∧ ∀ j, t.slot j = s.slot j) ∧
    (∀ (e : Eff) (p : Nat), s.eff? (s.rcbOf (s.slot n).frameRegion) = some e →
      let x := s.slot n
      let word (o : Nat) : Word := BitVec.ofNat 64 (s.readMem (localPlace (slotCore n) (e.frameOff 0 (x.frame.getD 0) + o)).key 8)
      ∃ t, exec (.contextRestore n p) s = .next t ∧ p ∉ (t.slot n).unrestored ∧ (t.slot n).restore = none ∧
        (∀ j ∈ x.unrestored, j ≠ p → j ∈ (t.slot n).unrestored) ∧ (t.slot n).pc = x.pc ∧ (t.slot n).w = x.w ∧ t.mem = s.mem ∧
        (p = 0 → (t.slot n).reports.length = min 8 (min 8 ((word 1064).extractLsb' 8 8).toNat + x.reports.length) ∧
          ∀ c, (word 1064).extractLsb' 8 8 ≠ 0 → (t.slot n).reports.head? = some c → c.cause = ((word 256).extractLsb' 0 8).toNat ∧ c.pc = word 264 ∧ c.addr = word 272 ∧
            c.info = word 280) ∧
        (p = 1 → (t.slot n).copy.src = word 896 ∧ (t.slot n).copy.next = word 960 ∧ (t.slot n).plan.dims = word 968 ∧
          (t.slot n).trap = x.trap ∧
          ∀ j : Fin 8, (t.slot n).ports[j].dest = word (512 + 48 * j.val) ∧ (t.slot n).ports[j].bound = (word (520 + 48 * j.val)).getLsbD 2) ∧
        (p = 2 → ∀ j : Fin 32, (t.slot n).vec.v[j] =
          BitVec.ofNat 2048 (s.readMem (localPlace (slotCore n) (e.frameOff 1 (x.vframe.getD 0) + 256 * j.val)).key 256)) ∧
        (p = 3 → ∀ j : Fin 8, (t.slot n).tiles.t[j] =
          BitVec.ofNat 32768 (s.readMem (localPlace (slotCore n) (e.frameOff 2 (x.mframe.getD 0) + 4096 * j.val)).key 4096))) ∧
    (∀ (p : ParkEntry) (g : Bool), (s.core n).park = [p] → p.saved = true → (∃ w, p.wake = some w ∧ w ≤ s.cyc) →
      let r := Rec.ofBytes (s.readBytes p.rcd.key 256)
      queueRoom (((s.clu (coreClu n)).queues[s.queueNo (coreClu n) r]?).getD []) r.depth = some g →
        ∃ t q, exec (.parkWake n) s = .next t ∧ joined (coreClu n) (s.queueNo (coreClu n) r) q s t ∧ (t.core n).park = [] ∧
          q.val = { r with reason := if p.entry.val.reason = 4 then 4 else 5 } ∧ t.mem = s.mem) ∧
    ((∀ p ∈ (s.core n).park, p.due s.cyc = false) → exec (.parkWake n) s = .next s)

/-- R70 to R73, R151, R231, R246: what a deposit, a remote call, a matrix command and a migrating thread do where they arrive. The
model's choice in it: that a migration keeps `LINK` (log entry 31); the check code is a free value (log entry 7). -/
def Obligations.ArrivalSteps : Prop :=
  ∀ (s : State) (p : Packet), inNet p s →
    let core := p.dst * 20 + p.dep
    let tok := p.ws.headD 0
    let v := (p.ws[1]?).getD 0
    let reg := (tok.extractLsb' 42 6).toNat
    (∀ i < 8, let n := core * 8 + i
      (s.core core).armedS = [] → (s.slot n).live = true → (s.slot n).saveEnd = 0 → (s.slot n).armed = [(tok, (s.slot n).wp)] →
      (s.slot n).absent = false → reg < 32 → (∀ m, slotClu m = coreClu core → m ≠ n → (s.slot m).armed = []) →
        ∃ t, exec (.deposit p.pid) s = .next t ∧ (t.slot n).armed = [] ∧ (t.slot n).w[reg]? = some v ∧
          (∀ j, j ≠ reg → (t.slot n).w[j]? = (s.slot n).w[j]?) ∧ (t.slot n).pc = (s.slot n).pc ∧
          (∀ m, m ≠ n → t.slot m = s.slot m) ∧ t.mem = s.mem ∧ t.net = s.net.filter (fun q => q.pid ≠ p.pid)) ∧
    ((s.core core).armedS = [] → (∀ m, slotClu m = coreClu core → (s.slot m).armed = []) → (s.core core).park = [] →
      (s.entries (coreClu core)) = [] → ∃ t, exec (.deposit p.pid) s = .next t ∧ t.mem = s.mem ∧ (∀ m, t.slot m = s.slot m) ∧
        t.net = s.net.filter (fun q => q.pid ≠ p.pid) ∧ (t.clu p.dst).tel.live[8] = (s.clu p.dst).tel.live[8] + 1) ∧
    (∀ (g : Bool) (w : Vector Word 11), p.ws = w.toList → p.dep < 20 →
      let r : Rec := { w := Vector.ofFn fun i => if h : i.val < 8 then w[3 + i.val] else if i.val = 8 then w[0] else 0
                       pc := BitVec.ofNat 64 p.val, cls := 0, depth := w[2].toNat + 1, prio := w[1].toNat
                       flags := BitVec.ofNat 8 (128 + (if 16 ≤ p.dep then 64 else 0) + p.dep % 16), region := p.region }
      (queueRoom (((s.clu p.dst).queues[s.queueNo p.dst r]?).getD []) r.depth = some g →
        ∃ t, exec (.remoteCall p.pid) s = .next t ∧ joined p.dst (s.queueNo p.dst r) { val := r } s t ∧ answered p 15 0 true none s t) ∧
      (queueRoom (((s.clu p.dst).queues[s.queueNo p.dst r]?).getD []) r.depth = none → exec (.remoteCall p.pid) s = .next s)) ∧
    (let w := (p.ws[2]?).getD 0
     let n := core * 8 + (w.extractLsb' 32 3).toNat
     let cap := (p.ws[0]?).getD 0
     (carried (w.setWidth 32) = none → ∃ t, exec (.matrixCommand p.pid) s = .next t ∧ answered p 15 0 false none s t ∧
        ∀ m, t.slot m = s.slot m) ∧
     (∀ i, carried (w.setWidth 32) = some i →
        (capAdmits s cap core i = false ∨ (s.slot n).live = false ∨ (s.slot n).cls ≠ 2 ∨ (s.slot n).region ≠ cap.extractLsb' 0 28 →
          ∃ t, exec (.matrixCommand p.pid) s = .next t ∧ answered p 15 0 false none s t ∧ ∀ m, t.slot m = s.slot m) ∧
        (∀ v : State, p.kind = 12 → v.device = s.device → capAdmits s cap core i = true → (s.slot n).live = true → (s.slot n).cls = 2 → (s.slot n).leaving = false →
          (s.slot n).moving = false → (s.slot n).region = cap.extractLsb' 0 28 → 3 ∉ (s.slot n).unrestored →
          runCarried i ((p.ws[3]?).getD 0) ((p.ws[4]?).getD 0) (if w.getLsbD 44 then some (w.extractLsb' 40 4).toNat else none)
            { s with cur := n } = .ok ((), v) →
            ∃ t, exec (.matrixCommand p.pid) s = .next t ∧ answered p 15 0 true none v t ∧ t.mem = v.mem ∧ t.cur = s.cur ∧
              (∀ m, t.slot m = v.slot m) ∧ ∀ c, t.core c = v.core c))) ∧
    (p.size = 0 →
      let q : QEntry := { val := { p.val' with region := p.region } }
      (∀ (u : State) (n : Nat) (e : Eff), s.arriveSlot p.dst q.val = (u, some (n, e)) →
        ∃ t, exec (.migrationArrival p.pid) s = .next t ∧ placed q e t n ∧ answered p 15 0 true none s t ∧
          (∀ m, m ≠ n → t.slot m = s.slot m)) ∧
      (∀ (u u' : State), s.arriveSlot p.dst q.val = (u, none) → u.enqueue p.dst q = some u' →
        ∃ t, exec (.migrationArrival p.pid) s = .next t ∧ joined p.dst (u.queueNo p.dst q.val) q s t ∧ answered p 15 0 true none s t) ∧
      (∀ u, s.arriveSlot p.dst q.val = (u, none) → u.enqueue p.dst q = none →
        ∃ t p', exec (.migrationArrival p.pid) s = .next t ∧ t.packet? p.pid = some p' ∧ p'.ok = false ∧ p'.due = s.cyc + 256 ∧
          p'.val' = p.val' ∧ p'.dst = p.dst ∧ ∀ m, t.slot m = s.slot m)) ∧
    ∃ t p', exec (.migrationResend p.pid) s = .next t ∧ t.packet? p.pid = some p' ∧ p' = { p with ok := true, arrived := false, inp := 0, due := s.cyc + 1 } ∧
      ∀ m, t.slot m = s.slot m

/-! ## The network: steps that no instruction word issues -/

namespace Sys2Proof.Claims

/-- A packet has left the network. -/
def gone (p : Packet) (s t : State) : Prop := t.net = s.net.filter fun q => q.pid ≠ p.pid

/-- A store of `n` bytes at a place has been performed, and nothing else is stored. -/
def stored (q : Place) (v n : Nat) (s t : State) : Prop :=
  (s.mem.wf = true → t.readMem q.key n = v % 256 ^ n) ∧ ∀ a, (a < q.key ∨ q.key + n ≤ a) → t.mem.read a = s.mem.read a

/-- An answer that is owed to a thread has come: it is no longer owed, and no other slot's program counter or registers change. -/
def settled (p : Packet) (o : Owed) (s t : State) : Prop :=
  gone p s t ∧ (∀ q ∈ (t.slot p.slot).owed, q.id ≠ o.id) ∧ (t.slot p.slot).pc = (s.slot p.slot).pc ∧
  (∀ q ∈ (s.slot p.slot).owed, q.id ≠ o.id → q ∈ (t.slot p.slot).owed) ∧
  ∀ m, m ≠ p.slot → m ≠ nextSlot p.slot → t.slot m = s.slot m

/-- A deferred report has joined those of a slot (R279). -/
def reported (n : Nat) (c : TrapRec) (s t : State) : Prop :=
  (s.slot n).reports.length < 8 → (t.slot n).reports = (s.slot n).reports ++ [{ c with defd := true }]

/-- A packet that a router may forward now (R159, R165). -/
def atRouter (p : Packet) (s : State) : Prop :=
  inNet p s ∧ ¬ (p.kind = 5 ∧ 2 ≤ p.members.length) ∧ p.arrived = false ∧ p.due ≤ s.cyc ∧ p.fault = 0 ∧ p.kind < 17 ∧
  p.entered = true ∧ s.queued p = false ∧ (s.clu p.at').gated = false

/-- The port of a packet's sender still belongs to the packet's stream. -/
def ownPort (p : Packet) (s : State) : Prop :=
  (s.slot p.slot).live = true ∧ (s.slot p.slot).cont = p.cont ∧ ∃ y, (s.slot p.slot).ports[p.port]? = some y ∧ y.sid = p.sid

/-- A link takes no flit now (R156, R180): it is busy, or, on three lanes, in its idle cycle. -/
def linkBusy (r dir : Nat) (s : State) : Prop :=
  s.cyc < ((s.clu r).linkFree[dir]?).getD 0 ∨ (s.lanesLost r dir = 1 ∧ s.cyc % 4 = 3)

/-- Every slot and every byte of memory is as before. -/
def untouched (s t : State) : Prop := t.mem = s.mem ∧ ∀ m, t.slot m = s.slot m

end Sys2Proof.Claims

/-- R92, R94, R177, R178: a request served at its turn reads, stores or updates its place in the serving store, and is answered. -/
def Sys2Proof.Claims.RemoteAccessServed : Prop :=
  ∀ (s : State) (p : Packet), inNet p s → p.arrived = true →
    let k := p.place.key
    let here := s.bankAbsent p.part = false ∧ s.missing p.dst p.part = false ∧ s.chanFailed p.place = false
    (here → p.kind = 0 → p.op = 0 → p.ws = [] → p.size ≤ 8 → s.isPoisoned p.place p.size = false →
      ∃ t, exec (.remoteAccess p.pid) s = .next t ∧ answered p 14 (s.readMem k p.size) true none s t ∧ untouched s t) ∧
    (here → p.kind = 0 → p.op = 0 → s.isPoisoned p.place p.size = true →
      ∃ t, exec (.remoteAccess p.pid) s = .next t ∧ answered p 14 0 true (some { cause := 0x08 }) s t ∧ untouched s t) ∧
    (here → p.kind = 0 → p.op ≠ 0 → p.lost < 2 → s.isPoisoned p.part p.partSize = false →
      ∃ t, exec (.remoteAccess p.pid) s = .next t ∧ untouched s t ∧
        t.packet? p.pid = some { p with lost := p.lost + 1, ws := p.ws ++ [BitVec.ofNat 64 (s.readMem p.part.key p.partSize)] }) ∧
    (here → p.kind = 1 → p.btag = 0 →
      ∃ t, exec (.remoteAccess p.pid) s = .next t ∧ answered p 15 0 true none s t ∧ stored p.place p.val p.size s t ∧
        ∀ m, t.slot m = s.slot m) ∧
    (here → p.kind = 2 → p.op < 64 → s.isPoisoned p.place p.size = false →
      ∃ t, exec (.remoteAccess p.pid) s = .next t ∧ answered p 14 (s.readMem k p.size) true none s t ∧
        stored p.place (atomicOp p.op p.size (s.readMem k p.size) p.val p.cmp) p.size s t ∧ ∀ m, t.slot m = s.slot m) ∧
    (here → p.kind = 3 → p.place.kind = 2 → p.val = 0 → p.lost = 0 → p.fault = 0 → s.isPoisoned p.place 128 = false →
      ∃ t, exec (.remoteAccess p.pid) s = .next t ∧ answered p 14 (s.readMem k 128) true none s t ∧ untouched s t) ∧
    (here → p.kind = 4 → p.place.kind = 2 → p.lost = 0 → p.btag = 0 → p.ok = true →
      ∃ t, exec (.remoteAccess p.pid) s = .next t ∧ answered p 15 0 true none s t ∧ stored p.place p.val p.size s t ∧
        ∀ m, t.slot m = s.slot m) ∧
    (s.missing p.dst p.part = true → p.kind ≤ 4 → ∃ t, exec (.remoteAccess p.pid) s = .next t ∧ untouched s t ∧
      t.packet? p.pid = some { p with due := s.cyc + s.revolution p.dst p.part }) ∧
    (s.bankAbsent p.part = true → s.missing p.dst p.part = false → p.kind ≤ 4 →
      ∃ t c, exec (.remoteAccess p.pid) s = .next t ∧
        answered p (if p.kind = 1 ∨ p.kind = 4 then 15 else 14) 0 true (some c) s t ∧ c.cause = 0x0D ∧ untouched s t)

/-- R178 to R181: an answer writes the register, or the local line, that its request named, and settles what is owed; a cause in it, and
the loss of a packet, come as a deferred report of the thread. The model's choice in it: the effect of a lost acknowledgement (log entry
34), and the number of a copy channel in a packet (log entry 42). -/
def Sys2Proof.Claims.AnswersDelivered : Prop :=
  ∀ (s : State) (p : Packet) (o : Owed), inNet p s → p.forChannel = false → s.owedOf p = some o →
    let x := s.slot p.slot
    let core := slotCore p.slot
    (p.trap = none → o.what = 0 ∨ o.what = 4 → o.d.toNat < 32 → o.ws = x.wp → x.absent = false →
      ∃ t, exec (.responseDelivery p.pid) s = .next t ∧ settled p o s t ∧ (t.slot p.slot).w[o.d.toNat]? = some (BitVec.ofNat 64 p.val) ∧
        (∀ i, i ≠ o.d.toNat → (t.slot p.slot).w[i]? = x.w[i]?) ∧ t.mem = s.mem ∧
        (t.core core).respBack = (s.core core).respBack + 1) ∧
    (p.trap = none → o.what = 1 ∨ o.what = 3 ∨ o.what = 12 →
      ∃ t, exec (.responseDelivery p.pid) s = .next t ∧ settled p o s t ∧ (t.slot p.slot).w = x.w ∧ t.mem = s.mem ∧
        (t.core core).credits = (s.core core).credits + 1) ∧
    (p.trap = none → o.what = 2 →
      ∃ t, exec (.responseDelivery p.pid) s = .next t ∧ settled p o s t ∧ (t.slot p.slot).w = x.w ∧
        stored (localPlace core o.lcl) p.val 128 s t) ∧
    (p.trap = none → o.what = 8 → ∃ t, exec (.responseDelivery p.pid) s = .next t ∧ gone p s t ∧ (t.slot p.slot).live = false) ∧
    (∀ c, p.trap = some c → o.what ≤ 4 →
      ∃ t, exec (.responseDelivery p.pid) s = .next t ∧ settled p o s t ∧ reported p.slot { c with pc := o.pc, addr := o.va } s t ∧
        (t.slot p.slot).w = x.w ∧ t.mem = s.mem) ∧
    (o.what ≤ 4 → p.op < 6 ∨ 14 ≤ p.op → p.op ≤ 15 →
      ∃ t, exec (.lossNotice p.pid) s = .next t ∧ settled p o s t ∧
        reported p.slot { cause := 0x0E, p := decide (14 ≤ p.op), pc := o.pc, addr := o.va } s t ∧ (t.slot p.slot).w = x.w ∧
        t.mem = s.mem) ∧
    (o.what = 8 → p.op = 13 → x.trap.tmode = false →
      ∃ t, exec (.lossNotice p.pid) s = .next t ∧ gone p s t ∧ (t.slot p.slot).live = x.live ∧ (t.slot p.slot).moving = false ∧
        (t.slot p.slot).trap.tepc = o.pc ∧ ((t.slot p.slot).trap.trec0.extractLsb' 0 8).toNat = 0x0E)

/-- R92, R94, R177 to R181: requests served and answers delivered. The model's choice in it: the effect of a lost acknowledgement (log
entry 34), and the number of a copy channel in a packet (log entry 42). -/
def Obligations.RemoteAnswers : Prop := Claims.RemoteAccessServed ∧ Claims.AnswersDelivered

/-- R153, R171 to R176, R181: an open, a word, the end, the abort and the loss of a stream at its two ports; the time limits of a route
and of a matrix group; and a multicast line at a member. The model's choice in it: that a word for a thread that has left is discarded
(log entry 35). -/
def Sys2Proof.Claims.StreamSteps : Prop :=
  ∀ (s : State) (p : Packet), inNet p s → p.port < 8 →
    let d := (p.ws[1]?).getD 0
    let n := destSlotNo d
    (∀ k, s.openTaker p = some k → (s.slot n).live = true → (s.slot n).cont = k → ownPort p s → n ≠ p.slot →
        ∃ t, exec (.streamOpen p.pid) s = .next t ∧ gone p s t ∧ t.streams = s.streams ++ [(p.sid, k, destPort d)] ∧
          (∀ q, (t.slot n).ports[destPort d]? = some q → q.inOpen = true) ∧
          (∀ q, (t.slot p.slot).ports[p.port]? = some q → q.isOpen = true ∧ q.opening = false ∧ q.age = 0) ∧ t.mem = s.mem ∧
          ∀ m, m ≠ n → m ≠ p.slot → t.slot m = s.slot m) ∧
    (s.openTaker p = none → exec (.streamOpen p.pid) s = .next s) ∧
    (∀ m k q, s.wordTo p = .queue m → s.streams.find? (fun t => t.1 = p.sid) = some (p.sid, k, q) → q < 8 → p.last = false →
      1 ∉ (s.slot m).unrestored →
        ∃ t, exec (.streamWord p.pid) s = .next t ∧ gone p s t ∧ t.streams = s.streams ∧ (t.slot m).watchdog = 0 ∧
          ((t.slot m).ports[q]?).map (·.queue) = ((s.slot m).ports[q]?).map fun y => y.queue ++ [(p.ws.headD 0, false)]) ∧
    (s.wordTo p = .stall → exec (.streamWord p.pid) s = .next s) ∧
    (s.wordTo p = .nobody → p.last = false → ∃ t, exec (.streamWord p.pid) s = .next t ∧ gone p s t ∧ untouched s t) ∧
    (∃ t, exec (.streamEnd p.pid) s = .next t ∧ gone p s t ∧ t.mem = s.mem ∧ (∀ y ∈ t.streams, y.1 ≠ p.sid) ∧
      ∀ y ∈ s.streams, y.1 ≠ p.sid → y ∈ t.streams) ∧
    (∀ k q m, s.streams.find? (fun t => t.1 = p.sid) = some (p.sid, k, q) → q < 8 → (s.slot m).live = true → (s.slot m).cont = k →
      (s.slot m).saveEnd = 0 →
        ∃ t, exec (.streamAbort p.pid) s = .next t ∧ gone p s t ∧ (∀ y ∈ t.streams, y.1 ≠ p.sid) ∧
          ∀ y, (t.slot m).ports[q]? = some y → y.abort = true ∧ y.inOpen = false) ∧
    (6 ≤ p.op → p.op ≤ 9 → p.forChannel = false → ownPort p s →
      ∃ t, exec (.lossNotice p.pid) s = .next t ∧ (∀ y ∈ t.streams, y.1 ≠ p.sid) ∧ (∀ l ∈ t.lanes, l.2 ≠ p.sid) ∧
        ∀ y, (t.slot p.slot).ports[p.port]? = some y → y.lost = true ∧ y.isOpen = false) ∧
    (∀ (m : Nat) (q : Fin 8), (s.slot m).ports[q].isOpen = true →
      ∃ t y, exec (.streamTimeout m q.val) s = .next t ∧ t.net = s.net ++ [y] ∧ y.kind = 9 ∧ y.slot = m ∧ y.port = q.val ∧
        (t.slot m).ports[q].isOpen = false ∧ (t.slot m).ports[q].pend = [] ∧
        reported m { cause := 0x0B, sub := q.val, pc := (s.slot m).pc, info := (s.slot m).ports[q].dest } s t ∧
        ∀ j, j ≠ m → t.slot j = s.slot j) ∧
    (∀ m, ∃ t, exec (.groupWatchdog m) s = .next t ∧ (t.slot m).watchdog = 0 ∧ (t.slot m).pc = (s.slot m).pc ∧ t.mem = s.mem ∧
      reported m { cause := 0x0B, sub := (s.slot m).rxWait.getD 0, pc := (s.slot m).pc
                   info := (((s.slot m).ports[(s.slot m).rxWait.getD 0]?).getD {}).dest } s t ∧ ∀ j, j ≠ m → t.slot j = s.slot j) ∧
    (∀ q : Nat × Nat × Nat × Nat, p.pieces = [q] →
      let place := (cluPlace p.dst 0).add q.2.1
      let turn := SMap.get 0 p.held q.1 ≤ s.cyc ∧ s.turnAt p.dst 16 place s.cyc = true
      (turn → s.missing p.dst place = false → s.bankAbsent place = false →
        ∃ t, exec (.mcastDelivery p.pid) s = .next t ∧ answered p 15 0 true none s t ∧ stored place q.2.2.2 q.2.2.1 s t ∧
          ∀ m, t.slot m = s.slot m) ∧
      (turn → s.missing p.dst place = true → ∃ t, exec (.mcastDelivery p.pid) s = .next t ∧ untouched s t ∧
        t.packet? p.pid = some { p with held := SMap.set p.held q.1 (s.cyc + s.revolution p.dst place) }) ∧
      (¬ turn → exec (.mcastDelivery p.pid) s = .next s))

/-- R157 to R159, R163, R165, R167, R180, R181: a packet goes on to the next router of its route, arrives, waits, or is lost where no
route is left; a link drops a lane; a router is gated and wakes. The model's choice in it: which buffers the bubble rule counts (log
entry 30), the cycle that a link on three lanes leaves empty (log entry 68) and the details of log entry 69. -/
def Sys2Proof.Claims.RouterSteps : Prop :=
  (∀ (s : State) (p : Packet), atRouter p s →
    (s.route p.at' p.ddev p.dst = some 0 →
      ∃ t, exec (.packetForward p.pid) s = .next t ∧ untouched s t ∧
        t.packet? p.pid =
          some { p with arrived := true, due := s.cyc + if p.isAnswer then 1 + max (p.flits - 1) p.tail else 1 }) ∧
    (∀ dir, s.route p.at' p.ddev p.dst = some dir → 1 ≤ dir → dir ≤ 6 → s.linkDown p.at' dir = false → ¬ linkBusy p.at' dir s →
      p.isStream = false → s.bufferRoom p dir = true →
        ∃ t, exec (.packetForward p.pid) s = .next t ∧ untouched s t ∧
          t.packet? p.pid = some { p with
            at' := neighbour p.at' dir, inp := inputOf dir, due := s.cyc + if dir ≤ 4 then 5 else 8
            tail := max p.tail (flitTime (s.lanesLost p.at' dir = 1) s.cyc p.flits - 1)
            fault := ((s.linkFaults.find? fun f => f.1 = p.at' && f.2.1 = dir).map fun f => f.2.2).getD 0 }) ∧
    (∀ dir, s.route p.at' p.ddev p.dst = some dir → 1 ≤ dir → dir ≤ 6 → s.linkDown p.at' dir = false → p.isStream = false →
      linkBusy p.at' dir s ∨ s.bufferRoom p dir = false →
        ∃ t, exec (.packetForward p.pid) s = .next t ∧ untouched s t ∧ t.packet? p.pid = some p) ∧
    (s.route p.at' p.ddev p.dst = none ∨ (∃ dir, s.route p.at' p.ddev p.dst = some dir ∧ 1 ≤ dir ∧ s.linkDown p.at' dir = true) →
      p.kind ≠ 16 → p.isAnswer = false →
      ∃ t q, exec (.packetForward p.pid) s = .next t ∧ untouched s t ∧ t.net = s.net.filter (fun q => q.pid ≠ p.pid) ++ [q] ∧
        q.kind = 16 ∧ q.op = p.kind ∧ q.dst = p.src ∧ q.ddev = p.sdev ∧ q.slot = p.slot ∧ q.owed = p.owed)) ∧
  (∀ (s : State) (p : Packet), inNet p s → ¬ (p.kind = 5 ∧ 2 ≤ p.members.length) → 
    p.arrived = true ∨ s.cyc < p.due ∨ s.queued p = true ∨ (p.entered = false ∧ 4 ≤ s.buffered p p.at' p.inp) →
    exec (.packetForward p.pid) s = .next s) ∧
  ∀ (s : State) (k : Nat),
    (∃ t, exec (.routerGate k) s = .next t ∧ onlyClu k (fun c => { c with gated := true, rready := 0 }) s t) ∧
    (∃ t, exec (.routerWake k) s = .next t ∧ onlyClu k (fun c => { c with gated := false, rready := 0, rlast := s.cyc }) s t) ∧
    (∃ t m, exec (.laneDrop k 7) s = .next t ∧ untouched s t ∧ (t.clu k).laneDown = true ∧ t.mgmt = s.mgmt ++ [m]) ∧
    (∀ dir, 1 ≤ dir → dir ≤ 6 →
      let q := (linkEnd k dir).1
      let d := (linkEnd k dir).2
      ∃ t, exec (.laneDrop k dir) s = .next t ∧ untouched s t ∧
        (t.clu q).ringLost[d]? = ((s.clu q).ringLost[d]?).map (fun n => min 2 (n + 1)) ∧
        ((t.clu q).ringLost[d]? = some 2 → t.linkDown k dir = true ∧ ∃ m, t.mgmt = s.mgmt ++ [m]))

/-- R153, R157 to R159, R163, R165, R167, R171 to R176, R180, R181: streams and routers. The model's choice in it: that a word for a
thread that has left is discarded (log entry 35); which buffers the bubble rule counts (log entry 30), the cycle that a link on three
lanes leaves empty (log entry 68) and the details of log entry 69. -/
def Obligations.NetworkSteps : Prop := Claims.StreamSteps ∧ Claims.RouterSteps

/-! ## Turns, channels and fetch: steps that no instruction word issues -/

namespace Sys2Proof.Claims

/-- The only access of a slot that waits, with one part left, which can be served now (R81). -/
def onlyAccess (s : State) (n kind : Nat) (a : Access) (u : MemUnit) : Prop :=
  (s.slot n).acc = [a] ∧ a.units = [u] ∧ a.poison = none ∧ a.got = [] ∧ a.job = none ∧ s.servable n a kind = some u ∧
  kind < 4 ∧ s.chanFailed u.place = false

/-- A unit of an access falls on a missing turn (R88). -/
def noTurn (s : State) (n : Nat) (u : MemUnit) : Prop := u.place.kind ≠ 1 ∧ s.missing (slotClu n) u.place = true

/-- The transfer that a channel executes, changed. -/
def headIs (s : State) (k ch : Nat) (x : Transfer) : Prop := s.head k ch = some x

/-- The steps of a channel, which is the remainder of their number by 4 (R185, R187). -/
def channelStep (k n : Nat) (i : Instr) : Prop := i = .copyLine k n ∨ i = .chainHop k n ∨ i = .copyStamp k n

/-- A page-table walk of a cluster has gone on (R292). -/
def walksOf (s : State) (k : Nat) (g : Walk → Walk) (w : Walk) : List Walk :=
  (s.clu k).walks.map fun v => if v.joins w && v.walking && v.bad.isNone then g v else v

/-- A read of the service port has gone out (R63, R292): to the queue of a DRAM channel of the cluster, or as one packet. -/
def sentFor (k : Nat) (code : Bool) (p : Place) (s t : State) : Prop :=
  t.mem = s.mem ∧ (∀ n, t.slot n = s.slot n) ∧
    (t.clu k).reads = (s.clu k).reads ++ [{ seq := (s.clu k).readNext, key := p.key, code := code }] ∧
    (portDram k p = true → (t.dram p.unit).queue = (s.dram p.unit).queue ++ [(portRequester k, (s.clu k).readNext)]) ∧
    (portDram k p = false → ∃ q, t.net = s.net ++ [q] ∧ q.dep = 30 ∧ q.src = k ∧ q.owed = (s.clu k).readNext ∧
      (q.kind = if code then 3 else 0))

end Sys2Proof.Claims

/-- R81, R96 to R100, R255, R267: a turn serves an access, a wait is satisfied or goes on, a commit is applied, a pass of `BLD` and of
the array ends. -/
def Obligations.TurnSteps : Prop :=
  ∀ (s : State) (n : Nat),
    let x := s.slot n
    let k := slotClu n
    (∀ (a : Access) (u : MemUnit) (kind size : Nat) (d : Spec) (e : Bool), onlyAccess s n kind a u → ¬ noTurn s n u → d.toNat < 32 →
      a.fin = .reg d size false e 0 → u.acts = [.rd 0 u.place.key size] → size ≤ 8 → s.isPoisoned u.place size = false → a.ws = x.wp →
      x.absent = false →
        ∃ t, exec (.turnService n (4 * a.id + kind)) s = .next t ∧ (t.slot n).acc = [] ∧ t.mem = s.mem ∧
          (t.slot n).w[d.toNat]? = some (BitVec.ofNat 64 (s.readMem u.place.key size)) ∧
          (∀ i, i ≠ d.toNat → (t.slot n).w[i]? = x.w[i]?) ∧ (t.slot n).pc = x.pc ∧ ∀ m, m ≠ n → t.slot m = s.slot m) ∧
    (∀ (a : Access) (u : MemUnit) (kind size v : Nat), onlyAccess s n kind a u → ¬ noTurn s n u → a.fin = .store → u.acts = [.wr u.place.key size v] →
        ∃ t, exec (.turnService n (4 * a.id + kind)) s = .next t ∧ t.slot n = { x with acc := [] } ∧ stored u.place v size s t ∧
          ∀ m, m ≠ n → t.slot m = s.slot m) ∧
    (∀ (a : Access) (u : MemUnit) (kind : Nat), onlyAccess s n kind a u → noTurn s n u →
        ∃ t, exec (.turnService n (4 * a.id + kind)) s = .next t ∧ t.mem = s.mem ∧
          t.slot n = { x with acc := [{ a with units := [{ u with due := s.cyc + s.revolution k u.place }] }] }) ∧
    (∀ (a : Access) (kind : Nat), x.acc = [a] → kind < 4 → s.servable n a kind = none →
      exec (.turnService n (4 * a.id + kind)) s = .next s) ∧
    (∀ (a : Access) (u : MemUnit) (d : Spec) (c : Nat) (y : Word) (us : List MemUnit), x.acc = [a] → a.again = true → a.units = [u] → a.poison = none →
      a.got = [] → a.job = none → u.place.kind = 1 → u.acts = [.rd 0 u.place.key 8] → s.isPoisoned u.place 8 = false → a.fin = .waitw d c y us 0 →
      let v : Word := BitVec.ofNat 64 (s.readMem u.place.key 8)
      let ok : Prop := if c = 0 then v ≠ y else if c = 1 then y.toNat ≤ v.toNat else v = y
      (ok → ∃ t, exec (.waitwReread n) s = .next t ∧ (t.slot n).phase = 2 ∧ (t.slot n).buf = [v.toNat, s.cyc] ∧ (t.slot n).acc = [] ∧
        t.mem = s.mem) ∧
      (¬ ok → ∃ t, exec (.waitwReread n) s = .next t ∧ (t.slot n).phase = x.phase ∧ (t.slot n).acc.length = 1 ∧ t.mem = s.mem)) ∧
    ((∀ a ∈ x.acc, a.again = false) → exec (.waitwReread n) s = .next s) ∧
    (∀ m, (s.clu k).commits.find? (fun c => c.slot = n) = some m → m.ready ≤ s.cyc → (s.clu k).commitHeld m.row = false →
      (Place.ofKey m.row).kind ≠ 4 → m.lines.Pairwise (fun a b => a.1 ≠ b.1) →
        ∃ t, exec (.stripeCommit n) s = .next t ∧ (t.slot n).phase = 2 ∧ (t.clu k).counter m.row = ((s.clu k).counter m.row + 1) % 16 ∧
          (s.mem.wf = true → ∀ l ∈ m.lines, t.readMem ((Place.ofKey m.row).add (128 * l.1)).key 128 = l.2 % 256 ^ 128) ∧
          ∀ a, (∀ l ∈ m.lines, a < ((Place.ofKey m.row).add (128 * l.1)).key ∨ ((Place.ofKey m.row).add (128 * l.1)).key + 128 ≤ a) →
            t.mem.read a = s.mem.read a) ∧
    (∀ m, (s.clu k).commits.find? (fun c => c.slot = n) = some m → s.cyc < m.ready ∨ (s.clu k).commitHeld m.row = true →
      exec (.stripeCommit n) s = .next s) ∧
    (∀ (a : Access) (row m dst pass v : Nat), x.acc = [a] → a.fin = .bld row m dst pass → a.last = some v → a.poison = none →
      (a.first = some v → ∃ t, exec (.bldPass n) s = .next t ∧ (t.slot n).phase = x.phase ∧ (t.slot n).acc = [] ∧
        (∀ p ∈ (t.clu k).passes, p.slot ≠ n) ∧ t.mem = s.mem ∧
        (t.core (slotCore n)).blocks = (s.core (slotCore n)).blocks ++
          [⟨n, true, 0, (maskBanks m).map fun b => (b, dst + 128 * b, passLine a.got b)⟩]) ∧
      (a.first ≠ some v → (maskBanks m).length ≠ 1 → (s.clu k).wheel.step s.cyc ≠ 0 →
        ∃ t, exec (.bldPass n) s = .next t ∧ (t.slot n).phase = x.phase ∧ (t.slot n).acc = [] ∧ (t.slot n).buf.head? = some (pass + 1) ∧
          t.mem = s.mem)) ∧
    (∃ t, exec (.kvcommitHoldEnd n) s = .next t ∧ onlySlot n (fun x => if x.phase = 42 then { x with phase := 45, waiting := 0 } else x) s t) ∧
    ((s.clu n).iso.pleft = 0 → ∃ t, exec (.isochronePass n) s = .next t ∧ onlyClu n id s t) ∧
    ((s.clu n).iso.pleft ≠ 0 → ∃ t, exec (.isochronePass n) s = .next t ∧ onlyClu n (fun c => { c with iso := {
      c.iso.pass c.iso.gwin c.iso.gmode with
        pleft := c.iso.pleft - 1, pdone := c.iso.pdone + 1, lastEnd := c.iso.nextPass
        nextPass := c.iso.nextPass + (c.iso.gwin + 5) / 2 } }) s t)

/-- R182 to R192: a channel starts the transfer at its head once no job holds it, reads a line, delivers it, writes its stamp, and goes
on to the next hop or ends the transfer; one that stops ends its transfer with a report of its thread. The model's choice in it: which
lines a channel reads ahead (log entry 72), and its number in a packet (log entry 42). -/
def Sys2Proof.Claims.ChannelSteps : Prop :=
  ∀ (s : State) (k : Nat) (ch : Fin 4) (x : Transfer), headIs s k ch.val x →
    ((∃ j ∈ (s.clu k).jobs, j.id = x.job ∧ j.held = true) → exec (.copyTransferStart k ch.val) s = .next s) ∧
    ((∀ j ∈ (s.clu k).jobs, j.id = x.job → j.held = false) →
      ∃ t, exec (.copyTransferStart k ch.val) s = .next t ∧ headIs t k ch.val { x with started := true } ∧ untouched s t) ∧
    (∀ (m : Nat) (p : Place) (l : Nat), s.chanAction k ch.val m = some (.fetch p l) → p.kind ≠ 4 →
      (chanServed k p = 1 → s.missing k p = false → s.bankAbsent p = false →
        ∀ i, channelStep k (ch.val + 4 * m) i →
          ∃ t y, exec i s = .next t ∧ headIs t k ch.val y ∧ y.pos = x.pos ∧ y.hop = x.hop ∧
            (SMap.get (0, 0, 0) y.got p.key).1 = s.readMem p.key l ∧ untouched s t) ∧
      (chanServed k p = 2 → ∀ i, channelStep k (ch.val + 4 * m) i →
          ∃ t q, exec i s = .next t ∧ headIs t k ch.val { x with asked := x.asked ++ [p.key] } ∧ untouched s t ∧
            t.net = s.net ++ [q] ∧ q.kind = 3 ∧ q.place = p ∧ q.size = l ∧ q.sep = 20 + ch.val)) ∧
    (∀ (m : Nat) (d : Todo) (p : Place), s.chanAction k ch.val m = some d → d.place = some p → p.kind ≠ 4 → chanServed k p = 1 →
      s.missing k p = true → ∀ i, channelStep k (ch.val + 4 * m) i →
        ∃ t, exec i s = .next t ∧ untouched s t ∧ headIs t k ch.val x ∧
          SMap.get 0 (t.clu k).held p.line.key = s.cyc + s.revolution k p) ∧
    (∀ (m : Nat) (c : Part) (v : Nat), s.chanAction k ch.val m = some (.put c.dst) → (x.parts k).head? = some c → c.dst.kind ≠ 4 →
      chanServed k c.dst = 1 → s.missing k c.dst = false → s.bankAbsent c.dst = false → x.kv = false → x.gather k c = (v, false) →
        ∀ i, channelStep k (ch.val + 4 * m) i →
          ∃ t y, exec i s = .next t ∧ headIs t k ch.val y ∧ y.pos = c.pos + c.n ∧ y.hop = x.hop ∧ stored c.dst v c.n s t ∧
            ∀ m, t.slot m = s.slot m) ∧
    (∀ (m : Nat) (p : Place), s.chanAction k ch.val m = some (.stamp p) → p.kind ≠ 4 → chanServed k p = 1 → s.missing k p = false →
      s.bankAbsent p = false → x.kv = false → ∀ i, channelStep k (ch.val + 4 * m) i →
      (x.hop < x.hops.length →
        ∃ t, exec i s = .next t ∧ stored p x.seq.toNat 8 s t ∧ headIs t k ch.val
          { x with hop := x.hop + 1, pos := 0, got := [], asked := [], stampSent := false, stampDone := false }) ∧
      (x.hops.length ≤ x.hop →
        ∃ t, exec i s = .next t ∧ stored p x.seq.toNat 8 s t ∧
          (t.clu k).chans[ch].queue = (s.clu k).chans[ch].queue.tail ∧ (t.clu k).chans[ch].lastDone = x.seq ∧
          (∀ j ∈ (t.clu k).jobs, j.id ≠ x.job) ∧ ∀ j ∈ (s.clu k).jobs, j.id ≠ x.job → j ∈ (t.clu k).jobs)) ∧
    (∀ m, s.chanAction k ch.val m = none → ∀ i, channelStep k (ch.val + 4 * m) i → exec i s = .next s) ∧
    (x.kv = false → (s.slot x.slot).live = true → (s.slot x.slot).cont = x.cont →
      ∃ t, exec (.copyStop k ch.val 0x0E) s = .next t ∧ (t.clu k).chans[ch].queue = (s.clu k).chans[ch].queue.tail ∧
        reported x.slot { cause := 0x0E, eng := true, pc := x.pc, addr := BitVec.ofNat 64 x.bytes, info := x.seq } s t ∧
        t.mem = s.mem ∧ (∀ j ∈ (t.clu k).jobs, j.id ≠ x.job)) ∧
    (x.kv = false → (s.slot x.slot).live = true → (s.slot x.slot).cont = x.cont →
      ∃ t, exec (.copyStop k ch.val 0x0D) s = .next t ∧ (t.clu k).chans[ch].queue = (s.clu k).chans[ch].queue.tail ∧
        reported x.slot { absentTrap x.stopAt with eng := true, pc := x.pc, addr := BitVec.ofNat 64 x.stopAt.window } s t ∧
        t.mem = s.mem)

/-- R135, R192, R200: a held job is looked at again; a DRAM channel starts a request where its bus is free, and closes its rows in a
refresh window; the matrix unit completes the command at its head, and the next one begins. The model's choice in it: the lines that a
copy reads ahead (log entry 72) and the order of units within a cycle (log entry 12). -/
def Sys2Proof.Claims.UnitSteps : Prop :=
  ∀ (s : State) (k : Nat),
    (let js := (s.clu k).jobs.filter fun j => !j.over s.cyc
     ∀ job, ∃ t, exec (.footprintRelease k job) s = .next t ∧ untouched s t ∧ (t.clu k).jobs.length = js.length ∧
      (∀ j ∈ js, j.id ≠ job → j ∈ (t.clu k).jobs) ∧ ∀ j ∈ js, j.id = job → { j with held := heldBy js j } ∈ (t.clu k).jobs) ∧
    ((s.dram k).queue = [] ∨ s.cyc < (s.dram k).busFree ∨ inRefresh k s.cyc = true → exec (.dramRequest k) s = .next s) ∧
    (∀ (n id : Nat) (rest : List (Nat × Nat)) (a : Access) (u : MemUnit), (s.dram k).queue = (n, id) :: rest → n < 65536 →
      (s.dram k).busFree ≤ s.cyc → inRefresh k s.cyc = false → (s.slot n).acc.find? (fun a => a.id = id) = some a →
      a.units.find? (fun u => u.place.kind = 4 && u.place.unit = k && s.unitFree n a u) = some u →
        ∃ t, exec (.dramRequest k) s = .next t ∧ (∃ l, (t.dram k).queue = rest ++ l ∧ l.length ≤ 1) ∧
          SMap.get 0 (t.dram k).rows (u.place.off / 2048 % 16) = u.place.off / 32768 ∧
          (t.dram k).busFree = s.cyc + (if (s.dram k).lineSeq % 3 = 2 then 8 else 9) ∧
          (∀ (size v : Nat), a.fin = .store → a.units = [u] → a.job = none → u.acts = [.wr u.place.key size v] →
            s.chanFailed u.place = false → stored u.place v size s t ∧ ∀ b ∈ (t.slot n).acc, b.id ≠ id)) ∧
    (∃ t, exec (.refreshWindow k) s = .next t ∧ untouched s t ∧ t.dram k = { s.dram k with rows := [], acts := [] }) ∧
    ((s.core k).munit = [] → exec (.unitCommand k) s = .next s) ∧
    (∀ (u : UnitCmd) (us : List UnitCmd), (s.core k).munit = u :: us →
      ∃ t, exec (.unitCommand k) s = .next t ∧ t.slot (k * 8 + u.slot) = (s.slot (k * 8 + u.slot)).runUnit u ∧ t.mem = s.mem ∧
        (∀ m, m ≠ k * 8 + u.slot → t.slot m = s.slot m) ∧ (t.core k).munit.length = us.length ∧
        (∀ v, us.head? = some v → (t.core k).munit.head? = some { v with doneAt := u.doneAt + v.cycles }) ∧
        (u.post = none → (t.core k).sems = (s.core k).sems) ∧
        (∀ i : Fin 16, u.post = some i.val →
          (t.core k).sems[i] = BitVec.ofNat 16 (min ((s.core k).sems[i].toNat + 1) 65535)))

/-- R135, R182 to R192, R200: copy channels, DRAM channels, footprints and the matrix unit. The model's choice in it: which lines a
channel reads ahead (log entry 72), and its number in a packet (log entry 42); the lines that a copy reads ahead (log entry 72) and the
order of units within a cycle (log entry 12). -/
def Obligations.ChannelAndUnitSteps : Prop := Claims.ChannelSteps ∧ Claims.UnitSteps

/-- R63, R292: a block that the cache holds goes to the slot that waits for it, and issues two cycles later; one that it does not hold
is read from its home, in an own store at a turn and elsewhere by a request; a walk reads one level so, and ends in the TLBs or at a
fault, which fills none. The model's choice in it: the block that a refill replaces (log entry 59), the place of walks among the users
of the service port (log entry 71), the endpoint of a read that is sent for (log entry 42), and the cause of code in a view page (log
entry 48). -/
def Obligations.FetchSteps : Prop :=
  ∀ (s : State) (k : Nat),
    (s.fetchers k = [] → exec (.fetchServe k) s = .next s) ∧
    (∀ (n c key : Nat) (b : Word) (e : Nat × Nat), s.fetchers k = [(n, b, c, key)] → (s.slot n).freq = some (b, c, key) →
      ((s.clu k).icache.find? (fun e => e.1 = key) = some e →
        ∃ t, exec (.fetchServe k) s = .next t ∧ (t.slot n).fbuf.head? = some (b, e.2, s.cyc + 2) ∧ (t.slot n).freq = none ∧
          (t.slot n).pc = (s.slot n).pc ∧ t.mem = s.mem ∧ ∀ m, m ≠ n → t.slot m = s.slot m) ∧
      ((s.clu k).icache.find? (fun e => e.1 = key) = none →
        ∃ t, exec (.fetchServe k) s = .next t ∧ onlyClu k (fun c => { c with misses := c.misses ++ [key] }) s t)) ∧
    (∀ key, key ∉ (s.clu k).misses ∨ s.portView k true (Place.ofKey key) = .later → exec (.icacheRefill (k, key)) s = .next s) ∧
    (∀ key, key ∈ (s.clu k).misses → s.portView k true (Place.ofKey key) = .missing →
      ∃ t, exec (.icacheRefill (k, key)) s = .next t ∧ untouched s t ∧ (t.clu k).misses = (s.clu k).misses ∧
        SMap.get 0 (t.clu k).held (Place.ofKey key).line.key = s.cyc + s.revolution k (Place.ofKey key)) ∧
    (∀ key, key ∈ (s.clu k).misses → s.portView k true (Place.ofKey key) = .send →
      ∃ t, exec (.icacheRefill (k, key)) s = .next t ∧ sentFor k true (Place.ofKey key) s t ∧ (t.clu k).misses = (s.clu k).misses) ∧
    (∀ key v bad, key ∈ (s.clu k).misses → s.portView k true (Place.ofKey key) = .value v bad →
      ∃ t, exec (.icacheRefill (k, key)) s = .next t ∧ untouched s t ∧ (t.clu k).icache.head? = some (key, v) ∧
        key ∉ (t.clu k).misses ∧ ∀ j ∈ (s.clu k).misses, j ≠ key → j ∈ (t.clu k).misses) ∧
    (∀ code p, portOwns k p = true → s.svcAt k p = true → s.missing k p = false →
      s.portView k code p = .value (s.readMem p.key (if code then 64 else 8)) (s.isPoisoned p (if code then 64 else 8) || s.bankAbsent p)) ∧
    (∀ root page, (s.clu k).walkers.find? (fun w => w.root = root && w.va / 65536 = page) = none →
      exec (.tableWalk (k, root, page)) s = .next s) ∧
    (∀ root page w, (s.clu k).walkers.find? (fun w => w.root = root && w.va / 65536 = page) = some w → ¬ (w.level = 3 ∧ w.entry.getLsbD 0 = false) →
      (w.place = none → ∃ t, exec (.tableWalk (k, root, page)) s = .next t ∧
        onlyClu k (fun c => { c with walks := walksOf s k (fun v => { v with bad := some (w.level, 1, w.entry) }) w }) s t) ∧
      (∀ p, w.place = some p → s.portView k false p = .send →
        ∃ t, exec (.tableWalk (k, root, page)) s = .next t ∧ sentFor k false p s t ∧ (t.clu k).walks = (s.clu k).walks) ∧
      (∀ p v bad, w.place = some p → s.portView k false p = .value v bad →
        let x : Word := BitVec.ofNat 64 v
        (∀ y, walkEntry x bad w.level = .table y →
          ∃ t, exec (.tableWalk (k, root, page)) s = .next t ∧
            onlyClu k (fun c => { c.readOver false p.key with walks := walksOf s k (fun v => { v with level := w.level - 1, entry := y }) w }) s t) ∧
        (∀ c y, walkEntry x bad w.level = .bad c y →
          ∃ t, exec (.tableWalk (k, root, page)) s = .next t ∧
            onlyClu k (fun z => { z.readOver false p.key with walks := walksOf s k (fun v => { v with bad := some (w.level, c, y) }) w }) s t) ∧
        (∀ pte big, walkEntry x bad w.level = .leaf pte big →
          ∃ t, exec (.tableWalk (k, root, page)) s = .next t ∧ untouched s t ∧
            (⟨w.root, w.va / 65536, big, pte⟩ : TlbEntry) ∈ (t.clu k).tlb ∧ (∀ v ∈ (t.clu k).walks, v.joins w = false) ∧
            ∀ v ∈ (s.clu k).walks, v.joins w = true → (⟨w.root, w.va / 65536, big, pte⟩ : TlbEntry) ∈ (t.core v.core).tlb)))

/-! ## Vectors -/

namespace Sys2Proof.Claims

/-- The vector unit accepts an instruction (R115): on a memory core it keeps the unit for four cycles, and every result comes three
cycles later. -/
def unitFree (u : State) : Prop := isMemCore (slotCore u.cur) = true → (u.core (slotCore u.cur)).vecFree ≤ u.cyc
def unitTaken (u : State) : State :=
  if isMemCore (slotCore u.cur) then u.modCore (slotCore u.cur) fun c => { c with vecFree := u.cyc + 4 } else u
def unitLate (u : State) : Nat := if isMemCore (slotCore u.cur) then 3 else 0

/-- The shared normaliser is kept for eight cycles, in which the slot issues nothing (R116). -/
def normTaken (u : State) (used : Bool) : State :=
  if used then
    (u.modCore (slotCore u.cur) fun c => { c with normFree := u.cyc + 8 }).modSlot u.cur fun x => { x with notBefore := u.cyc + 8 }
  else u

/-- The divide unit of the vector unit is kept for eight cycles (R115). -/
def dividerTaken (u : State) (used : Bool) : State :=
  if used then u.modCore (slotCore u.cur) fun c => { c with vdivFree := u.cyc + 8 } else u

/-- Whether a lane is active (R113), and the element that a register holds in it (R112). -/
def active (u : State) (f : Form) (i : Nat) : Bool := (u.me.kmask f.mask).getLsbD i
def element (u : State) (ty : Nat) (a : Spec) (i : Nat) : Nat := (lane (u.me.vreg a) i).toNat % 2 ^ tyBits ty

/-- The lane of a result (R112): sign-extended for i8 and i16, and zero-extended for the other types. -/
def extendedLane (ty : Nat) (r : Nat) : Word32 :=
  if ty = 0 then (BitVec.ofNat 8 r).signExtend 32 else if ty = 2 then (BitVec.ofNat 16 r).signExtend 32
  else BitVec.ofNat 32 (r % 2 ^ tyBits ty)

/-- The state after a vector register is written, available after `lat` cycles (R46, R115). -/
def withVector (u : State) (d : Spec) (v : BitVec 2048) (lat : Nat) : State :=
  u.modSlot u.cur fun x =>
    Slot.later { x with vec := { x.vec with v := x.vec.v.set! (d.toNat % 32) v } } (.vreg (d.extractLsb' 0 5)) (u.cyc + lat)

/-- The state after a mask is written: a write to `k0` is discarded (R35). -/
def withMask (u : State) (d : Spec) (k : Word) (lat : Nat) : State :=
  if d.toNat % 8 = 0 then u
  else u.modSlot u.cur fun x =>
    Slot.later { x with vec := { x.vec with k := x.vec.k.set! (d.toNat % 8) k } } (.mask (d.extractLsb' 0 3)) (u.cyc + lat)

/-- The state after sticky flags are raised, five bits a lane, unless Q is set (R114). -/
def withFlags (u : State) (f : Form) (g : BitVec 320) (w : List (Res × Nat)) : State :=
  if f.quiet then u else u.modSlot u.cur fun x => { x with vec := { x.vec with vf := x.vec.vf ||| g }, avail := w }

/-- The integer instructions of R124 on elements of `w` bits, and the cycles until their result is available. -/
def vectorIntTable (d a b : Spec) (f : Form) : List (Instr × ((w : Nat) → BitVec w → BitVec w → BitVec w) × Nat) := [
  (.viadd d a b f, (fun _ x y => x + y), 3), (.visub d a b f, (fun _ x y => x - y), 3), (.vimul d a b f, (fun _ x y => x * y), 4),
  (.vimulh d a b f, (fun w x y => BitVec.ofInt w (x.toInt * y.toInt / 2 ^ w)), 4),
  (.vimulhn d a b f, (fun w x y => BitVec.ofNat w (x.toNat * y.toNat / 2 ^ w)), 4),
  (.vand d a b f, (fun _ x y => x &&& y), 3), (.vor d a b f, (fun _ x y => x ||| y), 3), (.vxor d a b f, (fun _ x y => x ^^^ y), 3),
  (.vshl d a b f, (fun w x y => x <<< (y.toNat % w)), 3), (.vshr d a b f, (fun w x y => x >>> (y.toNat % w)), 3),
  (.vsar d a b f, (fun w x y => x.sshiftRight (y.toNat % w)), 3),
  (.vimin d a b f, (fun _ x y => if x.toInt ≤ y.toInt then x else y), 3),
  (.vimax d a b f, (fun _ x y => if y.toInt < x.toInt then x else y), 3),
  (.viminn d a b f, (fun _ x y => if x.toNat ≤ y.toNat then x else y), 3),
  (.vimaxn d a b f, (fun _ x y => if y.toNat < x.toNat then x else y), 3)]

/-- A lane-by-lane float instruction (R122, R123, R125): its operand registers, the types of its elements and its results, the
operation on a lane's elements with the flags it raises, whether it uses the normaliser and the divider, and the cycles until its
result is available. -/
structure FloatOp where
  instr : Instr
  args : List Spec
  src : Nat
  dst : Nat
  op : List Nat → Nat × Nat
  norm : Bool
  divide : Bool
  lat : Nat

def first (es : List Nat) : Nat := es.headD 0
def second (es : List Nat) : Nat := (es.drop 1).headD 0
def third (es : List Nat) : Nat := (es.drop 2).headD 0

def floatTable (d a b : Spec) (sr t : BitVec 4) (f : Form) : List FloatOp :=
  let ty := f.ty 10
  let z := Fmt.ofType ty
  let rm := f.rm
  let c := if f.ext?.isSome then f.c else d
  let two (i : Instr) (op : Nat → Nat → Nat × Nat) (divide : Bool) (lat : Nat) : FloatOp :=
    ⟨i, [a, b], ty, ty, fun es => op (first es) (second es), true, divide, lat⟩
  let one (i : Instr) (op : Nat → Nat × Nat) (norm divide : Bool) (lat : Nat) : FloatOp :=
    ⟨i, [a], ty, ty, fun es => op (first es), norm, divide, lat⟩
  let fused (i : Instr) (np nc : Bool) : FloatOp :=
    ⟨i, [a, b, c], ty, ty, fun es => z.fma rm np nc (first es) (second es) (third es), true, false, 4⟩
  [two (.vadd d a b f) (z.add rm) false 4, two (.vsub d a b f) (z.sub rm) false 4, two (.vmul d a b f) (z.mul rm) false 4,
   two (.vdiv d a b f) (z.div rm) true 14, two (.vmin d a b f) (z.minMax false) false 4, two (.vmax d a b f) (z.minMax true) false 4,
   one (.vsqrt d a f) (z.sqrt rm) true true 14, one (.vrcp d a f) (z.rcp rm) true false 8, one (.vrsq d a f) (z.rsq rm) true false 8,
   one (.vexp2 d a f) (z.exp2 rm) true false 8, one (.vlog2 d a f) (z.log2 rm) true false 8,
   one (.vabs d a f) (fun v => (v % z.signBit, 0)) false false 3, one (.vneg d a f) (fun v => (v ^^^ z.signBit, 0)) false false 3,
   one (.vrint d a f) (z.rint rm) true false 4, fused (.vfma d a b f) false false, fused (.vfms d a b f) false true,
   fused (.vfnma d a b f) true false,
   ⟨.vcvt d a sr t f, [a], sr.toNat, t.toNat, fun es => convert t.toNat sr.toNat rm (first es), true, false, 4⟩]

/-- What a float instruction needs and takes: the divider, the vector unit and, where an active lane meets a subnormal, the
normaliser (R115, R116). -/
def unitsFree (u : State) (divide : Bool) : Prop :=
  unitFree u ∧ (u.core (slotCore u.cur)).normFree ≤ u.cyc ∧ (divide = true → (u.core (slotCore u.cur)).vdivFree ≤ u.cyc)
def unitsTaken (u : State) (divide norm : Bool) : State := normTaken (unitTaken (dividerTaken u divide)) norm
def unitsLate (u : State) (norm : Bool) : Nat := unitLate u + (if norm then 8 else 0)

/-- Whether a pattern of a float type is a subnormal. -/
def isSubnormal (ty v : Nat) : Bool := tyFloat ty && (Fmt.ofType ty).subnormal v

end Sys2Proof.Claims

/-- R112, R113, R124: each of the fifteen integer vector instructions completes; in each active lane its result is that of its
operation modulo the width of the type, extended to the lane, and every inactive lane keeps its value. -/
def Obligations.VectorInteger : Prop :=
  ∀ (d a b : Spec) (f : Form) (p : Instr × ((w : Nat) → BitVec w → BitVec w → BitVec w) × Nat), p ∈ vectorIntTable d a b f →
    ∀ (r : Raw) (s : State), Ready p.1 r s →
      let u := s.entered r
      let ty := f.ty 4
      let w := tyBits ty
      unitFree u →
        ∃ t v, exec p.1 s = .next t ∧
          Finished r s ((withVector (unitTaken u) d v (p.2.2 + unitLate u)).take s.cur r.taken) t ∧
          ∀ i < 64, lane v i = if active u f i then
              extendedLane ty (p.2.1 w (BitVec.ofNat w (element u ty a i)) (BitVec.ofNat w (element u ty b i))).toNat
            else lane (u.me.vreg d) i

/-- R112 to R116, R122, R123, R125: each lane-by-lane float instruction completes; each active lane holds the operation's result and has
raised its flags unless Q is set, every inactive lane keeps its value and its flags, and the normaliser is used exactly where an active
lane has a subnormal operand or result. The model's choice in it: the working precision of `VEXP2` and `VLOG2` (log entry 11). -/
def Sys2Proof.Claims.VectorFloat : Prop :=
  ∀ (d a b : Spec) (sr t : BitVec 4) (f : Form) (p : FloatOp), p ∈ floatTable d a b sr t f →
    ∀ (r : Raw) (s : State), Ready p.instr r s →
      let u := s.entered r
      let args (i : Nat) : List Nat := p.args.map fun x => element u p.src x i
      unitsFree u p.divide →
        ∃ (t : State) (v : BitVec 2048) (g : BitVec 320) (n : Bool) (w : List (Res × Nat)), exec p.instr s = .next t ∧
          Finished r s ((withFlags (withVector (unitsTaken u p.divide n) d v (p.lat + unitsLate u n)) f g w).take s.cur r.taken) t ∧
          (n = true ↔ p.norm = true ∧ ∃ i < 64, active u f i = true ∧
            ((∃ e ∈ args i, isSubnormal p.src e = true) ∨ isSubnormal p.dst (p.op (args i)).1 = true)) ∧
          (Res.vreg (d.extractLsb' 0 5), u.cyc + p.lat + unitsLate u n) ∈ (t.slot s.cur).avail ∧
          ∀ i < 64,
            lane v i = (if active u f i then extendedLane p.dst (p.op (args i)).1 else lane (u.me.vreg d) i) ∧
            (g.extractLsb' (5 * i) 5).toNat = if active u f i then (p.op (args i)).2 % 32 else 0

/-- R107: in each format a value that is exact is delivered with no flag under every rounding mode, a NaN operand delivers the quiet NaN
with invalid raised exactly for a signalling one, and each invalid operation and each pole delivers what its row says. The model's
choice in it: the working precision of `VEXP2` and `VLOG2` (log entry 11). -/
def Sys2Proof.Claims.FloatResults : Prop :=
  ∀ z ∈ [Fmt.f16, Fmt.bf16, Fmt.f32], ∀ (rm x y : Nat),
    let a := z.decode x
    let b := z.decode y
    let bits (v : Nat) : Nat := v % 2 ^ z.width
    (∀ n m e, a = .fin n m e → z.round rm n m e false = (bits x, 0)) ∧
    (∀ op ∈ [z.add rm, z.sub rm, z.mul rm, z.div rm], (a.isNan = true ∨ b.isNan = true) →
      op x y = (z.qnan, if a.isSnan = true ∨ b.isSnan = true then 1 else 0)) ∧
    (∀ op ∈ [z.sqrt rm, z.rcp rm, z.rsq rm, z.exp2 rm, z.log2 rm, z.rint rm], a.isNan = true →
      op x = (z.qnan, if a.isSnan = true then 1 else 0)) ∧
    (∀ n, a = .inf n → b = .inf (!n) → z.add rm x y = (z.qnan, 1)) ∧
    (∀ n, a = .inf n → b = .inf n → z.add rm x y = (bits x, 0) ∧ z.sub rm x y = (z.qnan, 1)) ∧
    (∀ n k e, a = .inf n → b = .fin k 0 e → z.mul rm x y = (z.qnan, 1) ∧ z.mul rm y x = (z.qnan, 1)) ∧
    (∀ n k e e', a = .fin n 0 e → b = .fin k 0 e' → z.div rm x y = (z.qnan, 1)) ∧
    (∀ n m k e e', a = .fin n m e → m ≠ 0 → b = .fin k 0 e' → z.div rm x y = (z.signed (n != k) z.inf, 2)) ∧
    (∀ m e, a = .fin true m e → m ≠ 0 → z.sqrt rm x = (z.qnan, 1) ∧ z.rsq rm x = (z.qnan, 1) ∧ z.log2 rm x = (z.qnan, 1)) ∧
    (∀ n e, a = .fin n 0 e → z.sqrt rm x = (bits x, 0) ∧ z.rcp rm x = (z.signed n z.inf, 2) ∧ z.log2 rm x = (z.signed true z.inf, 2)) ∧
    (a.isNan = true → b.isNan = false → (z.minMax false x y).1 = bits y ∧ (z.minMax true x y).1 = bits y) ∧
    z.add rm x y = z.add rm y x ∧ z.mul rm x y = z.mul rm y x

/-- R107, R112 to R116, R122, R123, R125: the floating-point instructions and what they compute. The model's choice in it: the working
precision of `VEXP2` and `VLOG2` (log entry 11). -/
def Obligations.VectorFloats : Prop := Claims.VectorFloat ∧ Claims.FloatResults

namespace Sys2Proof.Claims

/-- A comparison of R126 on two elements: its bit and its flags. -/
def compareLane (ty c p q : Nat) : Bool × Nat :=
  if tyFloat ty then (Fmt.ofType ty).cmp c p q
  else
    let x := tyVal ty p
    let y := tyVal ty q
    (if c = 0 then decide (x = y) else if c = 1 then decide (x ≠ y) else if c = 2 then decide (x < y)
      else if c = 3 then decide (x ≤ y) else if c = 4 then decide (y < x) else decide (y ≤ x), 0)

/-- The mask instructions over masks (R127). -/
def maskTable (d a b : Spec) (f : Form) : List (Instr × (Bool → Bool → Bool)) := [
  (.kand d a b f, fun x y => x && y), (.kor d a b f, fun x y => x || y), (.kxor d a b f, fun x y => x ^^ y),
  (.knot d a f, fun x _ => !x)]

/-- A mask as an operand: `k0` reads as all ones (R35). -/
def maskBit (u : State) (a : Spec) (i : Nat) : Bool := if a.extractLsb' 0 3 = 0#3 then true else (u.me.vec.k[(a.extractLsb' 0 3).toNat]).getLsbD i

end Sys2Proof.Claims

/-- R126, R127: `VCMP` writes the comparison of each active lane and 0 for an inactive one; the mask instructions write their
operation bit by bit, `KPOP` and `KMOVW` read a mask, `KMOVK` writes one, a write to `k0` is discarded, and `VSEL` selects by
mask. -/
def Obligations.VectorCompareAndMask : Prop :=
  ∀ (d a b : Spec) (f : Form) (r : Raw) (s : State),
    let u := s.entered r
    (∀ c : BitVec 6, Ready (.vcmp d a b c f) r s → unitsFree u false →
      let ty := f.ty 10
      let one (i : Nat) : Bool × Nat := compareLane ty c.toNat (element u ty a i) (element u ty b i)
      ∃ (t : State) (k : Word) (g : BitVec 320) (n : Bool) (w : List (Res × Nat)), exec (.vcmp d a b c f) s = .next t ∧
        Finished r s ((withFlags (withMask (unitsTaken u false n) d k (4 + unitsLate u n)) f g w).take s.cur r.taken) t ∧
        (n = true ↔ ∃ i < 64, active u f i = true ∧
          (isSubnormal ty (element u ty a i) = true ∨ isSubnormal ty (element u ty b i) = true)) ∧
        ∀ i < 64, k.getLsbD i = (active u f i && (one i).1) ∧
          (g.extractLsb' (5 * i) 5).toNat = if active u f i then (one i).2 else 0) ∧
    (∀ p ∈ maskTable d a b f, Ready p.1 r s → unitFree u →
      ∃ t k, exec p.1 s = .next t ∧ Finished r s ((withMask (unitTaken u) d k (3 + unitLate u)).take s.cur r.taken) t ∧
        ∀ i < 64, k.getLsbD i = p.2 (maskBit u a i) (maskBit u b i)) ∧
    (Ready (.kpop d a f) r s → unitFree u → u.canWrite f d →
      ∃ t, exec (.kpop d a f) s = .next t ∧ Finished r s (((unitTaken u).put f d
        (BitVec.ofNat 64 ((List.range 64).filter fun i => maskBit u a i).length) (3 + unitLate u)).take s.cur r.taken) t) ∧
    (Ready (.kmovw d a f) r s → unitFree u → u.canWrite f d →
      ∃ t k, exec (.kmovw d a f) s = .next t ∧ Finished r s (((unitTaken u).put f d k (3 + unitLate u)).take s.cur r.taken) t ∧
        ∀ i < 64, k.getLsbD i = maskBit u a i) ∧
    (∀ v, Ready (.kmovk d a f) r s → unitFree u → u.reads f a = some v →
      ∃ t, exec (.kmovk d a f) s = .next t ∧ Finished r s ((withMask (unitTaken u) d v (3 + unitLate u)).take s.cur r.taken) t) ∧
    (Ready (.vsel d a b f) r s → unitFree u →
      ∃ t v, exec (.vsel d a b f) s = .next t ∧ Finished r s ((withVector (unitTaken u) d v (3 + unitLate u)).take s.cur r.taken) t ∧
        ∀ i < 64, lane v i = if maskBit u f.c i then lane (u.me.vreg a) i else lane (u.me.vreg b) i)

namespace Sys2Proof.Claims

/-- The fixed tree of a reduction (R128): lane `i` of the lower half with lane `i` of the upper half, and so on down to one. -/
def halves {α : Type} (op : α → α → α) : (n : Nat) → (Nat → α) → α
  | 0, x => x 0
  | n + 1, x => halves op n fun i => op (x i) (x (2 ^ n + i))

/-- The integer reductions (R128): identity and operation on the values that the type gives the elements. -/
def intReductions (d a : Spec) (f : Form) : List (Instr × Int × (Int → Int → Int)) :=
  let ty := f.ty 4
  [(.vriadd d a f, 0, fun x y => x + y), (.vrimax d a f, tyMin ty, max), (.vrimin d a f, tyMax ty, min)]

/-- The bitwise reductions. -/
def bitReductions (d a : Spec) (f : Form) : List (Instr × Nat × (Nat → Nat → Nat)) := [
  (.vrand d a f, 2 ^ tyBits (f.ty 4) - 1, fun x y => x &&& y), (.vror d a f, 0, fun x y => x ||| y)]

/-- The float reductions: identity, operation and flags. -/
def floatReductions (d a : Spec) (f : Form) : List (Instr × Nat × (Nat → Nat → Nat × Nat)) :=
  let z := Fmt.ofType (f.ty 10)
  [(.vradd d a f, z.signed true 0, z.add f.rm), (.vrmax d a f, z.signed true z.inf, z.minMax true),
   (.vrmin d a f, z.inf, z.minMax false)]

end Sys2Proof.Claims

/-- R128: every reduction completes with the fixed tree over the active lanes, an inactive lane counting as the identity; the flags of
a float reduction are raised in lane 0. -/
def Sys2Proof.Claims.VectorReductions : Prop :=
  ∀ (d a : Spec) (f : Form) (r : Raw) (s : State),
    let u := s.entered r
    u.canWrite f d →
      (∀ p ∈ intReductions d a f, Ready p.1 r s → unitFree u →
        ∃ t, exec p.1 s = .next t ∧ Finished r s (((unitTaken u).put f d (BitVec.ofInt 64 (halves p.2.2 6 fun i =>
          if active u f i then tyVal (f.ty 4) (element u (f.ty 4) a i) else p.2.1)) (6 + unitLate u)).take s.cur r.taken) t) ∧
      (∀ p ∈ bitReductions d a f, Ready p.1 r s → unitFree u →
        ∃ t, exec p.1 s = .next t ∧ Finished r s (((unitTaken u).put f d (BitVec.ofNat 64 (halves p.2.2 6 fun i =>
          if active u f i then element u (f.ty 4) a i else p.2.1)) (6 + unitLate u)).take s.cur r.taken) t) ∧
      (∀ p ∈ floatReductions d a f, Ready p.1 r s → unitsFree u false →
        let lanes (i : Nat) : Nat × Nat := (if active u f i then element u (f.ty 10) a i else p.2.1, 0)
        let total := halves (fun x y => ((p.2.2 x.1 y.1).1, x.2 ||| y.2 ||| (p.2.2 x.1 y.1).2)) 6 lanes
        ∃ (t : State) (n : Bool) (w : List (Res × Nat)), exec p.1 s = .next t ∧
          Finished r s ((withFlags ((unitsTaken u false n).put f d (BitVec.ofNat 64 total.1) (10 + unitsLate u n)) f
            (BitVec.ofNat 320 total.2) w).take s.cur r.taken) t ∧
          (n = true ↔ isSubnormal (f.ty 10) total.1 = true ∨
            ∃ i < 64, active u f i = true ∧ isSubnormal (f.ty 10) (element u (f.ty 10) a i) = true))

namespace Sys2Proof.Claims

/-- The lane instructions of R129 that write a vector register: whether they read `A` and `B` as scalars, what they put into lane
`i`, and the cycles until the result is available. -/
def laneTable (u : State) (d a b : Spec) (f : Form) : List (Instr × Bool × Bool × (Word → Word → Nat → Word32) × Nat) := [
  (.vbcast d a f, true, false, (fun x _ _ => x.setWidth 32), 3),
  (.vperm d a b f, false, false, (fun _ _ i => lane (u.me.vreg a) ((lane (u.me.vreg b) i).toNat % 64)), 4),
  (.vrot d a b f, false, true, (fun _ y i => lane (u.me.vreg a) ((i + y.toNat) % 64)), 3),
  (.vsetl d a b f, true, true, (fun x y i => if i = y.toNat % 64 then x.setWidth 32 else lane (u.me.vreg d) i), 3),
  (.viota d a f, true, false, (fun x _ i => x.setWidth 32 + BitVec.ofNat 32 i), 3),
  (.vflgr d f, false, false, (fun _ _ i => (u.me.vec.vf.extractLsb' (5 * i) 5).setWidth 32), 3)]

end Sys2Proof.Claims

/-- R129: the lane instructions complete with their lane in each active lane and the old one in every other; `VGETL` answers a lane,
sign-extended for i32, and `VFLGC` clears the flags of the active lanes. -/
def Sys2Proof.Claims.VectorLanes : Prop :=
  ∀ (d a b : Spec) (f : Form) (r : Raw) (s : State) (x y : Word),
    let u := s.entered r
    (∀ p ∈ laneTable u d a b f, Ready p.1 r s → unitFree u → (p.2.1 = true → u.reads f a = some x) →
      (p.2.2.1 = true → u.reads f b = some y) →
        ∃ t v, exec p.1 s = .next t ∧ Finished r s ((withVector (unitTaken u) d v (p.2.2.2.2 + unitLate u)).take s.cur r.taken) t ∧
          ∀ i < 64, lane v i = if active u f i then p.2.2.2.1 x y i else lane (u.me.vreg d) i) ∧
    (Ready (.vgetl d a b f) r s → unitFree u → u.reads f b = some y → u.canWrite f d →
      let l := lane (u.me.vreg a) (y.toNat % 64)
      ∃ t, exec (.vgetl d a b f) s = .next t ∧
        Finished r s (((unitTaken u).put f d (if f.ty 5 = 4 then l.signExtend 64 else l.setWidth 64) (3 + unitLate u)).take
          s.cur r.taken) t) ∧
    (Ready (.vflgc f) r s → unitFree u →
      ∃ t g w, exec (.vflgc f) s = .next t ∧
        Finished r s (((unitTaken u).modSlot s.cur fun z => { z with vec := { z.vec with vf := g }, avail := w }).take s.cur r.taken) t ∧
        ∀ i < 64, g.extractLsb' (5 * i) 5 = if active u f i then 0 else u.me.vec.vf.extractLsb' (5 * i) 5)

/-- R128, R129: reductions and lane instructions. -/
def Obligations.VectorReduceAndLanes : Prop := Claims.VectorReductions ∧ Claims.VectorLanes

namespace Sys2Proof.Claims

/-- The addresses of the lanes of `VLD` and `VST` (R117) from the base, with the stride where the words have one; of `VLDX`, `VSTX` and
`VATOM` (R121, R130) from the base and the index register, at an element size. -/
def lanesFrom (f : Form) (o : BitVec 12) (base stride : Word) (i e : Nat) : Word :=
  let off : Word := match f with
    | .base => o.signExtend 64
    | f => f.imm.signExtend 64
  base + off * 64 + (if f.xfn.getLsbD 3 then BitVec.ofNat 64 i * stride else BitVec.ofNat 64 (e * i))
def lanesIndexed (u : State) (b : Spec) (base : Word) (i e : Nat) : Word :=
  base + (lane (u.me.vreg b) i).signExtend 64 * BitVec.ofNat 64 e

/-- The vector loads and stores: whether one stores, and the addresses of its lanes. -/
def vectorMemTable (u : State) (d a b : Spec) (o : BitVec 12) (base stride : Word) (f : Form) :
    List (Instr × Bool × (Nat → Nat → Word)) := [
  (.vld d a o f, false, lanesFrom f o base stride), (.vst d a o f, true, lanesFrom f o base stride),
  (.vldx d a b f, false, lanesIndexed u b base), (.vstx d a b f, true, lanesIndexed u b base)]

end Sys2Proof.Claims

/-- R113, R117, R119, R121, R130: a vector load, store or atomic whose active lanes all have a target completes as an instruction with
one more access, which holds what each active lane reads or writes and changes no byte of memory before its turns; with no active lane
it does nothing at all. The model's choice in it: the address and alignment of a lane of a view (log entry 17) and the wait of a release
(log entry 56). -/
def Obligations.VectorMemory : Prop :=
  ∀ (d a b : Spec) (o : BitVec 12) (f : Form) (r : Raw) (s : State) (base stride : Word) (buf : Option (Nat × Nat)),
    let u := s.entered r
    let ty := f.ty 10
    let z := tySize ty
    (∀ p ∈ vectorMemTable u d a b o base stride f, Ready p.1 r s → u.baseAt f a p.2.1 = some (base, buf) →
      ((∃ i, p.1 = .vld d a i f ∨ p.1 = .vst d a i f) → f.xfn.getLsbD 3 = true → u.reads f f.c = some stride) →
      (∀ i < 64, active u f i = false) → unitFree u →
        ∃ t, exec p.1 s = .next t ∧ Finished r s ((unitTaken u).take s.cur r.taken) t) ∧
    (∀ p ∈ vectorMemTable u d a b o base stride f, Ready p.1 r s → u.baseAt f a p.2.1 = some (base, buf) →
      ((∃ i, p.1 = .vld d a i f ∨ p.1 = .vst d a i f) → f.xfn.getLsbD 3 = true → u.reads f f.c = some stride) →
      ∀ (ts : List (Nat × Word × Target)) (u' : State), ts ≠ [] →
      vecTargets f (if p.2.1 then .store else .load) ty z buf true p.2.2 u = .ok (ts, u') →
      u'.cur = s.cur → u'.me = u.me → Passes (vecGate ts z p.2.1) u' → (p.2.1 = true → Passes (releaseGate f.qual f.scope 1) u') →
      unitFree u' → Passes (vecWatch ts (if p.2.1 then 2 else 1) z) (unitTaken u') → u'.me.acc.length < 4 → (∀ q ∈ ts, q.2.2.view = 0 ∧ q.2.2.place.kind ≠ 4) →
        ∃ t g, exec p.1 s = .next t ∧ Finished r s (((unitTaken u').withAccess g).take s.cur r.taken) t ∧
          (∀ k, t.mem.read k = u'.mem.read k) ∧
          (p.2.1 = false → g.fin = .vload (d.toNat % 32) ty (u.me.kmask f.mask) 0 ∧
            ∀ q ∈ ts, ∃ m ∈ g.units, m.place = q.2.2.place.line ∧ Act.rd (4 * q.1) q.2.2.place.key z ∈ m.acts) ∧
          (p.2.1 = true → g.fin = .store ∧
            ∀ q ∈ ts, ∃ m ∈ g.units, m.place = q.2.2.place.line ∧ Act.wr q.2.2.place.key z (element u ty d q.1) ∈ m.acts)) ∧
    (∀ (w : BitVec 1) (p : BitVec 3), Ready (.vatom d a b w p f) r s → u.reads f a = some base → unitFree u →
      (∀ i < 64, active u f i = false) →
        ∃ t, exec (.vatom d a b w p f) s = .next t ∧ Finished r s ((unitTaken u).take s.cur r.taken) t) ∧
    (∀ (w : BitVec 1) (p : BitVec 3) (ts : List (Nat × Word × Target)) (u' : State), Ready (.vatom d a b w p f) r s →
      u.reads f a = some base → ts ≠ [] →
      let ty := f.ty (if p.toNat < 6 then 4 else if p.toNat = 6 then 10 else 9)
      vecTargets f .atomic ty 4 none false (fun i _ => lanesIndexed u b base i 4) u = .ok (ts, u') → u'.cur = s.cur → u'.me = u.me →
      Passes (vecGate ts 4 true) u' → unitFree u' → Passes (vecWatch ts 3 4) (unitTaken u') → u'.me.acc.length < 4 → (∀ q ∈ ts, q.2.2.place.kind ≠ 4) →
        ∃ t g, exec (.vatom d a b w p f) s = .next t ∧ Finished r s (((unitTaken u').withAccess g).take s.cur r.taken) t ∧
          (∀ k, t.mem.read k = u'.mem.read k) ∧
          g.fin = .vatom (if w = 1 then some (d.toNat % 32) else none) (u.me.kmask f.mask) ∧
          ∀ q ∈ ts, ∃ m ∈ g.units, m.place = q.2.2.place.line ∧
            ∃ op, Act.rmw (4 * q.1) q.2.2.place.key 4 op (lane (u.me.vreg (if f.ext?.isSome then f.c else d)) q.1).toNat 0 ∈ m.acts)

/-! ## Tiles, the matrix unit and matrix commands -/

namespace Sys2Proof.Claims

/-- Type, rows, columns and element bytes that the shape register of a tile gives it (R133). -/
def typeOf (u : State) (t : Spec) : Nat := shapeTy (u.me.shapeOf t)
def rowsOf (u : State) (t : Spec) : Nat := shapeRows (u.me.shapeOf t)
def colsOf (u : State) (t : Spec) : Nat := shapeCols (u.me.shapeOf t)
def bytesOf (u : State) (t : Spec) : Nat := tySize (typeOf u t)

/-- No accepted command of the slot is to write a tile, or is to read it (R136). -/
def readable (u : State) (t : Spec) : Prop := u.tileBusyR u.cur (t.toNat % 8) = false
def writable (u : State) (t : Spec) : Prop := u.tileBusyW u.cur (t.toNat % 8) = false

/-- Two tiles of one type and shape. -/
def sameShape (u : State) (a b : Spec) : Prop := typeOf u a = typeOf u b ∧ rowsOf u a = rowsOf u b ∧ colsOf u a = colsOf u b

/-- The unit has accepted a command (R135): it stands last in the unit's queue with the slot's number, the first one ends after its
cycles, and the cluster has paid for them. -/
def accepted (u : State) (c : UnitCmd) (weight : Nat) : State :=
  (u.takeCharge u.cur (weight * c.cycles)).modCore (slotCore u.cur) fun k =>
    { k with munit := k.munit ++ [{ c with
        slot := slotIdx u.cur, doneAt := if k.munit.isEmpty then u.cyc + c.cycles - 1 else 0 }] }

/-- The unit has room for a command, and the bucket covers it (R135, R327). -/
def accepts (u : State) (c : UnitCmd) (weight : Nat) : Prop :=
  (u.core (slotCore u.cur)).munit.length < 3 ∧ u.covers (weight * c.cycles) = true

/-- The quotient of two numbers rounded up. -/
def upTo (a b : Nat) : Nat := (a + b - 1) / b

end Sys2Proof.Claims

/-- R135, R142, R143, R145: the unit commands complete once the unit has accepted them, with their shapes, sources and cycles, before
any tile changes: a product of M by K by N elements in its M times K times N over 1,024, or over 2,048 for i8, cycles. -/
def Sys2Proof.Claims.TileCommands : Prop :=
  ∀ (d a b : Spec) (f : Form) (r : Raw) (s : State),
    let u := s.entered r
    let n (t : Spec) : Nat := t.toNat % 8
    let shape (t : Spec) : Word := u.me.shapeOf t
    (∀ (c : BitVec 1) (k : BitVec 2), Ready (.tmma d a b c k f) r s →
      let kind := k.toNat
      let cmd : UnitCmd :=
        { slot := 0, op := 0, d := n d, a := n a, b := n b, kind := kind, clr := decide (c = 1), q := f.quiet
          cycles := upTo (rowsOf u a * colsOf u a * colsOf u b) (if kind = 2 then 2048 else 1024), shapes := [shape d, shape a, shape b] }
      typeOf u a = (if kind = 0 then 9 else if kind = 1 then 8 else 0) → typeOf u b = typeOf u a →
      typeOf u d = (if kind = 2 then 4 else 10) → rowsOf u b = colsOf u a → rowsOf u d = rowsOf u a → colsOf u d = colsOf u b →
      d ≠ a → d ≠ b → readable u a → readable u b → writable u d → accepts u cmd (if kind = 2 then 36 else 40) →
        ∃ t, exec (.tmma d a b c k f) s = .next t ∧
          Finished r s ((accepted u cmd (if kind = 2 then 36 else 40)).take s.cur r.taken) t) ∧
    (Ready (.tzero d f) r s →
      let cmd : UnitCmd := { slot := 0, op := 1, d := n d, cycles := upTo (rowsOf u d * colsOf u d * bytesOf u d) 256, shapes := [shape d] }
      writable u d → accepts u cmd 8 →
        ∃ t, exec (.tzero d f) s = .next t ∧ Finished r s ((accepted u cmd 8).take s.cur r.taken) t) ∧
    (∀ v : Word, Ready (.tscale d a b f) r s → u.reads f b = some v →
      let cmd : UnitCmd :=
        { slot := 0, op := 2, d := n d, a := n a, q := f.quiet, rm := f.rm, x := v, cycles := upTo (rowsOf u d * colsOf u d) 64
          shapes := [shape d] }
      sameShape u a d → (typeOf u d = 10 ∨ typeOf u d = 4) → readable u a → writable u d → accepts u cmd 8 →
        ∃ t, exec (.tscale d a b f) s = .next t ∧ Finished r s ((accepted u cmd 8).take s.cur r.taken) t) ∧
    (Ready (.tadd d a b f) r s →
      let cmd : UnitCmd :=
        { slot := 0, op := 3, d := n d, a := n a, b := n b, q := f.quiet, rm := f.rm, cycles := upTo (rowsOf u d * colsOf u d) 64
          shapes := [shape d] }
      sameShape u a d → sameShape u b d → (typeOf u d = 10 ∨ typeOf u d = 4) → readable u a → readable u b → writable u d →
      accepts u cmd 8 →
        ∃ t, exec (.tadd d a b f) s = .next t ∧ Finished r s ((accepted u cmd 8).take s.cur r.taken) t) ∧
    (∀ (v p : Word) (bound : Nat) (u' : State), Ready (.tmask d a b f) r s → u.reads f a = some v → u.reads f b = some p →
      typeOf u d = 10 → v.toNat + rowsOf u d ≤ 0x40000 → localBound u = .ok (bound, u') → u'.cur = s.cur → u'.me = u.me →
      v.toNat + rowsOf u d ≤ bound →
      let place := localPlace (slotCore s.cur) v.toNat
      let parents := (u'.readBytes place.key (rowsOf u d)).map BitVec.toNat
      u'.ordered place u'.windowOrd (rowsOf u d) false = false → u'.portFree → u'.isPoisoned place (rowsOf u d) = false →
      (∀ i < rowsOf u d, ∀ q, parents[i]? = some q → q = 0xFF ∨ q < i) → Passes (checkWatch 1 v (rowsOf u d)) u'.portTaken →
      let cmd : UnitCmd :=
        { slot := 0, op := 4, d := n d, x := p, parents := parents, cycles := upTo (rowsOf u d * colsOf u d) 64 + 1, shapes := [shape d] }
      writable u' d → accepts u' cmd 8 →
        ∃ t, exec (.tmask d a b f) s = .next t ∧ Finished r s ((accepted u'.portTaken cmd 8).take s.cur r.taken) t)

namespace Sys2Proof.Claims

/-- An element of a tile (R132): its bytes, row by row, little-endian. -/
def tileAt (t : BitVec 32768) (cols bytes i j : Nat) : Nat := t.toNat / 256 ^ (bytes * (i * cols + j)) % 256 ^ bytes

/-- Saturation to i32, as a pattern (R142, R143). -/
def saturated (v : Int) : Nat := (BitVec.ofInt 32 (max (-(2 ^ 31)) (min (2 ^ 31 - 1) v))).toNat

/-- The parent relation of `TMASK` (R145): draft query `j` is the parent of draft query `i`. -/
def parentOf (p : List Nat) (i j : Nat) : Prop := p[i]? = some j ∧ j ≠ 0xFF

end Sys2Proof.Claims

/-- R142, R143, R145: what a unit command makes of its destination tile: `TZERO` zeroes it; `TSCALE` and `TADD` of an i32 tile
saturate; an i8 `TMMA` adds the exact sum of each group of eight products and saturates; `TMASK` keeps the prefix and the ancestors of
each draft query, and sets the rest to minus infinity; no other tile changes. -/
def Obligations.TileResults : Prop :=
  ∀ (x : Slot) (u : UnitCmd) (sd sa : Word),
    let rows := shapeRows sd
    let cols := shapeCols sd
    let y := x.runUnit u
    let old (t i j : Nat) : Nat := tileAt (x.tile t) cols 4 i j
    let new (i j : Nat) : Nat := tileAt (y.tile u.d) cols 4 i j
    let val (v : Nat) : Int := (BitVec.ofNat 32 v).toInt
    u.d < 8 → rows * cols * 4 ≤ 4096 →
      (∀ t < 8, t ≠ u.d → y.tile t = x.tile t) ∧
      (u.op = 1 → u.shapes = [sd] → shapeEb sd = 4 → ∀ i < rows, ∀ j < cols, new i j = 0) ∧
      (u.op = 2 → u.shapes = [sd] → shapeTy sd = 4 → ∀ i < rows, ∀ j < cols,
        new i j = saturated (val (old u.a i j) * val (u.x.toNat % 2 ^ 32))) ∧
      (u.op = 3 → u.shapes = [sd] → shapeTy sd = 4 → ∀ i < rows, ∀ j < cols,
        new i j = saturated (val (old u.a i j) + val (old u.b i j))) ∧
      (u.op = 3 → u.shapes = [sd] → shapeTy sd = 10 → ∀ i < rows, ∀ j < cols,
        new i j = (Fmt.f32.add u.rm (old u.a i j) (old u.b i j)).1) ∧
      (u.op = 0 → u.shapes.take 2 = [sd, sa] → u.kind = 2 → shapeTy sa = 0 → ∀ i < rows, ∀ j < cols,
        let kk := shapeCols sa
        let term (k : Nat) : Int := (BitVec.ofNat 8 (tileAt (x.tile u.a) kk 1 i k)).toInt * (BitVec.ofNat 8 (tileAt (x.tile u.b) cols 1 k j)).toInt
        new i j = (List.range ((kk + 7) / 8)).foldl
          (fun s g => saturated (val s + (((List.range kk).filter fun k => k / 8 = g).map term).sum))
          (if u.clr then 0 else old u.d i j)) ∧
      (u.op = 4 → u.shapes = [sd] → (∀ i q, u.parents[i]? = some q → q = 0xFF ∨ q < i) → ∀ i < rows, ∀ j < cols,
        let kept := j < u.x.toNat ∨ (j < u.x.toNat + rows ∧ Relation.ReflTransGen (parentOf u.parents) i (j - u.x.toNat))
        (kept → new i j = old u.d i j) ∧ (¬ kept → new i j = 0xFF800000))

/-- R137, R138, R140, R143, R144: `TLD` and `TST` whose elements all have a target complete as instructions with one more access that
reads or writes each of them, and change no byte of memory before its turns; a `TLD` of an empty extent zeroes the tile at once; `TGETR`
and `TPUTR` read and write eight bytes of a tile; `TWAIT` completes when the unit and the tiles are quiet. The model's choice in it: the
address of an element of a view (log entry 17). -/
def Obligations.TileAccesses : Prop :=
  ∀ (d a b : Spec) (f : Form) (r : Raw) (s : State) (base st : Word) (buf : Option (Nat × Nat)),
    let u := s.entered r
    let ea := base + f.imm.signExtend 64
    let rows := rowsOf u d
    let cols := colsOf u d
    (∀ (z g t : BitVec 1) (ext : Word) (u1 u2 : State) (ts : List (Nat × Word × Target)), Ready (.tld d a b z g t f) r s →
      u.baseAt f a false = some (base, buf) → u.reads f b = some st → (z = 1 → u.reads f f.c = some ext) → (z = 0 → ext = 0) →
      let e := bytesOf u d
      let vr := if z = 1 then (ext.extractLsb' 0 6).toNat else rows
      let vc := if z = 1 then (ext.extractLsb' 8 8).toNat else cols
      let pitch : Word := if st ≠ 0 then st else BitVec.ofNat 64 (if t = 1 then rows * e else cols * e)
      let place (i j : Nat) : Word :=
        if t = 1 then ea + BitVec.ofNat 64 j * pitch + BitVec.ofNat 64 (i * e) else ea + BitVec.ofNat 64 i * pitch + BitVec.ofNat 64 (j * e)
      let as := (List.range (rows * cols)).filterMap fun k =>
        if k / cols < vr ∧ k % cols < vc then some (k, place (k / cols) (k % cols)) else none
      tileView ea u = .ok (false, u1) → u1.cur = s.cur → u1.me = u.me → (t = 1 → (if g = 1 then 2 else 1) = e) →
      (z = 1 → vr ≤ 32 ∧ vc ≤ 128 ∧ ext.extractLsb' 16 48 = 0 ∧ ext.extractLsb' 6 2 = 0) →
      tileTargets .load (typeOf u d) e buf as u1 = .ok (ts, u2) → u2.cur = s.cur → u2.me = u.me → writable u2 d →
      Passes (vecGate ts e true) u2 → Passes (vecWatch ts 1 e) u2 →
        (ts = [] → ∃ t', exec (.tld d a b z g t f) s = .next t' ∧
          Finished r s ((u2.modSlot s.cur fun x => (x.setTile d.toNat (setTile (x.tile d.toNat) rows cols e fun _ _ => 0)).later
            (.tile (d.extractLsb' 0 3)) (u2.cyc + 3)).take s.cur r.taken) t') ∧
        (ts ≠ [] → u.me.acc.length < 4 → (u2.clu (slotClu s.cur)).jobs.length < 32 →
          (∀ q ∈ ts, q.2.2.view = 0 ∧ q.2.2.place.kind ≠ 4) →
          ∃ (t' w : State) (k : Access), exec (.tld d a b z g t f) s = .next t' ∧ Finished r s ((w.withAccess k).take s.cur r.taken) t' ∧ w.me = u.me ∧
            (∀ n, t'.mem.read n = u2.mem.read n) ∧ k.fin = .tload (d.toNat % 8) (typeOf u d) rows cols f.rm 0 ∧
            ∀ q ∈ ts, ∃ m ∈ k.units, m.place = q.2.2.place.line ∧ Act.rd (4 * q.1) q.2.2.place.key e ∈ m.acts)) ∧
    (∀ (u2 : State) (ts : List (Nat × Word × Target)), Ready (.tst d a b f) r s →
      u.baseAt f a true = some (base, buf) → u.reads f b = some st →
      let e := bytesOf u d
      let pitch : Word := if st ≠ 0 then st else BitVec.ofNat 64 (cols * e)
      let as := (List.range (rows * cols)).map fun k =>
        (k, ea + BitVec.ofNat 64 (k / cols) * pitch + BitVec.ofNat 64 (k % cols * e))
      tileTargets .store (typeOf u d) e buf as u = .ok (ts, u2) → u2.cur = s.cur → u2.me = u.me → readable u2 d →
      Passes (vecGate ts e true) u2 → Passes (vecWatch ts 2 e) u2 → u.me.acc.length < 4 → (u2.clu (slotClu s.cur)).jobs.length < 32 →
      (∀ q ∈ ts, q.2.2.place.kind ≠ 4) →
        ∃ (t' w : State) (k : Access), exec (.tst d a b f) s = .next t' ∧ Finished r s ((w.withAccess k).take s.cur r.taken) t' ∧ w.me = u.me ∧
          (∀ n, t'.mem.read n = u2.mem.read n) ∧ k.fin = .tstore none ∧
          ∀ q ∈ ts, ∃ m ∈ k.units, m.place = q.2.2.place.line ∧
            Act.wr q.2.2.place.key e (tileAt (u.me.tile d.toNat) cols e (q.1 / cols) (q.1 % cols)) ∈ m.acts) ∧
    (∀ o : Word, Ready (.tgetr d a b f) r s → u.reads f b = some o → o.toNat < 4096 → o.toNat % 8 = 0 → readable u a → u.canWrite f d →
      ∃ t, exec (.tgetr d a b f) s = .next t ∧
        Finished r s ((u.put f d ((u.me.tile a.toNat).extractLsb' (8 * o.toNat) 64) 3).take s.cur r.taken) t) ∧
    (∀ o v : Word, Ready (.tputr d a b f) r s → u.reads f a = some v → u.reads f b = some o → o.toNat < 4096 → o.toNat % 8 = 0 →
      writable u d →
      ∃ t y, exec (.tputr d a b f) s = .next t ∧
        Finished r s ((u.modSlot s.cur fun x => (x.setTile d.toNat y).later (.tile (d.extractLsb' 0 3)) (s.cyc + 3)).take s.cur r.taken) t ∧
        y.extractLsb' (8 * o.toNat) 64 = v ∧
        ∀ k, (k < 8 * o.toNat ∨ 8 * o.toNat + 64 ≤ k) → y.getLsbD k = (u.me.tile d.toNat).getLsbD k) ∧
    (Ready (.twait f) r s → u.tilesQuiet s.cur = true →
      ∃ t, exec (.twait f) s = .next t ∧ Finished r s (u.take s.cur r.taken) t)

/-- R150, R151: `TCMD` sends its capability and its command block to the core that the block names and stays at its address; it
completes once the answer has come. The model's choice in it: that another device accepts a command (log entry 13). -/
def Sys2Proof.Claims.MatrixCommand : Prop :=
  ∀ (a b : Spec) (f : Form) (r : Raw) (s u1 u2 : State) (ea cap : Word) (bound : Nat), Ready (.tcmd a b f) r s →
    let u := s.entered r
    (u.me.phase = 2 → ∃ t, exec (.tcmd a b f) s = .next t ∧ Finished r s (u.take s.cur r.taken) t) ∧
    (let key := (localPlace (slotCore s.cur) ea.toNat).key
      let g (i : Nat) : Word := BitVec.ofNat 64 (u1.readMem (key + 8 * i) 8)
      u.me.phase = 0 → u.reads f a = some ea → u.reads f b = some cap → ea.toNat % 32 = 0 → ea.toNat + 32 ≤ 0x40000 →
      localBound u = .ok (bound, u1) → ea.toNat + 32 ≤ bound → u1.cur = s.cur → u1.me = u.me →
      (carried ((g 1).setWidth 32)).isSome = true → (g 1).extractLsb' 35 5 = 0 → (g 1).extractLsb' 45 3 = 0 →
      (g 1).extractLsb' 48 16 = 0 → destCheck (g 0) false u1 = .ok ((), u2) → u2.cur = s.cur → u2.me = u.me → u2.net = s.net →
      u2.mem = s.mem → u2.isPoisoned (localPlace (slotCore s.cur) ea.toNat) 32 = false → u.me.storesDone = true →
      u2.ordered (localPlace (slotCore s.cur) ea.toNat) u2.windowOrd 32 false = false → Passes launchGate u2 → u2.portFree →
      Passes (checkWatch 1 ea 32) u2.portTaken → 0 < (u2.core (slotCore s.cur)).credits →
        ∃ t p, exec (.tcmd a b f) s = .next t ∧ t.net = s.net ++ [p] ∧ p.kind = 12 ∧ p.ddev = destDev (g 0) ∧ p.dst = destClu (g 0) ∧
          p.dep = destEp (g 0) ∧ p.ws = [cap, g 0, g 1, g 2, g 3, ea, s.me.pc] ∧ (t.slot s.cur).pc = s.me.pc ∧
          (t.slot s.cur).phase = 1 ∧ ∀ k, t.mem.read k = s.mem.read k)

/-- R135, R142, R143, R145, R150, R151: the tile commands, and TCMD. The model's choice in it: that another device accepts a command
(log entry 13). -/
def Obligations.TileCommandsAndMatrix : Prop := Claims.TileCommands ∧ Claims.MatrixCommand

/-! ## The machine as a whole -/

namespace Sys2Proof.Claims

/-- An instruction is the one of the same name as a step of the device, with the same operands. -/
def stepIs (e : Event) (i : Instr) : Prop :=
  match e with
  | .traceRecord die => i = .traceRecord die
  | .waypointRecord core => i = .waypointRecord core
  | .halt clu => i = .halt clu
  | .haltEvent clu why core slot => i = .haltEvent clu why core slot
  | .halted clu => i = .halted clu
  | .resume clu => i = .resume clu
  | .stepOne clu core slot => i = .stepOne clu core slot
  | .stepDone clu => i = .stepDone clu
  | .resync => i = .resync
  | .loadfw => i = .loadfw
  | .launch => i = .launch
  | .reset => i = .reset
  | .badOpcode => i = .badOpcode
  | .boot => i = .boot
  | .hostRead link off len => i = .hostRead link off len
  | .hostWrite link off data => i = .hostWrite link off data
  | .linkTraining n0 n1 n2 n3 hops => i = .linkTraining n0 n1 n2 n3 hops
  | .ptpLock t => i = .ptpLock t
  | .sliceInstant => i = .sliceInstant
  | .intervalBoundary => i = .intervalBoundary
  | .thermalCopy clu => i = .thermalCopy clu
  | .thermalRemap clu => i = .thermalRemap clu
  | .timerExpiry slot => i = .timerExpiry slot
  | .budgetExhausted clu region => i = .budgetExhausted clu region
  | .preemption slot reason => i = .preemption slot reason
  | .preemptSave slot => i = .preemptSave slot
  | .preemptEnqueue slot => i = .preemptEnqueue slot
  | .queueAging clu => i = .queueAging clu
  | .dispatch clu => i = .dispatch clu
  | .contextRestore slot part => i = .contextRestore slot part
  | .parkWake core => i = .parkWake core
  | .deposit pid => i = .deposit pid
  | .remoteCall pid => i = .remoteCall pid
  | .matrixCommand pid => i = .matrixCommand pid
  | .migrationArrival pid => i = .migrationArrival pid
  | .migrationResend pid => i = .migrationResend pid
  | .remoteAccess pid => i = .remoteAccess pid
  | .responseDelivery pid => i = .responseDelivery pid
  | .lossNotice pid => i = .lossNotice pid
  | .mcastDelivery pid => i = .mcastDelivery pid
  | .streamOpen pid => i = .streamOpen pid
  | .streamWord pid => i = .streamWord pid
  | .streamEnd pid => i = .streamEnd pid
  | .streamTimeout slot port => i = .streamTimeout slot port
  | .streamAbort pid => i = .streamAbort pid
  | .groupWatchdog slot => i = .groupWatchdog slot
  | .packetForward pid => i = .packetForward pid
  | .laneDrop clu dir => i = .laneDrop clu dir
  | .routerGate clu => i = .routerGate clu
  | .routerWake clu => i = .routerWake clu
  | .turnService slot acc => i = .turnService slot acc
  | .waitwReread slot => i = .waitwReread slot
  | .wheelSwap outer unit => i = .wheelSwap outer unit
  | .stripeCommit slot => i = .stripeCommit slot
  | .bldPass slot => i = .bldPass slot
  | .retirementSwap common unit => i = .retirementSwap common unit
  | .retirementDone common unit => i = .retirementDone common unit
  | .errorThreshold kind unit group bank => i = .errorThreshold kind unit group bank
  | .bankLoss common unit group bank => i = .bankLoss common unit group bank
  | .scrub clu bank => i = .scrub clu bank
  | .dramRequest chan => i = .dramRequest chan
  | .refreshWindow chan => i = .refreshWindow chan
  | .copyTransferStart clu ch => i = .copyTransferStart clu ch
  | .copyLine clu ch => i = .copyLine clu ch
  | .copyStamp clu ch => i = .copyStamp clu ch
  | .chainHop clu ch => i = .chainHop clu ch
  | .copyStop clu ch cause => i = .copyStop clu ch cause
  | .footprintRelease clu job => i = .footprintRelease clu job
  | .kvcommitHoldEnd slot => i = .kvcommitHoldEnd slot
  | .unitCommand core => i = .unitCommand core
  | .isochronePass clu => i = .isochronePass clu
  | .fetchServe clu => i = .fetchServe clu
  | .icacheRefill block => i = .icacheRefill block
  | .tableWalk walk => i = .tableWalk walk
  | .reportTaken slot => i = .reportTaken slot
  | .escalation slot => i = .escalation slot
  | .bindRecordWrite clu idx val => i = .bindRecordWrite clu idx val
  | .wearRotation clu core => i = .wearRotation clu core
  | .uncorrectableError key => i = .uncorrectableError key

/-- The word of a thread's code that its fetch buffer holds at an address (R63). -/
def codeWord (s : State) (va : Word) : Option Word32 :=
  (s.me.fetched va s.cyc).map fun b => BitVec.ofNat 32 (b / 2 ^ (8 * (va.toNat % 64)))

/-- The first words of an instruction of some families, from the spec's encodings (R24, R28, R41), and what they stand for. -/
def wordTable : List (List Word32 × Instr) := [
  ([0x1E240000], .isclaim 9 .base), ([0x350420C0], .kvcommit 1 2 3 .base), ([0x1C000080], .fence 2 0 0 .base),
  ([0x10009005], .wpset 9 .base), ([0x100000C6], .semwait 3 .base), ([0x10000147], .sempost 5 .base),
  ([0x18001002], .wturn 1 .base), ([0x330C4145], .tmask 3 4 5 .base),
  ([0x470C0000, 0x12345678, 0x9ABCDEF0], .movi 3 0 (.lit 0x9ABCDEF012345678)),
  ([0b00_000001_000011_000100_000101_000001], .sub 3 4 5 .base), ([0b00_000010_000001_000010_111111_111111], .addi 1 2 (-1) .base)]

/-- The same of the filter's words (R312). -/
def filterWords : List (BitVec 16 × Instr) := [
  (0x0220, .ldf 1 2), (0x8205, .jne 1 0 5), (0xB000, .keep), (0xA000, .cnt 0), (0xC000, .drop), (0xD001, .trig 1), (0xE123, .mark 0x123),
  (0x1FFF, .ldi 7 0x1FF), (0x2940, .filterAdd 4 5), (0x6A3F, .filterShr 5 0x3F)]

/-- What every step keeps: the memory of the device, and the host's, in their one canonical form. -/
def Inv (s : State) : Prop := s.mem.wf = true ∧ s.host.wf = true

end Sys2Proof.Claims

/-- R27, R45, R63, R311: when the words that a thread's fetch buffer holds from its program counter on decode to an instruction that a
thread of its class may issue, the step of the machine at that slot's turn is `exec` of that instruction, the current slot being that
one, and the slot is examined again where a waiting instruction has completed; where the base word alone is illegal, or needs another
class, the step takes cause 0x01. The same of a filter's word, and of a step of the device that is due. The model's choice in it: that a
step is one instruction or one event of a cycle (log entry 12). -/
def Obligations.StepRunsInstruction : Prop :=
  (∀ (s : State) (n : Nat) (ns : List Nat) (w : Word32),
    s.agenda = [] → s.frun = [] → s.sched = n :: ns → n < again →
    let u : State := { s with sched := ns, cur := n }
    let legal := baseIllegal w = false ∧ ∀ c, (baseRaw w).needsClass = some c → c = u.me.cls
    u.mayIssue n = true → (u.core (slotCore n)).issued = false ∨ u.me.hasIssued = true → codeWord u u.me.pc = some w →
    (∀ (ws : List Word32) (i : Instr) (l : Nat), legal → ws.length + 1 = lenWords (lenOf w) →
      (∀ k : Fin ws.length, codeWord u (u.me.pc + BitVec.ofNat 64 (4 * (k.val + 1))) = some ws[k]) →
      decodeWords (w :: ws) = some (i, l) →
        step s = exec i { u with sched := if u.completedWait n then (n + again) :: ns else ns }) ∧
    (¬ legal → u.me.trap.tmode = false →
      ∃ t, step s = .next t ∧ (t.slot n).trap.tmode = true ∧ (t.slot n).trap.tepc = u.me.pc ∧
        (t.slot n).trap.trec0.extractLsb' 0 8 = 1 ∧ (t.slot n).trap.trec1 = u.me.pc ∧ (t.slot n).trap.trec3 = w.setWidth 64 ∧
        (t.slot n).pc = (s.clu (slotClu n)).trapbase + 64)) ∧
  (∀ (s : State) (d : Nat) (ds : List Nat) (r : FilterRun) (i : Instr), s.agenda = [] → s.frun = d :: ds → (s.die d).run = some r →
    decodeFilter (((s.die d).fmem[r.idx]?).getD 0) = some i → step s = exec i { s with frun := ds, fdie := d }) ∧
  ∀ (s : State) (e : Event) (l : List Event) (i : Instr), s.agenda = e :: l → stepIs e i → step s = exec i { s with agenda := l }

/-- R24, R28, R41, R312: some words of several families, written from the spec's encodings, decode to the instructions that they stand
for. -/
def Obligations.WordsDecode : Prop :=
  (∀ p ∈ wordTable, decodeWords p.1 = some (p.2, p.1.length)) ∧ ∀ p ∈ filterWords, decodeFilter p.1 = some p.2

/-- R14, R66, R68, R105, R214, R261, R274, R297, R302: what reset leaves, as the spec gives it: no thread, the counters at zero, the
default wheels, the semaphores, shared registers and barriers at zero, the array free; and the invariant holds. -/
def Obligations.ResetState : Prop :=
  let s := State.reset
  Inv s ∧ s.cyc = 0 ∧ (∀ n, (s.slot n).live = false) ∧ (∀ a, s.mem.read a = Memory.unlisted) ∧
  (∀ c, (s.core c).sems = Vector.replicate 16 0 ∧ (s.core c).s = Vector.replicate 4 0) ∧
  (∀ c, (s.clu c).bars = [] ∧ (s.clu c).iso.holder = none ∧ (s.clu c).iso.lastRegion = none ∧ (s.clu c).thermlim = 100 ∧
    (s.clu c).dbg.dwell = 4 ∧ (∀ row, (s.clu c).counter row = 0) ∧ (s.clu c).wheel.base = 0 ∧ (s.clu c).wheel.len = 18 ∧
    ∀ e < 18, ∀ b < 16, (s.clu c).wheel.holds b e = (b + e) % 18) ∧
  (∀ d, (s.die d).wheel.base = 0 ∧ (s.die d).wheel.len = 32 ∧ (s.die d).wheel.dwell = 18 ∧
    ∀ f < 32, ∀ c < 32, (s.die d).wheel.holds c (18 * f) = (c + f) % 32) ∧
  ∀ i, s.privt[i]? = if i < 8 then some 0 else none

/-- R24 to R42, R75, R312: decoding agrees with encoding: every well-formed instruction, with every operand, is what its own words decode to, and
words that decode are those of the well-formed instruction that they decode to. -/
def Obligations.DecodeEncode : Prop :=
  (∀ i : Instr, i.wf = true → decodeWords (encode i) = some (i, (encode i).length)) ∧
  (∀ i : Instr, i.filterWf = true → ∃ w, encodeFilter i = some w ∧ decodeFilter w = some i) ∧
  (∀ (ws : List Word32) (i : Instr) (n : Nat), decodeWords ws = some (i, n) → i.wf = true ∧ encode i = ws.take n) ∧
  ∀ (w : BitVec 16) (i : Instr), decodeFilter w = some i → i.filterWf = true ∧ encodeFilter i = some w

/-- Every step keeps the canonical form of memory: equal memories are equal data in every state that a run reaches. The form is the
model's own (log entry 1). -/
def Obligations.StepKeepsMemoryForm : Prop := ∀ s t : State, Inv s → step s = .next t → Inv t
end

