-- ==== Sys2Proof/Laws/Map.lean ====
section
/-! SUPPORT. Laws of finite maps and of byte memory: a read after a write, a read elsewhere, and the canonical form. -/

namespace Sys2Proof

/-! ## Maps -/

theorem SMap.get_set_self {α : Type} (d : α) (m : SMap α) (k : Nat) (v : α) : SMap.get d (SMap.set m k v) k = v := by
  fun_induction SMap.set m k v <;> simp_all [SMap.get]
  omega

theorem SMap.get_set_of_ne {α : Type} (d : α) (m : SMap α) {k n : Nat} (v : α) (h : n ≠ k) :
    SMap.get d (SMap.set m k v) n = SMap.get d m n := by
  fun_induction SMap.set m k v <;> simp_all [SMap.get, Ne.symm h]

theorem vmod_get_self {α : Type} {n : Nat} (v : Vector α n) (i : Nat) (f : α → α) (h : i < n) : (vmod v i f)[i] = f v[i] := by
  simp [vmod, h]

theorem vmod_get_of_ne {α : Type} {n : Nat} (v : Vector α n) {i j : Nat} (f : α → α) (hj : j < n) (h : j ≠ i) :
    (vmod v i f)[j] = v[j] := by
  unfold vmod
  split
  · rw [Vector.getElem_set_ne _ _ (Ne.symm h)]
  · rfl

/-! ## The canonical form of memory -/

/-- What the canonical form says of a list with a first entry. -/
@[simp] theorem Memory.wfFrom_cons (lo j : Nat) (v : Byte) (m : Memory) :
    Memory.wfFrom lo ((j, v) :: m) = true ↔ lo ≤ j ∧ v ≠ Memory.unlisted ∧ Memory.wfFrom (j + 1) m = true := by
  simp [Memory.wfFrom, and_assoc]

@[simp] theorem Memory.wfFrom_nil (lo : Nat) : Memory.wfFrom lo [] = true := rfl

theorem Memory.wfFrom_mono {m : Memory} {lo lo' : Nat} (h : Memory.wfFrom lo m = true) (hl : lo' ≤ lo) :
    Memory.wfFrom lo' m = true := by
  match m with
  | [] => rfl
  | (j, v) :: m => rw [Memory.wfFrom_cons] at h ⊢; exact ⟨Nat.le_trans hl h.1, h.2⟩

theorem Memory.wfFrom_drop {m : Memory} {lo k : Nat} (h : Memory.wfFrom lo m = true) :
    Memory.wfFrom lo (m.drop k) = true := by
  fun_induction Memory.drop m k generalizing lo <;> simp_all
  exact Memory.wfFrom_mono h.2.2 (by omega)

theorem Memory.wfFrom_put {m : Memory} {lo k : Nat} {v : Byte} (h : Memory.wfFrom lo m = true) (hk : lo ≤ k)
    (hv : v ≠ Memory.unlisted) : Memory.wfFrom lo (m.put k v) = true := by
  fun_induction Memory.put m k v generalizing lo <;> simp_all
  rename_i ih
  exact ih h.2.2 (by omega)

/-- A write of one byte keeps the canonical form. -/
theorem Memory.wf_write {m : Memory} (h : m.wf = true) (k : Nat) (v : Byte) : (m.write k v).wf = true := by
  unfold Memory.write
  split
  · exact Memory.wfFrom_drop h
  · exact Memory.wfFrom_put h (Nat.zero_le _) ‹_›

/-- A little-endian write keeps the canonical form. -/
theorem Memory.wf_writeLE {m : Memory} (h : m.wf = true) (a v n : Nat) : (m.writeLE a v n).wf = true := by
  induction n generalizing m a v with
  | zero => exact h
  | succ n ih => exact ih (Memory.wf_write h _ _) _ _

/-- A write of bytes keeps the canonical form. -/
theorem Memory.wf_writeBytes {m : Memory} (h : m.wf = true) (a : Nat) (bs : List Byte) : (m.writeBytes a bs).wf = true := by
  induction bs generalizing m a with
  | nil => exact h
  | cons b bs ih => exact ih (Memory.wf_write h _ _) _

/-! ## Reads and writes -/

theorem Memory.read_put_self (m : Memory) (k : Nat) (v : Byte) : (m.put k v).read k = v := by
  fun_induction Memory.put m k v <;> simp_all [Memory.read]
  omega

theorem Memory.read_put_of_ne (m : Memory) {k a : Nat} (v : Byte) (h : a ≠ k) : (m.put k v).read a = m.read a := by
  fun_induction Memory.put m k v <;> simp_all [Memory.read, Ne.symm h]

theorem Memory.read_of_lt {m : Memory} {lo a : Nat} (h : Memory.wfFrom lo m = true) (ha : a < lo) :
    m.read a = Memory.unlisted := by
  fun_induction Memory.read m a generalizing lo <;> simp_all
  · omega
  · rename_i ih; exact ih h.2.2 (by omega)

theorem Memory.read_drop_self {m : Memory} {lo k : Nat} (h : Memory.wfFrom lo m = true) :
    (m.drop k).read k = Memory.unlisted := by
  fun_induction Memory.drop m k generalizing lo <;> simp_all [Memory.read]
  · exact Memory.read_of_lt h.2.2 (Nat.lt_succ_self _)
  · rw [if_neg (by omega)]
    exact Memory.read_of_lt h.2.2 (by omega)
  · rename_i ih
    rw [if_neg (by omega)]
    exact ih h.2.2

theorem Memory.read_drop_of_ne (m : Memory) {k a : Nat} (h : a ≠ k) : (m.drop k).read a = m.read a := by
  fun_induction Memory.drop m k <;> simp_all [Memory.read, Ne.symm h]

/-- A read after a write to the same address gives the byte written. -/
theorem Memory.read_write_self {m : Memory} (h : m.wf = true) (k : Nat) (v : Byte) : (m.write k v).read k = v := by
  unfold Memory.write
  split
  · rename_i hv
    rw [hv]
    exact Memory.read_drop_self h
  · exact Memory.read_put_self m k v

/-- A write leaves every other address alone. -/
theorem Memory.read_write_of_ne (m : Memory) {k a : Nat} (v : Byte) (h : a ≠ k) : (m.write k v).read a = m.read a := by
  unfold Memory.write
  split
  · exact Memory.read_drop_of_ne m h
  · exact Memory.read_put_of_ne m v h

/-- A little-endian write leaves every address outside its bytes alone. -/
theorem Memory.read_writeLE_of_outside (m : Memory) (k v n a : Nat) (h : a < k ∨ k + n ≤ a) :
    (m.writeLE k v n).read a = m.read a := by
  induction n generalizing m k v with
  | zero => rfl
  | succ n ih =>
    have h1 : a ≠ k := by omega
    simp only [Memory.writeLE]
    rw [ih (m.write k (BitVec.ofNat 8 v)) (k + 1) (v / 256) (by omega), Memory.read_write_of_ne m _ h1]

/-- A write of bytes leaves every address outside them alone. -/
theorem Memory.read_writeBytes_of_outside (m : Memory) (k : Nat) (bs : List Byte) (a : Nat)
    (h : a < k ∨ k + bs.length ≤ a) : (m.writeBytes k bs).read a = m.read a := by
  induction bs generalizing m k with
  | nil => rfl
  | cons b bs ih =>
    simp only [List.length_cons] at h
    have h1 : a ≠ k := by omega
    simp only [Memory.writeBytes]
    rw [ih (m.write k b) (k + 1) (by omega), Memory.read_write_of_ne m _ h1]

theorem Memory.readLE_lt (m : Memory) (a n : Nat) : m.readLE a n < 256 ^ n := by
  induction n generalizing a with
  | zero => simp [Memory.readLE]
  | succ n ih =>
    have h1 := ih (a + 1)
    have h2 := (m.read a).isLt
    simp only [Memory.readLE, Nat.pow_succ]
    omega

/-- A little-endian read after a little-endian write of as many bytes gives the number back, modulo the width. -/
theorem Memory.readLE_writeLE {m : Memory} (h : m.wf = true) (k v n : Nat) :
    (m.writeLE k v n).readLE k n = v % 256 ^ n := by
  induction n generalizing m k v with
  | zero => simp [Memory.readLE, Nat.mod_one]
  | succ n ih =>
    simp only [Memory.writeLE, Memory.readLE]
    have hw := Memory.wf_write h k (BitVec.ofNat 8 v)
    rw [ih hw (k + 1) (v / 256), Memory.read_writeLE_of_outside _ _ _ _ _ (Or.inl (Nat.lt_succ_self k)),
      Memory.read_write_self h]
    have e : v % (256 * 256 ^ n) = v % 256 + 256 * (v / 256 % 256 ^ n) := Nat.mod_mul
    rw [Nat.pow_succ' (m := 256), e, BitVec.toNat_ofNat]

end Sys2Proof
end

