-- ==== Sys2Proof/Laws/State.lean ====
section
/-! SUPPORT. One lemma per field per update of the state and of a slot, each true by unfolding, so that no proof unfolds a record
update. -/

namespace Sys2Proof.Machine

/-! ## Units of the state -/

@[simp] theorem State.modSlot_eq (s : State) (n : Nat) (f : Slot → Slot) : s.modSlot n f = s.setSlot n (f (s.slot n)) := rfl
@[simp] theorem State.modCore_eq (s : State) (n : Nat) (f : Core → Core) : s.modCore n f = s.setCore n (f (s.core n)) := rfl
@[simp] theorem State.modClu_eq (s : State) (n : Nat) (f : Cluster → Cluster) : s.modClu n f = s.setClu n (f (s.clu n)) := rfl
@[simp] theorem State.modDie_eq (s : State) (n : Nat) (f : Die → Die) : s.modDie n f = s.setDie n (f (s.die n)) := rfl
@[simp] theorem State.modDram_eq (s : State) (n : Nat) (f : Dram → Dram) : s.modDram n f = s.setDram n (f (s.dram n)) := rfl


theorem State.slot_setSlot (s : State) (n k : Nat) (x : Slot) : (s.setSlot n x).slot k = if k = n then x else s.slot k := by
  unfold State.slot State.setSlot
  split
  · subst_vars
    exact SMap.get_set_self _ _ _ _
  · exact SMap.get_set_of_ne _ _ _ ‹_›

@[simp] theorem State.slot_setSlot_self (s : State) (n : Nat) (x : Slot) : (s.setSlot n x).slot n = x := by
  simp [State.slot_setSlot]

@[simp] theorem State.slot_setSlot_of_ne (s : State) (n k : Nat) (x : Slot) (h : k ≠ n) : (s.setSlot n x).slot k = s.slot k := by
  simp [State.slot_setSlot, h]

@[simp] theorem State.core_setSlot (s : State) (n k : Nat) (x : Slot) : (s.setSlot n x).core k = s.core k := rfl
@[simp] theorem State.clu_setSlot (s : State) (n k : Nat) (x : Slot) : (s.setSlot n x).clu k = s.clu k := rfl
@[simp] theorem State.die_setSlot (s : State) (n k : Nat) (x : Slot) : (s.setSlot n x).die k = s.die k := rfl
@[simp] theorem State.dram_setSlot (s : State) (n k : Nat) (x : Slot) : (s.setSlot n x).dram k = s.dram k := rfl
@[simp] theorem State.setSlot_cyc (s : State) (n : Nat) (x : Slot) : (s.setSlot n x).cyc = s.cyc := rfl
@[simp] theorem State.setSlot_mem (s : State) (n : Nat) (x : Slot) : (s.setSlot n x).mem = s.mem := rfl
@[simp] theorem State.setSlot_poison (s : State) (n : Nat) (x : Slot) : (s.setSlot n x).poison = s.poison := rfl
@[simp] theorem State.setSlot_cores (s : State) (n : Nat) (x : Slot) : (s.setSlot n x).cores = s.cores := rfl
@[simp] theorem State.setSlot_clus (s : State) (n : Nat) (x : Slot) : (s.setSlot n x).clus = s.clus := rfl
@[simp] theorem State.setSlot_dies (s : State) (n : Nat) (x : Slot) : (s.setSlot n x).dies = s.dies := rfl
@[simp] theorem State.setSlot_chans (s : State) (n : Nat) (x : Slot) : (s.setSlot n x).chans = s.chans := rfl
@[simp] theorem State.setSlot_net (s : State) (n : Nat) (x : Slot) : (s.setSlot n x).net = s.net := rfl
@[simp] theorem State.setSlot_pidNext (s : State) (n : Nat) (x : Slot) : (s.setSlot n x).pidNext = s.pidNext := rfl
@[simp] theorem State.setSlot_lanes (s : State) (n : Nat) (x : Slot) : (s.setSlot n x).lanes = s.lanes := rfl
@[simp] theorem State.setSlot_streams (s : State) (n : Nat) (x : Slot) : (s.setSlot n x).streams = s.streams := rfl
@[simp] theorem State.setSlot_linkFaults (s : State) (n : Nat) (x : Slot) : (s.setSlot n x).linkFaults = s.linkFaults := rfl
@[simp] theorem State.setSlot_dir (s : State) (n : Nat) (x : Slot) : (s.setSlot n x).dir = s.dir := rfl
@[simp] theorem State.setSlot_effs (s : State) (n : Nat) (x : Slot) : (s.setSlot n x).effs = s.effs := rfl
@[simp] theorem State.setSlot_bads (s : State) (n : Nat) (x : Slot) : (s.setSlot n x).bads = s.bads := rfl
@[simp] theorem State.setSlot_badNew (s : State) (n : Nat) (x : Slot) : (s.setSlot n x).badNew = s.badNew := rfl
@[simp] theorem State.setSlot_device (s : State) (n : Nat) (x : Slot) : (s.setSlot n x).device = s.device := rfl
@[simp] theorem State.setSlot_fabValid (s : State) (n : Nat) (x : Slot) : (s.setSlot n x).fabValid = s.fabValid := rfl
@[simp] theorem State.setSlot_fabN (s : State) (n : Nat) (x : Slot) : (s.setSlot n x).fabN = s.fabN := rfl
@[simp] theorem State.setSlot_locked (s : State) (n : Nat) (x : Slot) : (s.setSlot n x).locked = s.locked := rfl
@[simp] theorem State.setSlot_timeOff (s : State) (n : Nat) (x : Slot) : (s.setSlot n x).timeOff = s.timeOff := rfl
@[simp] theorem State.setSlot_sliceLen (s : State) (n : Nat) (x : Slot) : (s.setSlot n x).sliceLen = s.sliceLen := rfl
@[simp] theorem State.setSlot_sliceCnt (s : State) (n : Nat) (x : Slot) : (s.setSlot n x).sliceCnt = s.sliceCnt := rfl
@[simp] theorem State.setSlot_slicePend (s : State) (n : Nat) (x : Slot) : (s.setSlot n x).slicePend = s.slicePend := rfl
@[simp] theorem State.setSlot_sliceIn (s : State) (n : Nat) (x : Slot) : (s.setSlot n x).sliceIn = s.sliceIn := rfl
@[simp] theorem State.setSlot_slice (s : State) (n : Nat) (x : Slot) : (s.setSlot n x).slice = s.slice := rfl
@[simp] theorem State.setSlot_sliceNext (s : State) (n : Nat) (x : Slot) : (s.setSlot n x).sliceNext = s.sliceNext := rfl
@[simp] theorem State.setSlot_privt (s : State) (n : Nat) (x : Slot) : (s.setSlot n x).privt = s.privt := rfl
@[simp] theorem State.setSlot_fwid (s : State) (n : Nat) (x : Slot) : (s.setSlot n x).fwid = s.fwid := rfl
@[simp] theorem State.setSlot_bootstat (s : State) (n : Nat) (x : Slot) : (s.setSlot n x).bootstat = s.bootstat := rfl
@[simp] theorem State.setSlot_image (s : State) (n : Nat) (x : Slot) : (s.setSlot n x).image = s.image := rfl
@[simp] theorem State.setSlot_resets (s : State) (n : Nat) (x : Slot) : (s.setSlot n x).resets = s.resets := rfl
@[simp] theorem State.setSlot_mbox (s : State) (n : Nat) (x : Slot) : (s.setSlot n x).mbox = s.mbox := rfl
@[simp] theorem State.setSlot_msix (s : State) (n : Nat) (x : Slot) : (s.setSlot n x).msix = s.msix := rfl
@[simp] theorem State.setSlot_host (s : State) (n : Nat) (x : Slot) : (s.setSlot n x).host = s.host := rfl
@[simp] theorem State.setSlot_hostBad (s : State) (n : Nat) (x : Slot) : (s.setSlot n x).hostBad = s.hostBad := rfl
@[simp] theorem State.setSlot_hostRead (s : State) (n : Nat) (x : Slot) : (s.setSlot n x).hostRead = s.hostRead := rfl
@[simp] theorem State.setSlot_hostOps (s : State) (n : Nat) (x : Slot) : (s.setSlot n x).hostOps = s.hostOps := rfl
@[simp] theorem State.setSlot_hostNext (s : State) (n : Nat) (x : Slot) : (s.setSlot n x).hostNext = s.hostNext := rfl
@[simp] theorem State.setSlot_mgmt (s : State) (n : Nat) (x : Slot) : (s.setSlot n x).mgmt = s.mgmt := rfl
@[simp] theorem State.setSlot_agenda (s : State) (n : Nat) (x : Slot) : (s.setSlot n x).agenda = s.agenda := rfl
@[simp] theorem State.setSlot_inputs (s : State) (n : Nat) (x : Slot) : (s.setSlot n x).inputs = s.inputs := rfl
@[simp] theorem State.setSlot_sched (s : State) (n : Nat) (x : Slot) : (s.setSlot n x).sched = s.sched := rfl
@[simp] theorem State.setSlot_cur (s : State) (n : Nat) (x : Slot) : (s.setSlot n x).cur = s.cur := rfl
@[simp] theorem State.setSlot_fdie (s : State) (n : Nat) (x : Slot) : (s.setSlot n x).fdie = s.fdie := rfl
@[simp] theorem State.setSlot_contNext (s : State) (n : Nat) (x : Slot) : (s.setSlot n x).contNext = s.contNext := rfl
@[simp] theorem State.setSlot_stage (s : State) (n : Nat) (x : Slot) : (s.setSlot n x).stage = s.stage := rfl
@[simp] theorem State.setSlot_setcs (s : State) (n : Nat) (x : Slot) : (s.setSlot n x).setcs = s.setcs := rfl
@[simp] theorem State.setSlot_frun (s : State) (n : Nat) (x : Slot) : (s.setSlot n x).frun = s.frun := rfl
@[simp] theorem State.setSlot_turned (s : State) (n : Nat) (x : Slot) : (s.setSlot n x).turned = s.turned := rfl

theorem State.core_setCore (s : State) (n k : Nat) (x : Core) : (s.setCore n x).core k = if k = n then x else s.core k := by
  unfold State.core State.setCore
  split
  · subst_vars
    exact SMap.get_set_self _ _ _ _
  · exact SMap.get_set_of_ne _ _ _ ‹_›

@[simp] theorem State.core_setCore_self (s : State) (n : Nat) (x : Core) : (s.setCore n x).core n = x := by
  simp [State.core_setCore]

@[simp] theorem State.core_setCore_of_ne (s : State) (n k : Nat) (x : Core) (h : k ≠ n) : (s.setCore n x).core k = s.core k := by
  simp [State.core_setCore, h]

@[simp] theorem State.slot_setCore (s : State) (n k : Nat) (x : Core) : (s.setCore n x).slot k = s.slot k := rfl
@[simp] theorem State.clu_setCore (s : State) (n k : Nat) (x : Core) : (s.setCore n x).clu k = s.clu k := rfl
@[simp] theorem State.die_setCore (s : State) (n k : Nat) (x : Core) : (s.setCore n x).die k = s.die k := rfl
@[simp] theorem State.dram_setCore (s : State) (n k : Nat) (x : Core) : (s.setCore n x).dram k = s.dram k := rfl
@[simp] theorem State.setCore_cyc (s : State) (n : Nat) (x : Core) : (s.setCore n x).cyc = s.cyc := rfl
@[simp] theorem State.setCore_mem (s : State) (n : Nat) (x : Core) : (s.setCore n x).mem = s.mem := rfl
@[simp] theorem State.setCore_poison (s : State) (n : Nat) (x : Core) : (s.setCore n x).poison = s.poison := rfl
@[simp] theorem State.setCore_slots (s : State) (n : Nat) (x : Core) : (s.setCore n x).slots = s.slots := rfl
@[simp] theorem State.setCore_clus (s : State) (n : Nat) (x : Core) : (s.setCore n x).clus = s.clus := rfl
@[simp] theorem State.setCore_dies (s : State) (n : Nat) (x : Core) : (s.setCore n x).dies = s.dies := rfl
@[simp] theorem State.setCore_chans (s : State) (n : Nat) (x : Core) : (s.setCore n x).chans = s.chans := rfl
@[simp] theorem State.setCore_net (s : State) (n : Nat) (x : Core) : (s.setCore n x).net = s.net := rfl
@[simp] theorem State.setCore_pidNext (s : State) (n : Nat) (x : Core) : (s.setCore n x).pidNext = s.pidNext := rfl
@[simp] theorem State.setCore_lanes (s : State) (n : Nat) (x : Core) : (s.setCore n x).lanes = s.lanes := rfl
@[simp] theorem State.setCore_streams (s : State) (n : Nat) (x : Core) : (s.setCore n x).streams = s.streams := rfl
@[simp] theorem State.setCore_linkFaults (s : State) (n : Nat) (x : Core) : (s.setCore n x).linkFaults = s.linkFaults := rfl
@[simp] theorem State.setCore_dir (s : State) (n : Nat) (x : Core) : (s.setCore n x).dir = s.dir := rfl
@[simp] theorem State.setCore_effs (s : State) (n : Nat) (x : Core) : (s.setCore n x).effs = s.effs := rfl
@[simp] theorem State.setCore_bads (s : State) (n : Nat) (x : Core) : (s.setCore n x).bads = s.bads := rfl
@[simp] theorem State.setCore_badNew (s : State) (n : Nat) (x : Core) : (s.setCore n x).badNew = s.badNew := rfl
@[simp] theorem State.setCore_device (s : State) (n : Nat) (x : Core) : (s.setCore n x).device = s.device := rfl
@[simp] theorem State.setCore_fabValid (s : State) (n : Nat) (x : Core) : (s.setCore n x).fabValid = s.fabValid := rfl
@[simp] theorem State.setCore_fabN (s : State) (n : Nat) (x : Core) : (s.setCore n x).fabN = s.fabN := rfl
@[simp] theorem State.setCore_locked (s : State) (n : Nat) (x : Core) : (s.setCore n x).locked = s.locked := rfl
@[simp] theorem State.setCore_timeOff (s : State) (n : Nat) (x : Core) : (s.setCore n x).timeOff = s.timeOff := rfl
@[simp] theorem State.setCore_sliceLen (s : State) (n : Nat) (x : Core) : (s.setCore n x).sliceLen = s.sliceLen := rfl
@[simp] theorem State.setCore_sliceCnt (s : State) (n : Nat) (x : Core) : (s.setCore n x).sliceCnt = s.sliceCnt := rfl
@[simp] theorem State.setCore_slicePend (s : State) (n : Nat) (x : Core) : (s.setCore n x).slicePend = s.slicePend := rfl
@[simp] theorem State.setCore_sliceIn (s : State) (n : Nat) (x : Core) : (s.setCore n x).sliceIn = s.sliceIn := rfl
@[simp] theorem State.setCore_slice (s : State) (n : Nat) (x : Core) : (s.setCore n x).slice = s.slice := rfl
@[simp] theorem State.setCore_sliceNext (s : State) (n : Nat) (x : Core) : (s.setCore n x).sliceNext = s.sliceNext := rfl
@[simp] theorem State.setCore_privt (s : State) (n : Nat) (x : Core) : (s.setCore n x).privt = s.privt := rfl
@[simp] theorem State.setCore_fwid (s : State) (n : Nat) (x : Core) : (s.setCore n x).fwid = s.fwid := rfl
@[simp] theorem State.setCore_bootstat (s : State) (n : Nat) (x : Core) : (s.setCore n x).bootstat = s.bootstat := rfl
@[simp] theorem State.setCore_image (s : State) (n : Nat) (x : Core) : (s.setCore n x).image = s.image := rfl
@[simp] theorem State.setCore_resets (s : State) (n : Nat) (x : Core) : (s.setCore n x).resets = s.resets := rfl
@[simp] theorem State.setCore_mbox (s : State) (n : Nat) (x : Core) : (s.setCore n x).mbox = s.mbox := rfl
@[simp] theorem State.setCore_msix (s : State) (n : Nat) (x : Core) : (s.setCore n x).msix = s.msix := rfl
@[simp] theorem State.setCore_host (s : State) (n : Nat) (x : Core) : (s.setCore n x).host = s.host := rfl
@[simp] theorem State.setCore_hostBad (s : State) (n : Nat) (x : Core) : (s.setCore n x).hostBad = s.hostBad := rfl
@[simp] theorem State.setCore_hostRead (s : State) (n : Nat) (x : Core) : (s.setCore n x).hostRead = s.hostRead := rfl
@[simp] theorem State.setCore_hostOps (s : State) (n : Nat) (x : Core) : (s.setCore n x).hostOps = s.hostOps := rfl
@[simp] theorem State.setCore_hostNext (s : State) (n : Nat) (x : Core) : (s.setCore n x).hostNext = s.hostNext := rfl
@[simp] theorem State.setCore_mgmt (s : State) (n : Nat) (x : Core) : (s.setCore n x).mgmt = s.mgmt := rfl
@[simp] theorem State.setCore_agenda (s : State) (n : Nat) (x : Core) : (s.setCore n x).agenda = s.agenda := rfl
@[simp] theorem State.setCore_inputs (s : State) (n : Nat) (x : Core) : (s.setCore n x).inputs = s.inputs := rfl
@[simp] theorem State.setCore_sched (s : State) (n : Nat) (x : Core) : (s.setCore n x).sched = s.sched := rfl
@[simp] theorem State.setCore_cur (s : State) (n : Nat) (x : Core) : (s.setCore n x).cur = s.cur := rfl
@[simp] theorem State.setCore_fdie (s : State) (n : Nat) (x : Core) : (s.setCore n x).fdie = s.fdie := rfl
@[simp] theorem State.setCore_contNext (s : State) (n : Nat) (x : Core) : (s.setCore n x).contNext = s.contNext := rfl
@[simp] theorem State.setCore_stage (s : State) (n : Nat) (x : Core) : (s.setCore n x).stage = s.stage := rfl
@[simp] theorem State.setCore_setcs (s : State) (n : Nat) (x : Core) : (s.setCore n x).setcs = s.setcs := rfl
@[simp] theorem State.setCore_frun (s : State) (n : Nat) (x : Core) : (s.setCore n x).frun = s.frun := rfl
@[simp] theorem State.setCore_turned (s : State) (n : Nat) (x : Core) : (s.setCore n x).turned = s.turned := rfl

theorem State.clu_setClu (s : State) (n k : Nat) (x : Cluster) : (s.setClu n x).clu k = if k = n then x else s.clu k := by
  unfold State.clu State.setClu
  split
  · subst_vars
    exact SMap.get_set_self _ _ _ _
  · exact SMap.get_set_of_ne _ _ _ ‹_›

@[simp] theorem State.clu_setClu_self (s : State) (n : Nat) (x : Cluster) : (s.setClu n x).clu n = x := by
  simp [State.clu_setClu]

@[simp] theorem State.clu_setClu_of_ne (s : State) (n k : Nat) (x : Cluster) (h : k ≠ n) : (s.setClu n x).clu k = s.clu k := by
  simp [State.clu_setClu, h]

@[simp] theorem State.slot_setClu (s : State) (n k : Nat) (x : Cluster) : (s.setClu n x).slot k = s.slot k := rfl
@[simp] theorem State.core_setClu (s : State) (n k : Nat) (x : Cluster) : (s.setClu n x).core k = s.core k := rfl
@[simp] theorem State.die_setClu (s : State) (n k : Nat) (x : Cluster) : (s.setClu n x).die k = s.die k := rfl
@[simp] theorem State.dram_setClu (s : State) (n k : Nat) (x : Cluster) : (s.setClu n x).dram k = s.dram k := rfl
@[simp] theorem State.setClu_cyc (s : State) (n : Nat) (x : Cluster) : (s.setClu n x).cyc = s.cyc := rfl
@[simp] theorem State.setClu_mem (s : State) (n : Nat) (x : Cluster) : (s.setClu n x).mem = s.mem := rfl
@[simp] theorem State.setClu_poison (s : State) (n : Nat) (x : Cluster) : (s.setClu n x).poison = s.poison := rfl
@[simp] theorem State.setClu_slots (s : State) (n : Nat) (x : Cluster) : (s.setClu n x).slots = s.slots := rfl
@[simp] theorem State.setClu_cores (s : State) (n : Nat) (x : Cluster) : (s.setClu n x).cores = s.cores := rfl
@[simp] theorem State.setClu_dies (s : State) (n : Nat) (x : Cluster) : (s.setClu n x).dies = s.dies := rfl
@[simp] theorem State.setClu_chans (s : State) (n : Nat) (x : Cluster) : (s.setClu n x).chans = s.chans := rfl
@[simp] theorem State.setClu_net (s : State) (n : Nat) (x : Cluster) : (s.setClu n x).net = s.net := rfl
@[simp] theorem State.setClu_pidNext (s : State) (n : Nat) (x : Cluster) : (s.setClu n x).pidNext = s.pidNext := rfl
@[simp] theorem State.setClu_lanes (s : State) (n : Nat) (x : Cluster) : (s.setClu n x).lanes = s.lanes := rfl
@[simp] theorem State.setClu_streams (s : State) (n : Nat) (x : Cluster) : (s.setClu n x).streams = s.streams := rfl
@[simp] theorem State.setClu_linkFaults (s : State) (n : Nat) (x : Cluster) : (s.setClu n x).linkFaults = s.linkFaults := rfl
@[simp] theorem State.setClu_dir (s : State) (n : Nat) (x : Cluster) : (s.setClu n x).dir = s.dir := rfl
@[simp] theorem State.setClu_effs (s : State) (n : Nat) (x : Cluster) : (s.setClu n x).effs = s.effs := rfl
@[simp] theorem State.setClu_bads (s : State) (n : Nat) (x : Cluster) : (s.setClu n x).bads = s.bads := rfl
@[simp] theorem State.setClu_badNew (s : State) (n : Nat) (x : Cluster) : (s.setClu n x).badNew = s.badNew := rfl
@[simp] theorem State.setClu_device (s : State) (n : Nat) (x : Cluster) : (s.setClu n x).device = s.device := rfl
@[simp] theorem State.setClu_fabValid (s : State) (n : Nat) (x : Cluster) : (s.setClu n x).fabValid = s.fabValid := rfl
@[simp] theorem State.setClu_fabN (s : State) (n : Nat) (x : Cluster) : (s.setClu n x).fabN = s.fabN := rfl
@[simp] theorem State.setClu_locked (s : State) (n : Nat) (x : Cluster) : (s.setClu n x).locked = s.locked := rfl
@[simp] theorem State.setClu_timeOff (s : State) (n : Nat) (x : Cluster) : (s.setClu n x).timeOff = s.timeOff := rfl
@[simp] theorem State.setClu_sliceLen (s : State) (n : Nat) (x : Cluster) : (s.setClu n x).sliceLen = s.sliceLen := rfl
@[simp] theorem State.setClu_sliceCnt (s : State) (n : Nat) (x : Cluster) : (s.setClu n x).sliceCnt = s.sliceCnt := rfl
@[simp] theorem State.setClu_slicePend (s : State) (n : Nat) (x : Cluster) : (s.setClu n x).slicePend = s.slicePend := rfl
@[simp] theorem State.setClu_sliceIn (s : State) (n : Nat) (x : Cluster) : (s.setClu n x).sliceIn = s.sliceIn := rfl
@[simp] theorem State.setClu_slice (s : State) (n : Nat) (x : Cluster) : (s.setClu n x).slice = s.slice := rfl
@[simp] theorem State.setClu_sliceNext (s : State) (n : Nat) (x : Cluster) : (s.setClu n x).sliceNext = s.sliceNext := rfl
@[simp] theorem State.setClu_privt (s : State) (n : Nat) (x : Cluster) : (s.setClu n x).privt = s.privt := rfl
@[simp] theorem State.setClu_fwid (s : State) (n : Nat) (x : Cluster) : (s.setClu n x).fwid = s.fwid := rfl
@[simp] theorem State.setClu_bootstat (s : State) (n : Nat) (x : Cluster) : (s.setClu n x).bootstat = s.bootstat := rfl
@[simp] theorem State.setClu_image (s : State) (n : Nat) (x : Cluster) : (s.setClu n x).image = s.image := rfl
@[simp] theorem State.setClu_resets (s : State) (n : Nat) (x : Cluster) : (s.setClu n x).resets = s.resets := rfl
@[simp] theorem State.setClu_mbox (s : State) (n : Nat) (x : Cluster) : (s.setClu n x).mbox = s.mbox := rfl
@[simp] theorem State.setClu_msix (s : State) (n : Nat) (x : Cluster) : (s.setClu n x).msix = s.msix := rfl
@[simp] theorem State.setClu_host (s : State) (n : Nat) (x : Cluster) : (s.setClu n x).host = s.host := rfl
@[simp] theorem State.setClu_hostBad (s : State) (n : Nat) (x : Cluster) : (s.setClu n x).hostBad = s.hostBad := rfl
@[simp] theorem State.setClu_hostRead (s : State) (n : Nat) (x : Cluster) : (s.setClu n x).hostRead = s.hostRead := rfl
@[simp] theorem State.setClu_hostOps (s : State) (n : Nat) (x : Cluster) : (s.setClu n x).hostOps = s.hostOps := rfl
@[simp] theorem State.setClu_hostNext (s : State) (n : Nat) (x : Cluster) : (s.setClu n x).hostNext = s.hostNext := rfl
@[simp] theorem State.setClu_mgmt (s : State) (n : Nat) (x : Cluster) : (s.setClu n x).mgmt = s.mgmt := rfl
@[simp] theorem State.setClu_agenda (s : State) (n : Nat) (x : Cluster) : (s.setClu n x).agenda = s.agenda := rfl
@[simp] theorem State.setClu_inputs (s : State) (n : Nat) (x : Cluster) : (s.setClu n x).inputs = s.inputs := rfl
@[simp] theorem State.setClu_sched (s : State) (n : Nat) (x : Cluster) : (s.setClu n x).sched = s.sched := rfl
@[simp] theorem State.setClu_cur (s : State) (n : Nat) (x : Cluster) : (s.setClu n x).cur = s.cur := rfl
@[simp] theorem State.setClu_fdie (s : State) (n : Nat) (x : Cluster) : (s.setClu n x).fdie = s.fdie := rfl
@[simp] theorem State.setClu_contNext (s : State) (n : Nat) (x : Cluster) : (s.setClu n x).contNext = s.contNext := rfl
@[simp] theorem State.setClu_stage (s : State) (n : Nat) (x : Cluster) : (s.setClu n x).stage = s.stage := rfl
@[simp] theorem State.setClu_setcs (s : State) (n : Nat) (x : Cluster) : (s.setClu n x).setcs = s.setcs := rfl
@[simp] theorem State.setClu_frun (s : State) (n : Nat) (x : Cluster) : (s.setClu n x).frun = s.frun := rfl
@[simp] theorem State.setClu_turned (s : State) (n : Nat) (x : Cluster) : (s.setClu n x).turned = s.turned := rfl

theorem State.die_setDie (s : State) (n k : Nat) (x : Die) : (s.setDie n x).die k = if k = n then x else s.die k := by
  unfold State.die State.setDie
  split
  · subst_vars
    exact SMap.get_set_self _ _ _ _
  · exact SMap.get_set_of_ne _ _ _ ‹_›

@[simp] theorem State.die_setDie_self (s : State) (n : Nat) (x : Die) : (s.setDie n x).die n = x := by
  simp [State.die_setDie]

@[simp] theorem State.die_setDie_of_ne (s : State) (n k : Nat) (x : Die) (h : k ≠ n) : (s.setDie n x).die k = s.die k := by
  simp [State.die_setDie, h]

@[simp] theorem State.slot_setDie (s : State) (n k : Nat) (x : Die) : (s.setDie n x).slot k = s.slot k := rfl
@[simp] theorem State.core_setDie (s : State) (n k : Nat) (x : Die) : (s.setDie n x).core k = s.core k := rfl
@[simp] theorem State.clu_setDie (s : State) (n k : Nat) (x : Die) : (s.setDie n x).clu k = s.clu k := rfl
@[simp] theorem State.dram_setDie (s : State) (n k : Nat) (x : Die) : (s.setDie n x).dram k = s.dram k := rfl
@[simp] theorem State.setDie_cyc (s : State) (n : Nat) (x : Die) : (s.setDie n x).cyc = s.cyc := rfl
@[simp] theorem State.setDie_mem (s : State) (n : Nat) (x : Die) : (s.setDie n x).mem = s.mem := rfl
@[simp] theorem State.setDie_poison (s : State) (n : Nat) (x : Die) : (s.setDie n x).poison = s.poison := rfl
@[simp] theorem State.setDie_slots (s : State) (n : Nat) (x : Die) : (s.setDie n x).slots = s.slots := rfl
@[simp] theorem State.setDie_cores (s : State) (n : Nat) (x : Die) : (s.setDie n x).cores = s.cores := rfl
@[simp] theorem State.setDie_clus (s : State) (n : Nat) (x : Die) : (s.setDie n x).clus = s.clus := rfl
@[simp] theorem State.setDie_chans (s : State) (n : Nat) (x : Die) : (s.setDie n x).chans = s.chans := rfl
@[simp] theorem State.setDie_net (s : State) (n : Nat) (x : Die) : (s.setDie n x).net = s.net := rfl
@[simp] theorem State.setDie_pidNext (s : State) (n : Nat) (x : Die) : (s.setDie n x).pidNext = s.pidNext := rfl
@[simp] theorem State.setDie_lanes (s : State) (n : Nat) (x : Die) : (s.setDie n x).lanes = s.lanes := rfl
@[simp] theorem State.setDie_streams (s : State) (n : Nat) (x : Die) : (s.setDie n x).streams = s.streams := rfl
@[simp] theorem State.setDie_linkFaults (s : State) (n : Nat) (x : Die) : (s.setDie n x).linkFaults = s.linkFaults := rfl
@[simp] theorem State.setDie_dir (s : State) (n : Nat) (x : Die) : (s.setDie n x).dir = s.dir := rfl
@[simp] theorem State.setDie_effs (s : State) (n : Nat) (x : Die) : (s.setDie n x).effs = s.effs := rfl
@[simp] theorem State.setDie_bads (s : State) (n : Nat) (x : Die) : (s.setDie n x).bads = s.bads := rfl
@[simp] theorem State.setDie_badNew (s : State) (n : Nat) (x : Die) : (s.setDie n x).badNew = s.badNew := rfl
@[simp] theorem State.setDie_device (s : State) (n : Nat) (x : Die) : (s.setDie n x).device = s.device := rfl
@[simp] theorem State.setDie_fabValid (s : State) (n : Nat) (x : Die) : (s.setDie n x).fabValid = s.fabValid := rfl
@[simp] theorem State.setDie_fabN (s : State) (n : Nat) (x : Die) : (s.setDie n x).fabN = s.fabN := rfl
@[simp] theorem State.setDie_locked (s : State) (n : Nat) (x : Die) : (s.setDie n x).locked = s.locked := rfl
@[simp] theorem State.setDie_timeOff (s : State) (n : Nat) (x : Die) : (s.setDie n x).timeOff = s.timeOff := rfl
@[simp] theorem State.setDie_sliceLen (s : State) (n : Nat) (x : Die) : (s.setDie n x).sliceLen = s.sliceLen := rfl
@[simp] theorem State.setDie_sliceCnt (s : State) (n : Nat) (x : Die) : (s.setDie n x).sliceCnt = s.sliceCnt := rfl
@[simp] theorem State.setDie_slicePend (s : State) (n : Nat) (x : Die) : (s.setDie n x).slicePend = s.slicePend := rfl
@[simp] theorem State.setDie_sliceIn (s : State) (n : Nat) (x : Die) : (s.setDie n x).sliceIn = s.sliceIn := rfl
@[simp] theorem State.setDie_slice (s : State) (n : Nat) (x : Die) : (s.setDie n x).slice = s.slice := rfl
@[simp] theorem State.setDie_sliceNext (s : State) (n : Nat) (x : Die) : (s.setDie n x).sliceNext = s.sliceNext := rfl
@[simp] theorem State.setDie_privt (s : State) (n : Nat) (x : Die) : (s.setDie n x).privt = s.privt := rfl
@[simp] theorem State.setDie_fwid (s : State) (n : Nat) (x : Die) : (s.setDie n x).fwid = s.fwid := rfl
@[simp] theorem State.setDie_bootstat (s : State) (n : Nat) (x : Die) : (s.setDie n x).bootstat = s.bootstat := rfl
@[simp] theorem State.setDie_image (s : State) (n : Nat) (x : Die) : (s.setDie n x).image = s.image := rfl
@[simp] theorem State.setDie_resets (s : State) (n : Nat) (x : Die) : (s.setDie n x).resets = s.resets := rfl
@[simp] theorem State.setDie_mbox (s : State) (n : Nat) (x : Die) : (s.setDie n x).mbox = s.mbox := rfl
@[simp] theorem State.setDie_msix (s : State) (n : Nat) (x : Die) : (s.setDie n x).msix = s.msix := rfl
@[simp] theorem State.setDie_host (s : State) (n : Nat) (x : Die) : (s.setDie n x).host = s.host := rfl
@[simp] theorem State.setDie_hostBad (s : State) (n : Nat) (x : Die) : (s.setDie n x).hostBad = s.hostBad := rfl
@[simp] theorem State.setDie_hostRead (s : State) (n : Nat) (x : Die) : (s.setDie n x).hostRead = s.hostRead := rfl
@[simp] theorem State.setDie_hostOps (s : State) (n : Nat) (x : Die) : (s.setDie n x).hostOps = s.hostOps := rfl
@[simp] theorem State.setDie_hostNext (s : State) (n : Nat) (x : Die) : (s.setDie n x).hostNext = s.hostNext := rfl
@[simp] theorem State.setDie_mgmt (s : State) (n : Nat) (x : Die) : (s.setDie n x).mgmt = s.mgmt := rfl
@[simp] theorem State.setDie_agenda (s : State) (n : Nat) (x : Die) : (s.setDie n x).agenda = s.agenda := rfl
@[simp] theorem State.setDie_inputs (s : State) (n : Nat) (x : Die) : (s.setDie n x).inputs = s.inputs := rfl
@[simp] theorem State.setDie_sched (s : State) (n : Nat) (x : Die) : (s.setDie n x).sched = s.sched := rfl
@[simp] theorem State.setDie_cur (s : State) (n : Nat) (x : Die) : (s.setDie n x).cur = s.cur := rfl
@[simp] theorem State.setDie_fdie (s : State) (n : Nat) (x : Die) : (s.setDie n x).fdie = s.fdie := rfl
@[simp] theorem State.setDie_contNext (s : State) (n : Nat) (x : Die) : (s.setDie n x).contNext = s.contNext := rfl
@[simp] theorem State.setDie_stage (s : State) (n : Nat) (x : Die) : (s.setDie n x).stage = s.stage := rfl
@[simp] theorem State.setDie_setcs (s : State) (n : Nat) (x : Die) : (s.setDie n x).setcs = s.setcs := rfl
@[simp] theorem State.setDie_frun (s : State) (n : Nat) (x : Die) : (s.setDie n x).frun = s.frun := rfl
@[simp] theorem State.setDie_turned (s : State) (n : Nat) (x : Die) : (s.setDie n x).turned = s.turned := rfl

theorem State.dram_setDram (s : State) (n k : Nat) (x : Dram) : (s.setDram n x).dram k = if k = n then x else s.dram k := by
  unfold State.dram State.setDram
  split
  · subst_vars
    exact SMap.get_set_self _ _ _ _
  · exact SMap.get_set_of_ne _ _ _ ‹_›

@[simp] theorem State.dram_setDram_self (s : State) (n : Nat) (x : Dram) : (s.setDram n x).dram n = x := by
  simp [State.dram_setDram]

@[simp] theorem State.dram_setDram_of_ne (s : State) (n k : Nat) (x : Dram) (h : k ≠ n) : (s.setDram n x).dram k = s.dram k := by
  simp [State.dram_setDram, h]

@[simp] theorem State.slot_setDram (s : State) (n k : Nat) (x : Dram) : (s.setDram n x).slot k = s.slot k := rfl
@[simp] theorem State.core_setDram (s : State) (n k : Nat) (x : Dram) : (s.setDram n x).core k = s.core k := rfl
@[simp] theorem State.clu_setDram (s : State) (n k : Nat) (x : Dram) : (s.setDram n x).clu k = s.clu k := rfl
@[simp] theorem State.die_setDram (s : State) (n k : Nat) (x : Dram) : (s.setDram n x).die k = s.die k := rfl
@[simp] theorem State.setDram_cyc (s : State) (n : Nat) (x : Dram) : (s.setDram n x).cyc = s.cyc := rfl
@[simp] theorem State.setDram_mem (s : State) (n : Nat) (x : Dram) : (s.setDram n x).mem = s.mem := rfl
@[simp] theorem State.setDram_poison (s : State) (n : Nat) (x : Dram) : (s.setDram n x).poison = s.poison := rfl
@[simp] theorem State.setDram_slots (s : State) (n : Nat) (x : Dram) : (s.setDram n x).slots = s.slots := rfl
@[simp] theorem State.setDram_cores (s : State) (n : Nat) (x : Dram) : (s.setDram n x).cores = s.cores := rfl
@[simp] theorem State.setDram_clus (s : State) (n : Nat) (x : Dram) : (s.setDram n x).clus = s.clus := rfl
@[simp] theorem State.setDram_dies (s : State) (n : Nat) (x : Dram) : (s.setDram n x).dies = s.dies := rfl
@[simp] theorem State.setDram_net (s : State) (n : Nat) (x : Dram) : (s.setDram n x).net = s.net := rfl
@[simp] theorem State.setDram_pidNext (s : State) (n : Nat) (x : Dram) : (s.setDram n x).pidNext = s.pidNext := rfl
@[simp] theorem State.setDram_lanes (s : State) (n : Nat) (x : Dram) : (s.setDram n x).lanes = s.lanes := rfl
@[simp] theorem State.setDram_streams (s : State) (n : Nat) (x : Dram) : (s.setDram n x).streams = s.streams := rfl
@[simp] theorem State.setDram_linkFaults (s : State) (n : Nat) (x : Dram) : (s.setDram n x).linkFaults = s.linkFaults := rfl
@[simp] theorem State.setDram_dir (s : State) (n : Nat) (x : Dram) : (s.setDram n x).dir = s.dir := rfl
@[simp] theorem State.setDram_effs (s : State) (n : Nat) (x : Dram) : (s.setDram n x).effs = s.effs := rfl
@[simp] theorem State.setDram_bads (s : State) (n : Nat) (x : Dram) : (s.setDram n x).bads = s.bads := rfl
@[simp] theorem State.setDram_badNew (s : State) (n : Nat) (x : Dram) : (s.setDram n x).badNew = s.badNew := rfl
@[simp] theorem State.setDram_device (s : State) (n : Nat) (x : Dram) : (s.setDram n x).device = s.device := rfl
@[simp] theorem State.setDram_fabValid (s : State) (n : Nat) (x : Dram) : (s.setDram n x).fabValid = s.fabValid := rfl
@[simp] theorem State.setDram_fabN (s : State) (n : Nat) (x : Dram) : (s.setDram n x).fabN = s.fabN := rfl
@[simp] theorem State.setDram_locked (s : State) (n : Nat) (x : Dram) : (s.setDram n x).locked = s.locked := rfl
@[simp] theorem State.setDram_timeOff (s : State) (n : Nat) (x : Dram) : (s.setDram n x).timeOff = s.timeOff := rfl
@[simp] theorem State.setDram_sliceLen (s : State) (n : Nat) (x : Dram) : (s.setDram n x).sliceLen = s.sliceLen := rfl
@[simp] theorem State.setDram_sliceCnt (s : State) (n : Nat) (x : Dram) : (s.setDram n x).sliceCnt = s.sliceCnt := rfl
@[simp] theorem State.setDram_slicePend (s : State) (n : Nat) (x : Dram) : (s.setDram n x).slicePend = s.slicePend := rfl
@[simp] theorem State.setDram_sliceIn (s : State) (n : Nat) (x : Dram) : (s.setDram n x).sliceIn = s.sliceIn := rfl
@[simp] theorem State.setDram_slice (s : State) (n : Nat) (x : Dram) : (s.setDram n x).slice = s.slice := rfl
@[simp] theorem State.setDram_sliceNext (s : State) (n : Nat) (x : Dram) : (s.setDram n x).sliceNext = s.sliceNext := rfl
@[simp] theorem State.setDram_privt (s : State) (n : Nat) (x : Dram) : (s.setDram n x).privt = s.privt := rfl
@[simp] theorem State.setDram_fwid (s : State) (n : Nat) (x : Dram) : (s.setDram n x).fwid = s.fwid := rfl
@[simp] theorem State.setDram_bootstat (s : State) (n : Nat) (x : Dram) : (s.setDram n x).bootstat = s.bootstat := rfl
@[simp] theorem State.setDram_image (s : State) (n : Nat) (x : Dram) : (s.setDram n x).image = s.image := rfl
@[simp] theorem State.setDram_resets (s : State) (n : Nat) (x : Dram) : (s.setDram n x).resets = s.resets := rfl
@[simp] theorem State.setDram_mbox (s : State) (n : Nat) (x : Dram) : (s.setDram n x).mbox = s.mbox := rfl
@[simp] theorem State.setDram_msix (s : State) (n : Nat) (x : Dram) : (s.setDram n x).msix = s.msix := rfl
@[simp] theorem State.setDram_host (s : State) (n : Nat) (x : Dram) : (s.setDram n x).host = s.host := rfl
@[simp] theorem State.setDram_hostBad (s : State) (n : Nat) (x : Dram) : (s.setDram n x).hostBad = s.hostBad := rfl
@[simp] theorem State.setDram_hostRead (s : State) (n : Nat) (x : Dram) : (s.setDram n x).hostRead = s.hostRead := rfl
@[simp] theorem State.setDram_hostOps (s : State) (n : Nat) (x : Dram) : (s.setDram n x).hostOps = s.hostOps := rfl
@[simp] theorem State.setDram_hostNext (s : State) (n : Nat) (x : Dram) : (s.setDram n x).hostNext = s.hostNext := rfl
@[simp] theorem State.setDram_mgmt (s : State) (n : Nat) (x : Dram) : (s.setDram n x).mgmt = s.mgmt := rfl
@[simp] theorem State.setDram_agenda (s : State) (n : Nat) (x : Dram) : (s.setDram n x).agenda = s.agenda := rfl
@[simp] theorem State.setDram_inputs (s : State) (n : Nat) (x : Dram) : (s.setDram n x).inputs = s.inputs := rfl
@[simp] theorem State.setDram_sched (s : State) (n : Nat) (x : Dram) : (s.setDram n x).sched = s.sched := rfl
@[simp] theorem State.setDram_cur (s : State) (n : Nat) (x : Dram) : (s.setDram n x).cur = s.cur := rfl
@[simp] theorem State.setDram_fdie (s : State) (n : Nat) (x : Dram) : (s.setDram n x).fdie = s.fdie := rfl
@[simp] theorem State.setDram_contNext (s : State) (n : Nat) (x : Dram) : (s.setDram n x).contNext = s.contNext := rfl
@[simp] theorem State.setDram_stage (s : State) (n : Nat) (x : Dram) : (s.setDram n x).stage = s.stage := rfl
@[simp] theorem State.setDram_setcs (s : State) (n : Nat) (x : Dram) : (s.setDram n x).setcs = s.setcs := rfl
@[simp] theorem State.setDram_frun (s : State) (n : Nat) (x : Dram) : (s.setDram n x).frun = s.frun := rfl
@[simp] theorem State.setDram_turned (s : State) (n : Nat) (x : Dram) : (s.setDram n x).turned = s.turned := rfl

@[simp] theorem State.me_setSlot_cur (s : State) (x : Slot) : (s.setSlot s.cur x).me = x := State.slot_setSlot_self s s.cur x
@[simp] theorem State.me_setCore (s : State) (n : Nat) (x : Core) : (s.setCore n x).me = s.me := rfl
@[simp] theorem State.me_setClu (s : State) (n : Nat) (x : Cluster) : (s.setClu n x).me = s.me := rfl
@[simp] theorem State.me_setDie (s : State) (n : Nat) (x : Die) : (s.setDie n x).me = s.me := rfl
@[simp] theorem State.me_setDram (s : State) (n : Nat) (x : Dram) : (s.setDram n x).me = s.me := rfl

/-! ## Memory -/

@[simp] theorem State.me_writeMem (s : State) (k v n : Nat) : (s.writeMem k v n).me = s.me := rfl
@[simp] theorem State.slot_writeMem (s : State) (k v n : Nat) (j : Nat) : (s.writeMem k v n).slot j = s.slot j := rfl
@[simp] theorem State.core_writeMem (s : State) (k v n : Nat) (j : Nat) : (s.writeMem k v n).core j = s.core j := rfl
@[simp] theorem State.clu_writeMem (s : State) (k v n : Nat) (j : Nat) : (s.writeMem k v n).clu j = s.clu j := rfl
@[simp] theorem State.die_writeMem (s : State) (k v n : Nat) (j : Nat) : (s.writeMem k v n).die j = s.die j := rfl
@[simp] theorem State.dram_writeMem (s : State) (k v n : Nat) (j : Nat) : (s.writeMem k v n).dram j = s.dram j := rfl
@[simp] theorem State.writeMem_cyc (s : State) (k v n : Nat) : (s.writeMem k v n).cyc = s.cyc := rfl
@[simp] theorem State.writeMem_poison (s : State) (k v n : Nat) : (s.writeMem k v n).poison = s.poison := rfl
@[simp] theorem State.writeMem_slots (s : State) (k v n : Nat) : (s.writeMem k v n).slots = s.slots := rfl
@[simp] theorem State.writeMem_cores (s : State) (k v n : Nat) : (s.writeMem k v n).cores = s.cores := rfl
@[simp] theorem State.writeMem_clus (s : State) (k v n : Nat) : (s.writeMem k v n).clus = s.clus := rfl
@[simp] theorem State.writeMem_dies (s : State) (k v n : Nat) : (s.writeMem k v n).dies = s.dies := rfl
@[simp] theorem State.writeMem_chans (s : State) (k v n : Nat) : (s.writeMem k v n).chans = s.chans := rfl
@[simp] theorem State.writeMem_net (s : State) (k v n : Nat) : (s.writeMem k v n).net = s.net := rfl
@[simp] theorem State.writeMem_pidNext (s : State) (k v n : Nat) : (s.writeMem k v n).pidNext = s.pidNext := rfl
@[simp] theorem State.writeMem_lanes (s : State) (k v n : Nat) : (s.writeMem k v n).lanes = s.lanes := rfl
@[simp] theorem State.writeMem_streams (s : State) (k v n : Nat) : (s.writeMem k v n).streams = s.streams := rfl
@[simp] theorem State.writeMem_linkFaults (s : State) (k v n : Nat) : (s.writeMem k v n).linkFaults = s.linkFaults := rfl
@[simp] theorem State.writeMem_dir (s : State) (k v n : Nat) : (s.writeMem k v n).dir = s.dir := rfl
@[simp] theorem State.writeMem_effs (s : State) (k v n : Nat) : (s.writeMem k v n).effs = s.effs := rfl
@[simp] theorem State.writeMem_bads (s : State) (k v n : Nat) : (s.writeMem k v n).bads = s.bads := rfl
@[simp] theorem State.writeMem_badNew (s : State) (k v n : Nat) : (s.writeMem k v n).badNew = s.badNew := rfl
@[simp] theorem State.writeMem_device (s : State) (k v n : Nat) : (s.writeMem k v n).device = s.device := rfl
@[simp] theorem State.writeMem_fabValid (s : State) (k v n : Nat) : (s.writeMem k v n).fabValid = s.fabValid := rfl
@[simp] theorem State.writeMem_fabN (s : State) (k v n : Nat) : (s.writeMem k v n).fabN = s.fabN := rfl
@[simp] theorem State.writeMem_locked (s : State) (k v n : Nat) : (s.writeMem k v n).locked = s.locked := rfl
@[simp] theorem State.writeMem_timeOff (s : State) (k v n : Nat) : (s.writeMem k v n).timeOff = s.timeOff := rfl
@[simp] theorem State.writeMem_sliceLen (s : State) (k v n : Nat) : (s.writeMem k v n).sliceLen = s.sliceLen := rfl
@[simp] theorem State.writeMem_sliceCnt (s : State) (k v n : Nat) : (s.writeMem k v n).sliceCnt = s.sliceCnt := rfl
@[simp] theorem State.writeMem_slicePend (s : State) (k v n : Nat) : (s.writeMem k v n).slicePend = s.slicePend := rfl
@[simp] theorem State.writeMem_sliceIn (s : State) (k v n : Nat) : (s.writeMem k v n).sliceIn = s.sliceIn := rfl
@[simp] theorem State.writeMem_slice (s : State) (k v n : Nat) : (s.writeMem k v n).slice = s.slice := rfl
@[simp] theorem State.writeMem_sliceNext (s : State) (k v n : Nat) : (s.writeMem k v n).sliceNext = s.sliceNext := rfl
@[simp] theorem State.writeMem_privt (s : State) (k v n : Nat) : (s.writeMem k v n).privt = s.privt := rfl
@[simp] theorem State.writeMem_fwid (s : State) (k v n : Nat) : (s.writeMem k v n).fwid = s.fwid := rfl
@[simp] theorem State.writeMem_bootstat (s : State) (k v n : Nat) : (s.writeMem k v n).bootstat = s.bootstat := rfl
@[simp] theorem State.writeMem_image (s : State) (k v n : Nat) : (s.writeMem k v n).image = s.image := rfl
@[simp] theorem State.writeMem_resets (s : State) (k v n : Nat) : (s.writeMem k v n).resets = s.resets := rfl
@[simp] theorem State.writeMem_mbox (s : State) (k v n : Nat) : (s.writeMem k v n).mbox = s.mbox := rfl
@[simp] theorem State.writeMem_msix (s : State) (k v n : Nat) : (s.writeMem k v n).msix = s.msix := rfl
@[simp] theorem State.writeMem_host (s : State) (k v n : Nat) : (s.writeMem k v n).host = s.host := rfl
@[simp] theorem State.writeMem_hostBad (s : State) (k v n : Nat) : (s.writeMem k v n).hostBad = s.hostBad := rfl
@[simp] theorem State.writeMem_hostRead (s : State) (k v n : Nat) : (s.writeMem k v n).hostRead = s.hostRead := rfl
@[simp] theorem State.writeMem_hostOps (s : State) (k v n : Nat) : (s.writeMem k v n).hostOps = s.hostOps := rfl
@[simp] theorem State.writeMem_hostNext (s : State) (k v n : Nat) : (s.writeMem k v n).hostNext = s.hostNext := rfl
@[simp] theorem State.writeMem_mgmt (s : State) (k v n : Nat) : (s.writeMem k v n).mgmt = s.mgmt := rfl
@[simp] theorem State.writeMem_agenda (s : State) (k v n : Nat) : (s.writeMem k v n).agenda = s.agenda := rfl
@[simp] theorem State.writeMem_inputs (s : State) (k v n : Nat) : (s.writeMem k v n).inputs = s.inputs := rfl
@[simp] theorem State.writeMem_sched (s : State) (k v n : Nat) : (s.writeMem k v n).sched = s.sched := rfl
@[simp] theorem State.writeMem_cur (s : State) (k v n : Nat) : (s.writeMem k v n).cur = s.cur := rfl
@[simp] theorem State.writeMem_fdie (s : State) (k v n : Nat) : (s.writeMem k v n).fdie = s.fdie := rfl
@[simp] theorem State.writeMem_contNext (s : State) (k v n : Nat) : (s.writeMem k v n).contNext = s.contNext := rfl
@[simp] theorem State.writeMem_stage (s : State) (k v n : Nat) : (s.writeMem k v n).stage = s.stage := rfl
@[simp] theorem State.writeMem_setcs (s : State) (k v n : Nat) : (s.writeMem k v n).setcs = s.setcs := rfl
@[simp] theorem State.writeMem_frun (s : State) (k v n : Nat) : (s.writeMem k v n).frun = s.frun := rfl
@[simp] theorem State.writeMem_turned (s : State) (k v n : Nat) : (s.writeMem k v n).turned = s.turned := rfl
@[simp] theorem State.me_writeBytes (s : State) (k : Nat) (bs : List Byte) : (s.writeBytes k bs).me = s.me := rfl
@[simp] theorem State.slot_writeBytes (s : State) (k : Nat) (bs : List Byte) (j : Nat) : (s.writeBytes k bs).slot j = s.slot j := rfl
@[simp] theorem State.core_writeBytes (s : State) (k : Nat) (bs : List Byte) (j : Nat) : (s.writeBytes k bs).core j = s.core j := rfl
@[simp] theorem State.clu_writeBytes (s : State) (k : Nat) (bs : List Byte) (j : Nat) : (s.writeBytes k bs).clu j = s.clu j := rfl
@[simp] theorem State.die_writeBytes (s : State) (k : Nat) (bs : List Byte) (j : Nat) : (s.writeBytes k bs).die j = s.die j := rfl
@[simp] theorem State.dram_writeBytes (s : State) (k : Nat) (bs : List Byte) (j : Nat) : (s.writeBytes k bs).dram j = s.dram j := rfl
@[simp] theorem State.writeBytes_cyc (s : State) (k : Nat) (bs : List Byte) : (s.writeBytes k bs).cyc = s.cyc := rfl
@[simp] theorem State.writeBytes_poison (s : State) (k : Nat) (bs : List Byte) : (s.writeBytes k bs).poison = s.poison := rfl
@[simp] theorem State.writeBytes_slots (s : State) (k : Nat) (bs : List Byte) : (s.writeBytes k bs).slots = s.slots := rfl
@[simp] theorem State.writeBytes_cores (s : State) (k : Nat) (bs : List Byte) : (s.writeBytes k bs).cores = s.cores := rfl
@[simp] theorem State.writeBytes_clus (s : State) (k : Nat) (bs : List Byte) : (s.writeBytes k bs).clus = s.clus := rfl
@[simp] theorem State.writeBytes_dies (s : State) (k : Nat) (bs : List Byte) : (s.writeBytes k bs).dies = s.dies := rfl
@[simp] theorem State.writeBytes_chans (s : State) (k : Nat) (bs : List Byte) : (s.writeBytes k bs).chans = s.chans := rfl
@[simp] theorem State.writeBytes_net (s : State) (k : Nat) (bs : List Byte) : (s.writeBytes k bs).net = s.net := rfl
@[simp] theorem State.writeBytes_pidNext (s : State) (k : Nat) (bs : List Byte) : (s.writeBytes k bs).pidNext = s.pidNext := rfl
@[simp] theorem State.writeBytes_lanes (s : State) (k : Nat) (bs : List Byte) : (s.writeBytes k bs).lanes = s.lanes := rfl
@[simp] theorem State.writeBytes_streams (s : State) (k : Nat) (bs : List Byte) : (s.writeBytes k bs).streams = s.streams := rfl
@[simp] theorem State.writeBytes_linkFaults (s : State) (k : Nat) (bs : List Byte) : (s.writeBytes k bs).linkFaults = s.linkFaults := rfl
@[simp] theorem State.writeBytes_dir (s : State) (k : Nat) (bs : List Byte) : (s.writeBytes k bs).dir = s.dir := rfl
@[simp] theorem State.writeBytes_effs (s : State) (k : Nat) (bs : List Byte) : (s.writeBytes k bs).effs = s.effs := rfl
@[simp] theorem State.writeBytes_bads (s : State) (k : Nat) (bs : List Byte) : (s.writeBytes k bs).bads = s.bads := rfl
@[simp] theorem State.writeBytes_badNew (s : State) (k : Nat) (bs : List Byte) : (s.writeBytes k bs).badNew = s.badNew := rfl
@[simp] theorem State.writeBytes_device (s : State) (k : Nat) (bs : List Byte) : (s.writeBytes k bs).device = s.device := rfl
@[simp] theorem State.writeBytes_fabValid (s : State) (k : Nat) (bs : List Byte) : (s.writeBytes k bs).fabValid = s.fabValid := rfl
@[simp] theorem State.writeBytes_fabN (s : State) (k : Nat) (bs : List Byte) : (s.writeBytes k bs).fabN = s.fabN := rfl
@[simp] theorem State.writeBytes_locked (s : State) (k : Nat) (bs : List Byte) : (s.writeBytes k bs).locked = s.locked := rfl
@[simp] theorem State.writeBytes_timeOff (s : State) (k : Nat) (bs : List Byte) : (s.writeBytes k bs).timeOff = s.timeOff := rfl
@[simp] theorem State.writeBytes_sliceLen (s : State) (k : Nat) (bs : List Byte) : (s.writeBytes k bs).sliceLen = s.sliceLen := rfl
@[simp] theorem State.writeBytes_sliceCnt (s : State) (k : Nat) (bs : List Byte) : (s.writeBytes k bs).sliceCnt = s.sliceCnt := rfl
@[simp] theorem State.writeBytes_slicePend (s : State) (k : Nat) (bs : List Byte) : (s.writeBytes k bs).slicePend = s.slicePend := rfl
@[simp] theorem State.writeBytes_sliceIn (s : State) (k : Nat) (bs : List Byte) : (s.writeBytes k bs).sliceIn = s.sliceIn := rfl
@[simp] theorem State.writeBytes_slice (s : State) (k : Nat) (bs : List Byte) : (s.writeBytes k bs).slice = s.slice := rfl
@[simp] theorem State.writeBytes_sliceNext (s : State) (k : Nat) (bs : List Byte) : (s.writeBytes k bs).sliceNext = s.sliceNext := rfl
@[simp] theorem State.writeBytes_privt (s : State) (k : Nat) (bs : List Byte) : (s.writeBytes k bs).privt = s.privt := rfl
@[simp] theorem State.writeBytes_fwid (s : State) (k : Nat) (bs : List Byte) : (s.writeBytes k bs).fwid = s.fwid := rfl
@[simp] theorem State.writeBytes_bootstat (s : State) (k : Nat) (bs : List Byte) : (s.writeBytes k bs).bootstat = s.bootstat := rfl
@[simp] theorem State.writeBytes_image (s : State) (k : Nat) (bs : List Byte) : (s.writeBytes k bs).image = s.image := rfl
@[simp] theorem State.writeBytes_resets (s : State) (k : Nat) (bs : List Byte) : (s.writeBytes k bs).resets = s.resets := rfl
@[simp] theorem State.writeBytes_mbox (s : State) (k : Nat) (bs : List Byte) : (s.writeBytes k bs).mbox = s.mbox := rfl
@[simp] theorem State.writeBytes_msix (s : State) (k : Nat) (bs : List Byte) : (s.writeBytes k bs).msix = s.msix := rfl
@[simp] theorem State.writeBytes_host (s : State) (k : Nat) (bs : List Byte) : (s.writeBytes k bs).host = s.host := rfl
@[simp] theorem State.writeBytes_hostBad (s : State) (k : Nat) (bs : List Byte) : (s.writeBytes k bs).hostBad = s.hostBad := rfl
@[simp] theorem State.writeBytes_hostRead (s : State) (k : Nat) (bs : List Byte) : (s.writeBytes k bs).hostRead = s.hostRead := rfl
@[simp] theorem State.writeBytes_hostOps (s : State) (k : Nat) (bs : List Byte) : (s.writeBytes k bs).hostOps = s.hostOps := rfl
@[simp] theorem State.writeBytes_hostNext (s : State) (k : Nat) (bs : List Byte) : (s.writeBytes k bs).hostNext = s.hostNext := rfl
@[simp] theorem State.writeBytes_mgmt (s : State) (k : Nat) (bs : List Byte) : (s.writeBytes k bs).mgmt = s.mgmt := rfl
@[simp] theorem State.writeBytes_agenda (s : State) (k : Nat) (bs : List Byte) : (s.writeBytes k bs).agenda = s.agenda := rfl
@[simp] theorem State.writeBytes_inputs (s : State) (k : Nat) (bs : List Byte) : (s.writeBytes k bs).inputs = s.inputs := rfl
@[simp] theorem State.writeBytes_sched (s : State) (k : Nat) (bs : List Byte) : (s.writeBytes k bs).sched = s.sched := rfl
@[simp] theorem State.writeBytes_cur (s : State) (k : Nat) (bs : List Byte) : (s.writeBytes k bs).cur = s.cur := rfl
@[simp] theorem State.writeBytes_fdie (s : State) (k : Nat) (bs : List Byte) : (s.writeBytes k bs).fdie = s.fdie := rfl
@[simp] theorem State.writeBytes_contNext (s : State) (k : Nat) (bs : List Byte) : (s.writeBytes k bs).contNext = s.contNext := rfl
@[simp] theorem State.writeBytes_stage (s : State) (k : Nat) (bs : List Byte) : (s.writeBytes k bs).stage = s.stage := rfl
@[simp] theorem State.writeBytes_setcs (s : State) (k : Nat) (bs : List Byte) : (s.writeBytes k bs).setcs = s.setcs := rfl
@[simp] theorem State.writeBytes_frun (s : State) (k : Nat) (bs : List Byte) : (s.writeBytes k bs).frun = s.frun := rfl
@[simp] theorem State.writeBytes_turned (s : State) (k : Nat) (bs : List Byte) : (s.writeBytes k bs).turned = s.turned := rfl

/-! ## A slot -/

/-- A slot that waits for no port. -/
def Slot.unwait (x : Slot) : Slot := { x with rxWait := none }

/-- A slot whose register cache has just been refilled. -/
def Slot.cached (x : Slot) (w : Vector Word 32) : Slot := { x with absent := false, dirty := 0, w := w }

@[simp] theorem Slot.unwait_rxWait (x : Slot) : x.unwait.rxWait = none := rfl
@[simp] theorem Slot.cached_w (x : Slot) (w : Vector Word 32) : (x.cached w).w = w := rfl
@[simp] theorem Slot.cached_absent (x : Slot) (w : Vector Word 32) : (x.cached w).absent = false := rfl
@[simp] theorem Slot.cached_dirty (x : Slot) (w : Vector Word 32) : (x.cached w).dirty = 0 := rfl
@[simp] theorem Slot.unwait_begun (x : Slot) : x.unwait.begun = x.begun := rfl
@[simp] theorem Slot.cached_begun (x : Slot) (w : Vector Word 32) : (x.cached w).begun = x.begun := rfl
@[simp] theorem Slot.unwait_hasIssued (x : Slot) : x.unwait.hasIssued = x.hasIssued := rfl
@[simp] theorem Slot.cached_hasIssued (x : Slot) (w : Vector Word 32) : (x.cached w).hasIssued = x.hasIssued := rfl
@[simp] theorem Slot.unwait_ready (x : Slot) (c : Nat) (q : Res) : x.unwait.ready c q = x.ready c q := rfl
@[simp] theorem Slot.cached_ready (x : Slot) (w : Vector Word 32) (c : Nat) (q : Res) : (x.cached w).ready c q = x.ready c q := rfl

@[simp] theorem Slot.setReg_live (x : Slot) (i : Spec) (v : Word) : (x.setReg i v).live = x.live := rfl
@[simp] theorem Slot.setReg_cls (x : Slot) (i : Spec) (v : Word) : (x.setReg i v).cls = x.cls := rfl
@[simp] theorem Slot.setReg_cont (x : Slot) (i : Spec) (v : Word) : (x.setReg i v).cont = x.cont := rfl
@[simp] theorem Slot.setReg_pc (x : Slot) (i : Spec) (v : Word) : (x.setReg i v).pc = x.pc := rfl
@[simp] theorem Slot.setReg_pw (x : Slot) (i : Spec) (v : Word) : (x.setReg i v).pw = x.pw := rfl
@[simp] theorem Slot.setReg_wp (x : Slot) (i : Spec) (v : Word) : (x.setReg i v).wp = x.wp := rfl
@[simp] theorem Slot.setReg_absent (x : Slot) (i : Spec) (v : Word) : (x.setReg i v).absent = x.absent := rfl
@[simp] theorem Slot.setReg_pv (x : Slot) (i : Spec) (v : Word) : (x.setReg i v).pv = x.pv := rfl
@[simp] theorem Slot.setReg_pvAt (x : Slot) (i : Spec) (v : Word) : (x.setReg i v).pvAt = x.pvAt := rfl
@[simp] theorem Slot.setReg_pvClaim (x : Slot) (i : Spec) (v : Word) : (x.setReg i v).pvClaim = x.pvClaim := rfl
@[simp] theorem Slot.setReg_rcb (x : Slot) (i : Spec) (v : Word) : (x.setReg i v).rcb = x.rcb := rfl
@[simp] theorem Slot.setReg_region (x : Slot) (i : Spec) (v : Word) : (x.setReg i v).region = x.region := rfl
@[simp] theorem Slot.setReg_depth (x : Slot) (i : Spec) (v : Word) : (x.setReg i v).depth = x.depth := rfl
@[simp] theorem Slot.setReg_prio (x : Slot) (i : Spec) (v : Word) : (x.setReg i v).prio = x.prio := rfl
@[simp] theorem Slot.setReg_reason (x : Slot) (i : Spec) (v : Word) : (x.setReg i v).reason = x.reason := rfl
@[simp] theorem Slot.setReg_home (x : Slot) (i : Spec) (v : Word) : (x.setReg i v).home = x.home := rfl
@[simp] theorem Slot.setReg_link (x : Slot) (i : Spec) (v : Word) : (x.setReg i v).link = x.link := rfl
@[simp] theorem Slot.setReg_hdl (x : Slot) (i : Spec) (v : Word) : (x.setReg i v).hdl = x.hdl := rfl
@[simp] theorem Slot.setReg_escRec (x : Slot) (i : Spec) (v : Word) : (x.setReg i v).escRec = x.escRec := rfl
@[simp] theorem Slot.setReg_timer (x : Slot) (i : Spec) (v : Word) : (x.setReg i v).timer = x.timer := rfl
@[simp] theorem Slot.setReg_avail (x : Slot) (i : Spec) (v : Word) : (x.setReg i v).avail = x.avail := rfl
@[simp] theorem Slot.setReg_notBefore (x : Slot) (i : Spec) (v : Word) : (x.setReg i v).notBefore = x.notBefore := rfl
@[simp] theorem Slot.setReg_yieldUntil (x : Slot) (i : Spec) (v : Word) : (x.setReg i v).yieldUntil = x.yieldUntil := rfl
@[simp] theorem Slot.setReg_wturn (x : Slot) (i : Spec) (v : Word) : (x.setReg i v).wturn = x.wturn := rfl
@[simp] theorem Slot.setReg_fbuf (x : Slot) (i : Spec) (v : Word) : (x.setReg i v).fbuf = x.fbuf := rfl
@[simp] theorem Slot.setReg_freq (x : Slot) (i : Spec) (v : Word) : (x.setReg i v).freq = x.freq := rfl
@[simp] theorem Slot.setReg_acc (x : Slot) (i : Spec) (v : Word) : (x.setReg i v).acc = x.acc := rfl
@[simp] theorem Slot.setReg_owed (x : Slot) (i : Spec) (v : Word) : (x.setReg i v).owed = x.owed := rfl
@[simp] theorem Slot.setReg_accNext (x : Slot) (i : Spec) (v : Word) : (x.setReg i v).accNext = x.accNext := rfl
@[simp] theorem Slot.setReg_fences (x : Slot) (i : Spec) (v : Word) : (x.setReg i v).fences = x.fences := rfl
@[simp] theorem Slot.setReg_waiting (x : Slot) (i : Spec) (v : Word) : (x.setReg i v).waiting = x.waiting := rfl
@[simp] theorem Slot.setReg_phase (x : Slot) (i : Spec) (v : Word) : (x.setReg i v).phase = x.phase := rfl
@[simp] theorem Slot.setReg_buf (x : Slot) (i : Spec) (v : Word) : (x.setReg i v).buf = x.buf := rfl
@[simp] theorem Slot.setReg_ports (x : Slot) (i : Spec) (v : Word) : (x.setReg i v).ports = x.ports := rfl
@[simp] theorem Slot.setReg_copy (x : Slot) (i : Spec) (v : Word) : (x.setReg i v).copy = x.copy := rfl
@[simp] theorem Slot.setReg_copyWp (x : Slot) (i : Spec) (v : Word) : (x.setReg i v).copyWp = x.copyWp := rfl
@[simp] theorem Slot.setReg_lastCopy (x : Slot) (i : Spec) (v : Word) : (x.setReg i v).lastCopy = x.lastCopy := rfl
@[simp] theorem Slot.setReg_plan (x : Slot) (i : Spec) (v : Word) : (x.setReg i v).plan = x.plan := rfl
@[simp] theorem Slot.setReg_vec (x : Slot) (i : Spec) (v : Word) : (x.setReg i v).vec = x.vec := rfl
@[simp] theorem Slot.setReg_tiles (x : Slot) (i : Spec) (v : Word) : (x.setReg i v).tiles = x.tiles := rfl
@[simp] theorem Slot.setReg_trap (x : Slot) (i : Spec) (v : Word) : (x.setReg i v).trap = x.trap := rfl
@[simp] theorem Slot.setReg_reports (x : Slot) (i : Spec) (v : Word) : (x.setReg i v).reports = x.reports := rfl
@[simp] theorem Slot.setReg_armed (x : Slot) (i : Spec) (v : Word) : (x.setReg i v).armed = x.armed := rfl
@[simp] theorem Slot.setReg_calls (x : Slot) (i : Spec) (v : Word) : (x.setReg i v).calls = x.calls := rfl
@[simp] theorem Slot.setReg_callSeq (x : Slot) (i : Spec) (v : Word) : (x.setReg i v).callSeq = x.callSeq := rfl
@[simp] theorem Slot.setReg_capIn (x : Slot) (i : Spec) (v : Word) : (x.setReg i v).capIn = x.capIn := rfl
@[simp] theorem Slot.setReg_capTgt (x : Slot) (i : Spec) (v : Word) : (x.setReg i v).capTgt = x.capTgt := rfl
@[simp] theorem Slot.setReg_capAt (x : Slot) (i : Spec) (v : Word) : (x.setReg i v).capAt = x.capAt := rfl
@[simp] theorem Slot.setReg_debsel (x : Slot) (i : Spec) (v : Word) : (x.setReg i v).debsel = x.debsel := rfl
@[simp] theorem Slot.setReg_dbgAddr (x : Slot) (i : Spec) (v : Word) : (x.setReg i v).dbgAddr = x.dbgAddr := rfl
@[simp] theorem Slot.setReg_chgWidx (x : Slot) (i : Spec) (v : Word) : (x.setReg i v).chgWidx = x.chgWidx := rfl
@[simp] theorem Slot.setReg_telIdx (x : Slot) (i : Spec) (v : Word) : (x.setReg i v).telIdx = x.telIdx := rfl
@[simp] theorem Slot.setReg_watchdog (x : Slot) (i : Spec) (v : Word) : (x.setReg i v).watchdog = x.watchdog := rfl
@[simp] theorem Slot.setReg_rxWait (x : Slot) (i : Spec) (v : Word) : (x.setReg i v).rxWait = x.rxWait := rfl
@[simp] theorem Slot.setReg_preempt (x : Slot) (i : Spec) (v : Word) : (x.setReg i v).preempt = x.preempt := rfl
@[simp] theorem Slot.setReg_leaving (x : Slot) (i : Spec) (v : Word) : (x.setReg i v).leaving = x.leaving := rfl
@[simp] theorem Slot.setReg_saveEnd (x : Slot) (i : Spec) (v : Word) : (x.setReg i v).saveEnd = x.saveEnd := rfl
@[simp] theorem Slot.setReg_restore (x : Slot) (i : Spec) (v : Word) : (x.setReg i v).restore = x.restore := rfl
@[simp] theorem Slot.setReg_moving (x : Slot) (i : Spec) (v : Word) : (x.setReg i v).moving = x.moving := rfl
@[simp] theorem Slot.setReg_frameRegion (x : Slot) (i : Spec) (v : Word) : (x.setReg i v).frameRegion = x.frameRegion := rfl
@[simp] theorem Slot.setReg_frame (x : Slot) (i : Spec) (v : Word) : (x.setReg i v).frame = x.frame := rfl
@[simp] theorem Slot.setReg_vframe (x : Slot) (i : Spec) (v : Word) : (x.setReg i v).vframe = x.vframe := rfl
@[simp] theorem Slot.setReg_mframe (x : Slot) (i : Spec) (v : Word) : (x.setReg i v).mframe = x.mframe := rfl
@[simp] theorem Slot.setReg_unrestored (x : Slot) (i : Spec) (v : Word) : (x.setReg i v).unrestored = x.unrestored := rfl
@[simp] theorem Slot.setReg_sampled (x : Slot) (i : Spec) (v : Word) : (x.setReg i v).sampled = x.sampled := rfl
@[simp] theorem Slot.setReg_escal (x : Slot) (i : Spec) (v : Word) : (x.setReg i v).escal = x.escal := rfl
@[simp] theorem Slot.setReg_jobs (x : Slot) (i : Spec) (v : Word) : (x.setReg i v).jobs = x.jobs := rfl
@[simp] theorem Slot.later_live (x : Slot) (r : Res) (c : Nat) : (x.later r c).live = x.live := rfl
@[simp] theorem Slot.later_cls (x : Slot) (r : Res) (c : Nat) : (x.later r c).cls = x.cls := rfl
@[simp] theorem Slot.later_cont (x : Slot) (r : Res) (c : Nat) : (x.later r c).cont = x.cont := rfl
@[simp] theorem Slot.later_pc (x : Slot) (r : Res) (c : Nat) : (x.later r c).pc = x.pc := rfl
@[simp] theorem Slot.later_pw (x : Slot) (r : Res) (c : Nat) : (x.later r c).pw = x.pw := rfl
@[simp] theorem Slot.later_wp (x : Slot) (r : Res) (c : Nat) : (x.later r c).wp = x.wp := rfl
@[simp] theorem Slot.later_w (x : Slot) (r : Res) (c : Nat) : (x.later r c).w = x.w := rfl
@[simp] theorem Slot.later_dirty (x : Slot) (r : Res) (c : Nat) : (x.later r c).dirty = x.dirty := rfl
@[simp] theorem Slot.later_absent (x : Slot) (r : Res) (c : Nat) : (x.later r c).absent = x.absent := rfl
@[simp] theorem Slot.later_pv (x : Slot) (r : Res) (c : Nat) : (x.later r c).pv = x.pv := rfl
@[simp] theorem Slot.later_pvAt (x : Slot) (r : Res) (c : Nat) : (x.later r c).pvAt = x.pvAt := rfl
@[simp] theorem Slot.later_pvClaim (x : Slot) (r : Res) (c : Nat) : (x.later r c).pvClaim = x.pvClaim := rfl
@[simp] theorem Slot.later_rcb (x : Slot) (r : Res) (c : Nat) : (x.later r c).rcb = x.rcb := rfl
@[simp] theorem Slot.later_region (x : Slot) (r : Res) (c : Nat) : (x.later r c).region = x.region := rfl
@[simp] theorem Slot.later_depth (x : Slot) (r : Res) (c : Nat) : (x.later r c).depth = x.depth := rfl
@[simp] theorem Slot.later_prio (x : Slot) (r : Res) (c : Nat) : (x.later r c).prio = x.prio := rfl
@[simp] theorem Slot.later_reason (x : Slot) (r : Res) (c : Nat) : (x.later r c).reason = x.reason := rfl
@[simp] theorem Slot.later_home (x : Slot) (r : Res) (c : Nat) : (x.later r c).home = x.home := rfl
@[simp] theorem Slot.later_link (x : Slot) (r : Res) (c : Nat) : (x.later r c).link = x.link := rfl
@[simp] theorem Slot.later_hdl (x : Slot) (r : Res) (c : Nat) : (x.later r c).hdl = x.hdl := rfl
@[simp] theorem Slot.later_escRec (x : Slot) (r : Res) (c : Nat) : (x.later r c).escRec = x.escRec := rfl
@[simp] theorem Slot.later_timer (x : Slot) (r : Res) (c : Nat) : (x.later r c).timer = x.timer := rfl
@[simp] theorem Slot.later_notBefore (x : Slot) (r : Res) (c : Nat) : (x.later r c).notBefore = x.notBefore := rfl
@[simp] theorem Slot.later_yieldUntil (x : Slot) (r : Res) (c : Nat) : (x.later r c).yieldUntil = x.yieldUntil := rfl
@[simp] theorem Slot.later_wturn (x : Slot) (r : Res) (c : Nat) : (x.later r c).wturn = x.wturn := rfl
@[simp] theorem Slot.later_fbuf (x : Slot) (r : Res) (c : Nat) : (x.later r c).fbuf = x.fbuf := rfl
@[simp] theorem Slot.later_freq (x : Slot) (r : Res) (c : Nat) : (x.later r c).freq = x.freq := rfl
@[simp] theorem Slot.later_acc (x : Slot) (r : Res) (c : Nat) : (x.later r c).acc = x.acc := rfl
@[simp] theorem Slot.later_owed (x : Slot) (r : Res) (c : Nat) : (x.later r c).owed = x.owed := rfl
@[simp] theorem Slot.later_accNext (x : Slot) (r : Res) (c : Nat) : (x.later r c).accNext = x.accNext := rfl
@[simp] theorem Slot.later_fences (x : Slot) (r : Res) (c : Nat) : (x.later r c).fences = x.fences := rfl
@[simp] theorem Slot.later_waiting (x : Slot) (r : Res) (c : Nat) : (x.later r c).waiting = x.waiting := rfl
@[simp] theorem Slot.later_phase (x : Slot) (r : Res) (c : Nat) : (x.later r c).phase = x.phase := rfl
@[simp] theorem Slot.later_buf (x : Slot) (r : Res) (c : Nat) : (x.later r c).buf = x.buf := rfl
@[simp] theorem Slot.later_ports (x : Slot) (r : Res) (c : Nat) : (x.later r c).ports = x.ports := rfl
@[simp] theorem Slot.later_copy (x : Slot) (r : Res) (c : Nat) : (x.later r c).copy = x.copy := rfl
@[simp] theorem Slot.later_copyWp (x : Slot) (r : Res) (c : Nat) : (x.later r c).copyWp = x.copyWp := rfl
@[simp] theorem Slot.later_lastCopy (x : Slot) (r : Res) (c : Nat) : (x.later r c).lastCopy = x.lastCopy := rfl
@[simp] theorem Slot.later_plan (x : Slot) (r : Res) (c : Nat) : (x.later r c).plan = x.plan := rfl
@[simp] theorem Slot.later_vec (x : Slot) (r : Res) (c : Nat) : (x.later r c).vec = x.vec := rfl
@[simp] theorem Slot.later_tiles (x : Slot) (r : Res) (c : Nat) : (x.later r c).tiles = x.tiles := rfl
@[simp] theorem Slot.later_trap (x : Slot) (r : Res) (c : Nat) : (x.later r c).trap = x.trap := rfl
@[simp] theorem Slot.later_reports (x : Slot) (r : Res) (c : Nat) : (x.later r c).reports = x.reports := rfl
@[simp] theorem Slot.later_armed (x : Slot) (r : Res) (c : Nat) : (x.later r c).armed = x.armed := rfl
@[simp] theorem Slot.later_calls (x : Slot) (r : Res) (c : Nat) : (x.later r c).calls = x.calls := rfl
@[simp] theorem Slot.later_callSeq (x : Slot) (r : Res) (c : Nat) : (x.later r c).callSeq = x.callSeq := rfl
@[simp] theorem Slot.later_capIn (x : Slot) (r : Res) (c : Nat) : (x.later r c).capIn = x.capIn := rfl
@[simp] theorem Slot.later_capTgt (x : Slot) (r : Res) (c : Nat) : (x.later r c).capTgt = x.capTgt := rfl
@[simp] theorem Slot.later_capAt (x : Slot) (r : Res) (c : Nat) : (x.later r c).capAt = x.capAt := rfl
@[simp] theorem Slot.later_debsel (x : Slot) (r : Res) (c : Nat) : (x.later r c).debsel = x.debsel := rfl
@[simp] theorem Slot.later_dbgAddr (x : Slot) (r : Res) (c : Nat) : (x.later r c).dbgAddr = x.dbgAddr := rfl
@[simp] theorem Slot.later_chgWidx (x : Slot) (r : Res) (c : Nat) : (x.later r c).chgWidx = x.chgWidx := rfl
@[simp] theorem Slot.later_telIdx (x : Slot) (r : Res) (c : Nat) : (x.later r c).telIdx = x.telIdx := rfl
@[simp] theorem Slot.later_watchdog (x : Slot) (r : Res) (c : Nat) : (x.later r c).watchdog = x.watchdog := rfl
@[simp] theorem Slot.later_rxWait (x : Slot) (r : Res) (c : Nat) : (x.later r c).rxWait = x.rxWait := rfl
@[simp] theorem Slot.later_preempt (x : Slot) (r : Res) (c : Nat) : (x.later r c).preempt = x.preempt := rfl
@[simp] theorem Slot.later_leaving (x : Slot) (r : Res) (c : Nat) : (x.later r c).leaving = x.leaving := rfl
@[simp] theorem Slot.later_saveEnd (x : Slot) (r : Res) (c : Nat) : (x.later r c).saveEnd = x.saveEnd := rfl
@[simp] theorem Slot.later_restore (x : Slot) (r : Res) (c : Nat) : (x.later r c).restore = x.restore := rfl
@[simp] theorem Slot.later_moving (x : Slot) (r : Res) (c : Nat) : (x.later r c).moving = x.moving := rfl
@[simp] theorem Slot.later_frameRegion (x : Slot) (r : Res) (c : Nat) : (x.later r c).frameRegion = x.frameRegion := rfl
@[simp] theorem Slot.later_frame (x : Slot) (r : Res) (c : Nat) : (x.later r c).frame = x.frame := rfl
@[simp] theorem Slot.later_vframe (x : Slot) (r : Res) (c : Nat) : (x.later r c).vframe = x.vframe := rfl
@[simp] theorem Slot.later_mframe (x : Slot) (r : Res) (c : Nat) : (x.later r c).mframe = x.mframe := rfl
@[simp] theorem Slot.later_unrestored (x : Slot) (r : Res) (c : Nat) : (x.later r c).unrestored = x.unrestored := rfl
@[simp] theorem Slot.later_sampled (x : Slot) (r : Res) (c : Nat) : (x.later r c).sampled = x.sampled := rfl
@[simp] theorem Slot.later_escal (x : Slot) (r : Res) (c : Nat) : (x.later r c).escal = x.escal := rfl
@[simp] theorem Slot.later_jobs (x : Slot) (r : Res) (c : Nat) : (x.later r c).jobs = x.jobs := rfl
@[simp] theorem Slot.unwait_live (x : Slot)  : (x.unwait).live = x.live := rfl
@[simp] theorem Slot.unwait_cls (x : Slot)  : (x.unwait).cls = x.cls := rfl
@[simp] theorem Slot.unwait_cont (x : Slot)  : (x.unwait).cont = x.cont := rfl
@[simp] theorem Slot.unwait_pc (x : Slot)  : (x.unwait).pc = x.pc := rfl
@[simp] theorem Slot.unwait_pw (x : Slot)  : (x.unwait).pw = x.pw := rfl
@[simp] theorem Slot.unwait_wp (x : Slot)  : (x.unwait).wp = x.wp := rfl
@[simp] theorem Slot.unwait_w (x : Slot)  : (x.unwait).w = x.w := rfl
@[simp] theorem Slot.unwait_dirty (x : Slot)  : (x.unwait).dirty = x.dirty := rfl
@[simp] theorem Slot.unwait_absent (x : Slot)  : (x.unwait).absent = x.absent := rfl
@[simp] theorem Slot.unwait_pv (x : Slot)  : (x.unwait).pv = x.pv := rfl
@[simp] theorem Slot.unwait_pvAt (x : Slot)  : (x.unwait).pvAt = x.pvAt := rfl
@[simp] theorem Slot.unwait_pvClaim (x : Slot)  : (x.unwait).pvClaim = x.pvClaim := rfl
@[simp] theorem Slot.unwait_rcb (x : Slot)  : (x.unwait).rcb = x.rcb := rfl
@[simp] theorem Slot.unwait_region (x : Slot)  : (x.unwait).region = x.region := rfl
@[simp] theorem Slot.unwait_depth (x : Slot)  : (x.unwait).depth = x.depth := rfl
@[simp] theorem Slot.unwait_prio (x : Slot)  : (x.unwait).prio = x.prio := rfl
@[simp] theorem Slot.unwait_reason (x : Slot)  : (x.unwait).reason = x.reason := rfl
@[simp] theorem Slot.unwait_home (x : Slot)  : (x.unwait).home = x.home := rfl
@[simp] theorem Slot.unwait_link (x : Slot)  : (x.unwait).link = x.link := rfl
@[simp] theorem Slot.unwait_hdl (x : Slot)  : (x.unwait).hdl = x.hdl := rfl
@[simp] theorem Slot.unwait_escRec (x : Slot)  : (x.unwait).escRec = x.escRec := rfl
@[simp] theorem Slot.unwait_timer (x : Slot)  : (x.unwait).timer = x.timer := rfl
@[simp] theorem Slot.unwait_avail (x : Slot)  : (x.unwait).avail = x.avail := rfl
@[simp] theorem Slot.unwait_notBefore (x : Slot)  : (x.unwait).notBefore = x.notBefore := rfl
@[simp] theorem Slot.unwait_yieldUntil (x : Slot)  : (x.unwait).yieldUntil = x.yieldUntil := rfl
@[simp] theorem Slot.unwait_wturn (x : Slot)  : (x.unwait).wturn = x.wturn := rfl
@[simp] theorem Slot.unwait_fbuf (x : Slot)  : (x.unwait).fbuf = x.fbuf := rfl
@[simp] theorem Slot.unwait_freq (x : Slot)  : (x.unwait).freq = x.freq := rfl
@[simp] theorem Slot.unwait_acc (x : Slot)  : (x.unwait).acc = x.acc := rfl
@[simp] theorem Slot.unwait_owed (x : Slot)  : (x.unwait).owed = x.owed := rfl
@[simp] theorem Slot.unwait_accNext (x : Slot)  : (x.unwait).accNext = x.accNext := rfl
@[simp] theorem Slot.unwait_fences (x : Slot)  : (x.unwait).fences = x.fences := rfl
@[simp] theorem Slot.unwait_waiting (x : Slot)  : (x.unwait).waiting = x.waiting := rfl
@[simp] theorem Slot.unwait_phase (x : Slot)  : (x.unwait).phase = x.phase := rfl
@[simp] theorem Slot.unwait_buf (x : Slot)  : (x.unwait).buf = x.buf := rfl
@[simp] theorem Slot.unwait_ports (x : Slot)  : (x.unwait).ports = x.ports := rfl
@[simp] theorem Slot.unwait_copy (x : Slot)  : (x.unwait).copy = x.copy := rfl
@[simp] theorem Slot.unwait_copyWp (x : Slot)  : (x.unwait).copyWp = x.copyWp := rfl
@[simp] theorem Slot.unwait_lastCopy (x : Slot)  : (x.unwait).lastCopy = x.lastCopy := rfl
@[simp] theorem Slot.unwait_plan (x : Slot)  : (x.unwait).plan = x.plan := rfl
@[simp] theorem Slot.unwait_vec (x : Slot)  : (x.unwait).vec = x.vec := rfl
@[simp] theorem Slot.unwait_tiles (x : Slot)  : (x.unwait).tiles = x.tiles := rfl
@[simp] theorem Slot.unwait_trap (x : Slot)  : (x.unwait).trap = x.trap := rfl
@[simp] theorem Slot.unwait_reports (x : Slot)  : (x.unwait).reports = x.reports := rfl
@[simp] theorem Slot.unwait_armed (x : Slot)  : (x.unwait).armed = x.armed := rfl
@[simp] theorem Slot.unwait_calls (x : Slot)  : (x.unwait).calls = x.calls := rfl
@[simp] theorem Slot.unwait_callSeq (x : Slot)  : (x.unwait).callSeq = x.callSeq := rfl
@[simp] theorem Slot.unwait_capIn (x : Slot)  : (x.unwait).capIn = x.capIn := rfl
@[simp] theorem Slot.unwait_capTgt (x : Slot)  : (x.unwait).capTgt = x.capTgt := rfl
@[simp] theorem Slot.unwait_capAt (x : Slot)  : (x.unwait).capAt = x.capAt := rfl
@[simp] theorem Slot.unwait_debsel (x : Slot)  : (x.unwait).debsel = x.debsel := rfl
@[simp] theorem Slot.unwait_dbgAddr (x : Slot)  : (x.unwait).dbgAddr = x.dbgAddr := rfl
@[simp] theorem Slot.unwait_chgWidx (x : Slot)  : (x.unwait).chgWidx = x.chgWidx := rfl
@[simp] theorem Slot.unwait_telIdx (x : Slot)  : (x.unwait).telIdx = x.telIdx := rfl
@[simp] theorem Slot.unwait_watchdog (x : Slot)  : (x.unwait).watchdog = x.watchdog := rfl
@[simp] theorem Slot.unwait_preempt (x : Slot)  : (x.unwait).preempt = x.preempt := rfl
@[simp] theorem Slot.unwait_leaving (x : Slot)  : (x.unwait).leaving = x.leaving := rfl
@[simp] theorem Slot.unwait_saveEnd (x : Slot)  : (x.unwait).saveEnd = x.saveEnd := rfl
@[simp] theorem Slot.unwait_restore (x : Slot)  : (x.unwait).restore = x.restore := rfl
@[simp] theorem Slot.unwait_moving (x : Slot)  : (x.unwait).moving = x.moving := rfl
@[simp] theorem Slot.unwait_frameRegion (x : Slot)  : (x.unwait).frameRegion = x.frameRegion := rfl
@[simp] theorem Slot.unwait_frame (x : Slot)  : (x.unwait).frame = x.frame := rfl
@[simp] theorem Slot.unwait_vframe (x : Slot)  : (x.unwait).vframe = x.vframe := rfl
@[simp] theorem Slot.unwait_mframe (x : Slot)  : (x.unwait).mframe = x.mframe := rfl
@[simp] theorem Slot.unwait_unrestored (x : Slot)  : (x.unwait).unrestored = x.unrestored := rfl
@[simp] theorem Slot.unwait_sampled (x : Slot)  : (x.unwait).sampled = x.sampled := rfl
@[simp] theorem Slot.unwait_escal (x : Slot)  : (x.unwait).escal = x.escal := rfl
@[simp] theorem Slot.unwait_jobs (x : Slot)  : (x.unwait).jobs = x.jobs := rfl
@[simp] theorem Slot.cached_live (x : Slot) (u : Vector Word 32) : (x.cached u).live = x.live := rfl
@[simp] theorem Slot.cached_cls (x : Slot) (u : Vector Word 32) : (x.cached u).cls = x.cls := rfl
@[simp] theorem Slot.cached_cont (x : Slot) (u : Vector Word 32) : (x.cached u).cont = x.cont := rfl
@[simp] theorem Slot.cached_pc (x : Slot) (u : Vector Word 32) : (x.cached u).pc = x.pc := rfl
@[simp] theorem Slot.cached_pw (x : Slot) (u : Vector Word 32) : (x.cached u).pw = x.pw := rfl
@[simp] theorem Slot.cached_wp (x : Slot) (u : Vector Word 32) : (x.cached u).wp = x.wp := rfl
@[simp] theorem Slot.cached_pv (x : Slot) (u : Vector Word 32) : (x.cached u).pv = x.pv := rfl
@[simp] theorem Slot.cached_pvAt (x : Slot) (u : Vector Word 32) : (x.cached u).pvAt = x.pvAt := rfl
@[simp] theorem Slot.cached_pvClaim (x : Slot) (u : Vector Word 32) : (x.cached u).pvClaim = x.pvClaim := rfl
@[simp] theorem Slot.cached_rcb (x : Slot) (u : Vector Word 32) : (x.cached u).rcb = x.rcb := rfl
@[simp] theorem Slot.cached_region (x : Slot) (u : Vector Word 32) : (x.cached u).region = x.region := rfl
@[simp] theorem Slot.cached_depth (x : Slot) (u : Vector Word 32) : (x.cached u).depth = x.depth := rfl
@[simp] theorem Slot.cached_prio (x : Slot) (u : Vector Word 32) : (x.cached u).prio = x.prio := rfl
@[simp] theorem Slot.cached_reason (x : Slot) (u : Vector Word 32) : (x.cached u).reason = x.reason := rfl
@[simp] theorem Slot.cached_home (x : Slot) (u : Vector Word 32) : (x.cached u).home = x.home := rfl
@[simp] theorem Slot.cached_link (x : Slot) (u : Vector Word 32) : (x.cached u).link = x.link := rfl
@[simp] theorem Slot.cached_hdl (x : Slot) (u : Vector Word 32) : (x.cached u).hdl = x.hdl := rfl
@[simp] theorem Slot.cached_escRec (x : Slot) (u : Vector Word 32) : (x.cached u).escRec = x.escRec := rfl
@[simp] theorem Slot.cached_timer (x : Slot) (u : Vector Word 32) : (x.cached u).timer = x.timer := rfl
@[simp] theorem Slot.cached_avail (x : Slot) (u : Vector Word 32) : (x.cached u).avail = x.avail := rfl
@[simp] theorem Slot.cached_notBefore (x : Slot) (u : Vector Word 32) : (x.cached u).notBefore = x.notBefore := rfl
@[simp] theorem Slot.cached_yieldUntil (x : Slot) (u : Vector Word 32) : (x.cached u).yieldUntil = x.yieldUntil := rfl
@[simp] theorem Slot.cached_wturn (x : Slot) (u : Vector Word 32) : (x.cached u).wturn = x.wturn := rfl
@[simp] theorem Slot.cached_fbuf (x : Slot) (u : Vector Word 32) : (x.cached u).fbuf = x.fbuf := rfl
@[simp] theorem Slot.cached_freq (x : Slot) (u : Vector Word 32) : (x.cached u).freq = x.freq := rfl
@[simp] theorem Slot.cached_acc (x : Slot) (u : Vector Word 32) : (x.cached u).acc = x.acc := rfl
@[simp] theorem Slot.cached_owed (x : Slot) (u : Vector Word 32) : (x.cached u).owed = x.owed := rfl
@[simp] theorem Slot.cached_accNext (x : Slot) (u : Vector Word 32) : (x.cached u).accNext = x.accNext := rfl
@[simp] theorem Slot.cached_fences (x : Slot) (u : Vector Word 32) : (x.cached u).fences = x.fences := rfl
@[simp] theorem Slot.cached_waiting (x : Slot) (u : Vector Word 32) : (x.cached u).waiting = x.waiting := rfl
@[simp] theorem Slot.cached_phase (x : Slot) (u : Vector Word 32) : (x.cached u).phase = x.phase := rfl
@[simp] theorem Slot.cached_buf (x : Slot) (u : Vector Word 32) : (x.cached u).buf = x.buf := rfl
@[simp] theorem Slot.cached_ports (x : Slot) (u : Vector Word 32) : (x.cached u).ports = x.ports := rfl
@[simp] theorem Slot.cached_copy (x : Slot) (u : Vector Word 32) : (x.cached u).copy = x.copy := rfl
@[simp] theorem Slot.cached_copyWp (x : Slot) (u : Vector Word 32) : (x.cached u).copyWp = x.copyWp := rfl
@[simp] theorem Slot.cached_lastCopy (x : Slot) (u : Vector Word 32) : (x.cached u).lastCopy = x.lastCopy := rfl
@[simp] theorem Slot.cached_plan (x : Slot) (u : Vector Word 32) : (x.cached u).plan = x.plan := rfl
@[simp] theorem Slot.cached_vec (x : Slot) (u : Vector Word 32) : (x.cached u).vec = x.vec := rfl
@[simp] theorem Slot.cached_tiles (x : Slot) (u : Vector Word 32) : (x.cached u).tiles = x.tiles := rfl
@[simp] theorem Slot.cached_trap (x : Slot) (u : Vector Word 32) : (x.cached u).trap = x.trap := rfl
@[simp] theorem Slot.cached_reports (x : Slot) (u : Vector Word 32) : (x.cached u).reports = x.reports := rfl
@[simp] theorem Slot.cached_armed (x : Slot) (u : Vector Word 32) : (x.cached u).armed = x.armed := rfl
@[simp] theorem Slot.cached_calls (x : Slot) (u : Vector Word 32) : (x.cached u).calls = x.calls := rfl
@[simp] theorem Slot.cached_callSeq (x : Slot) (u : Vector Word 32) : (x.cached u).callSeq = x.callSeq := rfl
@[simp] theorem Slot.cached_capIn (x : Slot) (u : Vector Word 32) : (x.cached u).capIn = x.capIn := rfl
@[simp] theorem Slot.cached_capTgt (x : Slot) (u : Vector Word 32) : (x.cached u).capTgt = x.capTgt := rfl
@[simp] theorem Slot.cached_capAt (x : Slot) (u : Vector Word 32) : (x.cached u).capAt = x.capAt := rfl
@[simp] theorem Slot.cached_debsel (x : Slot) (u : Vector Word 32) : (x.cached u).debsel = x.debsel := rfl
@[simp] theorem Slot.cached_dbgAddr (x : Slot) (u : Vector Word 32) : (x.cached u).dbgAddr = x.dbgAddr := rfl
@[simp] theorem Slot.cached_chgWidx (x : Slot) (u : Vector Word 32) : (x.cached u).chgWidx = x.chgWidx := rfl
@[simp] theorem Slot.cached_telIdx (x : Slot) (u : Vector Word 32) : (x.cached u).telIdx = x.telIdx := rfl
@[simp] theorem Slot.cached_watchdog (x : Slot) (u : Vector Word 32) : (x.cached u).watchdog = x.watchdog := rfl
@[simp] theorem Slot.cached_rxWait (x : Slot) (u : Vector Word 32) : (x.cached u).rxWait = x.rxWait := rfl
@[simp] theorem Slot.cached_preempt (x : Slot) (u : Vector Word 32) : (x.cached u).preempt = x.preempt := rfl
@[simp] theorem Slot.cached_leaving (x : Slot) (u : Vector Word 32) : (x.cached u).leaving = x.leaving := rfl
@[simp] theorem Slot.cached_saveEnd (x : Slot) (u : Vector Word 32) : (x.cached u).saveEnd = x.saveEnd := rfl
@[simp] theorem Slot.cached_restore (x : Slot) (u : Vector Word 32) : (x.cached u).restore = x.restore := rfl
@[simp] theorem Slot.cached_moving (x : Slot) (u : Vector Word 32) : (x.cached u).moving = x.moving := rfl
@[simp] theorem Slot.cached_frameRegion (x : Slot) (u : Vector Word 32) : (x.cached u).frameRegion = x.frameRegion := rfl
@[simp] theorem Slot.cached_frame (x : Slot) (u : Vector Word 32) : (x.cached u).frame = x.frame := rfl
@[simp] theorem Slot.cached_vframe (x : Slot) (u : Vector Word 32) : (x.cached u).vframe = x.vframe := rfl
@[simp] theorem Slot.cached_mframe (x : Slot) (u : Vector Word 32) : (x.cached u).mframe = x.mframe := rfl
@[simp] theorem Slot.cached_unrestored (x : Slot) (u : Vector Word 32) : (x.cached u).unrestored = x.unrestored := rfl
@[simp] theorem Slot.cached_sampled (x : Slot) (u : Vector Word 32) : (x.cached u).sampled = x.sampled := rfl
@[simp] theorem Slot.cached_escal (x : Slot) (u : Vector Word 32) : (x.cached u).escal = x.escal := rfl
@[simp] theorem Slot.cached_jobs (x : Slot) (u : Vector Word 32) : (x.cached u).jobs = x.jobs := rfl
@[simp] theorem Slot.advance_live (x : Slot) (f : Form) : (x.advance f).live = x.live := rfl
@[simp] theorem Slot.advance_cls (x : Slot) (f : Form) : (x.advance f).cls = x.cls := rfl
@[simp] theorem Slot.advance_cont (x : Slot) (f : Form) : (x.advance f).cont = x.cont := rfl
@[simp] theorem Slot.advance_pw (x : Slot) (f : Form) : (x.advance f).pw = x.pw := rfl
@[simp] theorem Slot.advance_wp (x : Slot) (f : Form) : (x.advance f).wp = x.wp := rfl
@[simp] theorem Slot.advance_w (x : Slot) (f : Form) : (x.advance f).w = x.w := rfl
@[simp] theorem Slot.advance_dirty (x : Slot) (f : Form) : (x.advance f).dirty = x.dirty := rfl
@[simp] theorem Slot.advance_absent (x : Slot) (f : Form) : (x.advance f).absent = x.absent := rfl
@[simp] theorem Slot.advance_pv (x : Slot) (f : Form) : (x.advance f).pv = x.pv := rfl
@[simp] theorem Slot.advance_pvAt (x : Slot) (f : Form) : (x.advance f).pvAt = x.pvAt := rfl
@[simp] theorem Slot.advance_pvClaim (x : Slot) (f : Form) : (x.advance f).pvClaim = x.pvClaim := rfl
@[simp] theorem Slot.advance_rcb (x : Slot) (f : Form) : (x.advance f).rcb = x.rcb := rfl
@[simp] theorem Slot.advance_region (x : Slot) (f : Form) : (x.advance f).region = x.region := rfl
@[simp] theorem Slot.advance_depth (x : Slot) (f : Form) : (x.advance f).depth = x.depth := rfl
@[simp] theorem Slot.advance_prio (x : Slot) (f : Form) : (x.advance f).prio = x.prio := rfl
@[simp] theorem Slot.advance_reason (x : Slot) (f : Form) : (x.advance f).reason = x.reason := rfl
@[simp] theorem Slot.advance_home (x : Slot) (f : Form) : (x.advance f).home = x.home := rfl
@[simp] theorem Slot.advance_link (x : Slot) (f : Form) : (x.advance f).link = x.link := rfl
@[simp] theorem Slot.advance_hdl (x : Slot) (f : Form) : (x.advance f).hdl = x.hdl := rfl
@[simp] theorem Slot.advance_escRec (x : Slot) (f : Form) : (x.advance f).escRec = x.escRec := rfl
@[simp] theorem Slot.advance_timer (x : Slot) (f : Form) : (x.advance f).timer = x.timer := rfl
@[simp] theorem Slot.advance_avail (x : Slot) (f : Form) : (x.advance f).avail = x.avail := rfl
@[simp] theorem Slot.advance_notBefore (x : Slot) (f : Form) : (x.advance f).notBefore = x.notBefore := rfl
@[simp] theorem Slot.advance_yieldUntil (x : Slot) (f : Form) : (x.advance f).yieldUntil = x.yieldUntil := rfl
@[simp] theorem Slot.advance_wturn (x : Slot) (f : Form) : (x.advance f).wturn = x.wturn := rfl
@[simp] theorem Slot.advance_fbuf (x : Slot) (f : Form) : (x.advance f).fbuf = x.fbuf := rfl
@[simp] theorem Slot.advance_freq (x : Slot) (f : Form) : (x.advance f).freq = x.freq := rfl
@[simp] theorem Slot.advance_acc (x : Slot) (f : Form) : (x.advance f).acc = x.acc := rfl
@[simp] theorem Slot.advance_owed (x : Slot) (f : Form) : (x.advance f).owed = x.owed := rfl
@[simp] theorem Slot.advance_accNext (x : Slot) (f : Form) : (x.advance f).accNext = x.accNext := rfl
@[simp] theorem Slot.advance_fences (x : Slot) (f : Form) : (x.advance f).fences = x.fences := rfl
@[simp] theorem Slot.advance_waiting (x : Slot) (f : Form) : (x.advance f).waiting = x.waiting := rfl
@[simp] theorem Slot.advance_ports (x : Slot) (f : Form) : (x.advance f).ports = x.ports := rfl
@[simp] theorem Slot.advance_copy (x : Slot) (f : Form) : (x.advance f).copy = x.copy := rfl
@[simp] theorem Slot.advance_copyWp (x : Slot) (f : Form) : (x.advance f).copyWp = x.copyWp := rfl
@[simp] theorem Slot.advance_lastCopy (x : Slot) (f : Form) : (x.advance f).lastCopy = x.lastCopy := rfl
@[simp] theorem Slot.advance_plan (x : Slot) (f : Form) : (x.advance f).plan = x.plan := rfl
@[simp] theorem Slot.advance_vec (x : Slot) (f : Form) : (x.advance f).vec = x.vec := rfl
@[simp] theorem Slot.advance_tiles (x : Slot) (f : Form) : (x.advance f).tiles = x.tiles := rfl
@[simp] theorem Slot.advance_trap (x : Slot) (f : Form) : (x.advance f).trap = x.trap := rfl
@[simp] theorem Slot.advance_reports (x : Slot) (f : Form) : (x.advance f).reports = x.reports := rfl
@[simp] theorem Slot.advance_armed (x : Slot) (f : Form) : (x.advance f).armed = x.armed := rfl
@[simp] theorem Slot.advance_calls (x : Slot) (f : Form) : (x.advance f).calls = x.calls := rfl
@[simp] theorem Slot.advance_callSeq (x : Slot) (f : Form) : (x.advance f).callSeq = x.callSeq := rfl
@[simp] theorem Slot.advance_capIn (x : Slot) (f : Form) : (x.advance f).capIn = x.capIn := rfl
@[simp] theorem Slot.advance_capTgt (x : Slot) (f : Form) : (x.advance f).capTgt = x.capTgt := rfl
@[simp] theorem Slot.advance_capAt (x : Slot) (f : Form) : (x.advance f).capAt = x.capAt := rfl
@[simp] theorem Slot.advance_debsel (x : Slot) (f : Form) : (x.advance f).debsel = x.debsel := rfl
@[simp] theorem Slot.advance_dbgAddr (x : Slot) (f : Form) : (x.advance f).dbgAddr = x.dbgAddr := rfl
@[simp] theorem Slot.advance_chgWidx (x : Slot) (f : Form) : (x.advance f).chgWidx = x.chgWidx := rfl
@[simp] theorem Slot.advance_telIdx (x : Slot) (f : Form) : (x.advance f).telIdx = x.telIdx := rfl
@[simp] theorem Slot.advance_watchdog (x : Slot) (f : Form) : (x.advance f).watchdog = x.watchdog := rfl
@[simp] theorem Slot.advance_rxWait (x : Slot) (f : Form) : (x.advance f).rxWait = x.rxWait := rfl
@[simp] theorem Slot.advance_preempt (x : Slot) (f : Form) : (x.advance f).preempt = x.preempt := rfl
@[simp] theorem Slot.advance_leaving (x : Slot) (f : Form) : (x.advance f).leaving = x.leaving := rfl
@[simp] theorem Slot.advance_saveEnd (x : Slot) (f : Form) : (x.advance f).saveEnd = x.saveEnd := rfl
@[simp] theorem Slot.advance_restore (x : Slot) (f : Form) : (x.advance f).restore = x.restore := rfl
@[simp] theorem Slot.advance_moving (x : Slot) (f : Form) : (x.advance f).moving = x.moving := rfl
@[simp] theorem Slot.advance_frameRegion (x : Slot) (f : Form) : (x.advance f).frameRegion = x.frameRegion := rfl
@[simp] theorem Slot.advance_frame (x : Slot) (f : Form) : (x.advance f).frame = x.frame := rfl
@[simp] theorem Slot.advance_vframe (x : Slot) (f : Form) : (x.advance f).vframe = x.vframe := rfl
@[simp] theorem Slot.advance_mframe (x : Slot) (f : Form) : (x.advance f).mframe = x.mframe := rfl
@[simp] theorem Slot.advance_unrestored (x : Slot) (f : Form) : (x.advance f).unrestored = x.unrestored := rfl
@[simp] theorem Slot.advance_escal (x : Slot) (f : Form) : (x.advance f).escal = x.escal := rfl
@[simp] theorem Slot.advance_jobs (x : Slot) (f : Form) : (x.advance f).jobs = x.jobs := rfl
@[simp] theorem Slot.goto_live (x : Slot) (pc : Word) (c : Nat) : (x.goto pc c).live = x.live := rfl
@[simp] theorem Slot.goto_cls (x : Slot) (pc : Word) (c : Nat) : (x.goto pc c).cls = x.cls := rfl
@[simp] theorem Slot.goto_cont (x : Slot) (pc : Word) (c : Nat) : (x.goto pc c).cont = x.cont := rfl
@[simp] theorem Slot.goto_pw (x : Slot) (pc : Word) (c : Nat) : (x.goto pc c).pw = x.pw := rfl
@[simp] theorem Slot.goto_wp (x : Slot) (pc : Word) (c : Nat) : (x.goto pc c).wp = x.wp := rfl
@[simp] theorem Slot.goto_w (x : Slot) (pc : Word) (c : Nat) : (x.goto pc c).w = x.w := rfl
@[simp] theorem Slot.goto_dirty (x : Slot) (pc : Word) (c : Nat) : (x.goto pc c).dirty = x.dirty := rfl
@[simp] theorem Slot.goto_absent (x : Slot) (pc : Word) (c : Nat) : (x.goto pc c).absent = x.absent := rfl
@[simp] theorem Slot.goto_pv (x : Slot) (pc : Word) (c : Nat) : (x.goto pc c).pv = x.pv := rfl
@[simp] theorem Slot.goto_pvAt (x : Slot) (pc : Word) (c : Nat) : (x.goto pc c).pvAt = x.pvAt := rfl
@[simp] theorem Slot.goto_pvClaim (x : Slot) (pc : Word) (c : Nat) : (x.goto pc c).pvClaim = x.pvClaim := rfl
@[simp] theorem Slot.goto_rcb (x : Slot) (pc : Word) (c : Nat) : (x.goto pc c).rcb = x.rcb := rfl
@[simp] theorem Slot.goto_region (x : Slot) (pc : Word) (c : Nat) : (x.goto pc c).region = x.region := rfl
@[simp] theorem Slot.goto_depth (x : Slot) (pc : Word) (c : Nat) : (x.goto pc c).depth = x.depth := rfl
@[simp] theorem Slot.goto_prio (x : Slot) (pc : Word) (c : Nat) : (x.goto pc c).prio = x.prio := rfl
@[simp] theorem Slot.goto_reason (x : Slot) (pc : Word) (c : Nat) : (x.goto pc c).reason = x.reason := rfl
@[simp] theorem Slot.goto_home (x : Slot) (pc : Word) (c : Nat) : (x.goto pc c).home = x.home := rfl
@[simp] theorem Slot.goto_link (x : Slot) (pc : Word) (c : Nat) : (x.goto pc c).link = x.link := rfl
@[simp] theorem Slot.goto_hdl (x : Slot) (pc : Word) (c : Nat) : (x.goto pc c).hdl = x.hdl := rfl
@[simp] theorem Slot.goto_escRec (x : Slot) (pc : Word) (c : Nat) : (x.goto pc c).escRec = x.escRec := rfl
@[simp] theorem Slot.goto_timer (x : Slot) (pc : Word) (c : Nat) : (x.goto pc c).timer = x.timer := rfl
@[simp] theorem Slot.goto_avail (x : Slot) (pc : Word) (c : Nat) : (x.goto pc c).avail = x.avail := rfl
@[simp] theorem Slot.goto_yieldUntil (x : Slot) (pc : Word) (c : Nat) : (x.goto pc c).yieldUntil = x.yieldUntil := rfl
@[simp] theorem Slot.goto_wturn (x : Slot) (pc : Word) (c : Nat) : (x.goto pc c).wturn = x.wturn := rfl
@[simp] theorem Slot.goto_acc (x : Slot) (pc : Word) (c : Nat) : (x.goto pc c).acc = x.acc := rfl
@[simp] theorem Slot.goto_owed (x : Slot) (pc : Word) (c : Nat) : (x.goto pc c).owed = x.owed := rfl
@[simp] theorem Slot.goto_accNext (x : Slot) (pc : Word) (c : Nat) : (x.goto pc c).accNext = x.accNext := rfl
@[simp] theorem Slot.goto_fences (x : Slot) (pc : Word) (c : Nat) : (x.goto pc c).fences = x.fences := rfl
@[simp] theorem Slot.goto_ports (x : Slot) (pc : Word) (c : Nat) : (x.goto pc c).ports = x.ports := rfl
@[simp] theorem Slot.goto_copy (x : Slot) (pc : Word) (c : Nat) : (x.goto pc c).copy = x.copy := rfl
@[simp] theorem Slot.goto_copyWp (x : Slot) (pc : Word) (c : Nat) : (x.goto pc c).copyWp = x.copyWp := rfl
@[simp] theorem Slot.goto_lastCopy (x : Slot) (pc : Word) (c : Nat) : (x.goto pc c).lastCopy = x.lastCopy := rfl
@[simp] theorem Slot.goto_plan (x : Slot) (pc : Word) (c : Nat) : (x.goto pc c).plan = x.plan := rfl
@[simp] theorem Slot.goto_vec (x : Slot) (pc : Word) (c : Nat) : (x.goto pc c).vec = x.vec := rfl
@[simp] theorem Slot.goto_tiles (x : Slot) (pc : Word) (c : Nat) : (x.goto pc c).tiles = x.tiles := rfl
@[simp] theorem Slot.goto_trap (x : Slot) (pc : Word) (c : Nat) : (x.goto pc c).trap = x.trap := rfl
@[simp] theorem Slot.goto_reports (x : Slot) (pc : Word) (c : Nat) : (x.goto pc c).reports = x.reports := rfl
@[simp] theorem Slot.goto_armed (x : Slot) (pc : Word) (c : Nat) : (x.goto pc c).armed = x.armed := rfl
@[simp] theorem Slot.goto_calls (x : Slot) (pc : Word) (c : Nat) : (x.goto pc c).calls = x.calls := rfl
@[simp] theorem Slot.goto_callSeq (x : Slot) (pc : Word) (c : Nat) : (x.goto pc c).callSeq = x.callSeq := rfl
@[simp] theorem Slot.goto_capIn (x : Slot) (pc : Word) (c : Nat) : (x.goto pc c).capIn = x.capIn := rfl
@[simp] theorem Slot.goto_capTgt (x : Slot) (pc : Word) (c : Nat) : (x.goto pc c).capTgt = x.capTgt := rfl
@[simp] theorem Slot.goto_capAt (x : Slot) (pc : Word) (c : Nat) : (x.goto pc c).capAt = x.capAt := rfl
@[simp] theorem Slot.goto_debsel (x : Slot) (pc : Word) (c : Nat) : (x.goto pc c).debsel = x.debsel := rfl
@[simp] theorem Slot.goto_dbgAddr (x : Slot) (pc : Word) (c : Nat) : (x.goto pc c).dbgAddr = x.dbgAddr := rfl
@[simp] theorem Slot.goto_chgWidx (x : Slot) (pc : Word) (c : Nat) : (x.goto pc c).chgWidx = x.chgWidx := rfl
@[simp] theorem Slot.goto_telIdx (x : Slot) (pc : Word) (c : Nat) : (x.goto pc c).telIdx = x.telIdx := rfl
@[simp] theorem Slot.goto_watchdog (x : Slot) (pc : Word) (c : Nat) : (x.goto pc c).watchdog = x.watchdog := rfl
@[simp] theorem Slot.goto_rxWait (x : Slot) (pc : Word) (c : Nat) : (x.goto pc c).rxWait = x.rxWait := rfl
@[simp] theorem Slot.goto_preempt (x : Slot) (pc : Word) (c : Nat) : (x.goto pc c).preempt = x.preempt := rfl
@[simp] theorem Slot.goto_leaving (x : Slot) (pc : Word) (c : Nat) : (x.goto pc c).leaving = x.leaving := rfl
@[simp] theorem Slot.goto_saveEnd (x : Slot) (pc : Word) (c : Nat) : (x.goto pc c).saveEnd = x.saveEnd := rfl
@[simp] theorem Slot.goto_restore (x : Slot) (pc : Word) (c : Nat) : (x.goto pc c).restore = x.restore := rfl
@[simp] theorem Slot.goto_moving (x : Slot) (pc : Word) (c : Nat) : (x.goto pc c).moving = x.moving := rfl
@[simp] theorem Slot.goto_frameRegion (x : Slot) (pc : Word) (c : Nat) : (x.goto pc c).frameRegion = x.frameRegion := rfl
@[simp] theorem Slot.goto_frame (x : Slot) (pc : Word) (c : Nat) : (x.goto pc c).frame = x.frame := rfl
@[simp] theorem Slot.goto_vframe (x : Slot) (pc : Word) (c : Nat) : (x.goto pc c).vframe = x.vframe := rfl
@[simp] theorem Slot.goto_mframe (x : Slot) (pc : Word) (c : Nat) : (x.goto pc c).mframe = x.mframe := rfl
@[simp] theorem Slot.goto_unrestored (x : Slot) (pc : Word) (c : Nat) : (x.goto pc c).unrestored = x.unrestored := rfl
@[simp] theorem Slot.goto_escal (x : Slot) (pc : Word) (c : Nat) : (x.goto pc c).escal = x.escal := rfl
@[simp] theorem Slot.goto_jobs (x : Slot) (pc : Word) (c : Nat) : (x.goto pc c).jobs = x.jobs := rfl

@[simp] theorem Slot.goto_pc (x : Slot) (pc : Word) (c : Nat) : (x.goto pc c).pc = pc := rfl
@[simp] theorem Slot.goto_notBefore (x : Slot) (pc : Word) (c : Nat) : (x.goto pc c).notBefore = c := rfl
@[simp] theorem Slot.advance_pc (x : Slot) (f : Form) : (x.advance f).pc = x.pc + BitVec.ofNat 64 f.size := rfl

/-- A general register reads as what was last written to it. -/
theorem Slot.reg_setReg (x : Slot) (i j : Spec) (v : Word) (hi : i.toNat < 32) (hj : j.toNat < 32) :
    (x.setReg i v).reg j = if j = i then v else x.reg j := by
  have e : (i = j) = (i.toNat = j.toNat) := by simp [BitVec.toNat_inj]
  by_cases h : j = i
  · subst h
    simp [Slot.setReg, Slot.reg, Nat.mod_eq_of_lt hi, Vector.set!, hi]
  · have h' : i.toNat ≠ j.toNat := fun q => h (by rw [← BitVec.toNat_inj]; exact q.symm)
    simp [Slot.setReg, Slot.reg, Nat.mod_eq_of_lt hi, Nat.mod_eq_of_lt hj, Vector.set!, hj, h, h']

end Sys2Proof.Machine
end

