-- ==== Sys2Proof/Laws/Issue.lean ====
section
/-! SUPPORT. What comes before and after an instruction's own effect, said once: a ready instruction passes its prologue, a
readable operand is read, a writable destination is written, and an effect that ends completes the instruction. -/

namespace Sys2Proof.Machine

/-! ## The monad of a meaning -/

section
variable {α β : Type} {f : α → M β} {s : State}

/-- Two effects in a row: the second runs where the first ends. -/
@[simp] theorem M.bind_run (x : M α) (f : α → M β) (s : State) :
    (x >>= f) s = match x s with
      | .ok (a, u) => f a u
      | .error e => .error e := by
  cases e : x s <;> simp [bind, StateT.bind, Except.bind, e]

theorem M.bind_ok {x : M α} {u : State} {a : α} (h : x s = .ok (a, u)) : (x >>= f) s = f a u := by
  rw [M.bind_run, h]

theorem M.bind_error {x : M α} {e : Halt} (h : x s = .error e) : (x >>= f) s = .error e := by
  rw [M.bind_run, h]

end

@[simp] theorem M.pure_run {α : Type} (a : α) (s : State) : (pure a : M α) s = .ok (a, s) := rfl
@[simp] theorem M.get_run (s : State) : (get : M State) s = .ok (s, s) := rfl
@[simp] theorem M.set_run (s u : State) : (set u : M PUnit) s = .ok (⟨⟩, u) := rfl
@[simp] theorem M.modify_run (f : State → State) (s : State) : (modify f : M PUnit) s = .ok (⟨⟩, f s) := rfl
@[simp] theorem M.me_run (s : State) : (me : M Slot) s = .ok (s.me, s) := rfl
@[simp] theorem M.modMe_run (f : Slot → Slot) (s : State) : modMe f s = .ok ((), s.modSlot s.cur f) := rfl
@[simp] theorem M.modCore_run (f : Core → Core) (s : State) : modCore f s = .ok ((), s.modCore (slotCore s.cur) f) := rfl
@[simp] theorem M.throw_run {α : Type} (h : Halt) (s : State) : (throw h : M α) s = .error h := rfl
theorem raiseIf_false (c k : Nat) (a i : Word) (s : State) : raiseIf false c k a i s = .ok ((), s) := rfl
theorem waitIf_false (w : Nat) (s : State) : waitIf false w s = .ok ((), s) := rfl
theorem raiseIf_of {b : Bool} (h : b = false) (c k : Nat) (a i : Word) (s : State) : raiseIf b c k a i s = .ok ((), s) := by
  subst h; rfl
theorem waitIf_of {b : Bool} (h : b = false) (w : Nat) (s : State) : waitIf b w s = .ok ((), s) := by
  subst h; rfl
theorem raiseIf_true (c k : Nat) (a i : Word) (s : State) :
    raiseIf true c k a i s = .error (.trap { cause := c, sub := k, addr := a, info := i, pc := s.me.pc }) := rfl
theorem waitIf_true (w : Nat) (s : State) : waitIf true w s = .error (.wait s w) := rfl

/-! ## The state in which an effect begins -/

/-- The state after the thread has stopped waiting for a port. -/
def State.unwaited (s : State) : State := s.modSlot s.cur fun x => { x with rxWait := none }

theorem entered_eq (s : State) (r : Raw) :
    s.entered r = if r.needsCache s.me then (s.unwaited).refill s.cur else s.unwaited := rfl

@[simp] theorem State.refill_cur (s : State) (n : Nat) : (s.refill n).cur = s.cur := rfl
@[simp] theorem State.refill_cyc (s : State) (n : Nat) : (s.refill n).cyc = s.cyc := rfl
@[simp] theorem State.refill_mem (s : State) (n : Nat) : (s.refill n).mem = s.mem := rfl
@[simp] theorem State.refill_clu (s : State) (n k : Nat) : (s.refill n).clu k = s.clu k := rfl
@[simp] theorem State.entered_cur (s : State) (r : Raw) : (s.entered r).cur = s.cur := by
  unfold State.entered; dsimp only; split <;> rfl
@[simp] theorem State.entered_cyc (s : State) (r : Raw) : (s.entered r).cyc = s.cyc := by
  unfold State.entered; dsimp only; split <;> rfl
/-- Beginning an effect leaves every byte of memory. -/
@[simp] theorem State.entered_mem (s : State) (r : Raw) : (s.entered r).mem = s.mem := by
  unfold State.entered; dsimp only; split <;> rfl
@[simp] theorem State.entered_clu (s : State) (r : Raw) (k : Nat) : (s.entered r).clu k = s.clu k := by
  unfold State.entered; dsimp only; split <;> rfl

/-- The words of a workspace as the register cache takes them (R48). -/
def State.cacheWords (s : State) : Vector Word 32 :=
  Vector.ofFn fun i => BitVec.ofNat 64 (s.readMem (localPlace (slotCore s.cur) (s.me.wp.toNat + 8 * i.val)).key 8)

theorem unwaited_me (s : State) : s.unwaited.me = s.me.unwait := State.me_setSlot_cur s _

theorem entered_me (s : State) (r : Raw) :
    (s.entered r).me = if r.needsCache s.me then s.me.unwait.cached s.cacheWords else s.me.unwait := by
  rw [entered_eq]
  split
  · have e : s.unwaited.refill s.cur = (s.unwaited.claimPort (slotCore s.cur)).setSlot s.cur
        (((s.unwaited.claimPort (slotCore s.cur)).slot s.cur).cached
          (Vector.ofFn fun i => BitVec.ofNat 64 (s.readMem (localPlace (slotCore s.cur)
            (((s.unwaited.claimPort (slotCore s.cur)).slot s.cur).wp.toNat + 8 * i.val)).key 8))) := rfl
    have e2 : (s.unwaited.claimPort (slotCore s.cur)).slot s.cur = s.me.unwait := unwaited_me s
    rw [e, e2]
    exact State.slot_setSlot_self _ _ _
  · exact unwaited_me s

theorem entered_begun (s : State) (r : Raw) : (s.entered r).me.begun = s.me.begun := by
  rw [entered_me]; split <;> simp
theorem entered_hasIssued (s : State) (r : Raw) : (s.entered r).me.hasIssued = s.me.hasIssued := by
  rw [entered_me]; split <;> simp
theorem entered_pc (s : State) (r : Raw) : (s.entered r).me.pc = s.me.pc := by
  rw [entered_me]; split <;> simp

/-! ## The prologue -/

/-- Whether a core-shared register is being written does not depend on what its readers wait for. -/
theorem sharedBusy_unwaited (s : State) (x : Spec) : sharedBusy s.unwaited x = sharedBusy s x := by
  have e (k : Nat) (q : Res) : (s.unwaited.slot k).pendingFor q = (s.slot k).pendingFor q := by
    have t : s.unwaited.slot k = if k = s.cur then s.me.unwait else s.slot k := State.slot_setSlot s s.cur k _
    rw [t]
    split
    · subst_vars; rfl
    · rfl
  have c : s.unwaited.core (slotCore s.cur) = s.core (slotCore s.cur) := rfl
  unfold sharedBusy
  simp only [e]
  rfl

/-- A resource that an instruction needs and that is available is not waited for. -/
theorem waitRes_of {s : State} {q : Res} (h : s.me.ready s.cyc q = true) : waitRes q s = .ok ((), s) := by
  simp [waitRes, h, waitIf_false]

theorem Raw.guard_mem (r : Raw) (h : r.maj = 0x0E ∨ r.maj = 0x0F) : Res.pred (r.d.extractLsb' 0 5) ∈ r.resources := by
  rcases h with h | h <;> simp [Raw.resources, h]

theorem Raw.ext_guard_mem (r : Raw) (e : Ext) (h : r.f.ext? = some e) (g : e.g = 1) : Res.pred e.gp ∈ r.resources := by
  simp [Raw.resources, h, g]

theorem waitOperands_ready {i : Instr} {r : Raw} {s : State} (h : Issues i r s) :
    waitOperands r s.unwaited = .ok ((), s.entered r) := by
  have hme : s.unwaited.me = s.me.unwait := unwaited_me s
  have hcyc : s.unwaited.cyc = s.cyc := rfl
  have hcur : s.unwaited.cur = s.cur := rfl
  have h1 : (r.resources.any fun q => !s.unwaited.me.ready s.unwaited.cyc q) = false := by
    rw [List.any_eq_false]
    intro q hq
    rw [hme, hcyc, Slot.unwait_ready, h.regs q hq]
    simp
  have h2 : (s.unwaited.setcs.any fun w => w.slot = s.unwaited.cur && w.cont = s.unwaited.me.cont && r.ctlRegs.contains w.reg)
      = false := by
    rw [List.any_eq_false]
    intro w hw
    have := h.ctl w hw
    rw [hme, hcur, Slot.unwait_cont]
    simpa [and_assoc] using this
  have h3 : (r.roles.any fun p => (p.2.2 = .dst || p.2.2 = .both || p.2.2 = .reply || p.2.2 = .remote)
      && sharedBusy s.unwaited p.2.1) = false := by
    rw [List.any_eq_false]
    intro p hp
    have := h.shared p hp
    rw [sharedBusy_unwaited]
    by_cases hc : p.2.2 = .dst ∨ p.2.2 = .both ∨ p.2.2 = .reply ∨ p.2.2 = .remote
    · simp [this hc]
    · simp only [not_or] at hc
      simp [hc]
  unfold waitOperands
  simp only [M.bind_run, M.get_run, waitIf_of h1, waitIf_of h2, waitIf_of h3]
  have e : r.needsCache s.unwaited.me = r.needsCache s.me := by rw [hme]; rfl
  rw [entered_eq, e]
  cases hc : r.needsCache s.me with
  | false => simp
  | true =>
    have h4 : (!s.unwaited.me.ready s.unwaited.cyc (.spec 51) || (s.unwaited.core (slotCore s.unwaited.cur)).portFirst s.unwaited.cyc)
        = false := by
      have e2 : (s.unwaited.core (slotCore s.unwaited.cur)).portFirst s.unwaited.cyc = false := (h.cache hc).2
      rw [e2, hme, hcyc, Slot.unwait_ready, (h.cache hc).1]; rfl
    rw [if_pos rfl, if_pos rfl, M.bind_ok (waitIf_of h4 _ _)]
    rfl

/-- What an instruction that may issue passes before its own effect: the rest of its prologue, once the waits `w` of its operands
have passed. -/
theorem prologue_issues {i : Instr} {r : Raw} {s : State} {go : Bool} (h : Issues i r s) (hg : guardHolds r s.me = go)
    (ha : go = true → r.badOperand = none ∧ ∀ p, r.touches = some p → p ∉ s.me.unrestored)
    (hf : go = false → falseWaits r s.unwaited = .ok ((), s.unwaited)) :
    prologue i r s = .ok (go, s.entered r) := by
  have hme : s.unwaited.me = s.me.unwait := unwaited_me s
  have g1 : (!i.wf || (r.needsClass.any (· ≠ s.unwaited.me.cls))) = false := by
    rw [h.wf, hme]
    cases hc : r.needsClass with
    | none => rfl
    | some c => simp [h.cls c hc]
  have g2 : ((r.needsPriv && !s.unwaited.me.privileged) || (r.maj = 0x21 && r.fn = 1 && !s.unwaited.me.trap.tmode)) = false := by
    rw [hme]
    have a : (r.needsPriv && !s.me.privileged) = false := by
      cases hp : r.needsPriv with
      | false => rfl
      | true => simp [h.priv hp]
    have b : (decide (r.maj = 0x21) && decide (r.fn = 1) && !s.me.trap.tmode) = false := by
      cases hp : r.isEret with
      | false =>
        have : (decide (r.maj = 0x21) && decide (r.fn = 1)) = false := hp
        rw [this]; rfl
      | true => simp [h.tmode hp]
    exact (congrArg₂ (· || ·) a b)
  have g3 : decide (s.unwaited.cyc < s.unwaited.me.notBefore) = false := decide_eq_false (Nat.not_lt.mpr (by rw [hme]; exact h.time))
  have g4 : (s.unwaited.me.owed.any fun o => decide (11 ≤ o.what ∧ o.what ≤ 13)) = false := by
    rw [hme, List.any_eq_false]
    intro o ho
    simpa using h.plain o ho
  have rd : ∀ q ∈ r.resources, waitRes q s.unwaited = .ok ((), s.unwaited) := fun q hq =>
    waitRes_of (by rw [hme]; exact h.regs q hq)
  have tc : go = true → touchContext r s.unwaited = .ok ((), s.unwaited) := by
    intro hgo
    unfold touchContext
    simp only [M.bind_run, M.me_run]
    cases ht : r.touches with
    | none => rfl
    | some p =>
      have := (ha hgo).2 p ht
      have e : s.unwaited.me.unrestored.contains p = false := by
        rw [hme, Slot.unwait_unrestored]; simpa using this
      simp only [e]; rfl
  have wc : (!(s.entered r).me.begun && !(s.entered r).covers r.charge) = false := by
    have e : (s.entered r).covers r.charge = s.covers r.charge := by simp [State.covers]
    rw [entered_begun, e]
    rcases h.covers with hc | hc <;> simp [hc]
  have wg : ∀ o : Option Ext, r.f.ext? = o → (match o with
      | some e => if e.g = 1 then (do waitRes (.pred e.gp); let x ← me; pure (guardHolds r x))
          else (do let x ← me; pure (guardHolds r x))
      | none => (do let x ← me; pure (guardHolds r x)) : M Bool) s.unwaited = .ok (go, s.unwaited) := by
    intro o ho
    have t : (do let x ← me; pure (guardHolds r x) : M Bool) s.unwaited = .ok (go, s.unwaited) := by
      rw [M.bind_ok (M.me_run _), hme, show guardHolds r s.me.unwait = go from hg]; rfl
    cases o with
    | none => exact t
    | some e =>
      by_cases hgp : e.g = 1
      · simp only [hgp, if_true]
        rw [M.bind_ok (rd _ (Raw.ext_guard_mem r e ho hgp))]
        exact t
      · simp only [hgp, if_false]
        exact t
  have wk : (do waitOperands r; let u ← get; waitIf (!u.me.begun && !u.covers r.charge) 1; pure go : M Bool) s.unwaited
      = .ok (go, s.entered r) := by
    rw [M.bind_ok (waitOperands_ready h), M.bind_ok (M.get_run _), M.bind_ok (waitIf_of wc _ _)]; rfl
  unfold prologue
  rw [M.bind_ok (M.modMe_run _ _), show (s.modSlot s.cur fun x => { x with rxWait := none }) = s.unwaited from rfl,
    M.bind_ok (M.get_run _)]
  simp only []
  rw [M.bind_ok (raiseIf_of g1 _ _ _ _ _), M.bind_ok (raiseIf_of g2 _ _ _ _ _), M.bind_ok (waitIf_of g3 _ _),
    M.bind_ok (waitIf_of g4 _ _)]
  refine (M.bind_ok (a := go) (u := s.unwaited) ?_).trans ?_
  · split
    · rename_i hm
      rw [M.bind_ok (rd _ (Raw.guard_mem r (by simpa using hm)))]
      exact wg _ rfl
    · exact wg _ rfl
  · cases go with
    | true =>
      simp only [if_true]
      rw [(ha rfl).1]
      exact (M.bind_ok (tc rfl)).trans wk
    | false => exact (M.bind_ok (hf rfl)).trans wk

/-- A ready instruction passes everything that comes before its own effect. -/
theorem prologue_ready {i : Instr} {r : Raw} {s : State} (h : Ready i r s) : prologue i r s = .ok (true, s.entered r) :=
  prologue_issues h.toIssues h.guard (fun _ => ⟨h.operands, h.context⟩) (by simp)

/-! ## Completion -/

theorem State.chargeOnce_eq (v s : State) (n : Nat) :
    v.chargeOnce s n = if s.me.begun = false ∧ isMemCore (slotCore s.cur) = false ∧ (v.clu (slotClu s.cur)).pwrChg = true then
      v.setClu (slotClu s.cur) ((v.clu (slotClu s.cur)).paid n)
    else v := by
  have e : (v.modClu (slotClu s.cur) fun x => x.paid n) = v.setClu (slotClu s.cur) ((v.clu (slotClu s.cur)).paid n) := rfl
  rw [← e]
  unfold State.chargeOnce State.takeCharge Cluster.paid
  dsimp only
  cases s.me.begun <;> cases isMemCore (slotCore s.cur) <;> cases hp : (v.clu (slotClu s.cur)).pwrChg <;> rfl

/-- What the end of an attempt leaves: slots. -/
theorem State.ends_slot (v s : State) (pc : Word) (keep : Bool) :
    (v.ends s pc keep).slot s.cur = { v.slot s.cur with
      waiting := 0, trap := { (v.slot s.cur).trap with wskip := (v.slot s.cur).trap.wskip && (keep || s.me.hasIssued) } } := by
  unfold State.ends State.issuedBy
  cases s.me.hasIssued <;> simp

theorem State.ends_slot_of_ne (v s : State) (pc : Word) (keep : Bool) {n : Nat} (h : n ≠ s.cur) :
    (v.ends s pc keep).slot n = v.slot n := by
  unfold State.ends State.issuedBy
  cases s.me.hasIssued <;> simp [h]

theorem State.ends_core (v s : State) (pc : Word) (keep : Bool) (c : Nat) :
    (v.ends s pc keep).core c = if c = slotCore s.cur ∧ s.me.hasIssued = false then
      (v.core c).noted s.cur pc else v.core c := by
  unfold State.ends State.issuedBy
  cases s.me.hasIssued <;> simp [State.core_setCore, Core.noted]
  split <;> simp_all

theorem State.ends_rest (v s : State) (pc : Word) (keep : Bool) :
    v.ends s pc keep = { v with slots := (v.ends s pc keep).slots, cores := (v.ends s pc keep).cores } := by
  unfold State.ends State.issuedBy
  cases s.me.hasIssued <;> rfl

theorem State.chargeOnce_clu (v s : State) (n c : Nat) : (v.chargeOnce s n).clu c =
    if c = slotClu s.cur ∧ s.me.begun = false ∧ isMemCore (slotCore s.cur) = false ∧ (v.clu c).pwrChg = true then
      (v.clu c).paid n
    else v.clu c := by
  rw [State.chargeOnce_eq]
  by_cases hc : c = slotClu s.cur
  · subst hc
    by_cases h : s.me.begun = false ∧ isMemCore (slotCore s.cur) = false ∧ (v.clu (slotClu s.cur)).pwrChg = true
    · simp only [h, and_self, if_true, State.clu_setClu_self]
    · simp only [h, and_false, if_false]
  · simp only [hc, false_and, if_false]
    split
    · exact State.clu_setClu_of_ne _ _ _ _ hc
    · rfl

theorem State.chargeOnce_rest (v s : State) (n : Nat) :
    v.chargeOnce s n = { v with clus := (v.chargeOnce s n).clus } := by
  rw [State.chargeOnce_eq]
  split <;> rfl

theorem State.chargeOnce_slot (v s : State) (n k : Nat) : (v.chargeOnce s n).slot k = v.slot k := by
  rw [State.chargeOnce_rest]; rfl

theorem State.chargeOnce_core (v s : State) (n k : Nat) : (v.chargeOnce s n).core k = v.core k := by
  rw [State.chargeOnce_rest]; rfl

/-- What an instruction leaves whose effect has ended with the program counter still to move. -/
theorem finished_of (r : Raw) (s v : State) :
    Finished r s v (((v.chargeOnce s r.charge).ends s s.me.pc false).modSlot s.cur fun x => x.advance r.f) where
  slot := by
    rw [State.modSlot_eq, State.slot_setSlot_self, State.ends_slot, State.chargeOnce_slot]
    simp [Slot.advance]
  slots n h := by
    rw [State.modSlot_eq, State.slot_setSlot_of_ne _ _ _ _ h, State.ends_slot_of_ne _ _ _ _ h, State.chargeOnce_slot]
  cores c := by
    rw [State.modSlot_eq, State.core_setSlot, State.ends_core, State.chargeOnce_core]
  clus c := by
    rw [State.modSlot_eq, State.clu_setSlot, State.ends_rest]
    exact State.chargeOnce_clu v s r.charge c
  rest := by
    rw [State.ends_rest, State.chargeOnce_rest]; rfl
  mem a := by
    rw [State.ends_rest, State.chargeOnce_rest]; rfl

/-- What an instruction leaves whose effect has placed the program counter. -/
theorem placed_of (r : Raw) (s v : State) : Placed r s v ((v.chargeOnce s r.charge).ends s s.me.pc r.isEret) where
  slot := by
    rw [State.ends_slot, State.chargeOnce_slot]
  slots n h := by
    rw [State.ends_slot_of_ne _ _ _ _ h, State.chargeOnce_slot]
  cores c := by
    rw [State.ends_core, State.chargeOnce_core]
  clus c := by
    rw [State.ends_rest]
    exact State.chargeOnce_clu v s r.charge c
  rest := by
    rw [State.ends_rest, State.chargeOnce_rest]
  mem a := by
    rw [State.ends_rest, State.chargeOnce_rest]

/-- A ready instruction whose effect ends completes. -/
theorem issue_finished {i : Instr} {r : Raw} {s v : State} {body : M Unit} (h : Ready i r s)
    (hb : body (s.entered r) = .ok ((), v)) :
    ∃ t, issue i body s = .next t ∧ Finished r s (v.take v.cur r.taken) t := by
  refine ⟨_, ?_, finished_of r s (v.take v.cur r.taken)⟩
  unfold issue
  rw [h.raw]
  simp only [h.live, Bool.not_true, Bool.false_eq_true, if_false]
  rw [M.bind_ok (prologue_ready h)]
  simp only [if_true]
  rw [M.bind_ok hb]
  rfl

/-- A ready instruction whose effect ends with the program counter placed completes. -/
theorem issue_placed {i : Instr} {r : Raw} {s v : State} {body : M Unit} (h : Ready i r s)
    (hb : body (s.entered r) = .error (.quit v)) :
    ∃ t, issue i body s = .next t ∧ Placed r s v t := by
  refine ⟨_, ?_, placed_of r s v⟩
  unfold issue
  rw [h.raw]
  simp only [h.live, Bool.not_true, Bool.false_eq_true, if_false]
  rw [M.bind_ok (prologue_ready h)]
  simp only [if_true]
  rw [M.bind_error hb]
  rfl

/-! ## Operands -/

theorem bufferAddr_of {f : Form} {x : Spec} {tail : Bool} {s : State} {a : Nat} (h : s.bufferAt? f x tail = some a) :
    bufferAddr f x tail s = .ok (a, s) := by
  unfold State.bufferAt? at h
  dsimp only at h
  unfold bufferAddr
  rw [M.bind_ok (M.get_run _)]
  by_cases hn : (handleOf s x).scount = 0 ∨ (handleOf s x).scount < f.c.toNat ∨
      (if tail then (handleOf s x).scount - (handleOf s x).fill else (handleOf s x).fill) < f.c.toNat
  · rw [if_pos hn] at h
    cases h
  · rw [if_neg hn] at h
    simp only [not_or] at hn
    obtain ⟨h1, h2, h3⟩ := hn
    rw [if_neg (by simp [h1, Nat.not_lt.mp h2]), if_neg h3]
    simp only [Option.some.injEq] at h
    rw [h]
    rfl

/-- The local-store port is taken where nothing claims it ahead of the issue stage (R78). -/
theorem needPort_of {s : State} (h : s.portFree) : needPort s = .ok ((), s.portTaken) := by
  unfold State.portFree Core.portHeld at h
  simp only [Bool.or_eq_false_iff] at h
  unfold needPort
  rw [M.bind_ok (M.get_run _), M.bind_ok (waitIf_of h.2 _ _), M.bind_ok (waitIf_of h.1 _ _)]
  rfl

/-- An access that no order holds passes its gate. -/
theorem orderGate_of {p : Place} {ord n : Nat} {st : Bool} {s : State} (h : s.ordered p ord n st = false) :
    orderGate p ord n st s = .ok ((), s) := by
  unfold orderGate
  rw [M.bind_ok (M.get_run _)]
  exact waitIf_of h _ _

/-- A store at issue that no tile load holds passes its gate. -/
theorem tileGate_of {p : Place} {n : Nat} {s : State} (h : s.tileHolds p n = false) : tileGate p n s = .ok ((), s) := by
  unfold tileGate
  rw [M.bind_ok (M.get_run _)]
  exact waitIf_of h _ _

/-- Taking the port changes no buffer. -/
theorem bufferAt_portTaken (s : State) (f : Form) (x : Spec) (tail : Bool) :
    s.portTaken.bufferAt? f x tail = s.bufferAt? f x tail := by
  unfold State.portTaken State.bufferAt? handleOf
  simp only [State.modCore_eq, State.setCore_cur, State.core_setCore_self]

/-- An operand that reads as a value is read, and the read leaves what `touched` says. -/
theorem src_reads {f : Form} {x : Spec} {s : State} {v : Word} (h : s.reads f x = some v) :
    src f x s = .ok (v, s.touched x) := by
  unfold State.reads at h
  unfold src
  rw [M.bind_ok (M.get_run _)]
  cases hv : s.value? s.cur x with
  | some w =>
    rw [hv] at h
    simp only [Option.some.injEq] at h
    have hh : isHandle x = false := by
      unfold State.value? at hv
      unfold isHandle
      revert hv
      dsimp only
      split_ifs with a b c d <;> intro hv <;> simp at hv ⊢ <;> omega
    simp [State.touched, hh, h]
  | none =>
    rw [hv] at h
    dsimp only at h ⊢
    by_cases hp : isPort x = true
    · simp only [hp, if_true] at h ⊢
      have hh : isHandle x = false := by
        simp [isPort] at hp; simp [isHandle]; omega
      cases hq : (s.me.ports[x.toNat % 8]?) with
      | none => rw [hq] at h; simp at h
      | some p =>
        rw [hq] at h
        simp only [Option.bind_some] at h
        cases hl : p.queue with
        | nil => rw [hl] at h; simp at h
        | cons w l =>
          rw [hl] at h
          simp only [List.head?_cons, Option.map_some, Option.some.injEq] at h
          simp only [Option.map_some, hl]
          simp [State.touched, hh, h]
    · simp only [hp, Bool.false_eq_true, if_false] at h ⊢
      by_cases h48 : x = 48
      · subst h48
        simp only [if_true] at h ⊢
        by_cases hlt : s.cyc < s.me.pvAt
        · simp [hlt] at h
        · simp only [hlt, if_false] at h
          rw [h]
          have : isHandle 48 = false := rfl
          simp only [hlt, if_false, State.touched, this, Bool.false_eq_true]
          rfl
      · simp only [h48, if_false] at h ⊢
        by_cases hh : isHandle x = true
        · simp only [hh, if_true] at h ⊢
          cases ha : s.bufferAt? f x false with
          | none => rw [ha] at h; simp at h
          | some a =>
            rw [ha] at h
            dsimp only at h
            split at h
            · simp at h
            · rename_i hn
              simp only [not_or, Bool.not_eq_true] at hn
              rw [M.bind_ok (bufferAddr_of ha)]
              have h1 : localPoison (localPlace (slotCore s.cur) a) 8 (BitVec.ofNat 64 a) s = .ok ((), s) := by
                unfold localPoison
                rw [M.bind_ok (M.get_run _)]
                exact raiseIf_of hn.2.1 _ _ _ _ _
              have h2 : needPort s = .ok ((), s.touched x) := by
                rw [needPort_of hn.2.2]
                simp [State.touched, hh, State.portTaken]
              rw [M.bind_ok (orderGate_of hn.1), M.bind_ok h1, M.bind_ok h2]
              simp only [Option.some.injEq] at h
              simp [h]
        · simp [hh] at h

theorem srcB_reads {f : Form} {b : Spec} {s : State} {v : Word} (h : s.readsB f b = some v) :
    srcB f b s = .ok (v, s.touchedB f b) := by
  unfold State.readsB at h
  unfold srcB State.touchedB
  split
  · rename_i hl
    simp only [hl, if_true, Option.some.injEq] at h
    simp [h]
  · rename_i hl
    simp only [hl, Bool.false_eq_true, if_false] at h
    exact src_reads h

theorem dstReady_of {x : Spec} {s : State}
    (h : if x = 49 then ((s.slot (nextSlot s.cur)).live = true →
      (s.slot (nextSlot s.cur)).pv = none ∧ (s.slot (nextSlot s.cur)).pvClaim = none) else isArmed s x = false) :
    dstReady x s = .ok ((), s) := by
  unfold dstReady
  rw [M.bind_ok (M.get_run _)]
  split
  · rename_i h49
    simp only [h49, if_true] at h
    refine waitIf_of ?_ _ _
    cases hl : (s.slot (nextSlot s.cur)).live with
    | false => rfl
    | true =>
      have := h hl
      simp [this.1, this.2]
  · rename_i h49
    simp only [h49, if_false] at h
    exact raiseIf_of h _ _ _ _ _

/-- A destination that can be written passes its gate, which takes the port for a buffer slot (R78). -/
theorem dstGate_of {f : Form} {x : Spec} {s : State} (h : s.canWrite f x) :
    dstGate f x s = .ok ((), if isHandle x then s.portTaken else s) := by
  unfold State.canWrite at h
  unfold dstGate
  dsimp only
  by_cases hp : isPort x = true
  · have hh : isHandle x = false := by
      simp [isPort] at hp; simp [isHandle]; omega
    simp only [hp, hh, if_true, Bool.false_eq_true, if_false] at h ⊢
    obtain ⟨hb, hl, ho, hf, hq⟩ := h
    have hc : portCheck (x.toNat % 8) s = .ok ((), s) := by
      unfold portCheck
      rw [M.bind_ok (M.me_run _)]
      dsimp only
      rw [M.bind_ok (raiseIf_of (by rw [hb]; rfl) _ _ _ _ _), if_neg (by rw [hl]; simp)]
      rfl
    have h2 : portOpen (x.toNat % 8) s = .ok ((), s) := by
      unfold portOpen
      rw [M.bind_ok hc, M.bind_ok (M.get_run _)]
      simp only [ho, if_true]
      rfl
    rw [M.bind_ok hc, M.bind_ok (M.me_run _), M.bind_ok (waitIf_of hq _ _), M.bind_ok h2, M.bind_ok (M.get_run _)]
    exact waitIf_of (by rw [hf]; rfl) _ _
  · simp only [hp, Bool.false_eq_true, if_false] at h ⊢
    by_cases hh : isHandle x = true
    · simp only [hh, if_true] at h ⊢
      obtain ⟨⟨a, ha, h1, h2⟩, h3⟩ := h
      rw [M.bind_ok (bufferAddr_of ha), M.bind_ok (M.get_run _), M.bind_ok (orderGate_of h1), M.bind_ok (tileGate_of h2)]
      exact needPort_of h3
    · simp only [hh, Bool.false_eq_true, if_false] at h ⊢
      exact dstReady_of h

/-- A destination that can be written is written, and the write leaves what `put` says. -/
theorem dst_put {f : Form} {x : Spec} {s : State} (v : Word) (lat : Nat) (h : s.canWrite f x) :
    dst f x v lat s = .ok ((), s.put f x v lat) := by
  unfold dst State.put
  rw [M.bind_ok (dstGate_of h), M.bind_ok (M.get_run _)]
  dsimp only
  by_cases hh : isHandle x = true
  · have hp : isPort x = false := by
      simp [isHandle] at hh; simp [isPort]; omega
    unfold State.canWrite at h
    simp only [hp, hh, if_true, Bool.false_eq_true, if_false] at h ⊢
    obtain ⟨⟨a, ha, -⟩, -⟩ := h
    rw [M.bind_ok (bufferAddr_of ((bufferAt_portTaken s f x true).trans ha)), ha]
    rfl
  · simp only [hh, Bool.false_eq_true, if_false]
    by_cases hp : isPort x = true
    · simp only [hp, if_true]
      rfl
    · simp only [hp, Bool.false_eq_true, if_false]
      split
      · rfl
      · split
        · split <;> rfl
        · split <;> rfl

theorem readRcb_setCore (s : State) (n : Nat) (x : Core) (k : Nat) : readRcb (s.setCore n x) k = readRcb s k := rfl

/-- The effective blocks that memory holds are no matter of a core's own state. -/
theorem sampleEff_setCore (s : State) (n : Nat) (x : Core) : ∀ fuel k, sampleEff (s.setCore n x) fuel k = sampleEff s fuel k
  | 0, _ => rfl
  | fuel + 1, k => by
    unfold sampleEff
    dsimp only
    rw [readRcb_setCore, sampleEff_setCore s n x fuel]

theorem eff_setCore (s : State) (n : Nat) (x : Core) (k : Nat) : (s.setCore n x).eff? k = s.eff? k := by
  unfold State.eff?
  rw [sampleEff_setCore, State.setCore_effs]

/-- The result of an instruction that has been performed is written, and the write leaves what `putLate` says. -/
theorem lateDst_put {f : Form} {x : Spec} {s : State} (v : Word) (c : Nat) (h : s.canTake f x) :
    lateDst f x v c s = .ok ((), s.putLate f x v c) := by
  unfold lateDst State.putLate
  rw [M.bind_ok (M.get_run _)]
  split
  · rfl
  · rename_i hp
    exact dst_put _ _ (h.resolve_left hp)

/-- Taking the local-store port changes neither order, routes, tile loads nor whether a register is armed. -/
@[simp] theorem ordered_portTaken (s : State) (p : Place) (o n : Nat) (st : Bool) :
    s.portTaken.ordered p o n st = s.ordered p o n st := rfl
@[simp] theorem windowOrd_portTaken (s : State) : s.portTaken.windowOrd = s.windowOrd := by
  unfold State.windowOrd
  rw [show s.portTaken.eff? s.portTaken.me.rcb = s.eff? s.me.rcb from eff_setCore s _ _ _]
@[simp] theorem tileHolds_portTaken (s : State) (p : Place) (n : Nat) : s.portTaken.tileHolds p n = s.tileHolds p n := rfl
@[simp] theorem hopRoom_portTaken (s : State) (n q : Nat) : s.portTaken.hopRoom n q = s.hopRoom n q := rfl
@[simp] theorem isArmed_portTaken (s : State) (x : Spec) : isArmed s.portTaken x = isArmed s x := by
  simp [State.portTaken, isArmed]
@[simp] theorem portHeld_portTaken (s : State) (c : Nat) : (s.portTaken.core (slotCore s.cur)).portHeld c
    = (s.core (slotCore s.cur)).portHeld c := by
  simp [State.portTaken, Core.portHeld, Core.portFirst]

/-- A destination is as writable after the port has been taken in the same cycle as before (R78). -/
theorem canWrite_portTaken (s : State) (f : Form) (d : Spec) : s.portTaken.canWrite f d = s.canWrite f d := by
  have hc : s.portTaken.cur = s.cur := rfl
  have hy : s.portTaken.cyc = s.cyc := rfl
  have hs (n : Nat) : s.portTaken.slot n = s.slot n := rfl
  have hm : s.portTaken.me = s.me := rfl
  unfold State.canWrite
  simp only [hc, hy, hs, hm, bufferAt_portTaken, ordered_portTaken, windowOrd_portTaken, tileHolds_portTaken,
    hopRoom_portTaken, isArmed_portTaken, portHeld_portTaken]

theorem touched_eq (s : State) (x : Spec) : s.touched x = if isHandle x then s.portTaken else s := rfl

/-- A read of an operand does not change whether a destination can be written. -/
theorem canWrite_touched (s : State) (x : Spec) (f : Form) (d : Spec) : (s.touched x).canWrite f d = s.canWrite f d := by
  rw [touched_eq]
  split
  · exact canWrite_portTaken s f d
  · rfl

theorem canWrite_touchedB (s : State) (f : Form) (x d : Spec) : (s.touchedB f x).canWrite f d = s.canWrite f d := by
  unfold State.touchedB
  split
  · rfl
  · exact canWrite_touched s x f d

@[simp] theorem State.touched_cur (s : State) (x : Spec) : (s.touched x).cur = s.cur := by
  unfold State.touched; split <;> rfl
@[simp] theorem State.touched_cyc (s : State) (x : Spec) : (s.touched x).cyc = s.cyc := by
  unfold State.touched; split <;> rfl
@[simp] theorem State.touched_mem (s : State) (x : Spec) : (s.touched x).mem = s.mem := by
  unfold State.touched; split <;> rfl
@[simp] theorem State.touched_me (s : State) (x : Spec) : (s.touched x).me = s.me := by
  unfold State.touched; split <;> rfl
@[simp] theorem State.touchedB_cur (s : State) (f : Form) (x : Spec) : (s.touchedB f x).cur = s.cur := by
  unfold State.touchedB; split <;> simp
@[simp] theorem State.touchedB_cyc (s : State) (f : Form) (x : Spec) : (s.touchedB f x).cyc = s.cyc := by
  unfold State.touchedB; split <;> simp
@[simp] theorem State.touchedB_mem (s : State) (f : Form) (x : Spec) : (s.touchedB f x).mem = s.mem := by
  unfold State.touchedB; split <;> simp
@[simp] theorem State.touchedB_me (s : State) (f : Form) (x : Spec) : (s.touchedB f x).me = s.me := by
  unfold State.touchedB; split <;> simp

theorem State.store_cur (s : State) (p : Place) (v n : Nat) : (s.store p v n).cur = s.cur := by
  unfold State.store; split <;> rfl

@[simp] theorem State.put_cur (s : State) (f : Form) (x : Spec) (v : Word) (lat : Nat) : (s.put f x v lat).cur = s.cur := by
  unfold State.put
  split
  · rfl
  · split
    · split
      · exact State.store_cur _ _ _ _
      · rfl
    · split
      · rfl
      · split
        · split <;> rfl
        · split <;> rfl

@[simp] theorem State.putPred_cur (s : State) (p : BitVec 5) (v : Bool) (lat : Nat) : (s.putPred p v lat).cur = s.cur := by
  unfold State.putPred; split <;> rfl

/-- A predicate is written, and the write leaves what `putPred` says. -/
theorem setPred_put (p : BitVec 5) (v : Bool) (lat : Nat) (s : State) : setPred p v lat s = .ok ((), s.putPred p v lat) := by
  unfold setPred State.putPred
  rw [M.bind_ok (M.get_run _)]
  split <;> rfl

/-- The two-operand integer instructions, read, computed and written. -/
theorem alu2_put {f : Form} {d a b : Spec} {s : State} {x y : Word} (op : Word → Word → Word) (lat : Nat)
    (ha : s.reads f a = some x) (hb : (s.touched a).readsB f b = some y) (hd : s.canWrite f d) :
    alu2 f d a b op lat s = .ok ((), ((s.touched a).touchedB f b).put f d (op x y) lat) := by
  unfold alu2
  rw [M.bind_ok (src_reads ha), M.bind_ok (srcB_reads hb)]
  exact dst_put _ _ (by rw [canWrite_touchedB, canWrite_touched]; exact hd)

/-- The one-source instructions. -/
theorem src_dst {f : Form} {d a : Spec} {s : State} {x : Word} (op : Word → Word) (lat : Nat)
    (ha : s.reads f a = some x) (hd : s.canWrite f d) :
    (do let v ← src f a; dst f d (op v) lat : M Unit) s = .ok ((), (s.touched a).put f d (op x) lat) := by
  rw [M.bind_ok (src_reads ha)]
  exact dst_put _ _ (by rw [canWrite_touched]; exact hd)

end Sys2Proof.Machine
end

