-- ==== Sys2Proof/Laws/PerInstr.lean ====
section
/-! SUPPORT. One law for every instruction: the fields of the base word, read by the opcode map, name the instruction again (R28, R41). Its
proof is a case of the round trip between the encoder and the decoder, one lemma a constructor. -/

namespace Sys2Proof.Laws

/-- The fields of a well-formed instruction name that instruction; the steps that have no words are not asked. -/
def Fields.Statement (i : Instr) : Prop := ∀ r, i.raw = some r → i.wf = true → r.instr = some i

theorem Fields.Statement.none {i : Instr} (h : i.raw = Option.none) : Fields.Statement i := by
  intro r e
  rw [h] at e
  cases e

theorem Fields.Statement.of {i : Instr} {r : Raw} (h : i.raw = some r)
    (k : r.wf = true → i.ownRow = false → r.instr = some i) : Fields.Statement i := by
  intro u e w
  rw [h] at e
  cases e
  unfold Instr.wf at w
  rw [h] at w
  simp only [Bool.and_eq_true, Bool.not_eq_true'] at w
  exact k w.1 w.2

theorem Fields.fields4_2 : ∀ o : BitVec 2, (0#4 ++ o).extractLsb' 2 4 = 0#4 ∧ (0#4 ++ o).extractLsb' 0 2 = o := by decide
theorem Fields.fields2_4 : ∀ o : BitVec 4, (0#2 ++ o).extractLsb' 4 2 = 0#2 ∧ (0#2 ++ o).extractLsb' 0 4 = o := by decide
theorem Fields.fields1_5 : ∀ (n : BitVec 1) (p : BitVec 5), (n ++ p).extractLsb' 5 1 = n ∧ (n ++ p).extractLsb' 0 5 = p := by decide
theorem Fields.fieldsWidth : ∀ (w : BitVec 2) (x : BitVec 4), (w ++ x).extractLsb' 4 2 = w ∧ (w ++ x).extractLsb' 0 4 = x := by decide
theorem Fields.fieldsLdx : ∀ (h : BitVec 2) (s : BitVec 1) (w : BitVec 2), (h ++ s ++ 0#1 ++ w).extractLsb' 2 2 ≠ 1#2 ∧
    (h ++ s ++ 0#1 ++ w).extractLsb' 2 1 = 0#1 ∧ (h ++ s ++ 0#1 ++ w).extractLsb' 4 2 = h ∧
    (h ++ s ++ 0#1 ++ w).extractLsb' 3 1 = s ∧ (h ++ s ++ 0#1 ++ w).extractLsb' 0 2 = w := by decide
theorem Fields.fieldsStx : ∀ (h : BitVec 2) (w : BitVec 2), (h ++ 1#2 ++ w).extractLsb' 2 2 = 1#2 ∧
    (h ++ 1#2 ++ w).extractLsb' 4 2 = h ∧ (h ++ 1#2 ++ w).extractLsb' 0 2 = w := by decide
theorem Fields.fieldsBat : ∀ (z : BitVec 1) (o : BitVec 4), (z ++ 0#1 ++ o).extractLsb' 5 1 = z ∧ (z ++ 0#1 ++ o).extractLsb' 4 1 = 0#1 ∧
    (z ++ 0#1 ++ o).extractLsb' 0 4 = o ∧ (o ≠ 9#4 → (z ++ 0#1 ++ o).extractLsb' 0 5 ≠ 9#5) := by decide
theorem Fields.fieldsFence : ∀ s : BitVec 3, (0#3 ++ s).extractLsb' 3 3 = 0#3 ∧ (0#3 ++ s).extractLsb' 0 3 = s := by decide
theorem Fields.fieldsKind : ∀ (k : BitVec 2) (e : BitVec 1), (k ++ e ++ 0#3).extractLsb' 0 3 = 0#3 ∧ (k ++ e ++ 0#3).extractLsb' 4 2 = k ∧
    (k ++ e ++ 0#3).extractLsb' 3 1 = e := by decide
theorem Fields.fieldsVatom : ∀ (o : BitVec 1) (p : BitVec 3), (o ++ 0#2 ++ p).extractLsb' 3 2 = 0#2 ∧ (o ++ 0#2 ++ p).extractLsb' 5 1 = o ∧
    (o ++ 0#2 ++ p).extractLsb' 0 3 = p := by decide
theorem Fields.fieldsTld : ∀ z g t : BitVec 1, (0#3 ++ z ++ g ++ t).extractLsb' 3 3 = 0#3 ∧ (0#3 ++ z ++ g ++ t).extractLsb' 2 1 = z ∧
    (0#3 ++ z ++ g ++ t).extractLsb' 1 1 = g ∧ (0#3 ++ z ++ g ++ t).extractLsb' 0 1 = t := by decide
theorem Fields.fieldsTmma : ∀ (c : BitVec 1) (t : BitVec 2), (c ++ 0#3 ++ t).extractLsb' 2 3 = 0#3 ∧ (c ++ 0#3 ++ t).extractLsb' 5 1 = c ∧
    (c ++ 0#3 ++ t).extractLsb' 0 2 = t := by decide

theorem Fields.join12 (i : BitVec 12) : i.extractLsb' 6 6 ++ i.extractLsb' 0 6 = i := by
  ext j hj
  simp only [BitVec.getElem_append, BitVec.getElem_extractLsb']
  split <;> simp_all

theorem Fields.join10 (i : BitVec 10) : i.extractLsb' 6 4 ++ i.extractLsb' 0 6 = i := by
  ext j hj
  simp only [BitVec.getElem_append, BitVec.getElem_extractLsb']
  split <;> simp_all

theorem Fields.join18 (i : BitVec 18) : i.extractLsb' 12 6 ++ i.extractLsb' 6 6 ++ i.extractLsb' 0 6 = i := by
  ext j hj
  simp only [BitVec.getElem_append, BitVec.getElem_extractLsb']
  by_cases a : j < 6
  · simp only [a, dite_true, Nat.zero_add]
    exact BitVec.getLsbD_eq_getElem _
  · by_cases b : j - 6 < 6
    · simp only [a, b, dite_false, dite_true]
      rw [show 6 + (j - 6) = j by omega, BitVec.getLsbD_eq_getElem]
    · simp only [a, b, dite_false]
      rw [show 12 + (j - 6 - 6) = j by omega, BitVec.getLsbD_eq_getElem]

theorem Fields.nop (f : Form) : Fields.Statement (.nop f) := by
  refine .of rfl (fun _ _ => ?_)
  change Raw.maj00 _ = _
  simp [Raw.maj00]
theorem Fields.yield (f : Form) : Fields.Statement (.yield f) := by
  refine .of rfl (fun _ _ => ?_)
  change Raw.maj00 _ = _
  simp [Raw.maj00]
theorem Fields.realign (f : Form) : Fields.Statement (.realign f) := by
  refine .of rfl (fun _ _ => ?_)
  change Raw.maj00 _ = _
  simp [Raw.maj00]
theorem Fields.add (d : Spec) (a : Spec) (b : Spec) (f : Form) : Fields.Statement (.add d a b f) := by
  refine .of rfl (fun _ _ => ?_)
  change Raw.maj01 _ = _
  simp [Raw.maj01]
theorem Fields.sub (d : Spec) (a : Spec) (b : Spec) (f : Form) : Fields.Statement (.sub d a b f) := by
  refine .of rfl (fun _ _ => ?_)
  change Raw.maj01 _ = _
  simp [Raw.maj01]
theorem Fields.and (d : Spec) (a : Spec) (b : Spec) (f : Form) : Fields.Statement (.and d a b f) := by
  refine .of rfl (fun _ _ => ?_)
  change Raw.maj01 _ = _
  simp [Raw.maj01]
theorem Fields.or (d : Spec) (a : Spec) (b : Spec) (f : Form) : Fields.Statement (.or d a b f) := by
  refine .of rfl (fun _ _ => ?_)
  change Raw.maj01 _ = _
  simp [Raw.maj01]
theorem Fields.xor (d : Spec) (a : Spec) (b : Spec) (f : Form) : Fields.Statement (.xor d a b f) := by
  refine .of rfl (fun _ _ => ?_)
  change Raw.maj01 _ = _
  simp [Raw.maj01]
theorem Fields.andn (d : Spec) (a : Spec) (b : Spec) (f : Form) : Fields.Statement (.andn d a b f) := by
  refine .of rfl (fun _ _ => ?_)
  change Raw.maj01 _ = _
  simp [Raw.maj01]
theorem Fields.shl (d : Spec) (a : Spec) (b : Spec) (f : Form) : Fields.Statement (.shl d a b f) := by
  refine .of rfl (fun _ _ => ?_)
  change Raw.maj01 _ = _
  simp [Raw.maj01]
theorem Fields.shr (d : Spec) (a : Spec) (b : Spec) (f : Form) : Fields.Statement (.shr d a b f) := by
  refine .of rfl (fun _ _ => ?_)
  change Raw.maj01 _ = _
  simp [Raw.maj01]
theorem Fields.sar (d : Spec) (a : Spec) (b : Spec) (f : Form) : Fields.Statement (.sar d a b f) := by
  refine .of rfl (fun _ _ => ?_)
  change Raw.maj01 _ = _
  simp [Raw.maj01]
theorem Fields.rol (d : Spec) (a : Spec) (b : Spec) (f : Form) : Fields.Statement (.rol d a b f) := by
  refine .of rfl (fun _ _ => ?_)
  change Raw.maj01 _ = _
  simp [Raw.maj01]
theorem Fields.min (d : Spec) (a : Spec) (b : Spec) (f : Form) : Fields.Statement (.min d a b f) := by
  refine .of rfl (fun _ _ => ?_)
  change Raw.maj01 _ = _
  simp [Raw.maj01]
theorem Fields.max (d : Spec) (a : Spec) (b : Spec) (f : Form) : Fields.Statement (.max d a b f) := by
  refine .of rfl (fun _ _ => ?_)
  change Raw.maj01 _ = _
  simp [Raw.maj01]
theorem Fields.minn (d : Spec) (a : Spec) (b : Spec) (f : Form) : Fields.Statement (.minn d a b f) := by
  refine .of rfl (fun _ _ => ?_)
  change Raw.maj01 _ = _
  simp [Raw.maj01]
theorem Fields.maxn (d : Spec) (a : Spec) (b : Spec) (f : Form) : Fields.Statement (.maxn d a b f) := by
  refine .of rfl (fun _ _ => ?_)
  change Raw.maj01 _ = _
  simp [Raw.maj01]
theorem Fields.mul (d : Spec) (a : Spec) (b : Spec) (f : Form) : Fields.Statement (.mul d a b f) := by
  refine .of rfl (fun _ _ => ?_)
  change Raw.maj01 _ = _
  simp [Raw.maj01]
theorem Fields.mulh (d : Spec) (a : Spec) (b : Spec) (f : Form) : Fields.Statement (.mulh d a b f) := by
  refine .of rfl (fun _ _ => ?_)
  change Raw.maj01 _ = _
  simp [Raw.maj01]
theorem Fields.mulhn (d : Spec) (a : Spec) (b : Spec) (f : Form) : Fields.Statement (.mulhn d a b f) := by
  refine .of rfl (fun _ _ => ?_)
  change Raw.maj01 _ = _
  simp [Raw.maj01]
theorem Fields.div (d : Spec) (a : Spec) (b : Spec) (f : Form) : Fields.Statement (.div d a b f) := by
  refine .of rfl (fun _ _ => ?_)
  change Raw.maj01 _ = _
  simp [Raw.maj01]
theorem Fields.divn (d : Spec) (a : Spec) (b : Spec) (f : Form) : Fields.Statement (.divn d a b f) := by
  refine .of rfl (fun _ _ => ?_)
  change Raw.maj01 _ = _
  simp [Raw.maj01]
theorem Fields.rem (d : Spec) (a : Spec) (b : Spec) (f : Form) : Fields.Statement (.rem d a b f) := by
  refine .of rfl (fun _ _ => ?_)
  change Raw.maj01 _ = _
  simp [Raw.maj01]
theorem Fields.remn (d : Spec) (a : Spec) (b : Spec) (f : Form) : Fields.Statement (.remn d a b f) := by
  refine .of rfl (fun _ _ => ?_)
  change Raw.maj01 _ = _
  simp [Raw.maj01]
theorem Fields.clz (d : Spec) (a : Spec) (f : Form) : Fields.Statement (.clz d a f) := by
  refine .of rfl (fun _ _ => ?_)
  change Raw.maj01 _ = _
  simp [Raw.maj01]
theorem Fields.popc (d : Spec) (a : Spec) (f : Form) : Fields.Statement (.popc d a f) := by
  refine .of rfl (fun _ _ => ?_)
  change Raw.maj01 _ = _
  simp [Raw.maj01]
theorem Fields.ctz (d : Spec) (a : Spec) (f : Form) : Fields.Statement (.ctz d a f) := by
  refine .of rfl (fun _ _ => ?_)
  change Raw.maj01 _ = _
  simp [Raw.maj01]
theorem Fields.addi (d : Spec) (a : Spec) (i : BitVec 12) (f : Form) : Fields.Statement (.addi d a i f) := by
  refine .of rfl (fun _ _ => ?_)
  change Raw.maj02 _ = _
  simp [Raw.maj02, join12]
theorem Fields.andi (d : Spec) (a : Spec) (i : BitVec 12) (f : Form) : Fields.Statement (.andi d a i f) := by
  refine .of rfl (fun _ _ => ?_)
  change Raw.maj03 _ = _
  simp [Raw.maj03, join12]
theorem Fields.ori (d : Spec) (a : Spec) (i : BitVec 12) (f : Form) : Fields.Statement (.ori d a i f) := by
  refine .of rfl (fun _ _ => ?_)
  change Raw.maj04 _ = _
  simp [Raw.maj04, join12]
theorem Fields.xori (d : Spec) (a : Spec) (i : BitVec 12) (f : Form) : Fields.Statement (.xori d a i f) := by
  refine .of rfl (fun _ _ => ?_)
  change Raw.maj05 _ = _
  simp [Raw.maj05, join12]
theorem Fields.shfi (d : Spec) (a : Spec) (o : BitVec 2) (n : BitVec 6) (f : Form) : Fields.Statement (.shfi d a o n f) := by
  refine .of rfl (fun _ _ => ?_)
  change Raw.maj06 _ = _
  simp [Raw.maj06, fields4_2]
theorem Fields.movi (d : Spec) (i : BitVec 12) (f : Form) : Fields.Statement (.movi d i f) := by
  refine .of rfl (fun _ _ => ?_)
  change Raw.maj07 _ = _
  simp [Raw.maj07, join12]
theorem Fields.cmp (d : Spec) (a : Spec) (b : Spec) (c : BitVec 6) (f : Form) : Fields.Statement (.cmp d a b c f) := by
  refine .of rfl (fun _ _ => ?_)
  change Raw.maj08 _ = _
  simp [Raw.maj08]
theorem Fields.cmpi (d : Spec) (a : Spec) (c : BitVec 6) (i : BitVec 6) (f : Form) : Fields.Statement (.cmpi d a c i f) := by
  refine .of rfl (fun _ _ => ?_)
  change Raw.maj09 _ = _
  simp [Raw.maj09]
theorem Fields.pand (d : Spec) (a : Spec) (b : Spec) (f : Form) : Fields.Statement (.pand d a b f) := by
  refine .of rfl (fun _ _ => ?_)
  change Raw.maj0A _ = _
  simp [Raw.maj0A]
theorem Fields.por (d : Spec) (a : Spec) (b : Spec) (f : Form) : Fields.Statement (.por d a b f) := by
  refine .of rfl (fun _ _ => ?_)
  change Raw.maj0A _ = _
  simp [Raw.maj0A]
theorem Fields.pxor (d : Spec) (a : Spec) (b : Spec) (f : Form) : Fields.Statement (.pxor d a b f) := by
  refine .of rfl (fun _ _ => ?_)
  change Raw.maj0A _ = _
  simp [Raw.maj0A]
theorem Fields.pandn (d : Spec) (a : Spec) (b : Spec) (f : Form) : Fields.Statement (.pandn d a b f) := by
  refine .of rfl (fun _ _ => ?_)
  change Raw.maj0A _ = _
  simp [Raw.maj0A]
theorem Fields.pnot (d : Spec) (a : Spec) (f : Form) : Fields.Statement (.pnot d a f) := by
  refine .of rfl (fun _ _ => ?_)
  change Raw.maj0A _ = _
  simp [Raw.maj0A]
theorem Fields.pset (d : Spec) (f : Form) : Fields.Statement (.pset d f) := by
  refine .of rfl (fun _ _ => ?_)
  change Raw.maj0A _ = _
  simp [Raw.maj0A]
theorem Fields.pclr (d : Spec) (f : Form) : Fields.Statement (.pclr d f) := by
  refine .of rfl (fun _ _ => ?_)
  change Raw.maj0A _ = _
  simp [Raw.maj0A]
theorem Fields.pmovr (d : Spec) (f : Form) : Fields.Statement (.pmovr d f) := by
  refine .of rfl (fun _ _ => ?_)
  change Raw.maj0A _ = _
  simp [Raw.maj0A]
theorem Fields.pmovw (a : Spec) (f : Form) : Fields.Statement (.pmovw a f) := by
  refine .of rfl (fun _ _ => ?_)
  change Raw.maj0A _ = _
  simp [Raw.maj0A]
theorem Fields.sel (d : Spec) (a : Spec) (b : Spec) (n : BitVec 1) (p : BitVec 5) (f : Form) : Fields.Statement (.sel d a b n p f) := by
  refine .of rfl (fun _ _ => ?_)
  change Raw.maj0B _ = _
  simp [Raw.maj0B, fields1_5]
theorem Fields.lea (d : Spec) (a : Spec) (b : Spec) (s : BitVec 2) (f : Form) : Fields.Statement (.lea d a b s f) := by
  refine .of rfl (fun _ _ => ?_)
  change Raw.maj0C _ = _
  simp [Raw.maj0C, fields4_2]
theorem Fields.bitf (d : Spec) (b : Spec) (f : Form) : Fields.Statement (.bitf d b f) := by
  refine .of rfl (fun _ _ => ?_)
  change Raw.maj0D _ = _
  simp [Raw.maj0D]
theorem Fields.br (g : BitVec 1) (p : BitVec 5) (o : BitVec 18) : Fields.Statement (.br g p o) := by
  refine .of rfl (fun _ _ => ?_)
  change Raw.maj0E _ = _
  simp [Raw.maj0E, fields1_5, join18]
theorem Fields.call (g : BitVec 1) (p : BitVec 5) (o : BitVec 18) : Fields.Statement (.call g p o) := by
  refine .of rfl (fun _ _ => ?_)
  change Raw.maj0F _ = _
  simp [Raw.maj0F, fields1_5, join18]
theorem Fields.jmpr (a : Spec) (f : Form) : Fields.Statement (.jmpr a f) := by
  refine .of rfl (fun _ _ => ?_)
  change Raw.maj10 _ = _
  simp [Raw.maj10]
theorem Fields.callg (d : Spec) (a : Spec) (f : Form) : Fields.Statement (.callg d a f) := by
  refine .of rfl (fun _ _ => ?_)
  change Raw.maj10 _ = _
  simp [Raw.maj10]
theorem Fields.ret (a : Spec) (f : Form) : Fields.Statement (.ret a f) := by
  refine .of rfl (fun _ _ => ?_)
  change Raw.maj10 _ = _
  simp [Raw.maj10]
theorem Fields.callrm (d : Spec) (a : Spec) (b : Spec) (f : Form) : Fields.Statement (.callrm d a b f) := by
  refine .of rfl (fun _ _ => ?_)
  change Raw.maj10 _ = _
  simp [Raw.maj10]
theorem Fields.reply (a : Spec) (b : Spec) (f : Form) : Fields.Statement (.reply a b f) := by
  refine .of rfl (fun _ _ => ?_)
  change Raw.maj10 _ = _
  simp [Raw.maj10]
theorem Fields.wpset (a : Spec) (f : Form) : Fields.Statement (.wpset a f) := by
  refine .of rfl (fun _ _ => ?_)
  change Raw.maj10 _ = _
  simp [Raw.maj10]
theorem Fields.semwait (n : BitVec 4) (f : Form) : Fields.Statement (.semwait n f) := by
  refine .of rfl (fun _ _ => ?_)
  change Raw.maj10 _ = _
  simp [Raw.maj10, fields2_4]
theorem Fields.sempost (n : BitVec 4) (f : Form) : Fields.Statement (.sempost n f) := by
  refine .of rfl (fun _ _ => ?_)
  change Raw.maj10 _ = _
  simp [Raw.maj10, fields2_4]
theorem Fields.ld (d : Spec) (a : Spec) (w : BitVec 2) (o : BitVec 10) (f : Form) : Fields.Statement (.ld d a w o f) := by
  refine .of rfl (fun _ _ => ?_)
  change Raw.maj11 _ = _
  simp [Raw.maj11, fieldsWidth, join10]
theorem Fields.lds (d : Spec) (a : Spec) (w : BitVec 2) (o : BitVec 10) (f : Form) : Fields.Statement (.lds d a w o f) := by
  refine .of rfl (fun _ _ => ?_)
  change Raw.maj12 _ = _
  simp [Raw.maj12, fieldsWidth, join10]
theorem Fields.st (d : Spec) (a : Spec) (w : BitVec 2) (o : BitVec 10) (f : Form) : Fields.Statement (.st d a w o f) := by
  refine .of rfl (fun _ _ => ?_)
  change Raw.maj13 _ = _
  simp [Raw.maj13, fieldsWidth, join10]
theorem Fields.ldx (d : Spec) (a : Spec) (b : Spec) (h : BitVec 2) (s : BitVec 1) (w : BitVec 2) (f : Form) : Fields.Statement (.ldx d a b h s w f) := by
  refine .of rfl (fun _ _ => ?_)
  change Raw.maj14 _ = _
  simp [Raw.maj14, fieldsLdx]
theorem Fields.stx (d : Spec) (a : Spec) (b : Spec) (h : BitVec 2) (w : BitVec 2) (f : Form) : Fields.Statement (.stx d a b h w f) := by
  refine .of rfl (fun _ _ => ?_)
  change Raw.maj14 _ = _
  simp [Raw.maj14, fieldsStx]
theorem Fields.bat (d : Spec) (a : Spec) (b : Spec) (z : BitVec 1) (o : BitVec 4) (f : Form) : Fields.Statement (.bat d a b z o f) := by
  refine .of rfl (fun _ ho => ?_)
  simp only [Instr.ownRow, decide_eq_false_iff_not] at ho
  change Raw.maj15 _ = _
  simp [Raw.maj15, fieldsBat, (Fields.fieldsBat _ _).2.2.2 ho]
theorem Fields.batCas (d : Spec) (a : Spec) (b : Spec) (z : BitVec 1) (f : Form) : Fields.Statement (.batCas d a b z f) := by
  refine .of rfl (fun _ _ => ?_)
  change Raw.maj15 _ = _
  simp [Raw.maj15, fields1_5]
theorem Fields.bst (a : Spec) (b : Spec) (f : Form) : Fields.Statement (.bst a b f) := by
  refine .of rfl (fun _ _ => ?_)
  change Raw.maj16 _ = _
  simp [Raw.maj16]
theorem Fields.bld (a : Spec) (b : Spec) (f : Form) : Fields.Statement (.bld a b f) := by
  refine .of rfl (fun _ _ => ?_)
  change Raw.maj16 _ = _
  simp [Raw.maj16]
theorem Fields.waitw (d : Spec) (a : Spec) (b : Spec) (c : BitVec 6) (f : Form) : Fields.Statement (.waitw d a b c f) := by
  refine .of rfl (fun _ _ => ?_)
  change Raw.maj17 _ = _
  simp [Raw.maj17]
theorem Fields.seal (a : Spec) (b : Spec) (f : Form) : Fields.Statement (.seal a b f) := by
  refine .of rfl (fun _ _ => ?_)
  change Raw.maj18 _ = _
  simp [Raw.maj18]
theorem Fields.unseal (a : Spec) (b : Spec) (f : Form) : Fields.Statement (.unseal a b f) := by
  refine .of rfl (fun _ _ => ?_)
  change Raw.maj18 _ = _
  simp [Raw.maj18]
theorem Fields.wturn (a : Spec) (f : Form) : Fields.Statement (.wturn a f) := by
  refine .of rfl (fun _ _ => ?_)
  change Raw.maj18 _ = _
  simp [Raw.maj18]
theorem Fields.turnq (d : Spec) (a : Spec) (f : Form) : Fields.Statement (.turnq d a f) := by
  refine .of rfl (fun _ _ => ?_)
  change Raw.maj18 _ = _
  simp [Raw.maj18]
theorem Fields.rld (d : Spec) (a : Spec) (f : Form) : Fields.Statement (.rld d a f) := by
  refine .of rfl (fun _ _ => ?_)
  change Raw.maj19 _ = _
  simp [Raw.maj19]
theorem Fields.rst (a : Spec) (b : Spec) (f : Form) : Fields.Statement (.rst a b f) := by
  refine .of rfl (fun _ _ => ?_)
  change Raw.maj19 _ = _
  simp [Raw.maj19]
theorem Fields.rldv (d : Spec) (a : Spec) (f : Form) : Fields.Statement (.rldv d a f) := by
  refine .of rfl (fun _ _ => ?_)
  change Raw.maj19 _ = _
  simp [Raw.maj19]
theorem Fields.rstv (a : Spec) (b : Spec) (f : Form) : Fields.Statement (.rstv a b f) := by
  refine .of rfl (fun _ _ => ?_)
  change Raw.maj19 _ = _
  simp [Raw.maj19]
theorem Fields.rat (d : Spec) (a : Spec) (b : Spec) (f : Form) : Fields.Statement (.rat d a b f) := by
  refine .of rfl (fun _ _ => ?_)
  change Raw.maj19 _ = _
  simp [Raw.maj19]
theorem Fields.pbind (d : Spec) (a : Spec) (f : Form) : Fields.Statement (.pbind d a f) := by
  refine .of rfl (fun _ _ => ?_)
  change Raw.maj1A _ = _
  simp [Raw.maj1A]
theorem Fields.mcast (d : Spec) (a : Spec) (b : Spec) (f : Form) : Fields.Statement (.mcast d a b f) := by
  refine .of rfl (fun _ _ => ?_)
  change Raw.maj1A _ = _
  simp [Raw.maj1A]
theorem Fields.pclose (a : Spec) (f : Form) : Fields.Statement (.pclose a f) := by
  refine .of rfl (fun _ _ => ?_)
  change Raw.maj1A _ = _
  simp [Raw.maj1A]
theorem Fields.pstat (d : Spec) (a : Spec) (f : Form) : Fields.Statement (.pstat d a f) := by
  refine .of rfl (fun _ _ => ?_)
  change Raw.maj1A _ = _
  simp [Raw.maj1A]
theorem Fields.cpfwd (d : Spec) (a : Spec) (b : Spec) (f : Form) : Fields.Statement (.cpfwd d a b f) := by
  refine .of rfl (fun _ _ => ?_)
  change Raw.maj1B _ = _
  simp [Raw.maj1B]
theorem Fields.cpwait (d : Spec) (a : Spec) (b : Spec) (f : Form) : Fields.Statement (.cpwait d a b f) := by
  refine .of rfl (fun _ _ => ?_)
  change Raw.maj1B _ = _
  simp [Raw.maj1B]
theorem Fields.cbinit (d : Spec) (a : Spec) (b : Spec) (f : Form) : Fields.Statement (.cbinit d a b f) := by
  refine .of rfl (fun _ _ => ?_)
  change Raw.maj1B _ = _
  simp [Raw.maj1B]
theorem Fields.cbprod (d : Spec) (a : Spec) (b : Spec) (f : Form) : Fields.Statement (.cbprod d a b f) := by
  refine .of rfl (fun _ _ => ?_)
  change Raw.maj1B _ = _
  simp [Raw.maj1B]
theorem Fields.cbcons (d : Spec) (a : Spec) (b : Spec) (f : Form) : Fields.Statement (.cbcons d a b f) := by
  refine .of rfl (fun _ _ => ?_)
  change Raw.maj1B _ = _
  simp [Raw.maj1B]
theorem Fields.cbstat (d : Spec) (a : Spec) (f : Form) : Fields.Statement (.cbstat d a f) := by
  refine .of rfl (fun _ _ => ?_)
  change Raw.maj1B _ = _
  simp [Raw.maj1B]
theorem Fields.fence (s : BitVec 3) (k : BitVec 2) (e : BitVec 1) (f : Form) : Fields.Statement (.fence s k e f) := by
  refine .of rfl (fun _ _ => ?_)
  change Raw.maj1C _ = _
  simp [Raw.maj1C, fieldsFence, fieldsKind]
theorem Fields.bari (a : Spec) (b : Spec) (f : Form) : Fields.Statement (.bari a b f) := by
  refine .of rfl (fun _ _ => ?_)
  change Raw.maj1C _ = _
  simp [Raw.maj1C]
theorem Fields.bara (d : Spec) (a : Spec) (b : Spec) (f : Form) : Fields.Statement (.bara d a b f) := by
  refine .of rfl (fun _ _ => ?_)
  change Raw.maj1C _ = _
  simp [Raw.maj1C]
theorem Fields.barw (a : Spec) (b : Spec) (f : Form) : Fields.Statement (.barw a b f) := by
  refine .of rfl (fun _ _ => ?_)
  change Raw.maj1C _ = _
  simp [Raw.maj1C]
theorem Fields.bart (d : Spec) (a : Spec) (f : Form) : Fields.Statement (.bart d a f) := by
  refine .of rfl (fun _ _ => ?_)
  change Raw.maj1C _ = _
  simp [Raw.maj1C]
theorem Fields.spawn (d : Spec) (a : Spec) (b : Spec) (f : Form) : Fields.Statement (.spawn d a b f) := by
  refine .of rfl (fun _ _ => ?_)
  change Raw.maj1D _ = _
  simp [Raw.maj1D]
theorem Fields.enq (a : Spec) (b : Spec) (f : Form) : Fields.Statement (.enq a b f) := by
  refine .of rfl (fun _ _ => ?_)
  change Raw.maj1D _ = _
  simp [Raw.maj1D]
theorem Fields.park (a : Spec) (b : Spec) (f : Form) : Fields.Statement (.park a b f) := by
  refine .of rfl (fun _ _ => ?_)
  change Raw.maj1D _ = _
  simp [Raw.maj1D]
theorem Fields.endT (f : Form) : Fields.Statement (.endT f) := by
  refine .of rfl (fun _ _ => ?_)
  change Raw.maj1D _ = _
  simp [Raw.maj1D]
theorem Fields.migr (a : Spec) (f : Form) : Fields.Statement (.migr a f) := by
  refine .of rfl (fun _ _ => ?_)
  change Raw.maj1D _ = _
  simp [Raw.maj1D]
theorem Fields.disp (d : Spec) (f : Form) : Fields.Statement (.disp d f) := by
  refine .of rfl (fun _ _ => ?_)
  change Raw.maj1D _ = _
  simp [Raw.maj1D]
theorem Fields.tdone (a : Spec) (f : Form) : Fields.Statement (.tdone a f) := by
  refine .of rfl (fun _ _ => ?_)
  change Raw.maj1D _ = _
  simp [Raw.maj1D]
theorem Fields.planw (a : Spec) (f : Form) : Fields.Statement (.planw a f) := by
  refine .of rfl (fun _ _ => ?_)
  change Raw.maj1D _ = _
  simp [Raw.maj1D]
theorem Fields.plansw (d : Spec) (f : Form) : Fields.Statement (.plansw d f) := by
  refine .of rfl (fun _ _ => ?_)
  change Raw.maj1D _ = _
  simp [Raw.maj1D]
theorem Fields.rgsync (a : Spec) (f : Form) : Fields.Statement (.rgsync a f) := by
  refine .of rfl (fun _ _ => ?_)
  change Raw.maj1D _ = _
  simp [Raw.maj1D]
theorem Fields.rgenter (a : Spec) (f : Form) : Fields.Statement (.rgenter a f) := by
  refine .of rfl (fun _ _ => ?_)
  change Raw.maj1D _ = _
  simp [Raw.maj1D]
theorem Fields.rgexit (f : Form) : Fields.Statement (.rgexit f) := by
  refine .of rfl (fun _ _ => ?_)
  change Raw.maj1D _ = _
  simp [Raw.maj1D]
theorem Fields.trel (a : Spec) (f : Form) : Fields.Statement (.trel a f) := by
  refine .of rfl (fun _ _ => ?_)
  change Raw.maj1D _ = _
  simp [Raw.maj1D]
theorem Fields.isclaim (d : Spec) (f : Form) : Fields.Statement (.isclaim d f) := by
  refine .of rfl (fun _ _ => ?_)
  change Raw.maj1E _ = _
  simp [Raw.maj1E]
theorem Fields.isrel (f : Form) : Fields.Statement (.isrel f) := by
  refine .of rfl (fun _ _ => ?_)
  change Raw.maj1E _ = _
  simp [Raw.maj1E]
theorem Fields.iswin (a : Spec) (f : Form) : Fields.Statement (.iswin a f) := by
  refine .of rfl (fun _ _ => ?_)
  change Raw.maj1E _ = _
  simp [Raw.maj1E]
theorem Fields.ismode (a : Spec) (f : Form) : Fields.Statement (.ismode a f) := by
  refine .of rfl (fun _ _ => ?_)
  change Raw.maj1E _ = _
  simp [Raw.maj1E]
theorem Fields.isldw (a : Spec) (f : Form) : Fields.Statement (.isldw a f) := by
  refine .of rfl (fun _ _ => ?_)
  change Raw.maj1E _ = _
  simp [Raw.maj1E]
theorem Fields.isldv (a : Spec) (f : Form) : Fields.Statement (.isldv a f) := by
  refine .of rfl (fun _ _ => ?_)
  change Raw.maj1E _ = _
  simp [Raw.maj1E]
theorem Fields.isgo (a : Spec) (f : Form) : Fields.Statement (.isgo a f) := by
  refine .of rfl (fun _ _ => ?_)
  change Raw.maj1E _ = _
  simp [Raw.maj1E]
theorem Fields.iscap (a : Spec) (b : Spec) (f : Form) : Fields.Statement (.iscap a b f) := by
  refine .of rfl (fun _ _ => ?_)
  change Raw.maj1E _ = _
  simp [Raw.maj1E]
theorem Fields.isclr (f : Form) : Fields.Statement (.isclr f) := by
  refine .of rfl (fun _ _ => ?_)
  change Raw.maj1E _ = _
  simp [Raw.maj1E]
theorem Fields.getc (d : Spec) (r : BitVec 12) (f : Form) : Fields.Statement (.getc d r f) := by
  refine .of rfl (fun _ ho => ?_)
  simp only [Instr.ownRow, List.contains_cons, List.contains_nil, Bool.or_eq_false_iff, beq_eq_false_iff_ne] at ho
  obtain ⟨h1, h2, h3, -⟩ := ho
  change Raw.maj1F _ = _
  unfold Raw.maj1F
  rw [if_pos rfl, if_neg h1, if_neg h2, if_neg h3]
  exact congrArg some (congrArg (Instr.getc d · f) (Fields.join12 _))
theorem Fields.setc (a : Spec) (r : BitVec 12) (f : Form) : Fields.Statement (.setc a r f) := by
  refine .of rfl (fun _ ho => ?_)
  simp only [Instr.ownRow, List.contains_cons, List.contains_nil, Bool.or_eq_false_iff, beq_eq_false_iff_ne] at ho
  obtain ⟨h4, h1, h2, h3, -⟩ := ho
  change Raw.maj20 _ = _
  unfold Raw.maj20
  rw [if_pos rfl, if_neg h1, if_neg h2, if_neg h3, if_neg h4]
  exact congrArg some (congrArg (Instr.setc a · f) (Fields.join12 _))
theorem Fields.cpLaunch (d : Spec) (f : Form) : Fields.Statement (.cpLaunch d f) := by
  refine .of rfl (fun _ ho => ?_)
  cases f <;> simp [Instr.ownRow, Raw.creg, Raw.number] at ho <;> simp [ho, Raw.instr, Raw.maj1F, Raw.creg, Raw.number]
theorem Fields.trap (a : Spec) (f : Form) : Fields.Statement (.trap a f) := by
  refine .of rfl (fun _ _ => ?_)
  change Raw.maj21 _ = _
  simp [Raw.maj21]
theorem Fields.eret (f : Form) : Fields.Statement (.eret f) := by
  refine .of rfl (fun _ _ => ?_)
  change Raw.maj21 _ = _
  simp [Raw.maj21]
theorem Fields.tlbinv (a : Spec) (b : Spec) (f : Form) : Fields.Statement (.tlbinv a b f) := by
  refine .of rfl (fun _ _ => ?_)
  change Raw.maj21 _ = _
  simp [Raw.maj21]
theorem Fields.whlset (a : Spec) (b : Spec) (f : Form) : Fields.Statement (.whlset a b f) := by
  refine .of rfl (fun _ _ => ?_)
  change Raw.maj21 _ = _
  simp [Raw.maj21]
theorem Fields.whlsw (a : Spec) (f : Form) : Fields.Statement (.whlsw a f) := by
  refine .of rfl (fun _ _ => ?_)
  change Raw.maj21 _ = _
  simp [Raw.maj21]
theorem Fields.bankret (a : Spec) (f : Form) : Fields.Statement (.bankret a f) := by
  refine .of rfl (fun _ _ => ?_)
  change Raw.maj21 _ = _
  simp [Raw.maj21]
theorem Fields.dbrk (f : Form) : Fields.Statement (.dbrk f) := by
  refine .of rfl (fun _ _ => ?_)
  change Raw.maj21 _ = _
  simp [Raw.maj21]
theorem Fields.tracew (a : Spec) (f : Form) : Fields.Statement (.tracew a f) := by
  refine .of rfl (fun _ _ => ?_)
  change Raw.maj21 _ = _
  simp [Raw.maj21]
theorem Fields.vld (d : Spec) (a : Spec) (i : BitVec 12) (f : Form) : Fields.Statement (.vld d a i f) := by
  refine .of rfl (fun _ _ => ?_)
  change Raw.maj24 _ = _
  simp [Raw.maj24, join12]
theorem Fields.vst (d : Spec) (a : Spec) (i : BitVec 12) (f : Form) : Fields.Statement (.vst d a i f) := by
  refine .of rfl (fun _ _ => ?_)
  change Raw.maj25 _ = _
  simp [Raw.maj25, join12]
theorem Fields.vldx (d : Spec) (a : Spec) (b : Spec) (f : Form) : Fields.Statement (.vldx d a b f) := by
  refine .of rfl (fun _ _ => ?_)
  change Raw.maj26 _ = _
  simp [Raw.maj26]
theorem Fields.vstx (d : Spec) (a : Spec) (b : Spec) (f : Form) : Fields.Statement (.vstx d a b f) := by
  refine .of rfl (fun _ _ => ?_)
  change Raw.maj26 _ = _
  simp [Raw.maj26]
theorem Fields.vadd (d : Spec) (a : Spec) (b : Spec) (f : Form) : Fields.Statement (.vadd d a b f) := by
  refine .of rfl (fun _ _ => ?_)
  change Raw.maj27 _ = _
  simp [Raw.maj27]
theorem Fields.vsub (d : Spec) (a : Spec) (b : Spec) (f : Form) : Fields.Statement (.vsub d a b f) := by
  refine .of rfl (fun _ _ => ?_)
  change Raw.maj27 _ = _
  simp [Raw.maj27]
theorem Fields.vmul (d : Spec) (a : Spec) (b : Spec) (f : Form) : Fields.Statement (.vmul d a b f) := by
  refine .of rfl (fun _ _ => ?_)
  change Raw.maj27 _ = _
  simp [Raw.maj27]
theorem Fields.vdiv (d : Spec) (a : Spec) (b : Spec) (f : Form) : Fields.Statement (.vdiv d a b f) := by
  refine .of rfl (fun _ _ => ?_)
  change Raw.maj27 _ = _
  simp [Raw.maj27]
theorem Fields.vmin (d : Spec) (a : Spec) (b : Spec) (f : Form) : Fields.Statement (.vmin d a b f) := by
  refine .of rfl (fun _ _ => ?_)
  change Raw.maj27 _ = _
  simp [Raw.maj27]
theorem Fields.vmax (d : Spec) (a : Spec) (b : Spec) (f : Form) : Fields.Statement (.vmax d a b f) := by
  refine .of rfl (fun _ _ => ?_)
  change Raw.maj27 _ = _
  simp [Raw.maj27]
theorem Fields.vsqrt (d : Spec) (a : Spec) (f : Form) : Fields.Statement (.vsqrt d a f) := by
  refine .of rfl (fun _ _ => ?_)
  change Raw.maj27 _ = _
  simp [Raw.maj27]
theorem Fields.vrcp (d : Spec) (a : Spec) (f : Form) : Fields.Statement (.vrcp d a f) := by
  refine .of rfl (fun _ _ => ?_)
  change Raw.maj27 _ = _
  simp [Raw.maj27]
theorem Fields.vrsq (d : Spec) (a : Spec) (f : Form) : Fields.Statement (.vrsq d a f) := by
  refine .of rfl (fun _ _ => ?_)
  change Raw.maj27 _ = _
  simp [Raw.maj27]
theorem Fields.vexp2 (d : Spec) (a : Spec) (f : Form) : Fields.Statement (.vexp2 d a f) := by
  refine .of rfl (fun _ _ => ?_)
  change Raw.maj27 _ = _
  simp [Raw.maj27]
theorem Fields.vlog2 (d : Spec) (a : Spec) (f : Form) : Fields.Statement (.vlog2 d a f) := by
  refine .of rfl (fun _ _ => ?_)
  change Raw.maj27 _ = _
  simp [Raw.maj27]
theorem Fields.vabs (d : Spec) (a : Spec) (f : Form) : Fields.Statement (.vabs d a f) := by
  refine .of rfl (fun _ _ => ?_)
  change Raw.maj27 _ = _
  simp [Raw.maj27]
theorem Fields.vneg (d : Spec) (a : Spec) (f : Form) : Fields.Statement (.vneg d a f) := by
  refine .of rfl (fun _ _ => ?_)
  change Raw.maj27 _ = _
  simp [Raw.maj27]
theorem Fields.vrint (d : Spec) (a : Spec) (f : Form) : Fields.Statement (.vrint d a f) := by
  refine .of rfl (fun _ _ => ?_)
  change Raw.maj27 _ = _
  simp [Raw.maj27]
theorem Fields.vfma (d : Spec) (a : Spec) (b : Spec) (f : Form) : Fields.Statement (.vfma d a b f) := by
  refine .of rfl (fun _ _ => ?_)
  change Raw.maj28 _ = _
  simp [Raw.maj28]
theorem Fields.vfms (d : Spec) (a : Spec) (b : Spec) (f : Form) : Fields.Statement (.vfms d a b f) := by
  refine .of rfl (fun _ _ => ?_)
  change Raw.maj28 _ = _
  simp [Raw.maj28]
theorem Fields.vfnma (d : Spec) (a : Spec) (b : Spec) (f : Form) : Fields.Statement (.vfnma d a b f) := by
  refine .of rfl (fun _ _ => ?_)
  change Raw.maj28 _ = _
  simp [Raw.maj28]
theorem Fields.viadd (d : Spec) (a : Spec) (b : Spec) (f : Form) : Fields.Statement (.viadd d a b f) := by
  refine .of rfl (fun _ _ => ?_)
  change Raw.maj29 _ = _
  simp [Raw.maj29]
theorem Fields.visub (d : Spec) (a : Spec) (b : Spec) (f : Form) : Fields.Statement (.visub d a b f) := by
  refine .of rfl (fun _ _ => ?_)
  change Raw.maj29 _ = _
  simp [Raw.maj29]
theorem Fields.vimul (d : Spec) (a : Spec) (b : Spec) (f : Form) : Fields.Statement (.vimul d a b f) := by
  refine .of rfl (fun _ _ => ?_)
  change Raw.maj29 _ = _
  simp [Raw.maj29]
theorem Fields.vimulh (d : Spec) (a : Spec) (b : Spec) (f : Form) : Fields.Statement (.vimulh d a b f) := by
  refine .of rfl (fun _ _ => ?_)
  change Raw.maj29 _ = _
  simp [Raw.maj29]
theorem Fields.vand (d : Spec) (a : Spec) (b : Spec) (f : Form) : Fields.Statement (.vand d a b f) := by
  refine .of rfl (fun _ _ => ?_)
  change Raw.maj29 _ = _
  simp [Raw.maj29]
theorem Fields.vor (d : Spec) (a : Spec) (b : Spec) (f : Form) : Fields.Statement (.vor d a b f) := by
  refine .of rfl (fun _ _ => ?_)
  change Raw.maj29 _ = _
  simp [Raw.maj29]
theorem Fields.vxor (d : Spec) (a : Spec) (b : Spec) (f : Form) : Fields.Statement (.vxor d a b f) := by
  refine .of rfl (fun _ _ => ?_)
  change Raw.maj29 _ = _
  simp [Raw.maj29]
theorem Fields.vshl (d : Spec) (a : Spec) (b : Spec) (f : Form) : Fields.Statement (.vshl d a b f) := by
  refine .of rfl (fun _ _ => ?_)
  change Raw.maj29 _ = _
  simp [Raw.maj29]
theorem Fields.vshr (d : Spec) (a : Spec) (b : Spec) (f : Form) : Fields.Statement (.vshr d a b f) := by
  refine .of rfl (fun _ _ => ?_)
  change Raw.maj29 _ = _
  simp [Raw.maj29]
theorem Fields.vsar (d : Spec) (a : Spec) (b : Spec) (f : Form) : Fields.Statement (.vsar d a b f) := by
  refine .of rfl (fun _ _ => ?_)
  change Raw.maj29 _ = _
  simp [Raw.maj29]
theorem Fields.vimin (d : Spec) (a : Spec) (b : Spec) (f : Form) : Fields.Statement (.vimin d a b f) := by
  refine .of rfl (fun _ _ => ?_)
  change Raw.maj29 _ = _
  simp [Raw.maj29]
theorem Fields.vimax (d : Spec) (a : Spec) (b : Spec) (f : Form) : Fields.Statement (.vimax d a b f) := by
  refine .of rfl (fun _ _ => ?_)
  change Raw.maj29 _ = _
  simp [Raw.maj29]
theorem Fields.viminn (d : Spec) (a : Spec) (b : Spec) (f : Form) : Fields.Statement (.viminn d a b f) := by
  refine .of rfl (fun _ _ => ?_)
  change Raw.maj29 _ = _
  simp [Raw.maj29]
theorem Fields.vimaxn (d : Spec) (a : Spec) (b : Spec) (f : Form) : Fields.Statement (.vimaxn d a b f) := by
  refine .of rfl (fun _ _ => ?_)
  change Raw.maj29 _ = _
  simp [Raw.maj29]
theorem Fields.vimulhn (d : Spec) (a : Spec) (b : Spec) (f : Form) : Fields.Statement (.vimulhn d a b f) := by
  refine .of rfl (fun _ _ => ?_)
  change Raw.maj29 _ = _
  simp [Raw.maj29]
theorem Fields.vcvt (d : Spec) (a : Spec) (s : BitVec 4) (t : BitVec 4) (f : Form) : Fields.Statement (.vcvt d a s t f) := by
  refine .of rfl (fun _ _ => ?_)
  change Raw.maj2A _ = _
  simp [Raw.maj2A, fields2_4]
theorem Fields.vcmp (d : Spec) (a : Spec) (b : Spec) (c : BitVec 6) (f : Form) : Fields.Statement (.vcmp d a b c f) := by
  refine .of rfl (fun _ _ => ?_)
  change Raw.maj2B _ = _
  simp [Raw.maj2B]
theorem Fields.kand (d : Spec) (a : Spec) (b : Spec) (f : Form) : Fields.Statement (.kand d a b f) := by
  refine .of rfl (fun _ _ => ?_)
  change Raw.maj2C _ = _
  simp [Raw.maj2C]
theorem Fields.kor (d : Spec) (a : Spec) (b : Spec) (f : Form) : Fields.Statement (.kor d a b f) := by
  refine .of rfl (fun _ _ => ?_)
  change Raw.maj2C _ = _
  simp [Raw.maj2C]
theorem Fields.kxor (d : Spec) (a : Spec) (b : Spec) (f : Form) : Fields.Statement (.kxor d a b f) := by
  refine .of rfl (fun _ _ => ?_)
  change Raw.maj2C _ = _
  simp [Raw.maj2C]
theorem Fields.knot (d : Spec) (a : Spec) (f : Form) : Fields.Statement (.knot d a f) := by
  refine .of rfl (fun _ _ => ?_)
  change Raw.maj2C _ = _
  simp [Raw.maj2C]
theorem Fields.kpop (d : Spec) (a : Spec) (f : Form) : Fields.Statement (.kpop d a f) := by
  refine .of rfl (fun _ _ => ?_)
  change Raw.maj2C _ = _
  simp [Raw.maj2C]
theorem Fields.kmovw (d : Spec) (a : Spec) (f : Form) : Fields.Statement (.kmovw d a f) := by
  refine .of rfl (fun _ _ => ?_)
  change Raw.maj2C _ = _
  simp [Raw.maj2C]
theorem Fields.kmovk (d : Spec) (a : Spec) (f : Form) : Fields.Statement (.kmovk d a f) := by
  refine .of rfl (fun _ _ => ?_)
  change Raw.maj2C _ = _
  simp [Raw.maj2C]
theorem Fields.vsel (d : Spec) (a : Spec) (b : Spec) (f : Form) : Fields.Statement (.vsel d a b f) := by
  refine .of rfl (fun _ _ => ?_)
  change Raw.maj2C _ = _
  simp [Raw.maj2C]
theorem Fields.vradd (d : Spec) (a : Spec) (f : Form) : Fields.Statement (.vradd d a f) := by
  refine .of rfl (fun _ _ => ?_)
  change Raw.maj2D _ = _
  simp [Raw.maj2D]
theorem Fields.vrmax (d : Spec) (a : Spec) (f : Form) : Fields.Statement (.vrmax d a f) := by
  refine .of rfl (fun _ _ => ?_)
  change Raw.maj2D _ = _
  simp [Raw.maj2D]
theorem Fields.vrmin (d : Spec) (a : Spec) (f : Form) : Fields.Statement (.vrmin d a f) := by
  refine .of rfl (fun _ _ => ?_)
  change Raw.maj2D _ = _
  simp [Raw.maj2D]
theorem Fields.vriadd (d : Spec) (a : Spec) (f : Form) : Fields.Statement (.vriadd d a f) := by
  refine .of rfl (fun _ _ => ?_)
  change Raw.maj2D _ = _
  simp [Raw.maj2D]
theorem Fields.vrand (d : Spec) (a : Spec) (f : Form) : Fields.Statement (.vrand d a f) := by
  refine .of rfl (fun _ _ => ?_)
  change Raw.maj2D _ = _
  simp [Raw.maj2D]
theorem Fields.vror (d : Spec) (a : Spec) (f : Form) : Fields.Statement (.vror d a f) := by
  refine .of rfl (fun _ _ => ?_)
  change Raw.maj2D _ = _
  simp [Raw.maj2D]
theorem Fields.vrimax (d : Spec) (a : Spec) (f : Form) : Fields.Statement (.vrimax d a f) := by
  refine .of rfl (fun _ _ => ?_)
  change Raw.maj2D _ = _
  simp [Raw.maj2D]
theorem Fields.vrimin (d : Spec) (a : Spec) (f : Form) : Fields.Statement (.vrimin d a f) := by
  refine .of rfl (fun _ _ => ?_)
  change Raw.maj2D _ = _
  simp [Raw.maj2D]
theorem Fields.vbcast (d : Spec) (a : Spec) (f : Form) : Fields.Statement (.vbcast d a f) := by
  refine .of rfl (fun _ _ => ?_)
  change Raw.maj2E _ = _
  simp [Raw.maj2E]
theorem Fields.vperm (d : Spec) (a : Spec) (b : Spec) (f : Form) : Fields.Statement (.vperm d a b f) := by
  refine .of rfl (fun _ _ => ?_)
  change Raw.maj2E _ = _
  simp [Raw.maj2E]
theorem Fields.vrot (d : Spec) (a : Spec) (b : Spec) (f : Form) : Fields.Statement (.vrot d a b f) := by
  refine .of rfl (fun _ _ => ?_)
  change Raw.maj2E _ = _
  simp [Raw.maj2E]
theorem Fields.vgetl (d : Spec) (a : Spec) (b : Spec) (f : Form) : Fields.Statement (.vgetl d a b f) := by
  refine .of rfl (fun _ _ => ?_)
  change Raw.maj2E _ = _
  simp [Raw.maj2E]
theorem Fields.vsetl (d : Spec) (a : Spec) (b : Spec) (f : Form) : Fields.Statement (.vsetl d a b f) := by
  refine .of rfl (fun _ _ => ?_)
  change Raw.maj2E _ = _
  simp [Raw.maj2E]
theorem Fields.viota (d : Spec) (a : Spec) (f : Form) : Fields.Statement (.viota d a f) := by
  refine .of rfl (fun _ _ => ?_)
  change Raw.maj2E _ = _
  simp [Raw.maj2E]
theorem Fields.vflgr (d : Spec) (f : Form) : Fields.Statement (.vflgr d f) := by
  refine .of rfl (fun _ _ => ?_)
  change Raw.maj2E _ = _
  simp [Raw.maj2E]
theorem Fields.vflgc (f : Form) : Fields.Statement (.vflgc f) := by
  refine .of rfl (fun _ _ => ?_)
  change Raw.maj2E _ = _
  simp [Raw.maj2E]
theorem Fields.vatom (d : Spec) (a : Spec) (b : Spec) (o : BitVec 1) (p : BitVec 3) (f : Form) : Fields.Statement (.vatom d a b o p f) := by
  refine .of rfl (fun _ _ => ?_)
  change Raw.maj2F _ = _
  simp [Raw.maj2F, fieldsVatom]
theorem Fields.tld (d : Spec) (a : Spec) (b : Spec) (z : BitVec 1) (g : BitVec 1) (t : BitVec 1) (f : Form) : Fields.Statement (.tld d a b z g t f) := by
  refine .of rfl (fun _ _ => ?_)
  change Raw.maj30 _ = _
  simp [Raw.maj30, fieldsTld]
theorem Fields.tst (d : Spec) (a : Spec) (b : Spec) (f : Form) : Fields.Statement (.tst d a b f) := by
  refine .of rfl (fun _ _ => ?_)
  change Raw.maj31 _ = _
  simp [Raw.maj31]
theorem Fields.tmma (d : Spec) (a : Spec) (b : Spec) (c : BitVec 1) (t : BitVec 2) (f : Form) : Fields.Statement (.tmma d a b c t f) := by
  refine .of rfl (fun _ _ => ?_)
  change Raw.maj32 _ = _
  simp [Raw.maj32, fieldsTmma]
theorem Fields.tzero (d : Spec) (f : Form) : Fields.Statement (.tzero d f) := by
  refine .of rfl (fun _ _ => ?_)
  change Raw.maj33 _ = _
  simp [Raw.maj33]
theorem Fields.tscale (d : Spec) (a : Spec) (b : Spec) (f : Form) : Fields.Statement (.tscale d a b f) := by
  refine .of rfl (fun _ _ => ?_)
  change Raw.maj33 _ = _
  simp [Raw.maj33]
theorem Fields.tadd (d : Spec) (a : Spec) (b : Spec) (f : Form) : Fields.Statement (.tadd d a b f) := by
  refine .of rfl (fun _ _ => ?_)
  change Raw.maj33 _ = _
  simp [Raw.maj33]
theorem Fields.tgetr (d : Spec) (a : Spec) (b : Spec) (f : Form) : Fields.Statement (.tgetr d a b f) := by
  refine .of rfl (fun _ _ => ?_)
  change Raw.maj33 _ = _
  simp [Raw.maj33]
theorem Fields.tputr (d : Spec) (a : Spec) (b : Spec) (f : Form) : Fields.Statement (.tputr d a b f) := by
  refine .of rfl (fun _ _ => ?_)
  change Raw.maj33 _ = _
  simp [Raw.maj33]
theorem Fields.tmask (d : Spec) (a : Spec) (b : Spec) (f : Form) : Fields.Statement (.tmask d a b f) := by
  refine .of rfl (fun _ _ => ?_)
  change Raw.maj33 _ = _
  simp [Raw.maj33]
theorem Fields.twait (f : Form) : Fields.Statement (.twait f) := by
  refine .of rfl (fun _ _ => ?_)
  change Raw.maj33 _ = _
  simp [Raw.maj33]
theorem Fields.tcmd (a : Spec) (b : Spec) (f : Form) : Fields.Statement (.tcmd a b f) := by
  refine .of rfl (fun _ _ => ?_)
  change Raw.maj34 _ = _
  simp [Raw.maj34]
theorem Fields.kvcommit (d : Spec) (a : Spec) (b : Spec) (f : Form) : Fields.Statement (.kvcommit d a b f) := by
  refine .of rfl (fun _ _ => ?_)
  change Raw.maj35 _ = _
  simp [Raw.maj35]
theorem Fields.ldf (d : BitVec 3) (n : BitVec 5) : Fields.Statement (.ldf d n) := .none rfl
theorem Fields.ldi (d : BitVec 3) (i : BitVec 9) : Fields.Statement (.ldi d i) := .none rfl
theorem Fields.filterAdd (d : BitVec 3) (a : BitVec 3) : Fields.Statement (.filterAdd d a) := .none rfl
theorem Fields.filterSub (d : BitVec 3) (a : BitVec 3) : Fields.Statement (.filterSub d a) := .none rfl
theorem Fields.filterAnd (d : BitVec 3) (a : BitVec 3) : Fields.Statement (.filterAnd d a) := .none rfl
theorem Fields.filterOr (d : BitVec 3) (a : BitVec 3) : Fields.Statement (.filterOr d a) := .none rfl
theorem Fields.filterShr (d : BitVec 3) (s : BitVec 6) : Fields.Statement (.filterShr d s) := .none rfl
theorem Fields.jeq (a : BitVec 3) (b : BitVec 3) (o : BitVec 6) : Fields.Statement (.jeq a b o) := .none rfl
theorem Fields.jne (a : BitVec 3) (b : BitVec 3) (o : BitVec 6) : Fields.Statement (.jne a b o) := .none rfl
theorem Fields.jlt (a : BitVec 3) (b : BitVec 3) (o : BitVec 6) : Fields.Statement (.jlt a b o) := .none rfl
theorem Fields.cnt (n : BitVec 3) : Fields.Statement (.cnt n) := .none rfl
theorem Fields.keep : Fields.Statement .keep := .none rfl
theorem Fields.drop : Fields.Statement .drop := .none rfl
theorem Fields.trig (k : BitVec 1) : Fields.Statement (.trig k) := .none rfl
theorem Fields.mark (l : BitVec 12) : Fields.Statement (.mark l) := .none rfl
theorem Fields.traceRecord (die : Nat) : Fields.Statement (.traceRecord die) := .none rfl
theorem Fields.waypointRecord (core : Nat) : Fields.Statement (.waypointRecord core) := .none rfl
theorem Fields.halt (clu : Nat) : Fields.Statement (.halt clu) := .none rfl
theorem Fields.haltEvent (clu : Nat) (why : Nat) (core : Nat) (slot : Nat) : Fields.Statement (.haltEvent clu why core slot) := .none rfl
theorem Fields.halted (clu : Nat) : Fields.Statement (.halted clu) := .none rfl
theorem Fields.resume (clu : Nat) : Fields.Statement (.resume clu) := .none rfl
theorem Fields.stepOne (clu : Nat) (core : Nat) (slot : Nat) : Fields.Statement (.stepOne clu core slot) := .none rfl
theorem Fields.stepDone (clu : Nat) : Fields.Statement (.stepDone clu) := .none rfl
theorem Fields.dbgData (wr : Bool) (r : Spec) (f : Form) : Fields.Statement (.dbgData wr r f) := by
  cases wr
  · refine .of rfl (fun _ ho => ?_)
    cases f <;> simp [Instr.ownRow, Raw.creg, Raw.number] at ho <;> simp [ho, Raw.instr, Raw.maj1F, Raw.creg, Raw.number]
  · refine .of rfl (fun _ ho => ?_)
    cases f <;> simp [Instr.ownRow, Raw.creg, Raw.number] at ho <;> simp [ho, Raw.instr, Raw.maj20, Raw.creg, Raw.number]
theorem Fields.trcCtl (a : Spec) (f : Form) : Fields.Statement (.trcCtl a f) := by
  refine .of rfl (fun _ ho => ?_)
  cases f <;> simp [Instr.ownRow, Raw.creg, Raw.number] at ho <;> simp [ho, Raw.instr, Raw.maj20, Raw.creg, Raw.number]
theorem Fields.trcFdata (a : Spec) (f : Form) : Fields.Statement (.trcFdata a f) := by
  refine .of rfl (fun _ ho => ?_)
  cases f <;> simp [Instr.ownRow, Raw.creg, Raw.number] at ho <;> simp [ho, Raw.instr, Raw.maj20, Raw.creg, Raw.number]
theorem Fields.raceClr (a : Spec) (f : Form) : Fields.Statement (.raceClr a f) := by
  refine .of rfl (fun _ ho => ?_)
  cases f <;> simp [Instr.ownRow, Raw.creg, Raw.number] at ho <;> simp [ho, Raw.instr, Raw.maj20, Raw.creg, Raw.number]
theorem Fields.capOut (d : Spec) (f : Form) : Fields.Statement (.capOut d f) := by
  refine .of rfl (fun _ ho => ?_)
  cases f <;> simp [Instr.ownRow, Raw.creg, Raw.number] at ho <;> simp [ho, Raw.instr, Raw.maj1F, Raw.creg, Raw.number]
theorem Fields.resync : Fields.Statement .resync := .none rfl
theorem Fields.loadfw : Fields.Statement .loadfw := .none rfl
theorem Fields.launch : Fields.Statement .launch := .none rfl
theorem Fields.reset : Fields.Statement .reset := .none rfl
theorem Fields.badOpcode : Fields.Statement .badOpcode := .none rfl
theorem Fields.boot : Fields.Statement .boot := .none rfl
theorem Fields.hostRead (link : Nat) (off : Nat) (len : Nat) : Fields.Statement (.hostRead link off len) := .none rfl
theorem Fields.hostWrite (link : Nat) (off : Nat) (data : List Byte) : Fields.Statement (.hostWrite link off data) := .none rfl
theorem Fields.linkTraining (n0 : Nat) (n1 : Nat) (n2 : Nat) (n3 : Nat) (hops : List (Nat × Nat)) : Fields.Statement (.linkTraining n0 n1 n2 n3 hops) := .none rfl
theorem Fields.ptpLock (t : Nat) : Fields.Statement (.ptpLock t) := .none rfl
theorem Fields.sliceInstant : Fields.Statement .sliceInstant := .none rfl
theorem Fields.intervalBoundary : Fields.Statement .intervalBoundary := .none rfl
theorem Fields.thermalCopy (clu : Nat) : Fields.Statement (.thermalCopy clu) := .none rfl
theorem Fields.thermalRemap (clu : Nat) : Fields.Statement (.thermalRemap clu) := .none rfl
theorem Fields.timerExpiry (slot : Nat) : Fields.Statement (.timerExpiry slot) := .none rfl
theorem Fields.budgetExhausted (clu : Nat) (region : Nat) : Fields.Statement (.budgetExhausted clu region) := .none rfl
theorem Fields.preemption (slot : Nat) (reason : Nat) : Fields.Statement (.preemption slot reason) := .none rfl
theorem Fields.preemptSave (slot : Nat) : Fields.Statement (.preemptSave slot) := .none rfl
theorem Fields.preemptEnqueue (slot : Nat) : Fields.Statement (.preemptEnqueue slot) := .none rfl
theorem Fields.queueAging (clu : Nat) : Fields.Statement (.queueAging clu) := .none rfl
theorem Fields.dispatch (clu : Nat) : Fields.Statement (.dispatch clu) := .none rfl
theorem Fields.contextRestore (slot : Nat) (part : Nat) : Fields.Statement (.contextRestore slot part) := .none rfl
theorem Fields.parkWake (core : Nat) : Fields.Statement (.parkWake core) := .none rfl
theorem Fields.deposit (pid : Nat) : Fields.Statement (.deposit pid) := .none rfl
theorem Fields.remoteCall (pid : Nat) : Fields.Statement (.remoteCall pid) := .none rfl
theorem Fields.matrixCommand (pid : Nat) : Fields.Statement (.matrixCommand pid) := .none rfl
theorem Fields.migrationArrival (pid : Nat) : Fields.Statement (.migrationArrival pid) := .none rfl
theorem Fields.migrationResend (pid : Nat) : Fields.Statement (.migrationResend pid) := .none rfl
theorem Fields.remoteAccess (pid : Nat) : Fields.Statement (.remoteAccess pid) := .none rfl
theorem Fields.responseDelivery (pid : Nat) : Fields.Statement (.responseDelivery pid) := .none rfl
theorem Fields.lossNotice (pid : Nat) : Fields.Statement (.lossNotice pid) := .none rfl
theorem Fields.mcastDelivery (pid : Nat) : Fields.Statement (.mcastDelivery pid) := .none rfl
theorem Fields.streamOpen (pid : Nat) : Fields.Statement (.streamOpen pid) := .none rfl
theorem Fields.streamWord (pid : Nat) : Fields.Statement (.streamWord pid) := .none rfl
theorem Fields.streamEnd (pid : Nat) : Fields.Statement (.streamEnd pid) := .none rfl
theorem Fields.streamTimeout (slot : Nat) (port : Nat) : Fields.Statement (.streamTimeout slot port) := .none rfl
theorem Fields.streamAbort (pid : Nat) : Fields.Statement (.streamAbort pid) := .none rfl
theorem Fields.groupWatchdog (slot : Nat) : Fields.Statement (.groupWatchdog slot) := .none rfl
theorem Fields.packetForward (pid : Nat) : Fields.Statement (.packetForward pid) := .none rfl
theorem Fields.laneDrop (clu : Nat) (dir : Nat) : Fields.Statement (.laneDrop clu dir) := .none rfl
theorem Fields.routerGate (clu : Nat) : Fields.Statement (.routerGate clu) := .none rfl
theorem Fields.routerWake (clu : Nat) : Fields.Statement (.routerWake clu) := .none rfl
theorem Fields.turnService (slot : Nat) (acc : Nat) : Fields.Statement (.turnService slot acc) := .none rfl
theorem Fields.waitwReread (slot : Nat) : Fields.Statement (.waitwReread slot) := .none rfl
theorem Fields.wheelSwap (outer : Bool) (unit : Nat) : Fields.Statement (.wheelSwap outer unit) := .none rfl
theorem Fields.stripeCommit (slot : Nat) : Fields.Statement (.stripeCommit slot) := .none rfl
theorem Fields.bldPass (slot : Nat) : Fields.Statement (.bldPass slot) := .none rfl
theorem Fields.retirementSwap (common : Bool) (unit : Nat) : Fields.Statement (.retirementSwap common unit) := .none rfl
theorem Fields.retirementDone (common : Bool) (unit : Nat) : Fields.Statement (.retirementDone common unit) := .none rfl
theorem Fields.errorThreshold (kind : Nat) (unit : Nat) (group : Nat) (bank : Nat) : Fields.Statement (.errorThreshold kind unit group bank) := .none rfl
theorem Fields.bankLoss (common : Bool) (unit : Nat) (group : Nat) (bank : Nat) : Fields.Statement (.bankLoss common unit group bank) := .none rfl
theorem Fields.scrub (clu : Nat) (bank : Nat) : Fields.Statement (.scrub clu bank) := .none rfl
theorem Fields.dramRequest (chan : Nat) : Fields.Statement (.dramRequest chan) := .none rfl
theorem Fields.refreshWindow (chan : Nat) : Fields.Statement (.refreshWindow chan) := .none rfl
theorem Fields.copyTransferStart (clu : Nat) (ch : Nat) : Fields.Statement (.copyTransferStart clu ch) := .none rfl
theorem Fields.copyLine (clu : Nat) (ch : Nat) : Fields.Statement (.copyLine clu ch) := .none rfl
theorem Fields.copyStamp (clu : Nat) (ch : Nat) : Fields.Statement (.copyStamp clu ch) := .none rfl
theorem Fields.chainHop (clu : Nat) (ch : Nat) : Fields.Statement (.chainHop clu ch) := .none rfl
theorem Fields.copyStop (clu : Nat) (ch : Nat) (cause : Nat) : Fields.Statement (.copyStop clu ch cause) := .none rfl
theorem Fields.footprintRelease (clu : Nat) (job : Nat) : Fields.Statement (.footprintRelease clu job) := .none rfl
theorem Fields.kvcommitHoldEnd (slot : Nat) : Fields.Statement (.kvcommitHoldEnd slot) := .none rfl
theorem Fields.unitCommand (core : Nat) : Fields.Statement (.unitCommand core) := .none rfl
theorem Fields.isochronePass (clu : Nat) : Fields.Statement (.isochronePass clu) := .none rfl
theorem Fields.fetchServe (clu : Nat) : Fields.Statement (.fetchServe clu) := .none rfl
theorem Fields.icacheRefill (block : Nat × Nat) : Fields.Statement (.icacheRefill block) := .none rfl
theorem Fields.tableWalk (walk : Nat × Nat × Nat) : Fields.Statement (.tableWalk walk) := .none rfl
theorem Fields.reportTaken (slot : Nat) : Fields.Statement (.reportTaken slot) := .none rfl
theorem Fields.escalation (slot : Nat) : Fields.Statement (.escalation slot) := .none rfl
theorem Fields.bindRecordWrite (clu : Nat) (idx : Nat) (val : Word) : Fields.Statement (.bindRecordWrite clu idx val) := .none rfl
theorem Fields.wearRotation (clu : Nat) (core : Nat) : Fields.Statement (.wearRotation clu core) := .none rfl
theorem Fields.uncorrectableError (key : Nat) : Fields.Statement (.uncorrectableError key) := .none rfl

end Sys2Proof.Laws
end

