-- ==== Sys2Proof/Tests/Slice0.lean ====
section
/-! SUPPORT. The architect's own tests: words written out from the spec's encodings decode to what they stand for, ill-formed terms are
refused, single steps do what an example of the spec says, and every statement has a state and operands that meet its hypotheses. -/

namespace Sys2Proof.Tests

open Sys2Proof Sys2Proof.Machine Sys2Proof.Claims

set_option Elab.async false

/-! ## Decoding

Each word is written out field by field from the encoding tables of the spec, or is a word that an example of the spec prints. -/

/-- R41, majors 0x00, 0x0E to 0x10: one word of each row, its fields written out. -/
theorem test_decode_control : ∀ p ∈ ([([0b00_000000_000000_000000_000000_000000], .nop .base),
    ([0b00_000000_000000_000000_000000_000001], .yield .base),
    ([0b00_000000_000000_000000_000000_000010], .realign .base),
    ([0b00_001110_1_01001_111111_111111_111110], .br 1 9 262142),
    ([0b00_001111_0_01001_111111_111111_111110], .call 0 9 262142),
    ([0b00_010000_000000_000010_000000_000000], .jmpr 2 .base),
    ([0b00_010000_000001_000010_000000_000001], .callg 1 2 .base),
    ([0b00_010000_000000_000010_000000_000010], .ret 2 .base),
    ([0b00_010000_000001_000010_000011_000011], .callrm 1 2 3 .base),
    ([0b00_010000_000000_000010_000011_000100], .reply 2 3 .base),
    ([0b00_010000_000000_000010_000000_000101], .wpset 2 .base),
    ([0b00_010000_000000_000000_00_0011_000110], .semwait 3 .base),
    ([0b00_010000_000000_000000_00_0101_000111], .sempost 5 .base)] : List (List Word32 × Instr)),
    decodeWords p.1 = some (p.2, p.1.length) := by decide +kernel

/-- R41, R51, major 0x01: one word of each row, its fields written out. -/
theorem test_decode_integer : ∀ p ∈ ([([0b00_000001_000001_000010_000011_000000], .add 1 2 3 .base),
    ([0b00_000001_000001_000010_000011_000001], .sub 1 2 3 .base),
    ([0b00_000001_000001_000010_000011_000010], .and 1 2 3 .base),
    ([0b00_000001_000001_000010_000011_000011], .or 1 2 3 .base),
    ([0b00_000001_000001_000010_000011_000100], .xor 1 2 3 .base),
    ([0b00_000001_000001_000010_000011_000101], .andn 1 2 3 .base),
    ([0b00_000001_000001_000010_000011_000110], .shl 1 2 3 .base),
    ([0b00_000001_000001_000010_000011_000111], .shr 1 2 3 .base),
    ([0b00_000001_000001_000010_000011_001000], .sar 1 2 3 .base),
    ([0b00_000001_000001_000010_000011_001001], .rol 1 2 3 .base),
    ([0b00_000001_000001_000010_000011_001010], .min 1 2 3 .base),
    ([0b00_000001_000001_000010_000011_001011], .max 1 2 3 .base),
    ([0b00_000001_000001_000010_000011_001100], .minn 1 2 3 .base),
    ([0b00_000001_000001_000010_000011_001101], .maxn 1 2 3 .base),
    ([0b00_000001_000001_000010_000011_001110], .mul 1 2 3 .base),
    ([0b00_000001_000001_000010_000011_001111], .mulh 1 2 3 .base),
    ([0b00_000001_000001_000010_000011_010000], .mulhn 1 2 3 .base),
    ([0b00_000001_000001_000010_000011_010001], .div 1 2 3 .base),
    ([0b00_000001_000001_000010_000011_010010], .divn 1 2 3 .base),
    ([0b00_000001_000001_000010_000011_010011], .rem 1 2 3 .base),
    ([0b00_000001_000001_000010_000011_010100], .remn 1 2 3 .base),
    ([0b00_000001_000001_000010_000000_010101], .clz 1 2 .base),
    ([0b00_000001_000001_000010_000000_010110], .popc 1 2 .base),
    ([0b00_000001_000001_000010_000000_010111], .ctz 1 2 .base)] : List (List Word32 × Instr)),
    decodeWords p.1 = some (p.2, p.1.length) := by decide +kernel

/-- R41, R53 to R58, majors 0x02 to 0x0C: one word of each row, its fields written out. -/
theorem test_decode_immediate : ∀ p ∈ ([([0b00_000010_000001_000010_111111_111110], .addi 1 2 4094 .base),
    ([0b00_000011_000001_000010_111111_111110], .andi 1 2 4094 .base),
    ([0b00_000100_000001_000010_111111_111110], .ori 1 2 4094 .base),
    ([0b00_000101_000001_000010_111111_111110], .xori 1 2 4094 .base),
    ([0b00_000110_000001_000010_0000_10_000101], .shfi 1 2 2 5 .base),
    ([0b00_000111_000001_000000_111111_111110], .movi 1 4094 .base),
    ([0b00_001000_000001_000010_000011_000101], .cmp 1 2 3 5 .base),
    ([0b00_001001_000001_000010_000101_000111], .cmpi 1 2 5 7 .base),
    ([0b00_001010_000001_000010_000011_000000], .pand 1 2 3 .base),
    ([0b00_001010_000001_000010_000011_000001], .por 1 2 3 .base),
    ([0b00_001010_000001_000010_000011_000010], .pxor 1 2 3 .base),
    ([0b00_001010_000001_000010_000011_000011], .pandn 1 2 3 .base),
    ([0b00_001010_000001_000010_000000_000100], .pnot 1 2 .base),
    ([0b00_001010_000001_000000_000000_000101], .pset 1 .base),
    ([0b00_001010_000001_000000_000000_000110], .pclr 1 .base),
    ([0b00_001010_000001_000000_000000_000111], .pmovr 1 .base),
    ([0b00_001010_000000_000010_000000_001000], .pmovw 2 .base),
    ([0b00_001011_000001_000010_000011_1_01001], .sel 1 2 3 1 9 .base),
    ([0b00_001100_000001_000010_000011_0000_11], .lea 1 2 3 3 .base)] : List (List Word32 × Instr)),
    decodeWords p.1 = some (p.2, p.1.length) := by decide +kernel

/-- R41, R90 to R104, majors 0x11 to 0x18: one word of each row, its fields written out. -/
theorem test_decode_memory : ∀ p ∈ ([([0b00_010001_000001_000010_01_1111_111110], .ld 1 2 1 1022 .base),
    ([0b00_010010_000001_000010_01_1111_111110], .lds 1 2 1 1022 .base),
    ([0b00_010011_000001_000010_01_1111_111110], .st 1 2 1 1022 .base),
    ([0b00_010100_000001_000010_000011_01_1_0_01], .ldx 1 2 3 1 1 1 .base),
    ([0b00_010100_000001_000010_000011_01_01_01], .stx 1 2 3 1 1 .base),
    ([0b00_010101_000001_000010_000011_1_0_0100], .bat 1 2 3 1 4 .base),
    ([0b00_010110_000000_000010_000011_000000], .bst 2 3 .base),
    ([0b00_010110_000000_000010_000011_000001], .bld 2 3 .base),
    ([0b00_010111_000001_000010_000011_000010], .waitw 1 2 3 2 .base),
    ([0b00_011000_000000_000010_000011_000000], .seal 2 3 .base),
    ([0b00_011000_000000_000010_000011_000001], .unseal 2 3 .base),
    ([0b00_011000_000000_000010_000000_000010], .wturn 2 .base),
    ([0b00_011000_000001_000010_000000_000011], .turnq 1 2 .base)] : List (List Word32 × Instr)),
    decodeWords p.1 = some (p.2, p.1.length) := by decide +kernel

/-- R41, R169 to R197, majors 0x19 to 0x1B: one word of each row, its fields written out. -/
theorem test_decode_message : ∀ p ∈ ([([0b00_011001_000001_000010_000000_000000], .rld 1 2 .base),
    ([0b00_011001_000000_000010_000011_000001], .rst 2 3 .base),
    ([0b00_011001_000001_000010_000000_000010], .rldv 1 2 .base),
    ([0b00_011001_000000_000010_000011_000011], .rstv 2 3 .base),
    ([0b00_011010_000001_000010_000000_000000], .pbind 1 2 .base),
    ([0b00_011010_000001_000010_000011_000001], .mcast 1 2 3 .base),
    ([0b00_011010_000000_000010_000000_000010], .pclose 2 .base),
    ([0b00_011010_000001_000010_000000_000011], .pstat 1 2 .base),
    ([0b00_011011_000001_000010_000011_000000], .cpfwd 1 2 3 .base),
    ([0b00_011011_000001_000010_000011_000001], .cpwait 1 2 3 .base),
    ([0b00_011011_000001_000010_000011_000010], .cbinit 1 2 3 .base),
    ([0b00_011011_000001_000010_000011_000011], .cbprod 1 2 3 .base),
    ([0b00_011011_000001_000010_000011_000100], .cbcons 1 2 3 .base),
    ([0b00_011011_000001_000010_000000_000101], .cbstat 1 2 .base)] : List (List Word32 × Instr)),
    decodeWords p.1 = some (p.2, p.1.length) := by decide +kernel

/-- R41, majors 0x1C to 0x1E: one word of each row, its fields written out. -/
theorem test_decode_task : ∀ p ∈ ([([0b00_011100_000000_000000_000_010_01_1_000], .fence 2 1 1 .base),
    ([0b00_011100_000000_000010_000011_000001], .bari 2 3 .base),
    ([0b00_011100_000001_000010_000011_000010], .bara 1 2 3 .base),
    ([0b00_011100_000000_000010_000011_000011], .barw 2 3 .base),
    ([0b00_011100_000001_000010_000000_000100], .bart 1 2 .base),
    ([0b00_011101_000001_000010_000011_000000], .spawn 1 2 3 .base),
    ([0b00_011101_000000_000010_000011_000001], .enq 2 3 .base),
    ([0b00_011101_000000_000010_000011_000010], .park 2 3 .base),
    ([0b00_011101_000000_000000_000000_000011], .endT .base),
    ([0b00_011101_000000_000010_000000_000100], .migr 2 .base),
    ([0b00_011101_000001_000000_000000_000101], .disp 1 .base),
    ([0b00_011101_000000_000010_000000_000110], .tdone 2 .base),
    ([0b00_011101_000000_000010_000000_000111], .planw 2 .base),
    ([0b00_011101_000001_000000_000000_001000], .plansw 1 .base),
    ([0b00_011101_000000_000010_000000_001001], .rgsync 2 .base),
    ([0b00_011101_000000_000010_000000_001010], .rgenter 2 .base),
    ([0b00_011101_000000_000000_000000_001011], .rgexit .base),
    ([0b00_011101_000000_000010_000000_001100], .trel 2 .base),
    ([0b00_011110_000001_000000_000000_000000], .isclaim 1 .base),
    ([0b00_011110_000000_000000_000000_000001], .isrel .base),
    ([0b00_011110_000000_000010_000000_000010], .iswin 2 .base),
    ([0b00_011110_000000_000010_000000_000011], .ismode 2 .base),
    ([0b00_011110_000000_000010_000000_000100], .isldw 2 .base),
    ([0b00_011110_000000_000010_000000_000101], .isldv 2 .base),
    ([0b00_011110_000000_000010_000000_000110], .isgo 2 .base),
    ([0b00_011110_000000_000010_000011_000111], .iscap 2 3 .base),
    ([0b00_011110_000000_000000_000000_001000], .isclr .base)] : List (List Word32 × Instr)),
    decodeWords p.1 = some (p.2, p.1.length) := by decide +kernel

/-- R41, majors 0x1F to 0x21: one word of each row, its fields written out. -/
theorem test_decode_system : ∀ p ∈ ([([0b00_011111_000001_000000_000100_000001], .getc 1 257 .base),
    ([0b00_100000_000000_000010_000100_000001], .setc 2 257 .base),
    ([0b00_100001_000000_000010_000000_000000], .trap 2 .base),
    ([0b00_100001_000000_000000_000000_000001], .eret .base),
    ([0b00_100001_000000_000010_000011_000010], .tlbinv 2 3 .base),
    ([0b00_100001_000000_000010_000011_000011], .whlset 2 3 .base),
    ([0b00_100001_000000_000010_000000_000100], .whlsw 2 .base),
    ([0b00_100001_000000_000010_000000_000101], .bankret 2 .base),
    ([0b00_100001_000000_000000_000000_000110], .dbrk .base),
    ([0b00_100001_000000_000010_000000_000111], .tracew 2 .base)] : List (List Word32 × Instr)),
    decodeWords p.1 = some (p.2, p.1.length) := by decide +kernel

/-- R41, majors 0x24 to 0x2B: one word of each row, its fields written out. -/
theorem test_decode_vector : ∀ p ∈ ([([0b00_100100_000001_000010_111111_111110], .vld 1 2 4094 .base),
    ([0b00_100101_000001_000010_111111_111110], .vst 1 2 4094 .base),
    ([0b00_100110_000001_000010_000011_000000], .vldx 1 2 3 .base),
    ([0b00_100110_000001_000010_000011_000001], .vstx 1 2 3 .base),
    ([0b00_100111_000001_000010_000011_000000], .vadd 1 2 3 .base),
    ([0b00_100111_000001_000010_000011_000001], .vsub 1 2 3 .base),
    ([0b00_100111_000001_000010_000011_000010], .vmul 1 2 3 .base),
    ([0b00_100111_000001_000010_000011_000011], .vdiv 1 2 3 .base),
    ([0b00_100111_000001_000010_000011_000100], .vmin 1 2 3 .base),
    ([0b00_100111_000001_000010_000011_000101], .vmax 1 2 3 .base),
    ([0b00_100111_000001_000010_000000_000110], .vsqrt 1 2 .base),
    ([0b00_100111_000001_000010_000000_000111], .vrcp 1 2 .base),
    ([0b00_100111_000001_000010_000000_001000], .vrsq 1 2 .base),
    ([0b00_100111_000001_000010_000000_001001], .vexp2 1 2 .base),
    ([0b00_100111_000001_000010_000000_001010], .vlog2 1 2 .base),
    ([0b00_100111_000001_000010_000000_001011], .vabs 1 2 .base),
    ([0b00_100111_000001_000010_000000_001100], .vneg 1 2 .base),
    ([0b00_100111_000001_000010_000000_001101], .vrint 1 2 .base),
    ([0b00_101000_000001_000010_000011_000000], .vfma 1 2 3 .base),
    ([0b00_101000_000001_000010_000011_000001], .vfms 1 2 3 .base),
    ([0b00_101000_000001_000010_000011_000010], .vfnma 1 2 3 .base),
    ([0b00_101001_000001_000010_000011_000000], .viadd 1 2 3 .base),
    ([0b00_101001_000001_000010_000011_000001], .visub 1 2 3 .base),
    ([0b00_101001_000001_000010_000011_000010], .vimul 1 2 3 .base),
    ([0b00_101001_000001_000010_000011_000011], .vimulh 1 2 3 .base),
    ([0b00_101001_000001_000010_000011_000100], .vand 1 2 3 .base),
    ([0b00_101001_000001_000010_000011_000101], .vor 1 2 3 .base),
    ([0b00_101001_000001_000010_000011_000110], .vxor 1 2 3 .base),
    ([0b00_101001_000001_000010_000011_000111], .vshl 1 2 3 .base),
    ([0b00_101001_000001_000010_000011_001000], .vshr 1 2 3 .base),
    ([0b00_101001_000001_000010_000011_001001], .vsar 1 2 3 .base),
    ([0b00_101001_000001_000010_000011_001010], .vimin 1 2 3 .base),
    ([0b00_101001_000001_000010_000011_001011], .vimax 1 2 3 .base),
    ([0b00_101001_000001_000010_000011_001100], .viminn 1 2 3 .base),
    ([0b00_101001_000001_000010_000011_001101], .vimaxn 1 2 3 .base),
    ([0b00_101001_000001_000010_000011_001110], .vimulhn 1 2 3 .base),
    ([0b00_101010_000001_000010_00_1001_00_1010], .vcvt 1 2 9 10 .base),
    ([0b00_101011_000001_000010_000011_000101], .vcmp 1 2 3 5 .base)] : List (List Word32 × Instr)),
    decodeWords p.1 = some (p.2, p.1.length) := by decide +kernel

/-- R41, majors 0x2C to 0x2F: one word of each row, its fields written out. -/
theorem test_decode_mask : ∀ p ∈ ([([0b00_101100_000001_000010_000011_000000], .kand 1 2 3 .base),
    ([0b00_101100_000001_000010_000011_000001], .kor 1 2 3 .base),
    ([0b00_101100_000001_000010_000011_000010], .kxor 1 2 3 .base),
    ([0b00_101100_000001_000010_000000_000011], .knot 1 2 .base),
    ([0b00_101100_000001_000010_000000_000100], .kpop 1 2 .base),
    ([0b00_101100_000001_000010_000000_000101], .kmovw 1 2 .base),
    ([0b00_101100_000001_000010_000000_000110], .kmovk 1 2 .base),
    ([0b00_101101_000001_000010_000000_000000], .vradd 1 2 .base),
    ([0b00_101101_000001_000010_000000_000001], .vrmax 1 2 .base),
    ([0b00_101101_000001_000010_000000_000010], .vrmin 1 2 .base),
    ([0b00_101101_000001_000010_000000_000011], .vriadd 1 2 .base),
    ([0b00_101101_000001_000010_000000_000100], .vrand 1 2 .base),
    ([0b00_101101_000001_000010_000000_000101], .vror 1 2 .base),
    ([0b00_101101_000001_000010_000000_000110], .vrimax 1 2 .base),
    ([0b00_101101_000001_000010_000000_000111], .vrimin 1 2 .base),
    ([0b00_101110_000001_000010_000000_000000], .vbcast 1 2 .base),
    ([0b00_101110_000001_000010_000011_000001], .vperm 1 2 3 .base),
    ([0b00_101110_000001_000010_000011_000010], .vrot 1 2 3 .base),
    ([0b00_101110_000001_000010_000011_000011], .vgetl 1 2 3 .base),
    ([0b00_101110_000001_000010_000011_000100], .vsetl 1 2 3 .base),
    ([0b00_101110_000001_000010_000000_000101], .viota 1 2 .base),
    ([0b00_101110_000001_000000_000000_000110], .vflgr 1 .base),
    ([0b00_101110_000000_000000_000000_000111], .vflgc .base),
    ([0b00_101111_000001_000010_000011_1_00_011], .vatom 1 2 3 1 3 .base)] : List (List Word32 × Instr)),
    decodeWords p.1 = some (p.2, p.1.length) := by decide +kernel

/-- R41, majors 0x30 to 0x35: one word of each row, its fields written out. -/
theorem test_decode_tile : ∀ p ∈ ([([0b00_110000_000001_000010_000011_0000_1_1], .tld 1 2 3 0 1 1 .base),
    ([0b00_110001_000001_000010_000011_000000], .tst 1 2 3 .base),
    ([0b00_110010_000001_000010_000011_1_000_10], .tmma 1 2 3 1 2 .base),
    ([0b00_110011_000001_000000_000000_000000], .tzero 1 .base),
    ([0b00_110011_000001_000010_000011_000001], .tscale 1 2 3 .base),
    ([0b00_110011_000001_000010_000011_000010], .tadd 1 2 3 .base),
    ([0b00_110011_000001_000010_000011_000011], .tgetr 1 2 3 .base),
    ([0b00_110011_000001_000010_000011_000100], .tputr 1 2 3 .base),
    ([0b00_110011_000001_000010_000011_000101], .tmask 1 2 3 .base),
    ([0b00_110011_000000_000000_000000_000110], .twait .base),
    ([0b00_110100_000000_000010_000011_000000], .tcmd 2 3 .base),
    ([0b00_110101_000001_000010_000011_000000], .kvcommit 1 2 3 .base)] : List (List Word32 × Instr)),
    decodeWords p.1 = some (p.2, p.1.length) := by decide +kernel

/-- R312: one word of each filter instruction. -/
theorem test_decode_filter : ∀ p ∈ ([(0b0000_001_00001_0000, .ldf 1 1),
    (0b0001_001_000000111, .ldi 1 7),
    (0b0010_001_010_000000, .filterAdd 1 2),
    (0b0011_001_010_000000, .filterSub 1 2),
    (0b0100_001_010_000000, .filterAnd 1 2),
    (0b0101_001_010_000000, .filterOr 1 2),
    (0b0110_001_000_000001, .filterShr 1 1),
    (0b0111_010_011_000100, .jeq 2 3 4),
    (0b1000_010_011_000100, .jne 2 3 4),
    (0b1001_010_011_000100, .jlt 2 3 4),
    (0b1010_000000000_001, .cnt 1),
    (0b1011_000000000000, .keep),
    (0b1100_000000000000, .drop),
    (0b1101_00000000000_1, .trig 1),
    (0b1110_000000000011, .mark 3)] : List (BitVec 16 × Instr)),
    decodeFilter p.1 = some p.2 := by decide +kernel

/-- R42, R59, R94, R127: the rows that the base word alone does not tell apart. -/
theorem test_decode_named : ∀ p ∈ ([([0b10_001101_000001_000000_000011_000000, 0b0_0_00000_0_000_000_0000_0_0_000000_001001, 0x00000108], .bitf 1 3 (.ext ⟨0, 0, 0, 0, 0, 0, 0, 0, 0, 0, 9⟩ 0x108)),
    ([0b10_010101_000001_000010_000011_101001, 0b0_0_00000_0_000_000_0000_0_0_000111_000000, 0xFFFFFFF8], .batCas 1 2 3 1 (.ext ⟨0, 0, 0, 0, 0, 0, 0, 0, 0, 7, 0⟩ 0xFFFFFFF8)),
    ([0b10_011001_000001_000010_000011_000100, 0b0_0_00000_0_000_000_0101_0_0_000000_000000, 0], .rat 1 2 3 (.ext ⟨0, 0, 0, 0, 0, 0, 5, 0, 0, 0, 0⟩ 0)),
    ([0b10_101100_000001_000010_000011_000111, 0b0_0_00000_0_000_000_0000_0_0_000010_000000, 0], .vsel 1 2 3 (.ext ⟨0, 0, 0, 0, 0, 0, 0, 0, 0, 2, 0⟩ 0)),
    ([0b00_011111_000001_000000_000000101111], .cpLaunch 1 .base),
    ([0b00_011111_000001_000000_000101011010], .capOut 1 .base),
    ([0b00_011111_000001_000000_000110000101], .dbgData false 1 .base),
    ([0b00_100000_000000_000010_000110000101], .dbgData true 2 .base),
    ([0b00_100000_000000_000010_000110010000], .trcCtl 2 .base),
    ([0b00_100000_000000_000010_000110010100], .trcFdata 2 .base),
    ([0b00_100000_000000_000010_000101000011], .raceClr 2 .base)] : List (List Word32 × Instr)),
    decodeWords p.1 = some (p.2, p.1.length) := by decide +kernel

/-- R24, R30, R32, R33: the long forms, each field of the extension word in its place. -/
theorem test_decode_lengths : ∀ p ∈ ([([0b01_000001_000001_000010_000000_000000, 0x89ABCDEF, 0x01234567], .add 1 2 0 (.lit 0x0123456789ABCDEF)),
    ([0b11_000001_000001_000010_000000_000000, 0b1_1_00101_0_000_000_0000_0_0_000000_000000, 0, 0x89ABCDEF, 0x01234567], .add 1 2 0 (.extLit ⟨1, 1, 5, 0, 0, 0, 0, 0, 0, 0, 0⟩ 0 0x0123456789ABCDEF)),
    ([0b10_010001_000001_000010_000000_000000, 0b1_0_11111_0_000_011_0000_0_0_000000_010000, 0xBFFFFFFF], .ld 1 2 0 0 (.ext ⟨1, 0, 31, 0, 0, 3, 0, 0, 0, 0, 16⟩ 0xBFFFFFFF)),
    ([0b10_100111_000001_000010_000011_000000, 0b0_0_00000_1_100_000_1000_0_0_000000_000110, 0], .vadd 1 2 3 (.ext ⟨0, 0, 0, 1, 4, 0, 8, 0, 0, 0, 6⟩ 0)),
    ([0b10_000001_100001_101001_000011_000000, 0b0_0_00000_0_000_000_0000_1_1_000010_000000, 0], .add 33 41 3 (.ext ⟨0, 0, 0, 0, 0, 0, 0, 1, 1, 2, 0⟩ 0))] : List (List Word32 × Instr)),
    decodeWords p.1 = some (p.2, p.1.length) := by decide +kernel

/-- Words that the worked examples of the spec's chapters print. -/
theorem test_decode_spec : ∀ p ∈ ([(0x01170C80, .add 5 48 50 .base), (0x02041FFF, .addi 1 1 0xFFF .base), (0x02206080, .addi 8 6 0x80 .base),
    (0x07040003, .movi 1 3 .base), (0x0704012C, .movi 1 0x12C .base), (0x07080FD3, .movi 2 0xFD3 .base), (0x07C40009, .movi 49 9 .base),
    (0x0804F58B, .cmp 1 15 22 11 .base), (0x0904A0C5, .cmpi 1 10 3 5 .base), (0x0B24C401, .sel 9 12 16 0 1 .base),
    (0x0E07FFF8, .br 0 1 0x3FFF8), (0x0E7FFFFD, .br 0 31 0x3FFFD), (0x10141083, .callrm 5 1 2 .base), (0x11102800, .ld 4 2 2 0 .base),
    (0x11141C00, .ld 5 1 3 0 .base), (0x11181FF0, .ld 6 1 3 0x3F0 .base), (0x15294400, .bat 10 20 16 0 0 .base),
    (0x15101080, .bat 4 1 2 0 0 .base), (0x17215241, .waitw 8 21 9 1 .base), (0x19408002, .rldv 16 8 .base),
    (0x1900B141, .rst 11 5 .base), (0x1C007183, .barw 7 6 .base), (0x1C187202, .bara 6 7 8 .base), (0x1D000003, .endT .base),
    (0x27041009, .vexp2 1 1 .base), (0x29081148, .vshr 2 1 5 .base), (0x2A041289, .vcvt 1 1 10 9 .base), (0x2C042006, .kmovk 1 2 .base),
    (0x2D142001, .vrmax 5 2 .base), (0x2E081281, .vperm 2 1 10 .base), (0x300492C3, .tld 1 9 11 0 1 1 .base),
    (0x280C1080, .vfma 3 1 2 .base), (0x32080060, .tmma 2 0 1 1 0 .base), (0x32143120, .tmma 5 3 4 1 0 .base),
    (0x33087205, .tmask 2 7 8 .base)] : List (Word32 × Instr)), decodeWords [p.1] = some (p.2, 1) := by decide +kernel

/-- The filter program that the spec's trace chapter prints. -/
theorem test_decode_filter_program : ∀ p ∈ ([(0x0220, .ldf 1 2), (0x8205, .jne 1 0 5), (0x0230, .ldf 1 3), (0x8283, .jne 1 2 3),
    (0x0270, .ldf 1 7), (0x8281, .jne 1 2 1), (0xB000, .keep), (0xA000, .cnt 0), (0xC000, .drop)] : List (BitVec 16 × Instr)),
    decodeFilter p.1 = some p.2 := by decide +kernel

/-! ## States that are ready for an instruction -/

/-- A thread may issue an instruction: its words are right, and its class, its privilege and its mode (R43, R44). -/
def entitled (i : Instr) (r : Raw) (s : State) : Bool :=
  decide (s.me.live = true ∧ i.wf = true ∧ r.needsClass.all (· == s.me.cls) = true ∧
    (r.needsPriv = true → s.me.privileged = true) ∧ (r.isEret = true → s.me.trap.tmode = true))

/-- Nothing that an instruction names is awaited (R45). -/
def unawaited (r : Raw) (s : State) : Bool :=
  decide (s.me.notBefore ≤ s.cyc ∧ (∀ o ∈ s.me.owed, ¬ (11 ≤ o.what ∧ o.what ≤ 13)) ∧
    (∀ q ∈ r.resources, s.me.ready s.cyc q = true) ∧
    (∀ w ∈ s.setcs, ¬ (w.slot = s.cur ∧ w.cont = s.me.cont ∧ w.reg ∈ r.ctlRegs)) ∧
    ∀ p ∈ r.roles, (p.2.2 = .dst ∨ p.2.2 = .both ∨ p.2.2 = .reply ∨ p.2.2 = .remote) → sharedBusy s p.2.1 = false)

/-- The register cache and the bucket serve an instruction (R48, R327). -/
def served (r : Raw) (s : State) : Bool :=
  decide ((r.needsCache s.me = true → s.me.ready s.cyc (.spec 51) = true ∧ (s.core (slotCore s.cur)).portFirst s.cyc = false) ∧
    (s.me.begun = true ∨ s.covers r.charge = true))

/-- The conditions of `Issues`, as one check. -/
def isReady (i : Instr) (r : Raw) (s : State) : Bool := entitled i r s && (unawaited r s && served r s)

theorem issues_of {i : Instr} {r : Raw} {s : State} (h : i.raw = some r) (k : isReady i r s = true) : Issues i r s := by
  simp only [isReady, entitled, unawaited, served, Bool.and_eq_true, decide_eq_true_eq] at k
  obtain ⟨⟨live, wf, cls, priv, tmode⟩, ⟨time, plain, regs, ctl, shared⟩, cache, covers⟩ := k
  exact { raw := h, live, wf, priv, tmode, time, plain, regs, ctl, shared, cache, covers
          cls := fun c hc => by simpa [hc] using cls }

/-- The conditions of `Ready`, as one check. -/
def readyCheck (i : Instr) (r : Raw) (s : State) : Bool :=
  isReady i r s && decide (guardHolds r s.me = true ∧ r.badOperand = none ∧
    r.touches.all (fun p => !s.me.unrestored.contains p) = true)

theorem ready_of {i : Instr} {r : Raw} {s : State} (h : i.raw = some r) (k : readyCheck i r s = true) : Ready i r s := by
  simp only [readyCheck, Bool.and_eq_true, decide_eq_true_eq] at k
  obtain ⟨issues, guard, operands, context⟩ := k
  exact { issues_of h issues with guard, operands, context := fun p hp => by simpa [hp] using context }

/-- A thread of the right class is about to issue an instruction at slot 0 of core 0. -/
def about (i : Instr) : State := State.reset.placeCode ((encode i).foldr (fun w n => w.toNat + 2 ^ 32 * n) 0)

/-- The same with the thread changed. -/
def aboutWith (i : Instr) (f : Slot → Slot) : State := (about i).modSlot 0 f

/-- Registers that hold values. -/
def holding (l : List (Nat × Word)) (x : Slot) : Slot := l.foldl (fun x p => { x with w := x.w.set! p.1 p.2 }) x

/-- The extension word with every field zero. -/
def noExt : Ext := ⟨0, 0, 0, 0, 0, 0, 0, 0, 0, 0, 0⟩

/-- A general register that no call has armed can take a result. -/
theorem canWrite_register {s : State} {f : Form} {x : Spec}
    (h : isPort x = false ∧ isHandle x = false ∧ x ≠ 49 ∧ isArmed s x = false) : s.canWrite f x := by
  obtain ⟨h1, h2, h3, h4⟩ := h
  unfold State.canWrite
  rw [if_neg (by simp [h1]), if_neg (by simp [h2]), if_neg h3]
  exact h4

/-- A computation ends normally with an answer and a state that meet a condition. -/
def endsIn {α : Type} (m : M α) (s : State) (p : α → State → Bool) : Bool :=
  match m s with
  | .ok (a, u) => p a u
  | .error _ => false

theorem ends_of {α : Type} {m : M α} {s : State} {p : α → State → Bool} (h : endsIn m s p = true) :
    ∃ a u, m s = .ok (a, u) ∧ p a u = true := by
  unfold endsIn at h
  cases e : m s with
  | ok r => exact ⟨r.1, r.2, rfl, by rw [e] at h; exact h⟩
  | error x => rw [e] at h; cases h

/-- An answer that meets a condition. -/
theorem some_of {α : Type} {o : Option α} {p : α → Bool} (h : o.any p = true) : ∃ a, o = some a ∧ p a = true := by
  cases o with
  | none => cases h
  | some a => exact ⟨a, rfl, h⟩

/-- A check passes. -/
def passes (c : M Unit) (s : State) : Bool := endsIn c s fun _ u => decide (u = s)

theorem passes_of {c : M Unit} {s : State} (h : passes c s = true) : Passes c s := by
  obtain ⟨a, u, e, k⟩ := ends_of h
  simp only [decide_eq_true_eq] at k
  subst k
  exact e

/-- An access reaches a place, at its size, through every check, and the place and the state meet a condition. -/
def reaches (k : Acc) (kind : Nat) (st : Bool) (ea : Word) (n : Nat) (s : State) (p : Target → State → Bool) : Bool :=
  endsIn (resolve k ea) s fun t u =>
    decide (ea.toNat % n = 0 ∧ passes (inBuffer none ea n) s = true ∧ passes (checkPath t ea) u = true ∧
      passes (checkWatch kind ea n) u = true ∧ migTarget u t = none ∧ passes (orderGate t.place t.ord n st) u = true ∧ p t u = true)

theorem reaches_of {k : Acc} {kind : Nat} {st : Bool} {ea : Word} {n : Nat} {s : State} {p : Target → State → Bool}
    (h : reaches k kind st ea n s p = true) : ∃ u t, Reaches k kind st none ea n s u t ∧ p t u = true := by
  obtain ⟨t, u, e, c⟩ := ends_of h
  obtain ⟨al, buf, path, watch, mig, order, rest⟩ := of_decide_eq_true c
  exact ⟨u, t, ⟨al, passes_of buf, e, passes_of path, passes_of watch, mig, passes_of order⟩, rest⟩

/-- The check of `canWrite_register`. -/
def takes (s : State) (x : Spec) : Bool := decide (isPort x = false ∧ isHandle x = false ∧ x ≠ 49 ∧ isArmed s x = false)

theorem takes_of {s : State} {x : Spec} (h : takes s x = true) (f : Form) : s.canWrite f x :=
  canWrite_register (of_decide_eq_true h)

/-- The fields of an instruction's words. -/
def rawOf (i : Instr) : Raw := i.raw.getD ⟨0, 0, 0, 0, 0, .base⟩

/-- The conditions of `Ready` for an instruction with its own fields. -/
def ready (i : Instr) (s : State) : Bool := i.raw.isSome && readyCheck i (rawOf i) s

theorem raw_of {i : Instr} (h : i.raw.isSome = true) : i.raw = some (rawOf i) := by
  obtain ⟨r, e⟩ := Option.isSome_iff_exists.mp h
  simp [rawOf, e]

theorem ready_iff {i : Instr} {s : State} (h : ready i s = true) : Ready i (rawOf i) s := by
  obtain ⟨raw, rest⟩ := Bool.and_eq_true_iff.mp h
  exact ready_of (raw_of raw) rest

/-- The state in which the effect of an instruction begins. -/
def entry (i : Instr) (s : State) : State := s.entered (rawOf i)

/-- Where a computation ends, and its answer. -/
def after {α : Type} (m : M α) (s : State) : State :=
  match m s with
  | .ok r => r.2
  | .error _ => s

def answer {α : Type} [Inhabited α] (m : M α) (s : State) : α :=
  match m s with
  | .ok r => r.1
  | .error _ => default

theorem ends {α : Type} [Inhabited α] {m : M α} {s : State} (h : endsIn m s (fun _ _ => true) = true) :
    m s = .ok (answer m s, after m s) := by
  unfold endsIn at h
  unfold answer after
  cases e : m s with
  | ok r => rfl
  | error x => rw [e] at h; cases h

theorem gives {α : Type} [DecidableEq α] {m : M α} {s : State} {a : α} (h : endsIn m s (fun b _ => decide (b = a)) = true) :
    m s = .ok (a, after m s) := by
  obtain ⟨b, u, e, k⟩ := ends_of h
  simp only [decide_eq_true_eq] at k
  subst k
  unfold after
  rw [e]

/-- The extended and literal encodings that the spec's programs print. -/
theorem test_decode_spec_words : ∀ p ∈ ([
    ([0x47080000, 0x1388, 0], .movi 2 0 (.lit 5000)), ([0x470C0000, 0x104000, 0], .movi 3 0 (.lit 0x104000)),
    ([0x433CF000, 0xFFFFFFFF, 0], .andi 15 15 0 (.lit 0xFFFFFFFF)),
    ([0x910C2000, 0xC2000000, 0xC0000002], .ld 3 2 0 0 (.ext { noExt with g := 1, gn := 1, gp := 1 } 0xC0000002)),
    ([0x813CF5C3, 0x82000000, 0], .or 15 15 23 (.ext { noExt with g := 1, gp := 1 } 0)),
    ([0xAF2010A1, 0x00010101, 0], .vatom 8 1 2 1 1 (.ext { noExt with ty := 4, c := 4, xfn := 1 } 0)),
    ([0xAB089100, 0x00010001, 0], .vcmp 2 9 4 0 (.ext { noExt with ty := 4, xfn := 1 } 0)),
    ([0xB00CCC80, 0, 0x80], .tld 3 12 50 0 0 0 (.ext noExt 128)),
    ([0xA4041000, 0x00028001, 0], .vld 1 1 0 (.ext { noExt with ty := 10, xfn := 1 } 0)),
    ([0xA5041000, 0x00024001, 2], .vst 1 1 0 (.ext { noExt with ty := 9, xfn := 1 } 2)),
    ([0x9900B141, 0, 1], .rst 11 5 (.ext noExt 1)),
    ([0xA40CC000, 0x00028249, 1], .vld 3 12 0 (.ext { noExt with ty := 10, c := 9, xfn := 9 } 1)),
    ([0xAD143001, 0x00028001, 0], .vrmax 5 3 (.ext { noExt with ty := 10, xfn := 1 } 0)),
    ([0x93148000, 0x00000020, 0xC0000000], .st 5 8 0 0 (.ext { noExt with xfn := 0x20 } 0xC0000000)),
    ([0x20001010], .setc 1 0x010 .base), ([0x10000007], .sempost 0 .base), ([0x0E0FFFF2], .br 0 3 0x3FFF2),
    ([0x3500D3C0], .kvcommit 0 13 15 .base), ([0x1E006C87], .iscap 6 50 .base), ([0x1D032007], .planw 50 .base),
    ([0x1D300008], .plansw 12 .base), ([0x27041103], .vdiv 1 1 4 .base)] : List (List Word32 × Instr)),
    decodeWords p.1 = some (p.2, p.1.length) := by decide +kernel

/-! ## Well-formedness: one ill-formed term for each check, which the check refuses -/

/-- R24, R41: a length that the opcode map does not permit. -/
theorem test_wf_length : ∀ i ∈ ([.yield (.lit 0), .nop (.extLit noExt 0 0), .bitf 1 2 .base, .clz 1 2 (.lit 0), .vadd 1 2 3 (.lit 0),
    .batCas 1 2 3 0 .base, .rat 1 2 3 .base, .vsel 1 2 3 .base, .tld 1 2 3 1 0 0 .base] : List Instr), i.wf = false := by decide +kernel

/-- R41: a function code, a condition, a width or a type field that the opcode map leaves out. -/
theorem test_wf_function : ∀ i ∈ ([.cmp 1 2 3 12 .base, .cmpi 1 2 12 0 .base, .lds 1 2 3 0 .base, .ldx 1 2 3 0 1 3 .base,
    .bat 1 2 3 0 12 .base, .waitw 1 2 3 6 .base, .fence 6 0 0 .base, .fence 0 3 0 .base, .vcvt 1 2 6 10 .base, .vcmp 1 2 3 12 .base,
    .tld 1 2 3 0 1 0 .base, .tmma 1 2 3 0 3 .base, .br 1 31 0] : List Instr), i.wf = false := by decide +kernel

/-- R33: a field that a literal replaces is not zero. -/
theorem test_wf_literal : ∀ i ∈ ([.add 1 2 3 (.lit 0), .addi 1 2 5 (.lit 0), .movi 1 5 (.lit 0)] : List Instr), i.wf = false := by decide +kernel

/-- R19, R30, R41: a field of the extension word that the instruction does not use. -/
theorem test_wf_extension : ∀ i ∈ ([.add 1 2 3 (.ext { noExt with gp := 1 } 0), .add 1 2 3 (.ext { noExt with gn := 1 } 0),
    .add 1 2 3 (.ext { noExt with g := 1, gn := 1, gp := 31 } 0), .add 1 2 3 (.ext { noExt with q := 1 } 0),
    .add 1 2 3 (.ext { noExt with rm := 1 } 0), .vadd 1 2 3 (.ext { noExt with ty := 10, rm := 5 } 0),
    .add 1 2 3 (.ext { noExt with scope := 1 } 0), .ld 1 2 0 0 (.ext { noExt with scope := 6, xfn := 0x10 } 0),
    .ld 1 2 0 0 (.ext { noExt with scope := 1 } 0), .ld 1 2 0 0 (.ext { noExt with xfn := 0x20 } 0),
    .add 1 2 3 (.ext { noExt with ty := 1 } 0), .viadd 1 2 3 (.ext { noExt with ty := 8 } 0), .jmpr 1 (.ext { noExt with e := 1 } 0),
    .add 1 2 3 (.ext { noExt with cb := 1 } 0), .cpfwd 1 2 3 (.ext { noExt with cb := 1 } 0), .add 1 2 3 (.ext { noExt with c := 1 } 0),
    .vsel 1 2 3 (.ext { noExt with c := 8 } 0), .add 1 2 3 (.ext { noExt with xfn := 1 } 0)] : List Instr), i.wf = false := by
  decide +kernel

/-- R41, R75: bits of `IMM32` that the instruction does not use, and a control-register number in both places. -/
theorem test_wf_immediate : ∀ i ∈ ([.add 1 2 3 (.ext noExt 1), .bitf 1 2 (.ext noExt 0x40), .lds 1 2 0 0 (.ext noExt 0xC0000000),
    .rst 1 2 (.ext noExt 0x10000), .addi 1 2 0 (.extLit noExt 1 0), .getc 1 0x101 (.ext noExt 1)] : List Instr), i.wf = false := by
  decide +kernel

/-- A row of the opcode table that has a constructor of its own is not a term of another row, and the steps of the device have no
words. -/
theorem test_wf_own_row : ∀ i ∈ ([.getc 1 0x02F .base, .setc 2 0x190 .base, .bat 1 2 3 0 9 .base, .boot, .halt 3, .ldf 1 2] : List Instr),
    i.wf = false := by decide +kernel

/-- R312, R313: a filter's word with a field that is reserved. -/
theorem test_wf_filter : ∀ i ∈ ([.ldf 1 10, .add 1 2 3 .base, .boot] : List Instr), i.filterWf = false := by decide +kernel

/-! ## Results that the spec prints -/

/-- The dot product of the matrix chapter: the groups of eight round once each, and the flag is inexact. -/
theorem test_mma_groups : mmaElem 0 16 (fun k => if k = 0 then 0x3F80 else 0x3380) (fun _ => 0x3F80) 0 = (0x3F800008, 16) := by
  decide +kernel

/-! ## Witnesses: integer, compare, predicate, select and bit-field instructions

Each theorem names a state and operands that meet the hypotheses of the statement in its name. -/

theorem witness_EffectBegins : (Raw.needsCache ⟨1, 1, 2, 3, 0, .base⟩ (about (.add 1 2 3 .base)).me = false) ∧
    Raw.needsCache ⟨1, 1, 2, 3, 0, .base⟩ (aboutWith (.add 1 2 3 .base) fun x => { x with absent := true }).me = true := by
  decide +kernel

/-- The next slot of core 0 holds a thread; the buffer of handle `c1` has a free slot. -/
def neighbours : State :=
  ((about (.add 1 2 3 .base)).modSlot 1 fun x => { x with live := true }).modCore 0 fun c =>
    { c with handles := c.handles.set! 1 { base := 0x800, ssize := 8, scount := 4, head := 1, tail := 2, fill := 1 } }

theorem witness_DestinationWrites : nextSlot neighbours.cur ≠ neighbours.cur ∧ (neighbours.slot (nextSlot neighbours.cur)).live = true ∧
    (neighbours.bufferAt? (.ext { noExt with cb := 1, c := 1 } 0) 41 true).isSome = true ∧ isHandle 31 = false := by decide +kernel

/-- An instruction that `p1` guards; it takes `pv` and writes `nx`. -/
def guarded : Instr := .add 49 48 3 (.ext { noExt with g := 1, gp := 1 } 0)

/-- A thread whose `p1` is 0, with a value in `pv`, beside a thread whose `pv` is empty. -/
def besideEmpty : State := (aboutWith guarded fun x => { x with pv := some 5 }).modSlot 1 fun x => { x with live := true }

theorem witness_FalseGuard : ∃ r, Issues guarded r besideEmpty ∧ guardHolds r besideEmpty.me = false ∧ r.taken = [48] ∧
    (∀ x ∈ r.taken, (besideEmpty.reads .base x).isSome = true) ∧ (∃ p ∈ r.roles, p.2.1 = 49 ∧ p.2.2 = .dst) ∧
    (besideEmpty.slot (nextSlot besideEmpty.cur)).live = true ∧ (besideEmpty.slot (nextSlot besideEmpty.cur)).pv = none ∧
    (besideEmpty.slot (nextSlot besideEmpty.cur)).pvClaim = none :=
  ⟨_, issues_of rfl (by decide +kernel), by decide +kernel⟩

theorem witness_IllegalInstruction :
    (∃ r, (Instr.add 1 2 3 (.lit 0)).raw = some r ∧ (about (.add 1 2 3 (.lit 0))).me.live = true ∧
      (about (.add 1 2 3 (.lit 0))).me.trap.tmode = false ∧ (Instr.add 1 2 3 (.lit 0)).wf = false) ∧
    ∃ r, (Instr.vadd 1 2 3 .base).raw = some r ∧ (about .keep).me.live = true ∧ ∃ c, r.needsClass = some c ∧ c ≠ (about .keep).me.cls :=
  ⟨⟨_, rfl, by decide +kernel, by decide +kernel, by decide +kernel⟩, _, rfl, by decide +kernel, 1, by decide +kernel, by decide +kernel⟩

/-- A thread without privilege. -/
def unprivileged (i : Instr) : State := aboutWith i fun x => { x with trap := { x.trap with priv := false, tmode := false } }

theorem witness_PrivilegeTrap : ∀ i ∈ [Instr.whlsw 2 .base, Instr.eret .base], ∃ r, i.raw = some r ∧ (unprivileged i).me.live = true ∧
    i.wf = true ∧ r.needsClass = none ∧ (unprivileged i).me.privileged = false ∧ (r.needsPriv = true ∨ r.isEret = true) := by
  intro i hi
  simp only [List.mem_cons, List.not_mem_nil, or_false] at hi
  rcases hi with rfl | rfl <;>
    exact ⟨_, rfl, by decide +kernel, by decide +kernel, by decide +kernel, by decide +kernel, by decide +kernel⟩

theorem witness_OperandMisuse : ∀ i ∈ [Instr.add 48 2 3 .base, .add 1 49 3 .base, .add 1 2 56 .base], ∃ r k, Issues i r (about i) ∧
    (about i).me.trap.tmode = false ∧ guardHolds r (about i).me = true ∧ r.badOperand = some k := by
  intro i hi
  simp only [List.mem_cons, List.not_mem_nil, or_false] at hi
  rcases hi with rfl | rfl | rfl
  · exact ⟨_, 1, issues_of rfl (by decide +kernel), by decide +kernel, by decide +kernel, by decide +kernel⟩
  · exact ⟨_, 2, issues_of rfl (by decide +kernel), by decide +kernel, by decide +kernel, by decide +kernel⟩
  · exact ⟨_, 3, issues_of rfl (by decide +kernel), by decide +kernel, by decide +kernel, by decide +kernel⟩

/-- A thread in trap service. -/
def inService (i : Instr) : State := aboutWith i fun x => { x with trap := { x.trap with tmode := true } }

theorem witness_CauseInService : ∃ r, (Instr.add 1 2 3 (.lit 0)).raw = some r ∧ (inService (.add 1 2 3 (.lit 0))).me.live = true ∧
    (inService (.add 1 2 3 (.lit 0))).me.trap.tmode = true ∧ (Instr.add 1 2 3 (.lit 0)).wf = false :=
  ⟨_, rfl, by decide +kernel, by decide +kernel, by decide +kernel⟩

theorem witness_IntegerTwoOperand : ∀ p ∈ intTable 1 2 3 .base, ∃ (r : Raw) (x y : Word), Ready p.1 r (about p.1) ∧
    ((about p.1).entered r).reads .base 2 = some x ∧ (((about p.1).entered r).touched 2).readsB .base 3 = some y ∧
    ((about p.1).entered r).canWrite .base 1 := by
  intro p hp
  simp only [intTable, List.mem_cons, List.not_mem_nil, or_false] at hp
  rcases hp with rfl | rfl | rfl | rfl | rfl | rfl | rfl | rfl | rfl | rfl | rfl | rfl | rfl | rfl | rfl | rfl | rfl <;>
    exact ⟨_, 0, 0, ready_of rfl (by decide +kernel), by decide +kernel, by decide +kernel, canWrite_register (by decide +kernel)⟩

theorem witness_DivideFamily : ∀ p ∈ divTable 1 2 3 .base, ∃ (r : Raw) (x y : Word), Ready p.1 r (about p.1) ∧
    ((about p.1).core 0).divFree ≤ (about p.1).cyc ∧ ((about p.1).entered r).reads .base 2 = some x ∧
    (((about p.1).entered r).touched 2).readsB .base 3 = some y ∧ ((about p.1).entered r).canWrite .base 1 := by
  intro p hp
  simp only [divTable, List.mem_cons, List.not_mem_nil, or_false] at hp
  rcases hp with rfl | rfl | rfl | rfl <;>
    exact ⟨_, 0, 0, ready_of rfl (by decide +kernel), by decide +kernel, by decide +kernel, by decide +kernel,
      canWrite_register (by decide +kernel)⟩

theorem witness_BitCounts : ∀ p ∈ bitTable 1 2 .base, ∃ (r : Raw) (x : Word), Ready p.1 r (about p.1) ∧
    ((about p.1).entered r).reads .base 2 = some x ∧ ((about p.1).entered r).canWrite .base 1 := by
  intro p hp
  simp only [bitTable, List.mem_cons, List.not_mem_nil, or_false] at hp
  rcases hp with rfl | rfl | rfl <;>
    exact ⟨_, 0, ready_of rfl (by decide +kernel), by decide +kernel, canWrite_register (by decide +kernel)⟩

theorem witness_Immediates : (∀ p ∈ immTable 1 2 0xFFF 2 63 .base, ∃ (r : Raw) (x : Word), Ready p.1 r (about p.1) ∧
      ((about p.1).entered r).reads .base 2 = some x ∧ ((about p.1).entered r).canWrite .base 1) ∧
    ∃ r, Ready (.movi 1 0xFFF .base) r (about (.movi 1 0xFFF .base)) ∧ ((about (.movi 1 0xFFF .base)).entered r).canWrite .base 1 := by
  constructor
  · intro p hp
    simp only [immTable, List.mem_cons, List.not_mem_nil, or_false] at hp
    rcases hp with rfl | rfl | rfl | rfl | rfl <;>
      exact ⟨_, 0, ready_of rfl (by decide +kernel), by decide +kernel, canWrite_register (by decide +kernel)⟩
  · exact ⟨_, ready_of rfl (by decide +kernel), canWrite_register (by decide +kernel)⟩

theorem witness_Compares : ∀ c ∈ conditions,
    (∃ (r : Raw) (x y : Word), Ready (.cmp 31 2 3 c.1 .base) r (about (.cmp 31 2 3 c.1 .base)) ∧
      ((about (.cmp 31 2 3 c.1 .base)).entered r).reads .base 2 = some x ∧
      (((about (.cmp 31 2 3 c.1 .base)).entered r).touched 2).readsB .base 3 = some y) ∧
    ∃ (r : Raw) (x : Word), Ready (.cmpi 0 2 c.1 63 .base) r (about (.cmpi 0 2 c.1 63 .base)) ∧
      ((about (.cmpi 0 2 c.1 63 .base)).entered r).reads .base 2 = some x := by
  intro c hc
  simp only [conditions, List.mem_cons, List.not_mem_nil, or_false] at hc
  rcases hc with rfl | rfl | rfl | rfl | rfl | rfl | rfl | rfl | rfl | rfl | rfl | rfl <;>
    exact ⟨⟨_, 0, 0, ready_of rfl (by decide +kernel), by decide +kernel, by decide +kernel⟩,
      _, 0, ready_of rfl (by decide +kernel), by decide +kernel⟩

theorem witness_PredicateInstructions : (∀ p ∈ predTable 1 2 31 .base, ∃ r, Ready p.1 r (about p.1)) ∧
    (∃ r, Ready (.pmovr 1 .base) r (about (.pmovr 1 .base)) ∧
      ((about (.pmovr 1 .base)).entered r).canWrite .base 1) ∧
    ∃ (r : Raw) (x : Word), Ready (.pmovw 2 .base) r (about (.pmovw 2 .base)) ∧
      ((about (.pmovw 2 .base)).entered r).reads .base 2 = some x := by
  refine ⟨?_, ⟨_, ready_of rfl (by decide +kernel), canWrite_register (by decide +kernel)⟩,
    _, 0, ready_of rfl (by decide +kernel), by decide +kernel⟩
  intro p hp
  simp only [predTable, List.mem_cons, List.not_mem_nil, or_false] at hp
  rcases hp with rfl | rfl | rfl | rfl | rfl | rfl | rfl <;> exact ⟨_, ready_of rfl (by decide +kernel)⟩

theorem witness_SelectAndAddress : ∀ i ∈ [Instr.sel 1 2 3 1 9 .base, .lea 1 2 3 3 .base], ∃ (r : Raw) (x y : Word), Ready i r (about i) ∧
    ((about i).entered r).reads .base 2 = some x ∧ (((about i).entered r).touched 2).readsB .base 3 = some y ∧
    ((about i).entered r).canWrite .base 1 := by
  intro i hi
  simp only [List.mem_cons, List.not_mem_nil, or_false] at hi
  rcases hi with rfl | rfl <;>
    exact ⟨_, 0, 0, ready_of rfl (by decide +kernel), by decide +kernel, by decide +kernel, canWrite_register (by decide +kernel)⟩

/-- A `BITF` at position 60 of a field of 4 bits, at the top of the register. -/
def bitField (m : Word32) : Form := .ext { noExt with xfn := 60 } m

theorem witness_BitFields : ∀ m ∈ [(4 : Word32), 0x104, 0x204], ∃ (r : Raw) (y w : Word), Ready (.bitf 1 3 (bitField m)) r
    (about (.bitf 1 3 (bitField m))) ∧ 60 + (m.extractLsb' 0 6).toNat ≤ 64 ∧
    ((about (.bitf 1 3 (bitField m))).entered r).readsB (bitField m) 3 = some y ∧
    ((about (.bitf 1 3 (bitField m))).entered r).canWrite (bitField m) 1 ∧
    (((about (.bitf 1 3 (bitField m))).entered r).touchedB (bitField m) 3).reads (bitField m) 1 = some w := by
  intro m hm
  simp only [List.mem_cons, List.not_mem_nil, or_false] at hm
  rcases hm with rfl | rfl | rfl <;>
    exact ⟨_, 0, 0, ready_of rfl (by decide +kernel), by decide +kernel, by decide +kernel, canWrite_register (by decide +kernel),
      by decide +kernel⟩

/-! ## Witnesses: control flow, semaphores, workspaces and calls -/

theorem witness_NopYieldRealign : ∀ i ∈ [Instr.nop .base, .yield .base, .realign .base], ∃ r, Ready i r (about i) := by
  intro i hi
  simp only [List.mem_cons, List.not_mem_nil, or_false] at hi
  rcases hi with rfl | rfl | rfl <;> exact ⟨_, ready_of rfl (by decide +kernel)⟩

/-- The highest and the lowest offset of a branch (R29). -/
theorem witness_BranchAndCall : ∀ o ∈ [(0x1FFFF : BitVec 18), 0x20000], (∃ r, Ready (.br 0 31 o) r (about (.br 0 31 o))) ∧
    ∃ r, Ready (.call 1 0 o) r (about (.call 1 0 o)) ∧ ((about (.call 1 0 o)).entered r).canWrite .base 23 := by
  intro o ho
  simp only [List.mem_cons, List.not_mem_nil, or_false] at ho
  rcases ho with rfl | rfl <;>
    exact ⟨⟨_, ready_of rfl (by decide +kernel)⟩, _, ready_of rfl (by decide +kernel), canWrite_register (by decide +kernel)⟩

/-- A thread whose `w2` holds an address. -/
def at2 (v : Word) (i : Instr) : State := aboutWith i (holding [(2, v)])

theorem witness_RegisterJumps : ∀ i ∈ [Instr.jmpr 2 .base, .ret 2 .base, .callg 1 2 .base], ∃ r, Ready i r (at2 0x100000004 i) ∧
    ((at2 0x100000004 i).entered r).reads .base 2 = some 0x100000004 ∧ (0x100000004 : Word).extractLsb' 0 2 = 0 ∧
    ((at2 0x100000004 i).entered r).canWrite .base 1 := by
  intro i hi
  simp only [List.mem_cons, List.not_mem_nil, or_false] at hi
  rcases hi with rfl | rfl | rfl <;>
    exact ⟨_, ready_of rfl (by decide +kernel), by decide +kernel, by decide +kernel, canWrite_register (by decide +kernel)⟩

theorem witness_MisalignedJump : ∀ i ∈ [Instr.jmpr 2 .base, .ret 2 .base, .callg 1 2 .base], ∃ r, Ready i r (at2 0x100000002 i) ∧
    ((at2 0x100000002 i).entered r).reads .base 2 = some 0x100000002 ∧ (0x100000002 : Word).extractLsb' 0 2 ≠ 0 ∧
    (at2 0x100000002 i).me.trap.tmode = false := by
  intro i hi
  simp only [List.mem_cons, List.not_mem_nil, or_false] at hi
  rcases hi with rfl | rfl | rfl <;>
    exact ⟨_, ready_of rfl (by decide +kernel), by decide +kernel, by decide +kernel, by decide +kernel⟩

/-- The last semaphore of the core at a count. -/
def counted (k : BitVec 16) (i : Instr) : State := (about i).modCore 0 fun c => { c with sems := c.sems.set! 15 k }

theorem witness_Semaphores : (∃ r, Ready (.semwait 15 .base) r (counted 1 (.semwait 15 .base)) ∧
      0 < ((((counted 1 (.semwait 15 .base)).entered r).core 0).sems[(15 : BitVec 4).toNat]).toNat) ∧
    ∃ r, Ready (.sempost 15 .base) r (counted 65535 (.sempost 15 .base)) ∧
      (((counted 65535 (.sempost 15 .base)).entered r).core 0).spend = [] ∧
      (∀ q ∈ [52, 53, 54, 55], ((counted 65535 (.sempost 15 .base)).entered r).me.ready (counted 65535 (.sempost 15 .base)).cyc (.spec q) = true) ∧
      ((counted 65535 (.sempost 15 .base)).entered r).me.localStoresDone 0 = true :=
  ⟨⟨_, ready_of rfl (by decide +kernel), by decide +kernel⟩,
    _, ready_of rfl (by decide +kernel), by decide +kernel, by decide +kernel, by decide +kernel⟩

theorem witness_SemaphoreWaits : ∃ r, Ready (.semwait 15 .base) r (about (.semwait 15 .base)) ∧ (about (.semwait 15 .base)).me.phase = 0 ∧
    ((about (.semwait 15 .base)).core 0).sems[(15 : BitVec 4).toNat] = 0 :=
  ⟨_, ready_of rfl (by decide +kernel), by decide +kernel, by decide +kernel⟩

/-- The highest workspace of the local store. -/
theorem witness_WorkspaceChange : ∃ (r : Raw) (bound : Nat) (u' : State), Ready (.wpset 2 .base) r (at2 0x3FF00 (.wpset 2 .base)) ∧
    ((at2 0x3FF00 (.wpset 2 .base)).entered r).reads .base 2 = some 0x3FF00 ∧ (0x3FF00 : Word).extractLsb' 0 8 = 0 ∧
    localBound (((at2 0x3FF00 (.wpset 2 .base)).entered r).touched 2) = .ok (bound, u') ∧ u'.cur = (at2 0x3FF00 (.wpset 2 .base)).cur ∧
    (0x3FF00 : Word).toNat + 256 ≤ bound ∧ ∀ k < 32, u'.me.ready u'.cyc (.spec (BitVec.ofNat 6 k)) = true :=
  ⟨_, 0x40000, _, ready_of rfl (by decide +kernel), by decide +kernel, by decide +kernel, rfl, by decide +kernel, by decide +kernel,
    by decide +kernel⟩

/-- Register `w31` is dirty in the highest workspace. -/
def dirtyTop : State := aboutWith (.nop .base) fun x => { holding [(31, 5)] x with wp := 0x3FF00, dirty := 0x80000000 }

theorem witness_WriteBackStores : dirtyTop.mem.wf = true ∧ (dirtyTop.slot 0).dirty.getLsbD 31 = true := by decide +kernel

/-- A thread that calls cluster 0, core 0, at an address; `w1` to `w3` hold what the words name. -/
def calls (i : Instr) : State := aboutWith i (holding [(1, 1), (2, 0x100000100), (3, 0)])

/-- The same thread, its call sent and answered: the token of the call is no longer armed. -/
def called (i : Instr) : State := (calls i).modSlot 0 fun x => { x with calls := [(x.pc, 0x123, 0, x.pc + 4)] }

theorem witness_RemoteCallInstruction : ∃ r, Ready (.callrm 1 2 3 .base) r (calls (.callrm 1 2 3 .base)) ∧
    Ready (.callrm 1 2 3 .base) r (called (.callrm 1 2 3 .base)) ∧
    (let s := calls (.callrm 1 2 3 .base)
     let u := s.entered r
     ∃ u', u.me.calls.find? (fun c => c.1 = u.me.pc) = none ∧ u.reads .base 2 = some 0x100000100 ∧
      (u.touched 2).reads .base 3 = some 0 ∧ u.me.depth < 7 ∧ destCheck 0 false ((u.touched 2).touched 3) = .ok ((), u') ∧
      u'.me = u.me ∧ u'.net = s.net ∧ u'.mem = s.mem ∧ u'.cur = s.cur ∧ isArmed u 1 = false ∧ 0 < (u'.core 0).credits) ∧
    (let u := (called (.callrm 1 2 3 .base)).entered r
     u.me.calls.find? (fun c => c.1 = u.me.pc) = some (u.me.pc, 0x123, 0, u.me.pc + 4) ∧ u.tokenArmed 0x123 = false) :=
  ⟨_, ready_of rfl (by decide +kernel), ready_of rfl (by decide +kernel),
    ⟨_, by decide +kernel, by decide +kernel, by decide +kernel, by decide +kernel, rfl, by decide +kernel, by decide +kernel,
      by decide +kernel, by decide +kernel, by decide +kernel, by decide +kernel⟩, by decide +kernel, by decide +kernel⟩

theorem witness_ReplyInstruction : ∃ (r : Raw) (x y : Word), Ready (.reply 2 3 .base) r (about (.reply 2 3 .base)) ∧
    ((about (.reply 2 3 .base)).entered r).reads .base 2 = some x ∧
    (((about (.reply 2 3 .base)).entered r).touched 2).reads .base 3 = some y :=
  ⟨_, 0, 0, ready_of rfl (by decide +kernel), by decide +kernel, by decide +kernel⟩

/-! ## Witnesses: loads, stores and atomics -/

/-- A thread whose `w2` is a base, `w3` an index and `w4` an extent or compare value, and that knows the unit of the base. -/
def based (v : Word) (i : Instr) : State := aboutWith i (holding [(1, 7), (2, v), (3, 0), (4, 1)])

theorem witness_LocalLoads : ∀ p ∈ loadTable 1 2 3 1 0 1 1 .base, ∃ (u' : State) (t : Target),
    let s := based 0x3FFFE p.1
    let u := entry p.1 s
    Ready p.1 (rawOf p.1) s ∧ u.baseAt .base 2 false = some (0x3FFFE, none) ∧ u.reads .base 3 = some 0 ∧
    Reaches .load 1 false none (p.2.2.1 0x3FFFE 0) p.2.2.2.1 u u' t ∧ u'.cur = s.cur ∧ t.place.kind = 1 ∧
    u'.isPoisoned t.place p.2.2.2.1 = false ∧ Passes (loadDstCheck 1) u' ∧ u'.portFree ∧ u'.canWrite .base 1 := by
  intro p hp
  have key : ∀ p ∈ loadTable 1 2 3 1 0 1 1 .base, ready p.1 (based 0x3FFFE p.1) = true ∧
      (entry p.1 (based 0x3FFFE p.1)).baseAt .base 2 false = some (0x3FFFE, none) ∧
      (entry p.1 (based 0x3FFFE p.1)).reads .base 3 = some 0 ∧
      reaches .load 1 false (p.2.2.1 0x3FFFE 0) p.2.2.2.1 (entry p.1 (based 0x3FFFE p.1)) (fun t u => decide (u.cur = 0 ∧ t.place.kind = 1 ∧
        u.isPoisoned t.place p.2.2.2.1 = false ∧ passes (loadDstCheck 1) u ∧ (u.core (slotCore u.cur)).portHeld u.cyc = false ∧
        takes u 1)) = true := by
    decide +kernel
  obtain ⟨k1, k2, k3, k4⟩ := key p hp
  obtain ⟨u', t, h, k⟩ := reaches_of k4
  obtain ⟨a, b, c, d, e, g⟩ := of_decide_eq_true k
  exact ⟨u', t, ready_iff k1, k2, k3, h, a, b, c, passes_of d, e, takes_of g _⟩

/-- An access of one unit of a store has room where the thread has fewer than four. -/
theorem hasRoom_of {s : State} {a : Access} {m : MemUnit} (h : a.units = [m]) (k : s.me.acc.length < 4 ∧ m.place.kind ≠ 4) :
    s.hasRoom a := by
  refine ⟨k.1, fun u hu hk => ?_⟩
  rw [h, List.mem_singleton] at hu
  subst hu
  exact absurd hk k.2

theorem witness_TurnLoads : ∀ p ∈ loadTable 1 2 3 1 0 1 1 .base, ∃ (u' : State) (t : Target),
    let s := based 0x100300 p.1
    let u := entry p.1 s
    Ready p.1 (rawOf p.1) s ∧ u.baseAt .base 2 false = some (0x100300, none) ∧ u.reads .base 3 = some 0 ∧
    Reaches .load 1 false none (p.2.2.1 0x100300 0) p.2.2.2.1 u u' t ∧ u'.cur = s.cur ∧ t.place.kind ≠ 1 ∧ servedBy u' t.place ≠ 4 ∧
    t.view = 0 ∧ Passes (loadDstCheck 1) u' ∧ Passes (loadReady 1) u' ∧ u'.me.acc.length < 4 ∧ t.place.line.kind ≠ 4 := by
  intro p hp
  have key : ∀ p ∈ loadTable 1 2 3 1 0 1 1 .base, ready p.1 (based 0x100300 p.1) = true ∧
      (entry p.1 (based 0x100300 p.1)).baseAt .base 2 false = some (0x100300, none) ∧
      (entry p.1 (based 0x100300 p.1)).reads .base 3 = some 0 ∧
      reaches .load 1 false (p.2.2.1 0x100300 0) p.2.2.2.1 (entry p.1 (based 0x100300 p.1)) (fun t u => decide (u.cur = 0 ∧ t.place.kind ≠ 1 ∧
        servedBy u t.place ≠ 4 ∧ t.view = 0 ∧ passes (loadDstCheck 1) u ∧ passes (loadReady 1) u ∧ u.me.acc.length < 4 ∧
        t.place.line.kind ≠ 4)) = true := by
    decide +kernel
  obtain ⟨k1, k2, k3, k4⟩ := key p hp
  obtain ⟨u', t, h, k⟩ := reaches_of k4
  obtain ⟨a, b, c, d, e, g, i, j⟩ := of_decide_eq_true k
  exact ⟨u', t, ready_iff k1, k2, k3, h, a, b, c, d, passes_of e, passes_of g, i, j⟩

theorem witness_LocalStores : ∀ p ∈ storeTable 1 2 3 1 0 1 .base, ∃ (u' : State) (t : Target),
    let s := based 0x3FFFE p.1
    let u := entry p.1 s
    Ready p.1 (rawOf p.1) s ∧ u.baseAt .base 2 true = some (0x3FFFE, none) ∧ u.reads .base 3 = some 0 ∧
    Reaches .store 2 true none (p.2.2.1 0x3FFFE 0) p.2.2.2 u u' t ∧ u'.cur = s.cur ∧ t.place.kind = 1 ∧ u'.reads .base 1 = some 7 ∧
    Passes (releaseGate (Form.qual .base) (Form.scope .base) t.ord) u' ∧ Passes (tileGate t.place p.2.2.2) u' ∧ u'.portFree ∧ u'.mem.wf = true := by
  intro p hp
  have key : ∀ p ∈ storeTable 1 2 3 1 0 1 .base, ready p.1 (based 0x3FFFE p.1) = true ∧
      (entry p.1 (based 0x3FFFE p.1)).baseAt .base 2 true = some (0x3FFFE, none) ∧
      (entry p.1 (based 0x3FFFE p.1)).reads .base 3 = some 0 ∧
      reaches .store 2 true (p.2.2.1 0x3FFFE 0) p.2.2.2 (entry p.1 (based 0x3FFFE p.1)) (fun t u => decide (u.cur = 0 ∧ t.place.kind = 1 ∧
        u.reads .base 1 = some 7 ∧ passes (releaseGate (Form.qual .base) (Form.scope .base) t.ord) u ∧ passes (tileGate t.place p.2.2.2) u ∧
        (u.core (slotCore u.cur)).portHeld u.cyc = false ∧ u.mem.wf = true)) = true := by
    decide +kernel
  obtain ⟨k1, k2, k3, k4⟩ := key p hp
  obtain ⟨u', t, h, k⟩ := reaches_of k4
  obtain ⟨a, b, c, d, e, g, i⟩ := of_decide_eq_true k
  exact ⟨u', t, ready_iff k1, k2, k3, h, a, b, c, passes_of d, passes_of e, g, i⟩

theorem witness_TurnStores : ∀ p ∈ storeTable 1 2 3 1 0 1 .base, ∃ (u' : State) (t : Target),
    let s := based 0x100300 p.1
    let u := entry p.1 s
    Ready p.1 (rawOf p.1) s ∧ u.baseAt .base 2 true = some (0x100300, none) ∧ u.reads .base 3 = some 0 ∧
    Reaches .store 2 true none (p.2.2.1 0x100300 0) p.2.2.2 u u' t ∧ u'.cur = s.cur ∧ t.place.kind ≠ 1 ∧ servedBy u' t.place ≠ 4 ∧
    u'.reads .base 1 = some 7 ∧ u'.me.acc.length < 4 ∧ t.place.line.kind ≠ 4 := by
  intro p hp
  have key : ∀ p ∈ storeTable 1 2 3 1 0 1 .base, ready p.1 (based 0x100300 p.1) = true ∧
      (entry p.1 (based 0x100300 p.1)).baseAt .base 2 true = some (0x100300, none) ∧
      (entry p.1 (based 0x100300 p.1)).reads .base 3 = some 0 ∧
      reaches .store 2 true (p.2.2.1 0x100300 0) p.2.2.2 (entry p.1 (based 0x100300 p.1)) (fun t u => decide (u.cur = 0 ∧ t.place.kind ≠ 1 ∧
        servedBy u t.place ≠ 4 ∧ u.reads .base 1 = some 7 ∧ u.me.acc.length < 4 ∧ t.place.line.kind ≠ 4)) = true := by
    decide +kernel
  obtain ⟨k1, k2, k3, k4⟩ := key p hp
  obtain ⟨u', t, h, k⟩ := reaches_of k4
  obtain ⟨a, b, c, d, e, g⟩ := of_decide_eq_true k
  exact ⟨u', t, ready_iff k1, k2, k3, h, a, b, c, d, e, g⟩

/-- The bank atomics: an addition of 32 bits, and a compare-and-swap whose compare value is in `w4`. -/
def atomics (a : Word) : List (Instr × Form × Word) := [(.bat 1 2 3 1 0 .base, .base, a),
  (.batCas 1 2 3 1 (.ext { noExt with c := 4 } 0), .ext { noExt with c := 4 } 0, a)]

theorem witness_BankAtomics : ∀ p ∈ atomics 0x3FFFC ++ atomics 0x100300, ∃ (u' : State) (t : Target),
    let s := based p.2.2 p.1
    let u := entry p.1 s
    Ready p.1 (rawOf p.1) s ∧ u.reads p.2.1 2 = some p.2.2 ∧ u.readsB p.2.1 3 = some 0 ∧
    (p.2.1 ≠ .base → u.reads p.2.1 p.2.1.c = some 1) ∧
    Reaches .atomic 3 true none p.2.2 4 u u' t ∧ u'.cur = s.cur ∧ servedBy u' t.place ≠ 4 ∧ Passes (loadDstCheck 1) u' ∧
    (t.place.kind = 1 ↔ p.2.2 = 0x3FFFC) ∧ u'.isPoisoned t.place 4 = false ∧ Passes (releaseGate p.2.1.qual p.2.1.scope t.ord) u' ∧
    Passes (tileGate t.place 4) u' ∧ u'.portFree ∧ u'.canWrite p.2.1 1 ∧ Passes (loadReady 1) u' ∧ u'.me.acc.length < 4 ∧
    t.place.line.kind ≠ 4 := by
  intro p hp
  have key : ∀ p ∈ atomics 0x3FFFC ++ atomics 0x100300, ready p.1 (based p.2.2 p.1) = true ∧
      (entry p.1 (based p.2.2 p.1)).reads p.2.1 2 = some p.2.2 ∧ (entry p.1 (based p.2.2 p.1)).readsB p.2.1 3 = some 0 ∧
      (p.2.1 ≠ .base → (entry p.1 (based p.2.2 p.1)).reads p.2.1 p.2.1.c = some 1) ∧
      reaches .atomic 3 true p.2.2 4 (entry p.1 (based p.2.2 p.1)) (fun t u => decide (u.cur = 0 ∧ servedBy u t.place ≠ 4 ∧
        passes (loadDstCheck 1) u ∧ (t.place.kind = 1 ↔ p.2.2 = 0x3FFFC) ∧ u.isPoisoned t.place 4 = false ∧
        passes (releaseGate p.2.1.qual p.2.1.scope t.ord) u ∧ passes (tileGate t.place 4) u ∧ (u.core (slotCore u.cur)).portHeld u.cyc = false ∧
        takes u 1 ∧ passes (loadReady 1) u ∧ u.me.acc.length < 4 ∧ t.place.line.kind ≠ 4)) = true := by
    decide +kernel
  obtain ⟨k1, k2, k3, k4, k5⟩ := key p hp
  obtain ⟨u', t, h, k⟩ := reaches_of k5
  obtain ⟨a, b, c, d, e, g, i, j, l, m, n, o⟩ := of_decide_eq_true k
  exact ⟨u', t, ready_iff k1, k2, k3, k4, h, a, b, passes_of c, d, e, passes_of g, passes_of i, j, takes_of l _, passes_of m, n, o⟩

/-- The same accesses at an address that is no multiple of their size: a half word, and a word. -/
theorem witness_MisalignedAccess :
    (∀ p ∈ loadTable 1 2 3 1 0 1 1 .base, Ready p.1 (rawOf p.1) (based 0x3FFFF p.1) ∧ (based 0x3FFFF p.1).me.trap.tmode = false ∧
      (entry p.1 (based 0x3FFFF p.1)).baseAt .base 2 false = some (0x3FFFF, none) ∧
      (entry p.1 (based 0x3FFFF p.1)).reads .base 3 = some 0 ∧ (p.2.2.1 0x3FFFF 0).toNat % p.2.2.2.1 ≠ 0) ∧
    (∀ p ∈ storeTable 1 2 3 1 0 1 .base, Ready p.1 (rawOf p.1) (based 0x3FFFF p.1) ∧ (based 0x3FFFF p.1).me.trap.tmode = false ∧
      (entry p.1 (based 0x3FFFF p.1)).baseAt .base 2 true = some (0x3FFFF, none) ∧
      (entry p.1 (based 0x3FFFF p.1)).reads .base 3 = some 0 ∧ (p.2.2.1 0x3FFFF 0).toNat % p.2.2.2 ≠ 0) ∧
    (∀ p ∈ atomics 0x3FFFE, Ready p.1 (rawOf p.1) (based 0x3FFFE p.1) ∧ (based 0x3FFFE p.1).me.trap.tmode = false ∧
      (entry p.1 (based 0x3FFFE p.1)).reads p.2.1 2 = some 0x3FFFE ∧ (entry p.1 (based 0x3FFFE p.1)).readsB p.2.1 3 = some 0 ∧
      (p.2.1 ≠ .base → (entry p.1 (based 0x3FFFE p.1)).reads p.2.1 p.2.1.c = some 1) ∧ (0x3FFFE : Word).toNat % 4 ≠ 0) := by
  refine ⟨fun p hp => ?_, fun p hp => ?_, fun p hp => ?_⟩
  · have key : ∀ p ∈ loadTable 1 2 3 1 0 1 1 .base, ready p.1 (based 0x3FFFF p.1) = true ∧ (based 0x3FFFF p.1).me.trap.tmode = false ∧
      (entry p.1 (based 0x3FFFF p.1)).baseAt .base 2 false = some (0x3FFFF, none) ∧
      (entry p.1 (based 0x3FFFF p.1)).reads .base 3 = some 0 ∧ (p.2.2.1 0x3FFFF 0).toNat % p.2.2.2.1 ≠ 0 := by decide +kernel
    exact ⟨ready_iff (key p hp).1, (key p hp).2⟩
  · have key : ∀ p ∈ storeTable 1 2 3 1 0 1 .base, ready p.1 (based 0x3FFFF p.1) = true ∧ (based 0x3FFFF p.1).me.trap.tmode = false ∧
      (entry p.1 (based 0x3FFFF p.1)).baseAt .base 2 true = some (0x3FFFF, none) ∧
      (entry p.1 (based 0x3FFFF p.1)).reads .base 3 = some 0 ∧ (p.2.2.1 0x3FFFF 0).toNat % p.2.2.2 ≠ 0 := by decide +kernel
    exact ⟨ready_iff (key p hp).1, (key p hp).2⟩
  · have key : ∀ p ∈ atomics 0x3FFFE, ready p.1 (based 0x3FFFE p.1) = true ∧ (based 0x3FFFE p.1).me.trap.tmode = false ∧
      (entry p.1 (based 0x3FFFE p.1)).reads p.2.1 2 = some 0x3FFFE ∧ (entry p.1 (based 0x3FFFE p.1)).readsB p.2.1 3 = some 0 ∧
      (p.2.1 ≠ .base → (entry p.1 (based 0x3FFFE p.1)).reads p.2.1 p.2.1.c = some 1) ∧ (0x3FFFE : Word).toNat % 4 ≠ 0 := by decide +kernel
    exact ⟨ready_iff (key p hp).1, (key p hp).2⟩

/-! ## Witnesses: turns, sealing, stripe blocks, waits, fences and barriers -/

/-- An address resolves, with a condition on what it resolves to. -/
def resolves (k : Acc) (ea : Word) (s : State) (p : Target → State → Bool) : Bool := endsIn (resolve k ea) s p

/-- The own local store, the own cluster store, the own common store. -/
def places : List Nat := [0x3FFFF, 0x100300, 0x80001000]

theorem witness_TurnQuery : ∀ n ∈ places, ∃ (u' : State) (t : Target),
    let x := BitVec.ofNat 64 n
    let s := based x (.turnq 1 2 .base)
    let u := entry (.turnq 1 2 .base) s
    Ready (.turnq 1 2 .base) (rawOf (.turnq 1 2 .base)) s ∧ u.reads .base 2 = some x ∧ resolve .load x u = .ok (t, u') ∧ u'.cur = s.cur ∧
    u'.cyc = s.cyc ∧ Passes (checkWatch 1 x 1) u' ∧ u'.canWrite .base 1 ∧ servedBy u' t.place = if n < 0x40000 then 0 else if n < 0x200000 then 1 else 2 := by
  intro n hn
  have key : ∀ n ∈ places, ready (.turnq 1 2 .base) (based (BitVec.ofNat 64 n) (.turnq 1 2 .base)) = true ∧
      (entry (.turnq 1 2 .base) (based (BitVec.ofNat 64 n) (.turnq 1 2 .base))).reads .base 2 = some (BitVec.ofNat 64 n) ∧
      resolves .load (BitVec.ofNat 64 n) (entry (.turnq 1 2 .base) (based (BitVec.ofNat 64 n) (.turnq 1 2 .base))) (fun t u =>
        decide (u.cur = 0 ∧ u.cyc = 0 ∧ passes (checkWatch 1 (BitVec.ofNat 64 n) 1) u ∧ takes u 1 ∧
          servedBy u t.place = if n < 0x40000 then 0 else if n < 0x200000 then 1 else 2)) = true := by
    decide +kernel
  obtain ⟨k1, k2, k3⟩ := key n hn
  obtain ⟨t, u', h, k⟩ := ends_of k3
  obtain ⟨a, b, c, d, e⟩ := of_decide_eq_true k
  exact ⟨u', t, ready_iff k1, k2, h, a, b, passes_of c, takes_of d _, e⟩

theorem witness_TurnWait : ∀ n ∈ places, ∃ (u' : State) (t : Target),
    let x := BitVec.ofNat 64 n
    let s := based x (.wturn 2 .base)
    let u := entry (.wturn 2 .base) s
    Ready (.wturn 2 .base) (rawOf (.wturn 2 .base)) s ∧ u.reads .base 2 = some x ∧ resolve .load x u = .ok (t, u') ∧ u'.cur = s.cur ∧
    u'.cyc = s.cyc ∧ Passes (checkWatch 1 x 1) u' ∧ servedBy u' t.place = if n < 0x40000 then 0 else if n < 0x200000 then 1 else 2 := by
  intro n hn
  have key : ∀ n ∈ places, ready (.wturn 2 .base) (based (BitVec.ofNat 64 n) (.wturn 2 .base)) = true ∧
      (entry (.wturn 2 .base) (based (BitVec.ofNat 64 n) (.wturn 2 .base))).reads .base 2 = some (BitVec.ofNat 64 n) ∧
      resolves .load (BitVec.ofNat 64 n) (entry (.wturn 2 .base) (based (BitVec.ofNat 64 n) (.wturn 2 .base))) (fun t u =>
        decide (u.cur = 0 ∧ u.cyc = 0 ∧ passes (checkWatch 1 (BitVec.ofNat 64 n) 1) u ∧
          servedBy u t.place = if n < 0x40000 then 0 else if n < 0x200000 then 1 else 2)) = true := by
    decide +kernel
  obtain ⟨k1, k2, k3⟩ := key n hn
  obtain ⟨t, u', h, k⟩ := ends_of k3
  obtain ⟨a, b, c, d⟩ := of_decide_eq_true k
  exact ⟨u', t, ready_iff k1, k2, h, a, b, passes_of c, d⟩

/-- The page at 0x100000000 is mapped, through four tables in the common store, to the own cluster store. -/
def paged (s : State) : State :=
  let put (o : Nat) (v : Nat) (s : State) : State := s.writeMem (comPlace 0 o).key v 8
  { put 0 0x20000400000001 (put 0x1000 0x20000800000001 (put 0x2400 0x20000C00000001 (put 0x3000 0x10004000000_03F s))) with
    effs := [(placedEff.rcb, { placedEff with troot := 0x20000000000001 })] }

/-- The instructions that seal and unseal. -/
def seals : List Instr := [.seal 2 3 .base, .unseal 2 3 .base]

/-- A thread whose `w2` is the page and `w3` a length. -/
def sealing (n : Word) (i : Instr) : State := paged (aboutWith i (holding [(2, 0x100000000), (3, n)]))

theorem witness_SealAndUnseal : ∀ i ∈ seals, Ready i (rawOf i) (sealing 0 i) ∧ Ready i (rawOf i) (sealing 65536 i) ∧
    (let u := entry i (sealing 65536 i)
     u.reads .base 2 = some 0x100000000 ∧ u.reads .base 3 = some 65536 ∧ (entry i (sealing 0 i)).reads .base 3 = some 0 ∧
     ∃ e u' q pte, myEff u = .ok (e, u') ∧ e.troot.getLsbD 0 = true ∧ leafOf u 0x100000000 3 e.troot = .ok (q, pte, false) ∧
      (pte.extractLsb' 16 12).toNat = e.tenant ∧ pte.getLsbD 3 = true ∧ u.me.storesDone = true) ∧
    ∃ e u', myEff (entry i (sealing 0 i)) = .ok (e, u') ∧ u'.cur = (sealing 0 i).cur ∧ (0x100000000 : Word).toNat ≤ 2 ^ 48 := by
  intro i hi
  have key : ∀ i ∈ seals, ready i (sealing 0 i) = true ∧ ready i (sealing 65536 i) = true ∧
      (entry i (sealing 65536 i)).reads .base 2 = some 0x100000000 ∧ (entry i (sealing 65536 i)).reads .base 3 = some 65536 ∧
      (entry i (sealing 0 i)).reads .base 3 = some 0 ∧ endsIn myEff (entry i (sealing 0 i)) (fun _ u => decide (u.cur = 0)) = true ∧
      endsIn myEff (entry i (sealing 65536 i)) (fun e _ => decide (e.troot.getLsbD 0 = true ∧
        (entry i (sealing 65536 i)).me.storesDone = true) && match leafOf (entry i (sealing 65536 i)) 0x100000000 3 e.troot with
          | .ok (_, pte, b) => decide (b = false ∧ (pte.extractLsb' 16 12).toNat = e.tenant ∧ pte.getLsbD 3 = true)
          | .error _ => false) = true := by
    decide +kernel
  obtain ⟨k1, k2, k3, k4, k5, empty, full⟩ := key i hi
  obtain ⟨e0, u0, h0, same⟩ := ends_of empty
  obtain ⟨e, u', h, k⟩ := ends_of full
  rw [Bool.and_eq_true, decide_eq_true_eq] at k
  obtain ⟨⟨a, b⟩, c⟩ := k
  refine ⟨ready_iff k1, ready_iff k2, ⟨k3, k4, k5, e, u', ?_⟩, e0, u0, h0, of_decide_eq_true same, by decide⟩
  cases l : leafOf (entry i (sealing 65536 i)) 0x100000000 3 e.troot with
  | error x =>
    rw [l] at c
    cases c
  | ok x =>
    rw [l] at c
    obtain ⟨q, pte, big⟩ := x
    simp only [decide_eq_true_eq] at c
    obtain ⟨rfl, d, g⟩ := c
    exact ⟨q, pte, h, a, rfl, d, g, b⟩

/-- `BST` from the local line at 0x1000 to the own cluster's stripe at 0x100800, and `BLD` back. -/
def stripe (i : Instr) (a b : Word) (ph : Nat) : State := aboutWith i fun x => { holding [(2, a), (3, b)] x with phase := ph }

def blockBst : Instr := .bst 2 3 (.ext noExt 0x8001)
def blockBld : Instr := .bld 2 3 .base

theorem witness_StripeBlocks :
    (∀ p ∈ [(blockBst, 2), (blockBld, 32)], Ready p.1 (rawOf p.1) (stripe p.1 0x100800 0x1000 p.2) ∧
      (entry p.1 (stripe p.1 0x100800 0x1000 p.2)).me.phase = p.2) ∧
    (let s := stripe blockBst 0x100800 0x1000 0
     let u := entry blockBst s
     let m := blockChecks .store 0x100800 0x1000 none 0x8001
     Ready blockBst (rawOf blockBst) s ∧ u.me.phase = 0 ∧ u.reads (.ext noExt 0x8001) 2 = some 0x100800 ∧
      u.baseAt (.ext noExt 0x8001) 3 false = some (0x1000, none) ∧ m u = .ok (answer m u, after m u) ∧ (after m u).cur = s.cur ∧
      (after m u).me.acc.length < 4 ∧ (answer m u).1.kind = 2) ∧
    (let s := stripe blockBld 0x3F800 0x1FF800 0
     let u := entry blockBld s
     let m := blockChecks .load 0x1FF800 0x3F800 none 0xFFFF
     Ready blockBld (rawOf blockBld) s ∧ u.me.phase = 0 ∧ u.reads .base 3 = some 0x1FF800 ∧
      u.baseAt .base 2 true = some (0x3F800, none) ∧ m u = .ok (answer m u, after m u) ∧ (after m u).cur = s.cur ∧
      u.me.acc.length < 4) := by
  refine ⟨?_, ⟨ready_iff (by decide +kernel), by decide +kernel, by decide +kernel, by decide +kernel, ends (by decide +kernel),
    by decide +kernel, by decide +kernel, by decide +kernel⟩, ready_iff (by decide +kernel), by decide +kernel, by decide +kernel,
    by decide +kernel, ends (by decide +kernel), by decide +kernel, by decide +kernel⟩
  have k : ∀ p ∈ [(blockBst, 2), (blockBld, 32)], ready p.1 (stripe p.1 0x100800 0x1000 p.2) = true ∧
      (entry p.1 (stripe p.1 0x100800 0x1000 p.2)).me.phase = p.2 := by decide +kernel
  exact fun p hp => ⟨ready_iff (k p hp).1, (k p hp).2⟩

/-- A `WAITW` for the word at the top of the own local store, which holds 9. -/
def awaiting (c : BitVec 6) (ph : Nat) (y : Word) : State :=
  let s := aboutWith (.waitw 1 2 3 c .base) fun x => { holding [(2, 0x3FFF8), (3, y)] x with phase := ph, buf := if ph = 2 then [7, 0] else [] }
  s.store (localPlace 0 0x3FFF8) 9 8

/-- The conditions, each with a word that meets it. -/
def waits : List (Nat × Nat) := [(0, 8), (1, 9), (2, 9)]

theorem witness_WaitOnWord : ∀ p ∈ waits,
    let c := BitVec.ofNat 6 p.1
    let y := BitVec.ofNat 64 p.2
    let i := Instr.waitw 1 2 3 c .base
    (Ready i (rawOf i) (awaiting c 2 0) ∧ (entry i (awaiting c 2 0)).me.phase = 2 ∧ (entry i (awaiting c 2 0)).me.buf = [7, 0] ∧
      (entry i (awaiting c 2 0)).canWrite .base 1) ∧
    (let s := awaiting c 0 y
     let u := entry i s
     let m := resolve .load 0x3FFF8
     let t := answer m u
     let u' := after m u
     Ready i (rawOf i) s ∧ u.me.phase = 0 ∧ u.me.acc = [] ∧ u.reads .base 2 = some 0x3FFF8 ∧ u.readsB .base 3 = some y ∧
      m u = .ok (t, u') ∧ u'.cur = s.cur ∧ u'.me.acc.length < 4 ∧ t.view = 0 ∧ servedBy u' t.place = 0 ∧ t.place.kind = 1 ∧ Passes (loadDstCheck 1) u' ∧
      u'.isPoisoned t.place 8 = false ∧ Passes (checkWatch 1 0x3FFF8 8) u' ∧ Passes (orderGate t.place t.ord 8) u' ∧ u'.portFree ∧
      u'.canWrite .base 1 ∧ u'.readMem t.place.key 8 = 9) := by
  have key : ∀ p ∈ waits, ready (.waitw 1 2 3 (BitVec.ofNat 6 p.1) .base) (awaiting (BitVec.ofNat 6 p.1) 2 0) = true ∧
      takes (entry (.waitw 1 2 3 (BitVec.ofNat 6 p.1) .base) (awaiting (BitVec.ofNat 6 p.1) 2 0)) 1 = true ∧
      (entry (.waitw 1 2 3 (BitVec.ofNat 6 p.1) .base) (awaiting (BitVec.ofNat 6 p.1) 2 0)).me.phase = 2 ∧
      (entry (.waitw 1 2 3 (BitVec.ofNat 6 p.1) .base) (awaiting (BitVec.ofNat 6 p.1) 2 0)).me.buf = [7, 0] := by
    decide +kernel
  have key' : ∀ p ∈ waits,
      let s := awaiting (BitVec.ofNat 6 p.1) 0 (BitVec.ofNat 64 p.2)
      let i := Instr.waitw 1 2 3 (BitVec.ofNat 6 p.1) .base
      let u := entry i s
      ready i s = true ∧ u.me.phase = 0 ∧ u.me.acc = [] ∧ u.reads .base 2 = some 0x3FFF8 ∧
        u.readsB .base 3 = some (BitVec.ofNat 64 p.2) ∧ endsIn (resolve .load 0x3FFF8) u (fun t u' => decide (u'.cur = s.cur ∧
          u'.me.acc.length < 4 ∧ t.view = 0 ∧ servedBy u' t.place = 0 ∧ t.place.kind = 1 ∧ passes (loadDstCheck 1) u' = true ∧ u'.isPoisoned t.place 8 = false ∧
          passes (checkWatch 1 0x3FFF8 8) u' = true ∧ passes (orderGate t.place t.ord 8) u' = true ∧
          (u'.core (slotCore u'.cur)).portHeld u'.cyc = false ∧ takes u' 1 = true ∧ u'.readMem t.place.key 8 = 9)) = true := by
    decide +kernel
  intro p hp
  obtain ⟨a1, a2, a3, a4⟩ := key p hp
  obtain ⟨b1, b2, b3, b4, b5, b6⟩ := key' p hp
  obtain ⟨t, u', e, k⟩ := ends_of b6
  obtain ⟨c1, c0, c2, c3, c4, c5, c6, c7, c8, c9, c10, c11⟩ := of_decide_eq_true k
  refine ⟨⟨ready_iff a1, a3, a4, takes_of a2 _⟩, ready_iff b1, b2, b3, b4, b5, ?_⟩
  rw [show answer (resolve .load 0x3FFF8) _ = t by unfold answer; rw [e], show after (resolve .load 0x3FFF8) _ = u' by unfold after; rw [e]]
  exact ⟨e, c1, c0, c2, c3, c4, passes_of c5, c6, passes_of c7, passes_of c8, c9, takes_of c10 _, c11⟩

theorem witness_Fences : (∀ p ∈ [((0 : BitVec 3), (0 : BitVec 2), (1 : BitVec 1)), (5, 2, 0)],
      Ready (.fence p.1 p.2.1 p.2.2 .base) (rawOf (.fence p.1 p.2.1 p.2.2 .base)) (about (.fence p.1 p.2.1 p.2.2 .base))) ∧
    (let u := entry (.fence 0 0 1 .base) (about (.fence 0 0 1 .base))
     u.engineBusy 0 = false ∧ u.me.acc = [] ∧ u.me.owed = []) := by
  refine ⟨?_, by decide +kernel⟩
  have k : ∀ p ∈ [((0 : BitVec 3), (0 : BitVec 2), (1 : BitVec 1)), (5, 2, 0)],
      ready (.fence p.1 p.2.1 p.2.2 .base) (about (.fence p.1 p.2.1 p.2.2 .base)) = true := by decide +kernel
  exact fun p hp => ready_iff (k p hp)

/-- A barrier of own cluster, number 255, that `w2` names, and `w3` a count, bytes or a phase. -/
def atBarrier (i : Instr) (v : Word) (b : Barrier) : State := (aboutWith i (holding [(2, 255), (3, v)])).setBarrier 0 255 b

/-- The first arrival of two, with bytes still expected. -/
def half : Barrier := { (default : Barrier) with count := 2, phase := 65535 }

theorem witness_Barriers :
    (let s := atBarrier (.bari 2 3 .base) 65535 default
     Ready (.bari 2 3 .base) (rawOf (.bari 2 3 .base)) s ∧ namesBarrier (entry (.bari 2 3 .base) s) .base 2 255 ∧
      (entry (.bari 2 3 .base) s).reads .base 3 = some 65535) ∧
    (let s := atBarrier (.bara 1 2 3 .base) 0x7FFFFFFF half
     let u := entry (.bara 1 2 3 .base) s
     let x := u.barrier 0 255
     Ready (.bara 1 2 3 .base) (rawOf (.bara 1 2 3 .base)) s ∧ namesBarrier u .base 2 255 ∧ u.reads .base 3 = some 0x7FFFFFFF ∧
      x.region = none ∧ x.count ≠ 0 ∧ x.broken = false ∧ u.me.performed 0 4 = true ∧ x.arrivals ≠ x.count ∧
      x.counter + 0x7FFFFFFF ≤ 2 ^ 31 - 1 ∧ u.canWrite .base 1) ∧
    (let s := atBarrier (.barw 2 3 .base) 65534 half
     let u := entry (.barw 2 3 .base) s
     let x := u.barrier 0 255
     Ready (.barw 2 3 .base) (rawOf (.barw 2 3 .base)) s ∧ namesBarrier u .base 2 255 ∧ u.reads .base 3 = some 65534 ∧
      x.region = none ∧ x.count ≠ 0 ∧ x.broken = false ∧ x.phase ≠ 65534) ∧
    (let s := atBarrier (.bart 1 2 .base) 0 half
     let u := entry (.bart 1 2 .base) s
     Ready (.bart 1 2 .base) (rawOf (.bart 1 2 .base)) s ∧ namesBarrier u .base 2 255 ∧ (u.barrier 0 255).region = none ∧
      u.canWrite .base 1) :=
  ⟨⟨ready_iff (by decide +kernel), ⟨255, by decide +kernel⟩, by decide +kernel⟩,
    ⟨ready_iff (by decide +kernel), ⟨255, by decide +kernel⟩, by decide +kernel, by decide +kernel, by decide +kernel, by decide +kernel,
      by decide +kernel, by decide +kernel, by decide +kernel, takes_of (by decide +kernel) _⟩,
    ⟨ready_iff (by decide +kernel), ⟨255, by decide +kernel⟩, by decide +kernel, by decide +kernel, by decide +kernel, by decide +kernel,
      by decide +kernel⟩,
    ready_iff (by decide +kernel), ⟨255, by decide +kernel⟩, by decide +kernel, takes_of (by decide +kernel) _⟩

theorem witness_BarrierCompletes : ∀ p ∈ [((65535 : Nat), (0 : Int)), (1, 1), (1, -1)],
    let x := (atBarrier (.nop .base) 0 { half with arrivals := 2, counter := p.2, phase := p.1 }).barrier 0 255
    x.count ≠ 0 ∧ x.arrivals = x.count ∧ x.counter = p.2 := by
  decide +kernel

/-! ## Witnesses: remote accesses, ports and multicast -/

/-- The thread's region holds clusters 0 and 1 of the device. -/
def two (s : State) : State := { s with effs := [(placedEff.rcb, { placedEff with part := [0, 1], cmask := 3 })] }

/-- A thread whose `w2` is the address of a line of cluster 1 and whose `w3` and `w4` are the value and the compare value. -/
def far (i : Instr) : State := two (aboutWith i (holding [(1, 0x1000), (2, 0x40100380), (3, 0x2000), (4, 5)]))

/-- An access of `n` bytes at the far line has a target and meets every condition of `Remote`. -/
def isRemote (k : Acc) (kind : Nat) (st : Bool) (f : Form) (ea : Word) (n : Nat) (u : State) (p : Target → State → Bool) : Bool :=
  endsIn (remoteTarget k ea n) u fun t u' => decide ((u'.cur = u.cur ∧ u'.me = u.me ∧ u'.net = u.net ∧ u'.mem = u.mem) ∧
    passes (checkWatch kind ea n) u' = true ∧ passes (orderGate t.place t.ord n st) u' = true ∧
    passes (remoteGate t.place false) u' = true ∧ (∀ g ∈ u.me.acc, ∀ m ∈ g.units, t.place.meets n m.place m.place.span = false) ∧
    (k = .load ∨ passes (tileGate t.place n) u' = true) ∧
    (k = .load ∨ honoured f t < 2 ∨ u'.me.performed (slotCore u.cur) f.scope = true) ∧
    (0 < (u'.core (slotCore u.cur)).resp ∧ 0 < (u'.core (slotCore u.cur)).credits) ∧ p t u' = true)

theorem remote_of {k : Acc} {kind : Nat} {st : Bool} {f : Form} {ea : Word} {n : Nat} {u : State} {p : Target → State → Bool}
    (h : isRemote k kind st f ea n u p = true) : ∃ u' t, Remote k kind st f ea n u u' t ∧ p t u' = true := by
  obtain ⟨t, u', e, c⟩ := ends_of h
  obtain ⟨same, watch, order, free, apart, tiles, unheld, slots, rest⟩ := of_decide_eq_true c
  exact ⟨u', t, ⟨e, same, passes_of watch, passes_of order, passes_of free, apart, tiles.imp_right passes_of, unheld, slots⟩, rest⟩

/-- `RAT` as a compare and swap of a word, with its release honoured. -/
def farSwap : Instr := .rat 1 2 3 (.ext { noExt with xfn := 9, ty := 7, c := 4 } 0)

theorem witness_RemoteAccesses :
    (∃ u' t, Ready (.rld 1 2 .base) (rawOf (.rld 1 2 .base)) (far (.rld 1 2 .base)) ∧ (entry (.rld 1 2 .base) (far (.rld 1 2 .base))).reads .base 2 =
        some 0x40100380 ∧ Remote .load 1 false .base 0x40100380 8 (entry (.rld 1 2 .base) (far (.rld 1 2 .base))) u' t ∧
      Passes (loadDstCheck 1) u' ∧ Passes (loadReady 1) u') ∧
    (∃ u' t, Ready (.rst 2 3 .base) (rawOf (.rst 2 3 .base)) (far (.rst 2 3 .base)) ∧ u'.reads .base 3 = some 0x2000 ∧
      Remote .store 2 true .base 0x40100380 8 (entry (.rst 2 3 .base) (far (.rst 2 3 .base))) u' t) ∧
    (∃ u' t q, Ready (.rldv 1 2 .base) (rawOf (.rldv 1 2 .base)) (far (.rldv 1 2 .base)) ∧
      (entry (.rldv 1 2 .base) (far (.rldv 1 2 .base))).reads .base 1 = some 0x1000 ∧
      Remote .load 1 true .base 0x40100380 128 (entry (.rldv 1 2 .base) (far (.rldv 1 2 .base))) u' t ∧
      remoteLocal 0x1000 u' = .ok (q, u') ∧ Passes (checkWatch 2 0x1000 128) u' ∧ Passes (orderGate q u'.windowOrd 128 true) u' ∧
      Passes (tileGate q 128) u') ∧
    (∃ u' t q, Ready (.rstv 2 3 .base) (rawOf (.rstv 2 3 .base)) (far (.rstv 2 3 .base)) ∧
      (entry (.rstv 2 3 .base) (far (.rstv 2 3 .base))).reads .base 3 = some 0x2000 ∧
      Remote .store 2 true .base 0x40100380 128 (entry (.rstv 2 3 .base) (far (.rstv 2 3 .base))) u' t ∧
      remoteLocal 0x2000 u' = .ok (q, u') ∧ u'.isPoisoned q 128 = false ∧ Passes (checkWatch 1 0x2000 128) u' ∧
      Passes (orderGate q u'.windowOrd 128) u' ∧ u'.portFree) ∧
    (∃ u' t, Ready farSwap (rawOf farSwap) (far farSwap) ∧ (entry farSwap (far farSwap)).reads farSwap.form 3 = some 0x2000 ∧
      (entry farSwap (far farSwap)).reads farSwap.form farSwap.form.c = some 5 ∧ (farSwap.form.xfn.extractLsb' 0 4).toNat = 9 ∧
      Remote .atomic 3 true farSwap.form 0x40100380 (if farSwap.form.ty 7 = 5 then 4 else 8) (entry farSwap (far farSwap)) u' t ∧
      Passes (loadDstCheck 1) u' ∧ Passes (loadReady 1) u') := by
  refine ⟨?_, ?_, ?_, ?_, ?_⟩
  · have k : isRemote .load 1 false .base 0x40100380 8 (entry (.rld 1 2 .base) (far (.rld 1 2 .base)))
        (fun _ u' => passes (loadDstCheck 1) u' && passes (loadReady 1) u') = true := by decide +kernel
    obtain ⟨u', t, h, c⟩ := remote_of k
    rw [Bool.and_eq_true] at c
    exact ⟨u', t, ready_iff (by decide +kernel), by decide +kernel, h, passes_of c.1, passes_of c.2⟩
  · have k : isRemote .store 2 true .base 0x40100380 8 (entry (.rst 2 3 .base) (far (.rst 2 3 .base)))
        (fun _ u' => decide (u'.reads .base 3 = some 0x2000)) = true := by decide +kernel
    obtain ⟨u', t, h, c⟩ := remote_of k
    exact ⟨u', t, ready_iff (by decide +kernel), of_decide_eq_true c, h⟩
  · have k : isRemote .load 1 true .base 0x40100380 128 (entry (.rldv 1 2 .base) (far (.rldv 1 2 .base))) (fun t u' =>
        endsIn (remoteLocal 0x1000) u' fun q v => decide (v = u' ∧ passes (checkWatch 2 0x1000 128) u' = true ∧
          passes (orderGate q u'.windowOrd 128 true) u' = true ∧ passes (tileGate q 128) u' = true)) = true := by decide +kernel
    obtain ⟨u', t, h, c⟩ := remote_of k
    obtain ⟨q, v, e, c⟩ := ends_of c
    obtain ⟨rfl, watch, order, tile⟩ := of_decide_eq_true c
    exact ⟨v, t, q, ready_iff (by decide +kernel), by decide +kernel, h, e, passes_of watch, passes_of order, passes_of tile⟩
  · have k : isRemote .store 2 true .base 0x40100380 128 (entry (.rstv 2 3 .base) (far (.rstv 2 3 .base))) (fun t u' =>
        endsIn (remoteLocal 0x2000) u' fun q v => decide (v = u' ∧ u'.isPoisoned q 128 = false ∧
          passes (checkWatch 1 0x2000 128) u' = true ∧ passes (orderGate q u'.windowOrd 128) u' = true ∧
          (u'.core (slotCore u'.cur)).portHeld u'.cyc = false)) = true := by decide +kernel
    obtain ⟨u', t, h, c⟩ := remote_of k
    obtain ⟨q, v, e, c⟩ := ends_of c
    obtain ⟨rfl, clean, watch, order, port⟩ := of_decide_eq_true c
    exact ⟨v, t, q, ready_iff (by decide +kernel), by decide +kernel, h, e, clean, passes_of watch, passes_of order, port⟩
  · have k : isRemote .atomic 3 true farSwap.form 0x40100380 (if farSwap.form.ty 7 = 5 then 4 else 8) (entry farSwap (far farSwap))
        (fun _ u' => passes (loadDstCheck 1) u' && passes (loadReady 1) u') = true := by decide +kernel
    obtain ⟨u', t, h, c⟩ := remote_of k
    rw [Bool.and_eq_true] at c
    exact ⟨u', t, ready_iff (by decide +kernel), by decide +kernel, by decide +kernel, by decide +kernel, h, passes_of c.1, passes_of c.2⟩

/-- A thread with port 1 closed and port 0 open, each with what it holds; `w2` names cluster 1, core 0, port 0. -/
def streaming (i : Instr) (o : Bool) : State :=
  two <| aboutWith i fun x => { holding [(2, 0x800000000000)] x with ports := x.ports.set! 1 { x.ports[1] with isOpen := o, bound := o, age := 3 } }

theorem witness_Ports :
    (let s := streaming (.pbind 33 2 .base) false
     let u := entry (.pbind 33 2 .base) s
     Ready (.pbind 33 2 .base) (rawOf (.pbind 33 2 .base)) s ∧ u.reads .base 2 = some 0x800000000000 ∧ (u.me.ports[1]).isOpen = false ∧
      u.me.portPending 1 = false ∧ destCheck 0x800000000000 true u = .ok ((), after (destCheck 0x800000000000 true) u) ∧
      (after (destCheck 0x800000000000 true) u).cur = s.cur) ∧
    (∀ o ∈ [false, true], Ready (.pclose 33 .base) (rawOf (.pclose 33 .base)) (streaming (.pclose 33 .base) o) ∧
      Ready (.pstat 1 33 .base) (rawOf (.pstat 1 33 .base)) (streaming (.pstat 1 33 .base) o) ∧
      (entry (.pstat 1 33 .base) (streaming (.pstat 1 33 .base) o)).canWrite .base 1 ∧
      (let u := entry (.pclose 33 .base) (streaming (.pclose 33 .base) o)
       u.me.portPending 1 = false ∧ (u.me.ports[1]).lost = false ∧ (u.me.ports[1]).isOpen = o)) := by
  refine ⟨⟨ready_iff (by decide +kernel), by decide +kernel, by decide +kernel, by decide +kernel, gives (by decide +kernel),
    by decide +kernel⟩, ?_⟩
  have k : ∀ o ∈ [false, true], ready (.pclose 33 .base) (streaming (.pclose 33 .base) o) = true ∧
      ready (.pstat 1 33 .base) (streaming (.pstat 1 33 .base) o) = true ∧
      takes (entry (.pstat 1 33 .base) (streaming (.pstat 1 33 .base) o)) 1 = true ∧
      (let u := entry (.pclose 33 .base) (streaming (.pclose 33 .base) o)
       u.me.portPending 1 = false ∧ (u.me.ports[1]).lost = false ∧ (u.me.ports[1]).isOpen = o) := by decide +kernel
  intro o ho
  obtain ⟨a, b, c, d⟩ := k o ho
  exact ⟨ready_iff a, ready_iff b, takes_of c _, d⟩

/-- An `MCAST` at a phase, to a register and to a port. -/
def casts : List Instr := [.mcast 1 2 3 .base, .mcast 33 2 3 .base]

def casting (i : Instr) (p : Nat × List Nat) : State := aboutWith i fun x => { x with phase := p.1, buf := p.2 }

def castPhases : List (Nat × List Nat) := [(1, [3]), (2, [4, 0]), (2, [3, 2 ^ 64 - 1])]

theorem witness_Multicast : ∀ p ∈ castPhases, ∀ i ∈ casts,
    Ready i (rawOf i) (casting i p) ∧ (entry i (casting i p)).me.phase = p.1 ∧ (entry i (casting i p)).me.buf = p.2 ∧
    (entry i (casting i p)).canTake .base (rawOf i).d := by
  have k : ∀ p ∈ castPhases, ∀ i ∈ casts, ready i (casting i p) = true ∧ (entry i (casting i p)).me.phase = p.1 ∧
      (entry i (casting i p)).me.buf = p.2 ∧ (isPort (rawOf i).d = true ∨ takes (entry i (casting i p)) (rawOf i).d = true) := by
    decide +kernel
  intro p hp i hi
  obtain ⟨ready, phase, buf, room⟩ := k p hp i hi
  exact ⟨ready_iff ready, phase, buf, room.imp_right fun h => takes_of h _⟩

/-! ## Witnesses: copy channels, circular buffers and KVCOMMIT -/

/-- Two rows of 16 bytes inside the own cluster store, the second 32 bytes after the first in the destination. -/
def plainSet : CopySet := { src := 0x100000, dst := 0x101000, len := 16, rows := 2, sstr := 16, dstr := 32, stamp := 0x102000 }

/-- The same on a page, with one hop, to cluster 0, on channel 3. -/
def chainSet : CopySet := { plainSet with dst := 0x100001000, flags := 0x310, next := 0x1000000 }

/-- A thread about to launch a set. -/
def launching (c : CopySet) : State :=
  paged (aboutWith (.cpLaunch 1 .base) fun x => { holding [(2, 0x10000001), (3, 1)] x with copy := c })

/-- The chain of computations that a launch of a set goes through. -/
def launchSteps (c : CopySet) (pages : List (Nat × Place)) (v : State) (u1 : State) (e : Eff) : Bool :=
  endsIn (spanPlaces e .load (rowSpans c.src c.sstr c.len.toNat c.rows.toNat)) v fun rs u3 =>
  endsIn (spanPlaces e .store (rowSpans c.dst c.dstr c.rowLen c.rowCount)) u3 fun rd u4 =>
  endsIn (spanPlaces e .store [(c.stamp, 8)]) u4 fun rt u5 =>
  endsIn (allOk (rs ++ rd ++ rt)) u5 fun _ u6 =>
    decide ((u6.cur = u1.cur ∧ u6.me = u1.me ∧ u6.mem = u1.mem ∧ u6.cyc = u1.cyc) ∧ passes (loadDstCheck 1) u6 = true ∧
      passes launchGate u6 = true ∧ takes u6 1 = true ∧ ((u6.clu 0).chans[c.chan % 4]!).queue.length < 4 ∧
      (u6.clu 0).jobs.length < 32 ∧ pages.length ≤ 1)

/-- A set that meets the conditions of `CopyLaunch` in the state where the launch begins. -/
def Launches (c : CopySet) (u : State) : Prop :=
  c.limits = true ∧ (∀ w ∈ [c.src, c.dst, c.sstr, c.dstr, c.stamp], w.toNat % 8 = 0) ∧
  (c.rowCount < 2 ∨ c.rowLen ≤ c.dstr.toInt.natAbs) ∧
  ¬ (c.srcBound.1 < c.dstBound.2 ∧ c.dstBound.1 < c.srcBound.2) ∧
  ¬ (c.dstBound.1 < (c.stamp.toNat : Int) + 8 ∧ (c.stamp.toNat : Int) < c.dstBound.2) ∧ u.me.storesDone = true ∧
  ∃ (u1 u2 u3 u4 u5 u6 : State) (e : Eff) (pages : List (Nat × Place)) (rs rd rt : List (Except TrapRec (Nat × Place × Nat)))
    (all : List (Nat × Place × Nat)), myEff u = .ok (e, u1) ∧ (c.chain = false → pages = [] ∧ u2 = u1) ∧
    (c.chain = true → c.hopList ≠ [] ∧ (∀ h ∈ c.hopList, (e.logical u.device h).isSome) ∧
      ∃ v q, ownPages e c.dstBound.1.toNat (c.dstBound.2 - c.dstBound.1).toNat u1 = .ok ((pages, true), v) ∧
        locate e c.stamp.toNat v = .ok (q, u2) ∧ ∀ p, q = some p → servedBy u p = 1) ∧
    spanPlaces e .load (rowSpans c.src c.sstr c.len.toNat c.rows.toNat) u2 = .ok (rs, u3) ∧
    spanPlaces e .store (rowSpans c.dst c.dstr c.rowLen c.rowCount) u3 = .ok (rd, u4) ∧
    spanPlaces e .store [(c.stamp, 8)] u4 = .ok (rt, u5) ∧ allOk (rs ++ rd ++ rt) u5 = .ok (all, u6) ∧
    (u6.cur = u.cur ∧ u6.me = u.me ∧ u6.mem = u.mem ∧ u6.cyc = u.cyc) ∧ Passes (loadDstCheck 1) u6 ∧ Passes launchGate u6 ∧
    u6.canWrite .base 1 ∧ ((u6.clu 0).chans[c.chan % 4]!).queue.length < 4 ∧ (u6.clu 0).jobs.length < 32

theorem launches_of {c : CopySet} {u u1 u2 : State} {e : Eff} {pages : List (Nat × Place)}
    (h : decide (c.limits = true ∧ ([c.src, c.dst, c.sstr, c.dstr, c.stamp].all fun w => w.toNat % 8 == 0) = true ∧
      (c.rowCount < 2 ∨ c.rowLen ≤ c.dstr.toInt.natAbs) ∧
      ¬ (c.srcBound.1 < c.dstBound.2 ∧ c.dstBound.1 < c.srcBound.2) ∧
      ¬ (c.dstBound.1 < (c.stamp.toNat : Int) + 8 ∧ (c.stamp.toNat : Int) < c.dstBound.2) ∧ u.me.storesDone = true) = true)
    (hm : myEff u = .ok (e, u1)) (h1 : c.chain = false → pages = [] ∧ u2 = u1)
    (h2 : c.chain = true → c.hopList ≠ [] ∧ (∀ h ∈ c.hopList, (e.logical u.device h).isSome) ∧
      ∃ v q, ownPages e c.dstBound.1.toNat (c.dstBound.2 - c.dstBound.1).toNat u1 = .ok ((pages, true), v) ∧
        locate e c.stamp.toNat v = .ok (q, u2) ∧ ∀ p, q = some p → servedBy u p = 1)
    (k : launchSteps c pages u2 u e = true) : Launches c u := by
  obtain ⟨a1, a2, a3, a4, a5, a6⟩ := of_decide_eq_true h
  obtain ⟨rs, u3, b1, k⟩ := ends_of k
  obtain ⟨rd, u4, b2, k⟩ := ends_of k
  obtain ⟨rt, u5, b3, k⟩ := ends_of k
  obtain ⟨all, u6, b4, k⟩ := ends_of k
  obtain ⟨same, dst, gate, room, queue, jobs, -⟩ := of_decide_eq_true k
  exact ⟨a1, by simpa using a2, a3, a4, a5, a6, u1, u2, u3, u4, u5, u6, e, pages, rs, rd, rt, all, hm, h1, h2, b1, b2, b3, b4, same,
    passes_of dst, passes_of gate, takes_of room _, queue, jobs⟩

theorem witness_CopyLaunch : ∀ c ∈ [plainSet, chainSet], Ready (.cpLaunch 1 .base) (rawOf (.cpLaunch 1 .base)) (launching c) ∧
    (entry (.cpLaunch 1 .base) (launching c)).me.copy = c ∧ Launches c (entry (.cpLaunch 1 .base) (launching c)) := by
  intro c hc
  simp only [List.mem_cons, List.not_mem_nil, or_false] at hc
  rcases hc with rfl | rfl
  · have k : endsIn myEff (entry (.cpLaunch 1 .base) (launching plainSet)) (fun e u1 =>
        launchSteps plainSet [] u1 (entry (.cpLaunch 1 .base) (launching plainSet)) e) = true := by decide +kernel
    obtain ⟨e, u1, hm, k⟩ := ends_of k
    exact ⟨ready_iff (by decide +kernel), by decide +kernel, launches_of (by decide +kernel) hm (fun _ => ⟨rfl, rfl⟩) (fun h =>
      absurd h (by decide +kernel)) k⟩
  · have k : endsIn myEff (entry (.cpLaunch 1 .base) (launching chainSet)) (fun e u1 =>
        decide (chainSet.hopList ≠ [] ∧ ∀ h ∈ chainSet.hopList,
          (e.logical (entry (.cpLaunch 1 .base) (launching chainSet)).device h).isSome) &&
        endsIn (ownPages e chainSet.dstBound.1.toNat (chainSet.dstBound.2 - chainSet.dstBound.1).toNat) u1 fun p v => decide (p.2 = true) &&
          endsIn (locate e chainSet.stamp.toNat) v fun q u2 =>
            (q.all fun x => decide (servedBy (entry (.cpLaunch 1 .base) (launching chainSet)) x = 1)) &&
            launchSteps chainSet p.1 u2 (entry (.cpLaunch 1 .base) (launching chainSet)) e) = true := by decide +kernel
    obtain ⟨e, u1, hm, k⟩ := ends_of k
    rw [Bool.and_eq_true, decide_eq_true_eq] at k
    obtain ⟨⟨k1, k2⟩, k⟩ := k
    obtain ⟨p, v, hp, k⟩ := ends_of k
    obtain ⟨k3, k⟩ := Bool.and_eq_true_iff.mp k
    rw [decide_eq_true_eq] at k3
    obtain ⟨q, u2, hq, k⟩ := ends_of k
    obtain ⟨k4, k⟩ := Bool.and_eq_true_iff.mp k
    refine ⟨ready_iff (by decide +kernel), by decide +kernel, launches_of (pages := p.1) (by decide +kernel) hm
      (fun h => absurd h (by decide +kernel)) (fun _ => ⟨k1, k2, v, q, ?_, hq, fun x hx => ?_⟩) k⟩
    · rw [hp, ← k3]
    · subst hx
      simpa using k4

/-- A transfer that the own cluster's channel 1 keeps as the first of its launches, done or under way. -/
def kept (i : Instr) (b : Word) (q : List Transfer) (l : List CopyDone) : State :=
  (aboutWith i (holding [(2, 0x10000001), (3, b)])).modClu 0 fun c =>
    { c with chans := c.chans.set! 1 { c.chans[1] with count := 1, queue := q, done := l } }

/-- `CPFWD` of the kept transfer to cluster 0, and `CPWAIT` for 8 bytes of it. -/
def fwd : Instr := .cpfwd 1 2 3 .base
def awaitCopy : Instr := .cpwait 1 2 3 .base
def done1 : CopyDone := { (default : CopyDone) with seq := 0x10000001, own := true, bytes := 32, len := 32 }
def under1 : Transfer := { seq := 0x10000001, total := 32, bytes := 16 }

theorem witness_CopyForwardAndWait :
    (let s := kept fwd 0 [] [done1]
     let u := entry fwd s
     Ready fwd (rawOf fwd) s ∧ u.reads .base 2 = some 0x10000001 ∧ u.reads .base 3 = some 0 ∧ seqParts 0x10000001 = some (1, 1) ∧
      (∃ e u' p w, myEff u = .ok (e, u') ∧ u'.me = u.me ∧ u'.cur = s.cur ∧ u'.mem = s.mem ∧ u'.clu 0 = u.clu 0 ∧
        (e.logical s.device 0).isSome ∧ Passes (loadDstCheck 1) u' ∧ Passes launchGate u' ∧
        ownPages e done1.lo done1.len u' = .ok (p, w) ∧ w.me = u.me ∧ w.cur = s.cur ∧ w.mem = s.mem ∧ w.clu 0 = u.clu 0 ∧
        w.canWrite .base 1) ∧
      u.me.storesDone = true ∧ ((u.clu 0).chans[1]).count = 1 ∧ ((u.clu 0).chans[1]).queue = [] ∧
      ((u.clu 0).chans[1]).done.find? (fun g => g.seq = 0x10000001) = some done1 ∧ done1.own = true ∧ (u.clu 0).jobs.length < 32) ∧
    (∀ p ∈ [(([] : List Transfer), [done1], (40 : Word)), ([under1], [], 16), ([], [], 0)],
      let s := kept awaitCopy p.2.2 p.1 p.2.1
      let u := entry awaitCopy s
      Ready awaitCopy (rawOf awaitCopy) s ∧ u.reads .base 2 = some 0x10000001 ∧ u.reads .base 3 = some p.2.2 ∧
        ((u.clu 0).chans[1]).count = 1 ∧ ((u.clu 0).chans[1]).queue = p.1 ∧ ((u.clu 0).chans[1]).done = p.2.1 ∧ u.canWrite .base 1) := by
  refine ⟨⟨ready_iff (by decide +kernel), by decide +kernel, by decide +kernel, by decide +kernel, ?_, by decide +kernel, by decide +kernel,
    by decide +kernel, by decide +kernel, by decide +kernel, by decide +kernel⟩, ?_⟩
  · have k : endsIn myEff (entry fwd (kept fwd 0 [] [done1])) (fun e u' => decide (u'.me = (entry fwd (kept fwd 0 [] [done1])).me ∧
        u'.cur = (kept fwd 0 [] [done1]).cur ∧ u'.mem = (kept fwd 0 [] [done1]).mem ∧
        u'.clu 0 = (entry fwd (kept fwd 0 [] [done1])).clu 0 ∧ (e.logical (kept fwd 0 [] [done1]).device 0).isSome ∧
        passes (loadDstCheck 1) u' = true ∧ passes launchGate u' = true ∧
        endsIn (ownPages e done1.lo done1.len) u' (fun _ w => decide (w = u' ∧ takes w 1 = true)) = true)) = true := by decide +kernel
    obtain ⟨e, u', h, k⟩ := ends_of k
    obtain ⟨me, cur, mem, clu, cluster, dst, gate, pages⟩ := of_decide_eq_true k
    obtain ⟨p, w, hp, k⟩ := ends_of pages
    obtain ⟨rfl, room⟩ := of_decide_eq_true k
    exact ⟨e, w, p, w, h, me, cur, mem, clu, cluster, passes_of dst, passes_of gate, hp, me, cur, mem, clu, takes_of room _⟩
  · have k : ∀ p ∈ [(([] : List Transfer), [done1], (40 : Word)), ([under1], [], 16), ([], [], 0)],
        let s := kept awaitCopy p.2.2 p.1 p.2.1
        let u := entry awaitCopy s
        ready awaitCopy s = true ∧ u.reads .base 2 = some 0x10000001 ∧ u.reads .base 3 = some p.2.2 ∧
          ((u.clu 0).chans[1]).count = 1 ∧ ((u.clu 0).chans[1]).queue = p.1 ∧ ((u.clu 0).chans[1]).done = p.2.1 ∧ takes u 1 = true := by
      decide +kernel
    intro p hp
    obtain ⟨a, b, c, d, e, g, h⟩ := k p hp
    exact ⟨ready_iff a, b, c, d, e, g, takes_of h _⟩

/-- A thread whose core's buffer 7 stands as given. -/
def buffered (i : Instr) (l : List (Nat × Word)) (h : Handle) : State :=
  (aboutWith i (holding l)).modCore 0 fun c => { c with handles := c.handles.set! 7 h }

/-- A buffer of three slots of 8 bytes at the end of the local store, its last slot filled. -/
def buf3 : Handle := { (default : Handle) with base := 0x3FFE8, ssize := 8, scount := 3, head := 2, tail := 0, fill := 1 }

theorem witness_CircularBuffers :
    (let i := Instr.cbinit 1 47 2 .base
     let s := buffered i [(1, 0x3FFE8), (2, 0x30008)] default
     let u := entry i s
     Ready i (rawOf i) s ∧ u.reads .base 1 = some 0x3FFE8 ∧ u.reads .base 2 = some 0x30008 ∧
      localBound u = .ok (0x40000, after localBound u) ∧ (after localBound u).cur = s.cur) ∧
    (let i := Instr.cbprod 1 47 2 .base
     let s := buffered i [(2, 2)] buf3
     let u := entry i s
     Ready i (rawOf i) s ∧ u.reads .base 2 = some 2 ∧ handleOf u 47 = buf3 ∧ u.me.localStoresDone 0 = true ∧ u.canWrite .base 1) ∧
    (let i := Instr.cbcons 1 47 2 .base
     let s := buffered i [(2, 1)] buf3
     let u := entry i s
     Ready i (rawOf i) s ∧ u.reads .base 2 = some 1 ∧ handleOf u 47 = buf3 ∧ u.me.acc = [] ∧ u.canWrite .base 1) ∧
    (let i := Instr.cbstat 1 47 .base
     let s := buffered i [] buf3
     Ready i (rawOf i) s ∧ (entry i s).canWrite .base 1) :=
  ⟨⟨ready_iff (by decide +kernel), by decide +kernel, by decide +kernel, gives (by decide +kernel), by decide +kernel⟩,
    ⟨ready_iff (by decide +kernel), by decide +kernel, by decide +kernel, by decide +kernel, takes_of (by decide +kernel) _⟩,
    ⟨ready_iff (by decide +kernel), by decide +kernel, by decide +kernel, by decide +kernel, takes_of (by decide +kernel) _⟩,
    ready_iff (by decide +kernel), takes_of (by decide +kernel) _⟩

theorem witness_KvCommit : ∀ p ∈ [((44 : Nat), [(512 : Nat), 0]), (40, []), (42, []), (43, []), (46, [])],
    let i := Instr.kvcommit 1 2 3 .base
    let s := aboutWith i fun x => { x with phase := p.1, buf := p.2 }
    let u := entry i s
    Ready i (rawOf i) s ∧ u.me.phase = p.1 ∧ u.me.buf = p.2 ∧ u.canTake .base 1 := by
  have k : ∀ p ∈ [((44 : Nat), [(512 : Nat), 0]), (40, []), (42, []), (43, []), (46, [])],
      let i := Instr.kvcommit 1 2 3 .base
      let s := aboutWith i fun x => { x with phase := p.1, buf := p.2 }
      let u := entry i s
      ready i s = true ∧ u.me.phase = p.1 ∧ u.me.buf = p.2 ∧ takes u 1 = true := by decide +kernel
  intro p hp
  obtain ⟨a, b, c, d⟩ := k p hp
  exact ⟨ready_iff a, b, c, .inr (takes_of d _)⟩

/-! ## Witnesses: tasks, plans and regions -/

/-- The identifier of the thread's region names its block. -/
def named (s : State) : State := { s with dir := [(1, placedEff.rcb)] }

/-- A record in the last 256 bytes of the own local store. -/
def waiting : Rec := { pc := 0x100000000, cls := 3, depth := 7, prio := 3, region := 1 }

def enq1 : Instr := .enq 2 3 .base
def spawn1 : Instr := .spawn 1 2 3 .base

/-- A thread about to enqueue the record, or waiting with it for room. -/
def enqueuing (ph : Nat) : State :=
  (named (aboutWith enq1 fun x => { holding [(2, 0x3FF00)] x with phase := ph, buf := if ph = 0 then [] else [leNat waiting.bytes] })).storeBytes
    (localPlace 0 0x3FF00) waiting.bytes

/-- A thread about to spawn a child of class 3, priority 2, or answered. -/
def spawning (ph : Nat) : State := named (aboutWith spawn1 fun x => { holding [(2, 0x100000040), (3, 0x23)] x with phase := ph })

/-- The child that it spawns. -/
def child (u : State) : Rec :=
  { w := Vector.ofFn fun i => if i.val = 1 then 1 else u.word 0 i.val
    pc := 0x100000040, pw := u.me.pw, cls := 3, depth := 1, prio := 2, flags := 0, region := u.me.region }

/-- The own cluster is the target, and its queue takes an entry. -/
def enters (w : Word) (k : Rec) (s : State) (p : State → Bool) : Bool :=
  endsIn (placeTarget w) s fun t u => decide (t = (u.device, 0) ∧ u.cur = 0 ∧ (u.enqueue 0 { val := k }).any p = true)

theorem enters_of {w : Word} {k : Rec} {s : State} {p : State → Bool} (h : enters w k s p = true) :
    ∃ u v, placeTarget w s = .ok ((u.device, 0), u) ∧ u.cur = 0 ∧ u.enqueue 0 { val := k } = some v ∧ p v = true := by
  obtain ⟨t, u, e, c⟩ := ends_of h
  obtain ⟨rfl, cur, room⟩ := of_decide_eq_true c
  obtain ⟨v, entered, rest⟩ := some_of room
  exact ⟨u, v, e, cur, entered, rest⟩

theorem witness_Enqueue :
    (let u := entry enq1 (enqueuing 0)
     Ready enq1 (rawOf enq1) (enqueuing 0) ∧ u.reads .base 2 = some 0x3FF00 ∧ u.reads .base 3 = some 0 ∧ u.me.phase = 0 ∧
      ∃ (u1 u2 u3 u4 u5 : State) (t : Target) (k : Rec), recordPlace .load 0x3FF00 u = .ok (t, u1) ∧ u1.cur = 0 ∧ u1.me = u.me ∧
        t.place.kind = 1 ∧ Passes (orderGate t.place t.ord 256) u1 ∧ u1.portFree ∧
        recordChecks (u1.readBytes t.place.key 256) 0 u1.portTaken = .ok (k, u2) ∧ placeTarget 0 u2 = .ok ((u3.device, 0), u3) ∧
        u3.cur = 0 ∧ u3.isPoisoned t.place 256 = false ∧ Passes (checkWatch 1 0x3FF00 256) u3 ∧
        placeTarget 0 (u3.modSlot 0 fun y => { y with phase := 12, buf := [leNat (u1.readBytes t.place.key 256)] })
          = .ok ((u4.device, 0), u4) ∧ u4.cur = 0 ∧ u4.enqueue 0 { val := k } = some u5) ∧
    (let u := entry enq1 (enqueuing 12)
     Ready enq1 (rawOf enq1) (enqueuing 12) ∧ u.reads .base 2 = some 0x3FF00 ∧ u.reads .base 3 = some 0 ∧ u.me.phase = 12 ∧
      u.me.buf = [leNat waiting.bytes] ∧ ∃ u4 u5, placeTarget 0 u = .ok ((u4.device, 0), u4) ∧ u4.cur = 0 ∧
        u4.enqueue 0 { val := { Rec.ofBytes (leBytes 256 (leNat waiting.bytes)) with reason := 0, home := 0 } } = some u5) := by
  constructor
  · refine ⟨ready_iff (by decide +kernel), by decide +kernel, by decide +kernel, by decide +kernel, ?_⟩
    have chain : endsIn (recordPlace .load 0x3FF00) (entry enq1 (enqueuing 0)) (fun t u1 => decide (u1.cur = 0 ∧
        u1.me = (entry enq1 (enqueuing 0)).me ∧ t.place.kind = 1 ∧ passes (orderGate t.place t.ord 256) u1 = true ∧
        (u1.core (slotCore u1.cur)).portHeld u1.cyc = false ∧
        endsIn (recordChecks (u1.readBytes t.place.key 256) 0) u1.portTaken (fun k u2 =>
          endsIn (placeTarget 0) u2 fun p u3 => decide (p = (u3.device, 0) ∧ u3.cur = 0 ∧ u3.isPoisoned t.place 256 = false ∧
            passes (checkWatch 1 0x3FF00 256) u3 = true ∧
            enters 0 k (u3.modSlot 0 fun y => { y with phase := 12, buf := [leNat (u1.readBytes t.place.key 256)] })
              (fun _ => true) = true)) = true)) = true := by decide +kernel
    obtain ⟨t, u1, place, c⟩ := ends_of chain
    obtain ⟨cur1, me1, kind, order, port, c⟩ := of_decide_eq_true c
    obtain ⟨k, u2, checks, c⟩ := ends_of c
    obtain ⟨p, u3, target, c⟩ := ends_of c
    obtain ⟨rfl, cur3, clean, watch, c⟩ := of_decide_eq_true c
    obtain ⟨u4, u5, again, cur4, room, -⟩ := enters_of c
    exact ⟨u1, u2, u3, u4, u5, t, k, place, cur1, me1, kind, passes_of order, port, checks, target, cur3, clean, passes_of watch, again,
      cur4, room⟩
  · obtain ⟨u4, u5, target, cur, room, -⟩ : ∃ u4 u5, _ :=
      enters_of (show enters 0 { Rec.ofBytes (leBytes 256 (leNat waiting.bytes)) with reason := 0, home := 0 } (entry enq1 (enqueuing 12))
        (fun _ => true) = true by decide +kernel)
    exact ⟨ready_iff (by decide +kernel), by decide +kernel, by decide +kernel, by decide +kernel, by decide +kernel, u4, u5, target,
      cur, room⟩

theorem witness_Spawn :
    (let u := entry spawn1 (spawning 0)
     let w : Word := 0x23
     Ready spawn1 (rawOf spawn1) (spawning 0) ∧ u.reads .base 2 = some 0x100000040 ∧ u.reads .base 3 = some w ∧ u.me.phase = 0 ∧
      u.me.depth ≠ 7 ∧ (0x100000040 : Word).extractLsb' 0 2 = 0 ∧ placeReserved w = false ∧ (w.extractLsb' 0 3).toNat ≤ 4 ∧
      w.getLsbD 6 = false ∧ isArmed u 1 = false ∧
      ∃ u3 u4, placeTarget w u = .ok ((u3.device, 0), u3) ∧ u3.cur = 0 ∧ u3.enqueue 0 { val := child u } = some u4 ∧
        u4.canWrite .base 1) ∧
    Ready spawn1 (rawOf spawn1) (spawning 2) ∧ (entry spawn1 (spawning 2)).me.phase = 2 ∧ (entry spawn1 (spawning 2)).canWrite .base 1 := by
  obtain ⟨u3, u4, target, cur, room, free⟩ :=
    enters_of (show enters 0x23 (child (entry spawn1 (spawning 0))) (entry spawn1 (spawning 0)) (takes · 1) = true by decide +kernel)
  exact ⟨⟨ready_iff (by decide +kernel), by decide +kernel, by decide +kernel, by decide +kernel, by decide +kernel, by decide +kernel,
    by decide +kernel, by decide +kernel, by decide +kernel, by decide +kernel, u3, u4, target, cur, room, takes_of free _⟩,
    ready_iff (by decide +kernel), by decide +kernel, takes_of (by decide +kernel) _⟩

/-- A state whose first queue has taken an entry of depth 0. -/
theorem witness_QueueEntry : ∀ d ∈ [0, 7], ∃ t, State.reset.enqueueAt 0 3 { val := { waiting with depth := d } } = some t := by
  have k : ∀ d ∈ [0, 7], (State.reset.enqueueAt 0 3 { val := { waiting with depth := d } }).isSome = true := by decide +kernel
  exact fun d hd => Option.isSome_iff_exists.mp (k d hd)

/-- `PARK` to a record, at a phase, with dirty words in the register cache. -/
def parking (x : Word) (ph : Nat) (d : Word32) : State :=
  aboutWith (.park 2 3 .base) fun y => { holding [(2, x), (3, 0xFFFFFFFF)] y with phase := ph, dirty := d }

/-- The last record of the local store, and one of the own cluster store, with the register cache clean and not. -/
def parks : List (Word × Nat × Word32) := [(0x3FF00, 0, 0), (0x3FF00, 7, 0), (0x3FF00, 0, 1), (0x100400, 0, 0)]

/-- The thread of a slot may leave it. -/
def mayLeave (n : Nat) (u : State) : Bool :=
  decide (u.me.holdsRoute = false ∧ u.departed n = true ∧ (u.holdsArray n = false ∨ (u.clu (slotClu n)).iso.pleft = 0))

theorem mayLeave_of {n : Nat} {u : State} (h : mayLeave n u = true) : MayLeave n u :=
  let ⟨route, departed, array⟩ := of_decide_eq_true h
  ⟨route, departed, array⟩

theorem witness_EndAndPark :
    (Ready (.endT .base) (rawOf (.endT .base)) (about (.endT .base)) ∧ MayLeave 0 (entry (.endT .base) (about (.endT .base)))) ∧
    (∀ p ∈ parks,
      let s := parking p.1 p.2.1 p.2.2
      let u := entry (.park 2 3 .base) s
      Ready (.park 2 3 .base) (rawOf (.park 2 3 .base)) s ∧ u.me.dirty = p.2.2 ∧ ∃ t u', Parks 2 3 .base p.1 0xFFFFFFFF t s u u' ∧
        (t.place.kind = if p.1 = 0x3FF00 then 1 else 2) ∧ u'.portFree) ∧
    Ready (.park 2 3 .base) (rawOf (.park 2 3 .base)) (parking 0x100400 9 0) ∧
    (entry (.park 2 3 .base) (parking 0x100400 9 0)).me.phase = 9 := by
  refine ⟨⟨ready_iff (by decide +kernel), mayLeave_of (by decide +kernel)⟩, ?_, ready_iff (by decide +kernel), by decide +kernel⟩
  have key : ∀ p ∈ parks, ready (.park 2 3 .base) (parking p.1 p.2.1 p.2.2) = true ∧
      (let u := entry (.park 2 3 .base) (parking p.1 p.2.1 p.2.2)
       u.me.dirty = p.2.2 ∧ (u.me.phase = 0 ∨ u.me.phase = 7) ∧ u.me.trap.tmode = false ∧ u.reads .base 2 = some p.1 ∧
        u.reads .base 3 = some 0xFFFFFFFF ∧ endsIn (recordPlace .store p.1) u (fun t u' => decide (u'.cur = 0 ∧ u'.me = u.me ∧
          mayLeave 0 u' = true ∧ passes (checkWatch 2 p.1 256) u' = true ∧ passes (tileGate t.place 256) u' = true ∧
          u'.parkUsed (slotCore (parking p.1 p.2.1 p.2.2).cur) < 24 ∧ (t.place.kind = if p.1 = 0x3FF00 then 1 else 2) ∧
          (u'.core (slotCore u'.cur)).portHeld u'.cyc = false)) = true) := by decide +kernel
  intro p hp
  obtain ⟨hr, clean, phase, plain, addr, wake, chain⟩ := key p hp
  obtain ⟨t, u', place, c⟩ := ends_of chain
  obtain ⟨cur, me, leave, watch, tiles, room, kind, port⟩ := of_decide_eq_true c
  exact ⟨ready_iff hr, clean, t, u', { mayLeave_of leave with
    phase, plain, addr, wake := ⟨wake, by decide⟩, place, same := ⟨cur, me⟩, watch := passes_of watch, tiles := passes_of tiles, room },
    kind, port⟩

/-- The page at 0x100000000 is mapped by a leaf that asks for accesses at home, which the core's TLB holds, for a region of clusters. -/
def homed (pte : Word) (part : List Word32) (s : State) : State :=
  let root : Word := 0x20000000000001
  { s.modCore 0 fun c => { c with tlb := [⟨rootKey root, 0x10000, false, pte⟩] } with
    effs := [(placedEff.rcb, { placedEff with troot := root, part := part })] }

/-- A thread about to move to where its address is homed. -/
def moving (x pte : Word) (part : List Word32) : State := homed pte part (aboutWith (.migr 2 .base) (holding [(2, x)]))

/-- An address that the own local store holds; DRAM of memory channel 5; the store of cluster 1, out of the partition and in it. -/
def moves : List (Word × Word × List Word32 × Option (Nat × Option Nat)) := [
  (0x3FFFF, 0x1400000000503F, [0], none), (0x100000000, 0x1400000000503F, [0], some (chanClu 5, some 1)),
  (0x100000000, 0x1004000000403F, [0], some (1, none)), (0x100000000, 0x1004000000403F, [0, 1], some (1, none))]

theorem witness_Migrate : ∀ p ∈ moves,
    let s := moving p.1 p.2.1 p.2.2.1
    let u := entry (.migr 2 .base) s
    Ready (.migr 2 .base) (rawOf (.migr 2 .base)) s ∧ u.reads .base 2 = some p.1 ∧ u.me.trap.tmode = false ∧
      ∃ t u', resolve .load p.1 u = .ok (t, u') ∧ u'.cur = 0 ∧ u'.me = u.me ∧ u'.bankAbsent t.place = false ∧
        migTarget u' t = p.2.2.2 ∧ ∃ e u2, myEff u' = .ok (e, u2) ∧ u2.cur = 0 ∧ u2.me = u.me ∧ u2.net = s.net ∧ u2.mem = s.mem ∧
          (e.logical u'.device 1).isSome = decide (p.2.2.1 = [0, 1]) ∧ MayMove ((p.2.2.2.map (·.2)).getD none) 0 u2 := by
  have key : ∀ p ∈ moves, ready (.migr 2 .base) (moving p.1 p.2.1 p.2.2.1) = true ∧
      (let u := entry (.migr 2 .base) (moving p.1 p.2.1 p.2.2.1)
       u.reads .base 2 = some p.1 ∧ u.me.trap.tmode = false ∧ endsIn (resolve .load p.1) u (fun t u' => decide (u'.cur = 0 ∧ u'.me = u.me ∧
        u'.bankAbsent t.place = false ∧ migTarget u' t = p.2.2.2 ∧ endsIn myEff u' (fun e u2 => decide ((u2.cur = 0 ∧ u2.me = u.me ∧
          u2.net = (moving p.1 p.2.1 p.2.2.1).net ∧ u2.mem = (moving p.1 p.2.1 p.2.2.1).mem) ∧
          (e.logical u'.device 1).isSome = decide (p.2.2.1 = [0, 1]) ∧ u2.me.holdsRoute = false ∧ u2.holdsArray 0 = false ∧
          (u2.me.armed = [] ∧ ∀ q ∈ (u2.core (slotCore 0)).armedS, slotIdx 0 ≠ (q.2.extractLsb' 37 3).toNat) ∧
          (((p.2.2.2.map (·.2)).getD none).isSome = true → u2.me.cls ≠ 2 ∧ u2.me.cls ≠ 4) ∧ u2.departed 0 = true ∧
          0 < (u2.core (slotCore 0)).credits)) = true)) = true) := by decide +kernel
  intro p hp
  obtain ⟨hr, addr, plain, chain⟩ := key p hp
  obtain ⟨t, u', place, c⟩ := ends_of chain
  obtain ⟨cur, me, present, target, chain⟩ := of_decide_eq_true c
  obtain ⟨e, u2, block, c⟩ := ends_of chain
  obtain ⟨⟨cur2, me2, net, mem⟩, inside, route, array, armed, cls, departed, credit⟩ := of_decide_eq_true c
  exact ⟨ready_iff hr, addr, plain, t, u', place, cur, me, present, target, e, u2, block, cur2, me2, net, mem, inside,
    ⟨route, array, armed, cls, departed, credit⟩⟩

/-- A plan of four atoms in tiles of two, staged by the thread and established in cluster 0's store. -/
def staged : PlanSet :=
  { (default : PlanSet) with dims := 1, bound := #v[0x40004, 0, 0, 0], tile := #v[2, 0, 0, 0], place := 1, cover := 0x100400 }

/-- A region with the plan, which its plan unit establishes; `n` tiles are drawn. -/
def drawn (n : Nat) (s : State) : State :=
  let s := { s with effs := [(placedEff.rcb, { placedEff with plan := 0x40000200 })] }
  let apply (o a : Nat) (s : State) : State :=
    match planUnit s (cluPlace 0 0x200) o 0 1 a (staged.words.map (·.toNat)) with
    | .ok w => (w.map ++ w.block).foldl (fun s x => s.writeMem x.1 x.2 8) s
    | .error _ => s
  (List.range n).foldl (fun s _ => apply 0 0 s) (apply 2 1 s)

/-- A thread of the region, with an answer at phase 2. -/
def planning (i : Instr) (n ph : Nat) (x : Word) : State :=
  drawn n (aboutWith i fun y => { holding [(2, x)] y with hdl := true, plan := staged, phase := ph, buf := if ph = 2 then [0, 7] else [] })

/-- The plan instructions, with the tiles drawn before and the operand. -/
def plans : List (Instr × Nat × Option Spec × Nat × Nat) := [
  (.disp 1 .base, 0, some 1, 0, 0), (.disp 1 .base, 0, some 1, 2, 0), (.tdone 2 .base, 1, none, 2, 0x201),
  (.planw 2 .base, 2, none, 0, 0), (.planw 2 .base, 2, none, 0, 2), (.plansw 1 .base, 3, some 1, 1, 0), (.trel 2 .base, 4, none, 1, 1)]

theorem witness_PlanInstructions : ∀ p ∈ plans,
    let i := p.1
    let x := BitVec.ofNat 64 p.2.2.2.2
    let s := planning i p.2.2.2.1 0 x
    let u := entry i s
    (i, p.2.1, p.2.2.1) ∈ planTable 1 2 .base ∧ (p.2.1 = 2 → x.toNat < 3) ∧
    (Ready i (rawOf i) s ∧ (p.2.2.1 = none → u.reads .base 2 = some x) ∧ (p.2.2.1 ≠ none → x = 0) ∧ u.me.hdl = true ∧ u.me.phase = 0 ∧
      u.me.performed 0 4 = true ∧ (Passes (loadDstCheck 1) u ∧ Passes (loadReady 1) u) ∧
      ∃ e u1, myEff u = .ok (e, u1) ∧ u1.cur = 0 ∧ u1.me = u.me ∧ u1.net = s.net ∧ u1.mem = s.mem ∧ e.plan ≠ 0 ∧
        planPlace e = some (cluPlace 0 0x200) ∧ (e.logical u1.device 0).isSome = true ∧ 0 < (u1.core (slotCore 0)).resp) ∧
    (let v := entry i (planning i p.2.2.2.1 2 x)
     Ready i (rawOf i) (planning i p.2.2.2.1 2 x) ∧ (p.2.2.1 = none → v.reads .base 2 = some x) ∧ v.me.hdl = true ∧ v.me.phase = 2 ∧
      v.me.buf = [0, 7] ∧ v.canTake .base 1) := by
  have key : ∀ p ∈ plans,
      let i := p.1
      let x := BitVec.ofNat 64 p.2.2.2.2
      let s := planning i p.2.2.2.1 0 x
      let u := entry i s
      ((i, p.2.1, p.2.2.1) ∈ planTable 1 2 .base ∧ (p.2.1 = 2 → x.toNat < 3)) ∧
      (ready i s = true ∧ ((p.2.2.1 = none → u.reads .base 2 = some x) ∧ (p.2.2.1 ≠ none → x = 0) ∧ u.me.hdl = true ∧ u.me.phase = 0 ∧
        u.me.performed 0 4 = true) ∧ passes (loadDstCheck 1) u = true ∧ passes (loadReady 1) u = true ∧
        endsIn myEff u (fun e u1 => decide (u1.cur = 0 ∧ u1.me = u.me ∧ u1.net = s.net ∧ u1.mem = s.mem ∧ e.plan ≠ 0 ∧
          planPlace e = some (cluPlace 0 0x200) ∧ (e.logical u1.device 0).isSome = true ∧ 0 < (u1.core (slotCore 0)).resp)) = true) ∧
      (let v := entry i (planning i p.2.2.2.1 2 x)
       ready i (planning i p.2.2.2.1 2 x) = true ∧ (p.2.2.1 = none → v.reads .base 2 = some x) ∧ v.me.hdl = true ∧ v.me.phase = 2 ∧
        v.me.buf = [0, 7] ∧ takes v 1 = true) := by decide +kernel
  intro p hp
  obtain ⟨⟨entry, kind⟩, ⟨first, ⟨a, b, c, d, g⟩, dst, free, chain⟩, second, arg, hdl, phase, buf, room⟩ := key p hp
  obtain ⟨e, u1, block, c1⟩ := ends_of chain
  exact ⟨entry, kind, ⟨ready_iff first, a, b, c, d, g, ⟨passes_of dst, passes_of free⟩, e, u1, block, of_decide_eq_true c1⟩,
    ready_iff second, arg, hdl, phase, buf, .inr (takes_of room _)⟩

/-- The request of a plan instruction, at a stage of the plan unit of the own cluster, with the lines or doublewords still to do. -/
def planPacket (op x stage : Nat) (todo : List (Nat × Nat)) : Packet :=
  { (default : Packet) with kind := 2, op := 64 + op, place := cluPlace 0 0x200, lost := stage, plan := todo
                            ws := [0, 1, BitVec.ofNat 64 x] ++ (if op = 2 then staged.words else []) }

theorem witness_PlanUnit : ∀ p ∈ plans,
    let s := drawn p.2.2.2.1 State.reset
    let map : List (Nat × Nat) := [((cluPlace 0 0x400).key, 0)]
    (∀ g ∈ [(0, []), (1, map), (2, map), (3, map)],
      let k := planPacket p.2.1 p.2.2.2.2 g.1 g.2
      k.forPlan = true ∧ k.dev = s.device ∧ s.bankAbsent k.part = false ∧ k.plan.drop k.lineStores.length = []) ∧
    (∃ w, s.planWork (planPacket p.2.1 p.2.2.2.2 2 map) = .ok w ∧ (p.2.1 = 0 → p.2.2.2.1 = 0 → w.map ≠ []) ∧ (p.2.2.2.2 = 2 → w.map ++ w.block = [])) ∧
    (p.2.1 = 3 → let k := planPacket 3 0 1 map
      (planReads s k.place (k.op - 64) (k.arg 0) (k.arg 1) (k.arg 2)).1 = [] ∧
        let j := planPacket 3 0 3 (map ++ [((cluPlace 0 0x200).key, 0)])
        j.plan.drop j.lineStores.length ≠ []) := by
  have key : ∀ p ∈ plans,
      let s := drawn p.2.2.2.1 State.reset
      let map : List (Nat × Nat) := [((cluPlace 0 0x400).key, 0)]
      (∀ g ∈ [(0, []), (1, map), (2, map), (3, map)],
        let k := planPacket p.2.1 p.2.2.2.2 g.1 g.2
        k.forPlan = true ∧ k.dev = s.device ∧ s.bankAbsent k.part = false ∧ k.plan.drop k.lineStores.length = []) ∧
      (match s.planWork (planPacket p.2.1 p.2.2.2.2 2 map) with
        | .ok w => decide ((p.2.1 = 0 → p.2.2.2.1 = 0 → w.map ≠ []) ∧ (p.2.2.2.2 = 2 → w.map ++ w.block = []))
        | .error _ => false) = true ∧
      (p.2.1 = 3 → let k := planPacket 3 0 1 map
        (planReads s k.place (k.op - 64) (k.arg 0) (k.arg 1) (k.arg 2)).1 = [] ∧
          let j := planPacket 3 0 3 (map ++ [((cluPlace 0 0x200).key, 0)])
          j.plan.drop j.lineStores.length ≠ []) := by decide +kernel
  intro p hp
  obtain ⟨stages, work, reads⟩ := key p hp
  refine ⟨stages, ?_, reads⟩
  cases e : (drawn p.2.2.2.1 State.reset).planWork (planPacket p.2.1 p.2.2.2.2 2 [((cluPlace 0 0x400).key, 0)]) with
  | error x => simp only [e] at work; cases work
  | ok w => exact ⟨w, rfl, of_decide_eq_true (by simpa only [e] using work)⟩

/-- A thread of a region below another, or above it; `w2` names the other's block. -/
def regional (i : Instr) (x : Word) (e n : Eff) : State :=
  { aboutWith i (holding [(2, x)]) with effs := [(placedEff.rcb, e), ((comPlace 0 128).key, n)] }

/-- The two blocks: the thread's, and a child or the parent of it. -/
def childEff : Eff :=
  { placedEff with rcb := (comPlace 0 128).key, parent := placedEff.rcb, id := 2, chain := [2, 1], rcbs := [(comPlace 0 128).key, placedEff.rcb] }
def parentEff : Eff := { placedEff with rcb := (comPlace 0 128).key, id := 2, chain := [2], rcbs := [(comPlace 0 128).key] }
def lowerEff : Eff :=
  { placedEff with parent := (comPlace 0 128).key, chain := [1, 2], rcbs := [placedEff.rcb, (comPlace 0 128).key] }

/-- The conditions of `RegionInstructions` on a thread that changes its region, before its block is read and after. -/
def isFree (v : State) : Bool :=
  decide (v.me.trap.tmode = false ∧ v.me.holdsRoute = false ∧ v.me.armed = [] ∧ v.holdsArray 0 = false ∧
    ∀ p ∈ (v.core (slotCore 0)).armedS, slotIdx 0 ≠ (p.2.extractLsb' 37 3).toNat)

def isLeft (v : State) : Bool := decide (v.departed 0 = true ∧ v.me.unrestored = [])

theorem witness_RegionInstructions :
    (let s := regional (.rgsync 2 .base) 0x80000080 placedEff childEff
     let u := entry (.rgsync 2 .base) s
     Ready (.rgsync 2 .base) (rawOf (.rgsync 2 .base)) s ∧ u.reads .base 2 = some 0x80000080 ∧ (u.eff? (rcbKey u 0x80000080)).isSome) ∧
    (let s := regional (.rgenter 2 .base) 0x80000080 placedEff childEff
     let u := entry (.rgenter 2 .base) s
     let u' := after myEff u
     Ready (.rgenter 2 .base) (rawOf (.rgenter 2 .base)) s ∧ u.reads .base 2 = some 0x80000080 ∧ isFree u = true ∧
      myEff u = .ok (placedEff, u') ∧ u'.cur = 0 ∧ u'.me = u.me ∧ isLeft u' = true ∧ u'.eff? (rcbKey u 0x80000080) = some childEff ∧
      u.me.region ∈ childEff.chain.drop 1 ∧ childEff.tenant = placedEff.tenant) ∧
    (let s := regional (.rgexit .base) 0 lowerEff parentEff
     let u := entry (.rgexit .base) s
     let u' := after myEff u
     let u2 := after myEff u'
     Ready (.rgexit .base) (rawOf (.rgexit .base)) s ∧ isFree u = true ∧ myEff u = .ok (lowerEff, u') ∧ u'.cur = 0 ∧ u'.me = u.me ∧
      lowerEff.parent ≠ 0 ∧ myEff u' = .ok (lowerEff, u2) ∧ u2.cur = 0 ∧ u2.me = u.me ∧ isLeft u2 = true ∧
      u2.eff? lowerEff.parent = some parentEff ∧ parentEff.tenant = lowerEff.tenant) :=
  ⟨⟨ready_iff (by decide +kernel), by decide +kernel⟩, ⟨ready_iff (by decide +kernel), by decide +kernel, by decide +kernel,
    gives (by decide +kernel), by decide +kernel⟩, ready_iff (by decide +kernel), by decide +kernel, gives (by decide +kernel),
    by decide +kernel, by decide +kernel, by decide +kernel, gives (by decide +kernel), by decide +kernel⟩

/-! ## Witnesses: the isochrone array -/

theorem witness_IsochronePass : (255 : Nat) ≤ 255 ∧ (63 : Nat) < 64 ∧ (0 : Word).getLsbD 63 = false ∧
    (0xFFFFFFFFFFFFFFFF : Word).getLsbD 63 = true := by decide

/-- A thread that holds the array of its cluster, or that finds it free, last used by region `l`, with a value in `w2`. -/
def arrayed (i : Instr) (held : Bool) (l : Option (BitVec 28)) (v k : Word) (ph : Nat) (buf : List Nat) : State :=
  (aboutWith i fun x => { holding [(2, v), (3, k)] x with phase := ph, buf := buf }).modClu 0 fun c =>
    { c with iso := { c.iso with holder := if held then some (0, 0) else none, lastRegion := l } }

/-- The array held, free and last the thread's region's, and free and last another's. -/
def claims : List (Bool × Option Nat) := [(true, none), (false, some 1), (false, some 2)]

theorem witness_IsochroneClaim :
    (∀ p ∈ claims, let s := arrayed (.isclaim 1 .base) p.1 (p.2.map (BitVec.ofNat 28)) 0 0 0 []
      let u := entry (.isclaim 1 .base) s
      Ready (.isclaim 1 .base) (rawOf (.isclaim 1 .base)) s ∧ u.canWrite .base 1 ∧ u.holdsArray 0 = p.1 ∧
        (p.1 = false → (arrayOf u).holder = none) ∧ u.claimBefore 0 s.cyc = false ∧ u.me.phase = 0) ∧
    (∀ i ∈ [Instr.isrel .base, .iswin 2 .base, .ismode 2 .base, .isclr .base], let s := arrayed i true none 255 0 0 []
      Ready i (rawOf i) s ∧ drives (entry i s) ∧ (entry i s).reads .base 2 = some 255) := by
  have k : ∀ p ∈ claims,
      let s := arrayed (.isclaim 1 .base) p.1 (p.2.map (BitVec.ofNat 28)) 0 0 0 []
      let u := entry (.isclaim 1 .base) s
      ready (.isclaim 1 .base) s = true ∧ takes u 1 = true ∧ u.holdsArray 0 = p.1 ∧
        (p.1 = false → (arrayOf u).holder = none) ∧ u.claimBefore 0 s.cyc = false ∧ u.me.phase = 0 := by decide +kernel
  have k' : ∀ i ∈ [Instr.isrel .base, .iswin 2 .base, .ismode 2 .base, .isclr .base], let s := arrayed i true none 255 0 0 []
      ready i s = true ∧ ((entry i s).holdsArray 0 = true ∧ (arrayOf (entry i s)).pleft = 0) ∧ (entry i s).reads .base 2 = some 255 := by
    decide +kernel
  refine ⟨fun p hp => ?_, fun i hi => ?_⟩
  · obtain ⟨a, b, c⟩ := k p hp
    exact ⟨ready_iff a, takes_of b _, c⟩
  · obtain ⟨a, b, c⟩ := k' i hi
    exact ⟨ready_iff a, b, c⟩

/-- `ISCAP` at its start and after a wait, of the outputs and of 64 ranks. -/
def captures : List (Nat × Nat) := [(0, 0), (0, 64), (22, 64)]

def capturing (n ph : Nat) : State := arrayed (.iscap 2 3 .base) true none 0x1000 (BitVec.ofNat 64 n) ph [0]

theorem witness_IsochroneRuns :
    (∀ i ∈ [Instr.isldw 2 .base, .isldv 2 .base], let s := arrayed i true none 0x1000 0 31 (List.replicate 32 0xFF00)
      let u := entry i s
      Ready i (rawOf i) s ∧ u.reads .base 2 = some 0x1000 ∧ u.holdsArray 0 = true ∧ u.me.phase = 31) ∧
    (∀ n ∈ [1, 255], let s := arrayed (.isgo 2 .base) true none (BitVec.ofNat 64 n) 0 0 []
      let u := entry (.isgo 2 .base) s
      Ready (.isgo 2 .base) (rawOf (.isgo 2 .base)) s ∧ u.reads .base 2 = some (BitVec.ofNat 64 n) ∧ drives u ∧ u.covers (2 * n) = true) ∧
    (let u := entry (.iscap 2 3 .base) (capturing 0 24)
     Ready (.iscap 2 3 .base) (rawOf (.iscap 2 3 .base)) (capturing 0 24) ∧ u.reads .base 2 = some 0x1000 ∧ u.holdsArray 0 = true ∧
      u.me.phase = 24) ∧
    ∀ p ∈ captures, let s := capturing p.2 p.1
      let u := entry (.iscap 2 3 .base) s
      let n := if p.2 = 0 then 64 else 2 * p.2
      Ready (.iscap 2 3 .base) (rawOf (.iscap 2 3 .base)) s ∧ drives u ∧ u.me.phase = p.1 ∧ u.reads .base 2 = some 0x1000 ∧
        u.reads .base 3 = some (BitVec.ofNat 64 p.2) ∧ u.me.acc.length < 4 ∧ ∃ bound u', localBound u = .ok (bound, u') ∧
          0x1000 + n ≤ bound ∧ u'.cur = s.cur ∧ u'.me = u.me ∧ arrayOf u' = arrayOf u ∧ u'.mem = s.mem ∧
          Passes (checkWatch 2 0x1000 n) u' ∧ Passes (orderGate (localPlace 0 0x1000) u'.windowOrd n true) u' ∧
          Passes (tileGate (localPlace 0 0x1000) n) u' := by
  have loads : ∀ i ∈ [Instr.isldw 2 .base, .isldv 2 .base], let s := arrayed i true none 0x1000 0 31 (List.replicate 32 0xFF00)
      let u := entry i s
      ready i s = true ∧ u.reads .base 2 = some 0x1000 ∧ u.holdsArray 0 = true ∧ u.me.phase = 31 := by decide +kernel
  have runs : ∀ n ∈ [1, 255], let s := arrayed (.isgo 2 .base) true none (BitVec.ofNat 64 n) 0 0 []
      let u := entry (.isgo 2 .base) s
      ready (.isgo 2 .base) s = true ∧ u.reads .base 2 = some (BitVec.ofNat 64 n) ∧
        (u.holdsArray 0 = true ∧ (arrayOf u).pleft = 0) ∧ u.covers (2 * n) = true := by decide +kernel
  have places : ∀ p ∈ captures, let s := capturing p.2 p.1
      let u := entry (.iscap 2 3 .base) s
      let n := if p.2 = 0 then 64 else 2 * p.2
      ready (.iscap 2 3 .base) s = true ∧ (u.holdsArray 0 = true ∧ (arrayOf u).pleft = 0) ∧
        (u.me.phase = p.1 ∧ u.reads .base 2 = some 0x1000 ∧ u.reads .base 3 = some (BitVec.ofNat 64 p.2) ∧ u.me.acc.length < 4) ∧
        endsIn localBound u (fun bound u' => decide (0x1000 + n ≤ bound ∧ u'.cur = s.cur ∧ u'.me = u.me ∧ arrayOf u' = arrayOf u ∧
          u'.mem = s.mem ∧ passes (checkWatch 2 0x1000 n) u' = true ∧
          passes (orderGate (localPlace 0 0x1000) u'.windowOrd n true) u' = true ∧
          passes (tileGate (localPlace 0 0x1000) n) u' = true)) = true := by decide +kernel
  refine ⟨fun i hi => ?_, fun n hn => ?_, ⟨ready_iff (by decide +kernel), by decide +kernel⟩, fun p hp => ?_⟩
  · obtain ⟨a, b⟩ := loads i hi
    exact ⟨ready_iff a, b⟩
  · obtain ⟨a, b⟩ := runs n hn
    exact ⟨ready_iff a, b⟩
  · obtain ⟨a, array, ⟨phase, addr, count, room⟩, chain⟩ := places p hp
    obtain ⟨bound, u', e, c⟩ := ends_of chain
    obtain ⟨inside, cur, me, same, mem, watch, order, tiles⟩ := of_decide_eq_true c
    exact ⟨ready_iff a, array, phase, addr, count, room, bound, u', e, inside, cur, me, same, mem, passes_of watch, passes_of order,
      passes_of tiles⟩

/-! ## Witnesses: control registers, traps, privileged instructions -/

/-- Numbers of registers that a `GETC` and a `SETC` may name, at the ends of their ranges. -/
def readNumbers : List Nat := [0x000, 0x008, 0x010, 0x018, 0x020, 0x029, 0x030, 0x060, 0x100, 0x152, 0x1C8]
def writeNumbers : List Nat := [0x010, 0x018, 0x020, 0x026, 0x028, 0x040, 0x041, 0x060, 0x107, 0x158, 0x159, 0x1A7]

/-- The forms in which an instruction names a register: in its base word, and in its extension word. -/
def forms (n : Nat) : List (BitVec 12 × Form) := [(BitVec.ofNat 12 n, .base), (0, .ext noExt (BitVec.ofNat 32 n))]

/-- A legal value of a register. -/
def legal (n : Nat) : Word := if n = 0x040 then 255 else if n = 0x026 ∨ n = 0x028 then 0xFFFFFFFFFFFFFFFF else 0

/-- A thread that holds its cluster's array, with a value in `w2`. -/
def arrayHeld (i : Instr) (v : Word := 0) : State := (aboutWith i (holding [(2, v)])).modClu 0 fun c => { c with iso := { c.iso with holder := some (0, 0) } }

theorem witness_ControlRegisters :
    (∀ n ∈ readNumbers, ∀ p ∈ forms n, let i := Instr.getc 1 p.1 p.2
      let u := entry i (arrayHeld i)
      Ready i (rawOf i) (arrayHeld i) ∧ register p.1 p.2 = n ∧ ¬ selectedRegister n ∧ Passes (readGate n) u ∧ u.canWrite p.2 1) ∧
    (∀ n ∈ writeNumbers, ∀ p ∈ forms n, let i := Instr.setc 2 p.1 p.2
      let u := entry i (arrayHeld i (legal n))
      Ready i (rawOf i) (arrayHeld i (legal n)) ∧ register p.1 p.2 = n ∧ ¬ selectedRegister n ∧ u.holdsArray 0 = true ∧
        u.reads p.2 2 = some (legal n) ∧ ctlOk 0 n (legal n) = true ∧ Passes (writeGate n) u) ∧
    (∀ n ∈ writeNumbers, plainRegister n ∧ (about (.nop .base)).me.live = true ∧ (about (.nop .base)).me.cont = 0 ∧
      (arrayOf (arrayHeld (.nop .base))).holder = some (0, 0)) := by
  have reads : ∀ n ∈ readNumbers, ∀ p ∈ forms n, let i := Instr.getc 1 p.1 p.2
      let u := entry i (arrayHeld i)
      ready i (arrayHeld i) = true ∧ register p.1 p.2 = n ∧ ¬ (0x181 ≤ n ∧ n ≤ 0x183) ∧ passes (readGate n) u = true ∧
        takes u 1 = true := by decide +kernel
  have writes : ∀ n ∈ writeNumbers, ∀ p ∈ forms n, let i := Instr.setc 2 p.1 p.2
      let u := entry i (arrayHeld i (legal n))
      ready i (arrayHeld i (legal n)) = true ∧ register p.1 p.2 = n ∧ ¬ (0x181 ≤ n ∧ n ≤ 0x183) ∧ u.holdsArray 0 = true ∧
        u.reads p.2 2 = some (legal n) ∧ ctlOk 0 n (legal n) = true ∧ passes (writeGate n) u = true := by decide +kernel
  refine ⟨fun n hn p hp => ?_, fun n hn p hp => ?_, fun n hn => ?_⟩
  · obtain ⟨a, b, c, d, e⟩ := reads n hn p hp
    exact ⟨ready_iff a, b, c, passes_of d, takes_of e _⟩
  · obtain ⟨a, b, c, d, e, g, h⟩ := writes n hn p hp
    exact ⟨ready_iff a, b, c, d, e, g, passes_of h⟩
  · refine ⟨?_, by decide +kernel, by decide +kernel, by decide +kernel⟩
    revert n hn
    unfold plainRegister writeNumbers
    decide

theorem witness_TrapEntry : ((about (.nop .base)).slot 0).trap.tmode = false := by decide +kernel

/-- A handler about to return to an address, with the last workspace of the local store. -/
def returning : State :=
  aboutWith (.eret .base) fun x => { x with trap := { x.trap with tepc := 0x100000080, tepw := 5, tewp := 0x3FF00, trec0 := 0x0F } }

/-- A breakpoint, where it halts the cluster and where it traps. -/
def broken (b : Bool) : State := (about (.dbrk .base)).modClu 0 fun c => { c with dbg := { c.dbg with swbrk := b } }

theorem witness_TrapAndReturn :
    (let s := aboutWith (.trap 2 .base) (holding [(2, 9)])
     Ready (.trap 2 .base) (rawOf (.trap 2 .base)) s ∧ (entry (.trap 2 .base) s).reads .base 2 = some 9 ∧ s.me.trap.tmode = false) ∧
    (let u := entry (.eret .base) returning
     let u' := after myEff u
     Ready (.eret .base) (rawOf (.eret .base)) returning ∧ u.me.trap.tepc.extractLsb' 0 2 = 0 ∧ myEff u = .ok (placedEff, u') ∧
      u'.cur = 0 ∧ u'.me = u.me ∧ u.me.trap.tewp = 0x3FF00 ∧ placedEff.lsbound = 0x40000) ∧
    (∀ b ∈ [true, false], Ready (.dbrk .base) (rawOf (.dbrk .base)) (broken b) ∧ ((broken b).clu 0).dbg.swbrk = b ∧
      (broken b).me.trap.tmode = false) := by
  refine ⟨⟨ready_iff (by decide +kernel), by decide +kernel⟩, ⟨ready_iff (by decide +kernel), by decide +kernel, gives (by decide +kernel),
    by decide +kernel, by decide +kernel, by decide +kernel, by decide +kernel⟩, ?_⟩
  have k : ∀ b ∈ [true, false], ready (.dbrk .base) (broken b) = true ∧ ((broken b).clu 0).dbg.swbrk = b ∧
      (broken b).me.trap.tmode = false := by decide +kernel
  exact fun b hb => ⟨ready_iff (k b hb).1, (k b hb).2⟩

/-- A privileged thread with two operands, at a phase. -/
def ruling (i : Instr) (x v : Word) (ph : Nat) : State := aboutWith i fun y => { holding [(2, x), (3, v)] y with phase := ph }

/-- The cluster's spare bank has been made ready, for `BANKRET`. -/
def wheelRan (s : State) : State := s.modClu 0 fun c => { c with wheel := { c.wheel with base := 9 } }

theorem witness_PrivilegedInstructions :
    (∀ p ∈ [((0x3F : Nat), (0 : Nat)), (0x100, 0), (0x200, 15), (0x300, 0x10010)], let i := Instr.whlset 2 3 .base
      let x := BitVec.ofNat 64 p.1
      let s := ruling i x (BitVec.ofNat 64 p.2) 0
      let u := entry i s
      let w : Wheel := if x.getLsbD 8 then (u.die 0).wheel else (u.clu 0).wheel
      Ready i (rawOf i) s ∧ u.reads .base 2 = some x ∧ u.reads .base 3 = some (BitVec.ofNat 64 p.2) ∧
        whlsetOk x (BitVec.ofNat 64 p.2) = true ∧ w.armed = false) ∧
    (∀ n ∈ [0, 1], let i := Instr.whlsw 2 .base
      let s := ruling i (BitVec.ofNat 64 n) 0 0
      let u := entry i s
      let w : Wheel := if n = 1 then (u.die 0).wheel else (u.clu 0).wheel
      Ready i (rawOf i) s ∧ u.reads .base 2 = some (BitVec.ofNat 64 n) ∧ u.me.phase = 0 ∧ w.armed = false ∧ w.shadowOk (n = 1) = true) ∧
    (let i := Instr.whlsw 2 .base
     let s := wheelRan (ruling i 0 0 1)
     Ready i (rawOf i) s ∧ (entry i s).me.phase = 1 ∧ (entry i s).me.buf.headD 0 < ((entry i s).clu 0).wheel.base) ∧
    (∀ n ∈ [0xF, 0x81FF], let i := Instr.bankret 2 .base
      let x := BitVec.ofNat 64 n
      let s := ruling i x 0 0
      let u := entry i s
      Ready i (rawOf i) s ∧ u.reads .base 2 = some x ∧ x.extractLsb' 16 48 = 0 ∧ x.extractLsb' 9 6 = 0 ∧
        (x.getLsbD 15 = false → (x.extractLsb' 4 5).toNat = 0) ∧
        (u.retireOf (x.getLsbD 15) 0 (x.extractLsb' 4 5).toNat).spare = true ∧
        (u.retireOf (x.getLsbD 15) 0 (x.extractLsb' 4 5).toNat).phase = 0) ∧
    (∀ p ∈ [((0xFFFFFFFFFFFF : Nat), (4 : Nat)), (0x80000000, 9), (0, 18)], let i := Instr.tlbinv 2 3 .base
      let x := BitVec.ofNat 64 p.1
      let v := BitVec.ofNat 64 p.2
      let s := ruling i x v 0
      let u := entry i s
      let u' := after myEff u
      let w := if p.2 % 4 = 0 then u' else u
      Ready i (rawOf i) s ∧ u.reads .base 2 = some x ∧ u.reads .base 3 = some v ∧ u.me.phase = 0 ∧ u.me.storesDone = true ∧
        (v.extractLsb' 0 2).toNat = p.2 % 4 ∧ (v.extractLsb' 2 3).toNat = p.2 / 4 ∧ myEff u = .ok (placedEff, u') ∧ u'.cur = 0 ∧
        u'.me = u.me ∧ u'.cores = u.cores ∧ u'.mem = s.mem ∧
        w.tlbUsers 0 (p.2 / 4) (p.2 % 4) (if p.2 % 4 = 0 then rootKey placedEff.troot else rootKey x) x.toNat = []) := by
  have k1 : ∀ p ∈ [((0x3F : Nat), (0 : Nat)), (0x100, 0), (0x200, 15), (0x300, 0x10010)], let i := Instr.whlset 2 3 .base
      let x := BitVec.ofNat 64 p.1
      let s := ruling i x (BitVec.ofNat 64 p.2) 0
      let u := entry i s
      let w : Wheel := if x.getLsbD 8 then (u.die 0).wheel else (u.clu 0).wheel
      ready i s = true ∧ u.reads .base 2 = some x ∧ u.reads .base 3 = some (BitVec.ofNat 64 p.2) ∧
        whlsetOk x (BitVec.ofNat 64 p.2) = true ∧ w.armed = false := by decide +kernel
  have k2 : ∀ n ∈ [0, 1], let i := Instr.whlsw 2 .base
      let s := ruling i (BitVec.ofNat 64 n) 0 0
      let u := entry i s
      let w : Wheel := if n = 1 then (u.die 0).wheel else (u.clu 0).wheel
      ready i s = true ∧ u.reads .base 2 = some (BitVec.ofNat 64 n) ∧ u.me.phase = 0 ∧ w.armed = false ∧
        w.shadowOk (n = 1) = true := by decide +kernel
  have k4 : ∀ n ∈ [0xF, 0x81FF], let i := Instr.bankret 2 .base
      let x := BitVec.ofNat 64 n
      let s := ruling i x 0 0
      let u := entry i s
      ready i s = true ∧ u.reads .base 2 = some x ∧ x.extractLsb' 16 48 = 0 ∧ x.extractLsb' 9 6 = 0 ∧
        (x.getLsbD 15 = false → (x.extractLsb' 4 5).toNat = 0) ∧
        (u.retireOf (x.getLsbD 15) 0 (x.extractLsb' 4 5).toNat).spare = true ∧
        (u.retireOf (x.getLsbD 15) 0 (x.extractLsb' 4 5).toNat).phase = 0 := by decide +kernel
  have k5 : ∀ p ∈ [((0xFFFFFFFFFFFF : Nat), (4 : Nat)), (0x80000000, 9), (0, 18)], let i := Instr.tlbinv 2 3 .base
      let x := BitVec.ofNat 64 p.1
      let v := BitVec.ofNat 64 p.2
      let s := ruling i x v 0
      let u := entry i s
      let u' := after myEff u
      let w := if p.2 % 4 = 0 then u' else u
      ready i s = true ∧ u.reads .base 2 = some x ∧ u.reads .base 3 = some v ∧ u.me.phase = 0 ∧ u.me.storesDone = true ∧
        (v.extractLsb' 0 2).toNat = p.2 % 4 ∧ (v.extractLsb' 2 3).toNat = p.2 / 4 ∧
        endsIn myEff u (fun e _ => decide (e = placedEff)) = true ∧ u'.cur = 0 ∧
        u'.me = u.me ∧ u'.cores = u.cores ∧ u'.mem = s.mem ∧
        w.tlbUsers 0 (p.2 / 4) (p.2 % 4) (if p.2 % 4 = 0 then rootKey placedEff.troot else rootKey x) x.toNat = [] := by decide +kernel
  refine ⟨fun p hp => ?_, fun n hn => ?_, ⟨ready_iff (by decide +kernel), by decide +kernel, by decide +kernel⟩, fun n hn => ?_,
    fun p hp => ?_⟩
  · obtain ⟨a, b⟩ := k1 p hp
    exact ⟨ready_iff a, b⟩
  · obtain ⟨a, b⟩ := k2 n hn
    exact ⟨ready_iff a, b⟩
  · obtain ⟨a, b⟩ := k4 n hn
    exact ⟨ready_iff a, b⟩
  · obtain ⟨a, b, c, d, e, g, h, j, l⟩ := k5 p hp
    exact ⟨ready_iff a, b, c, d, e, g, h, gives j, l⟩

/-! ## Witnesses: debugging and the trace filter -/

/-- A thread with a value in `w2`, of a halted cluster, whose access of the last cached word's place of its own core is done, or begins. -/
def selecting (i : Instr) (v : Word) (ph : Nat) : State :=
  (aboutWith i fun x => { holding [(2, v)] x with phase := ph, buf := if ph = 50 then [0, 0, 0x3FFF8] else [] }).modClu 0 fun c =>
    { c with dbg := { c.dbg with halted := true } }

/-- The accesses of the selected registers, each with a value. -/
def selectedOnes : List (Instr × Nat) := [
  (.getc 1 0x181 .base, 0), (.getc 1 0x182 .base, 0), (.getc 1 0x183 .base, 0), (.setc 2 0x181 .base, 0x100), (.setc 2 0x183 .base, 4),
  (.dbgData true 2 .base, 9), (.dbgData false 1 .base, 0)]

/-- A debugger whose access of its own core's local store waits for the port, over a doubleword that is poisoned or not. -/
def debugWaits (wr : Nat) (bad : Bool) : State :=
  let s := aboutWith (.nop .base) fun x => { x with phase := 51, buf := [0, 0x3FFF8, wr, 9] }
  if bad then s.poisonAt (localPlace 0 0x3FFF8) else s

/-- The same once the transfer is over. -/
def debugOver (i : Instr) : State := aboutWith i fun x => { x with phase := 52, buf := [9, 0] }

/-- A thread whose core may still emit a state record of an earlier cycle. -/
def wayWaits (i : Instr) : State :=
  ((aboutWith i fun x => holding [(2, 0xFFFFFFFFFFFF)] x).modClu 0 fun c => { c with dbg := { c.dbg with tmask := 1 } }).modCore 0 fun c =>
    { c with waySince := some 0 }

/-- The other instructions of the chapter, each with the greatest value that it takes. -/
def debugOnes : List (Instr × Nat) := [
  (.tracew 2 .base, 0xFFFFFFFFFFFF), (.raceClr 2 .base, 0), (.trcCtl 2 .base, 0x3F01), (.trcCtl 2 .base, 0x3F03),
  (.trcFdata 2 .base, 0xFFFF), (.capOut 1 .base, 0)]

theorem witness_DebugInstructions :
    (∀ p ∈ selectedOnes, let s := selecting p.1 (BitVec.ofNat 64 p.2) 50
      let u := entry p.1 s
      Ready p.1 (rawOf p.1) s ∧ selectedDone u 0 0x3FFF8 ∧ u.canWrite .base 1 ∧ u.reads .base 2 = some (BitVec.ofNat 64 p.2) ∧
        (u.clu (coreClu (selCore s.cur 0))).dbg.halted = true ∧ u.isPoisoned (localPlace (selCore s.cur 0) 0x3FFF8) 8 = false) ∧
    (∀ p ∈ [((1 : Nat), false), (0, false), (0, true)], let s := debugWaits p.1 p.2
      s.dbgWaits 0 = some 0 ∧ (s.slot 0).buf = [0, 0x3FFF8, p.1, 9] ∧ s.mem.wf = true ∧ s.isPoisoned (localPlace 0 0x3FFF8) 8 = p.2) ∧
    (∀ i ∈ [Instr.dbgData true 2 .base, .dbgData false 1 .base], let u := entry i (debugOver i)
      Ready i (rawOf i) (debugOver i) ∧ u.me.phase = 52 ∧ u.me.buf = [9, 0] ∧ u.canTake .base 1) ∧
    (let i : Instr := .tracew 2 .base
     Ready i (rawOf i) (wayWaits i) ∧ (entry i (wayWaits i)).wayOpen 0 = true ∧
       (entry i (wayWaits i)).reads .base 2 = some 0xFFFFFFFFFFFF) ∧
    ctlOk 0 0x181 0x100 = true ∧ (4 : Word).extractLsb' 0 2 = 0 ∧
    (∀ i ∈ [Instr.getc 1 0x182 .base, .dbgData false 1 .base], Ready i (rawOf i) (selecting i 0 0) ∧
      (entry i (selecting i 0 0)).me.phase = 0) ∧
    (∀ p ∈ debugOnes, let s := selecting p.1 (BitVec.ofNat 64 p.2) 0
      let u := entry p.1 s
      Ready p.1 (rawOf p.1) s ∧ u.reads .base 2 = some (BitVec.ofNat 64 p.2) ∧ u.canWrite .base 1 ∧ u.me.capAt = 0 ∧
        (u.die (slotDie s.cur)).fen = false ∧ (s.core 0).wayDate = 0 ∧ (s.clu 0).tq = [] ∧ u.wayOpen 0 = false ∧
        ∀ n < 64, (decodeFilter (((u.die (slotDie s.cur)).fmem[n]?).getD 0)).isSome = true) := by
  have k1 : ∀ p ∈ selectedOnes, let s := selecting p.1 (BitVec.ofNat 64 p.2) 50
      let u := entry p.1 s
      ready p.1 s = true ∧ (u.me.phase = 50 ∧ u.me.buf = [0, 0, 0x3FFF8] ∧ u.cyc = 0) ∧ takes u 1 = true ∧
        u.reads .base 2 = some (BitVec.ofNat 64 p.2) ∧ (u.clu (coreClu (selCore s.cur 0))).dbg.halted = true ∧
        u.isPoisoned (localPlace (selCore s.cur 0) 0x3FFF8) 8 = false := by decide +kernel
  have k2 : ∀ i ∈ [Instr.getc 1 0x182 .base, .dbgData false 1 .base], ready i (selecting i 0 0) = true ∧
      (entry i (selecting i 0 0)).me.phase = 0 := by decide +kernel
  have k3 : ∀ p ∈ debugOnes, let s := selecting p.1 (BitVec.ofNat 64 p.2) 0
      let u := entry p.1 s
      ready p.1 s = true ∧ u.reads .base 2 = some (BitVec.ofNat 64 p.2) ∧ takes u 1 = true ∧ u.me.capAt = 0 ∧
        (u.die (slotDie s.cur)).fen = false ∧ (s.core 0).wayDate = 0 ∧ (s.clu 0).tq = [] ∧ u.wayOpen 0 = false ∧
        ∀ n < 64, (decodeFilter (((u.die (slotDie s.cur)).fmem[n]?).getD 0)).isSome = true := by decide +kernel
  have k4 : ∀ i ∈ [Instr.dbgData true 2 .base, .dbgData false 1 .base], let u := entry i (debugOver i)
      ready i (debugOver i) = true ∧ u.me.phase = 52 ∧ u.me.buf = [9, 0] ∧ takes u 1 = true := by decide +kernel
  have k5 : let i : Instr := .tracew 2 .base
      ready i (wayWaits i) = true ∧ (entry i (wayWaits i)).wayOpen 0 = true ∧
       (entry i (wayWaits i)).reads .base 2 = some 0xFFFFFFFFFFFF := by decide +kernel
  refine ⟨fun p hp => ?_, by decide +kernel, fun i hi => ?_, ⟨ready_iff k5.1, k5.2⟩, by decide, by decide, fun i hi => ?_, fun p hp => ?_⟩
  · obtain ⟨a, ⟨b, c, d⟩, e, g⟩ := k1 p hp
    exact ⟨ready_iff a, ⟨b, 0, c, by omega⟩, takes_of e _, g⟩
  · obtain ⟨a, b, c, d⟩ := k4 i hi
    exact ⟨ready_iff a, b, c, Or.inr (takes_of d _)⟩
  · exact ⟨ready_iff (k2 i hi).1, (k2 i hi).2⟩
  · obtain ⟨a, b, c, d⟩ := k3 p hp
    exact ⟨ready_iff a, b, takes_of c _, d⟩

/-- A filter run of die 0 at index 1, on a record, with two of its registers set. -/
def filtering : State :=
  State.reset.modDie 0 fun d => { d with flen := 63, run := some { word := 0xFEDC_4000_0000_0123, tag := 0xC3F7, f := #v[0, 5, 5, 9, 0, 0, 0, 0], idx := 1 } }

theorem witness_FilterInstructions : (match (filtering.die filtering.fdie).run with
    | some g => decide (g.f[1]! = 5 ∧ g.f[2]! = 5 ∧ g.f[3]! = 9 ∧ g.idx + 1 + 63 = 65 ∧ (filtering.die filtering.fdie).flen = 63)
    | none => false) = true := by decide +kernel

theorem witness_TraceRecordKept :
    (let s := State.reset.modDie 7 fun d => { d with kept := [keptEntry 5 6 7], tbase := 0x9FFFF000 }
     s.mem.wf = true ∧ (s.die 7).kept = [keptEntry 5 6 7] ∧ s.missing (7 * 32) (comPlace 7 0x3FFF000) = false) := by decide +kernel

/-- A core whose state has differed since a cycle, and a cluster whose queue holds records. -/
def logging (n len : Nat) : State :=
  ((State.reset.modCore 0 fun c => { c with waySince := some n, wayNew := 1 }).modClu 0 fun c =>
    { c with tq := List.replicate len (7, 3) }).modDie 0 fun d => { d with en := true, rot := 31 }

theorem witness_RecordSteps :
    (∀ p ∈ [((0xFFFF : Nat), (63 : Nat)), (0xFFFF, 64), (0x10000, 62)], ((logging p.1 p.2).core 0).waySince = some p.1 ∧
      ((logging p.1 p.2).core 0).wayDate = 0 ∧ ((logging p.1 p.2).core 0).wayHeld = [] ∧ ((logging p.1 p.2).clu 0).tq.length = p.2) ∧
    (let s := (logging 3 62).modCore 0 fun c => { c with wayHeld := [(0x10002, 0, 5)] }
     (s.core 0).waySince = some 3 ∧ (s.core 0).wayHeld = [(0x10002, 0, 5)] ∧ (s.core 0).wayDate = 0 ∧ (s.clu 0).tq.length < 63) ∧
    (∀ b ∈ [true, false], let s := (logging 0 1).modDie 0 fun d => { d with fen := b }
      (s.die 0).en = true ∧ (s.die 0).run = none ∧ ((s.die 0).rot + 1) % 32 = 0 ∧ (s.clu 0).tq = [(7, 3)] ∧
        (s.clu 31).tq = [] ∧ (s.die 0).fen = b) ∧
    (State.reset.die 0).en = false := by decide +kernel

/-- A cluster whose debug module stands as given, with one dirty workspace word. -/
def debugging (d : Debug) : State := (aboutWith (.nop .base) fun x => { x with dirty := 0x80000000 }).modClu 0 fun c => { c with dbg := d }

/-- Channel 1 of the cluster has a transfer at its head: with nothing under way, with a line sent, with one asked for, with its stamp sent. -/
def withHead (x : Transfer) (s : State) : State :=
  s.modClu 0 fun c => { c with chans := c.chans.set! 1 { c.chans[1] with queue := [x] } }

def underWay : List Transfer := [{ sent := [default] }, { asked := [default] }, { stampSent := true }]

theorem witness_HaltSteps :
    (∀ p ∈ [(false, none), (true, none), (false, some 0)], let s := debugging { (default : Debug) with halted := p.1, halting := p.2 }
      (s.clu 0).dbg.halted = p.1 ∧ (s.clu 0).dbg.halting = p.2 ∧ (s.clu 0).dbg.step = none ∧ (s.clu 0).dbg.resumeAt = none ∧
        ∀ c : Fin 4, (s.clu 0).chans[c].queue = []) ∧
    (let s := withHead {} { debugging { (default : Debug) with halting := some 0 } with cyc := 5 }
     (s.clu 0).dbg.halting = some 0 ∧ 0 + 5 ≤ s.cyc ∧ s.mem.wf = true ∧ dirtyWord s 0 0 31 ∧
      ∀ c : Fin 4, ∀ x, (s.clu 0).chans[c].queue.head? = some x → x.moving = false) ∧
    (∀ x ∈ underWay, let s := withHead x (debugging { (default : Debug) with halting := some 0 })
      (s.clu 0).chans[1].queue.head? = some x ∧ x.moving = true) := by
  refine ⟨by decide +kernel, ⟨by decide +kernel, by decide +kernel, by decide +kernel, ⟨by decide +kernel, by decide +kernel,
    by decide +kernel, by decide +kernel⟩, ?_⟩, by decide +kernel⟩
  have still : ∀ c : Fin 4, ((withHead {} { debugging { (default : Debug) with halting := some 0 } with cyc := 5 }).clu 0).chans[c].queue.head?.any
      Transfer.moving = false := by decide +kernel
  intro c x hx
  have h := still c
  rw [hx] at h
  exact h

/-- A thread with a deferred report, and one that escalates a trap of its handler. -/
def reporting (l : List TrapRec) : State := aboutWith (.nop .base) fun x => { x with reports := l }
def escalating : State :=
  let s := { aboutWith (.nop .base) fun x => { x with escal := some { cause := 1 }, trap := { x.trap with tmode := true, tepc := 0x100000080 } } with
    effs := [(placedEff.rcb, { placedEff with save := 0x10001 })] }
  s

theorem witness_ReportSteps :
    (((reporting [{ cause := 0x0E, pc := 4, addr := 8 }]).slot 0).reports = [{ cause := 0x0E, pc := 4, addr := 8 }] ∧
      ((reporting [{ cause := 0x0E, pc := 4, addr := 8 }]).slot 0).trap.tmode = false) ∧
    ((reporting []).slot 0).reports = [] ∧
    ((escalating.slot 0).escal = some { cause := 1 } ∧ (escalating.escalFrame 0).isSome = true ∧ escalating.mem.wf = true) ∧
    ((reporting []).slot 0).escal = none := by decide +kernel

/-! ## Witnesses: the host, time, and the care of the stores -/

/-- The host's memory holds a page, and the mailbox names an address and a cluster. -/
def mailing (a0 a1 : Word) (s : State) : State := { s with mbox := { s.mbox with busy := true, arg0 := a0, arg1 := a1 } }

/-- A record of region 1 in the die's common store. -/
def posted (s : State) : State :=
  { s.storeBytes (comPlace 0 0x100) waiting.bytes with dir := [(1, placedEff.rcb)], effs := [(placedEff.rcb, placedEff)] }

/-- A queue of cluster 255 with no room for the record. -/
def crowded (s : State) : State := s.modClu 255 fun c =>
  { c with queues := c.queues.set! 3 (List.replicate 57 { val := {} } ++ [{ val := { depth := 7 }, general := false }]) }

theorem witness_MailboxCommands :
    ((mailing 1 0 State.reset).mbox.arg0.toNat % 4096 ≠ 0) ∧
    ((mailing 0xFFFFFFFFF000 0 State.reset).mbox.arg0.toNat % 4096 = 0 ∧ (mailing 0xFFFFFFFFF000 0 State.reset).host.wf = true) ∧
    (let s := mailing 0x80000100 255 (posted State.reset)
     let r := Rec.ofBytes (s.readBytes (comPlace 0 0x100).key 256)
     windowPlace 0 s.mbox.arg0.toNat = some (comPlace 0 0x100) ∧ s.mbox.arg0.toNat % 256 = 0 ∧ s.mbox.arg1.toNat < 256 ∧
      recOk (s.readBytes (comPlace 0 0x100).key 256) = true ∧ s.isPoisoned (comPlace 0 0x100) 256 = false ∧
      (s.eff? (s.rcbOf r.region)).isSome = true ∧ (s.enqueue 255 { val := { r with reason := 0, home := 0 } }).isSome = true ∧
      ((crowded s).enqueue 255 { val := { r with reason := 0, home := 0 } }).isNone = true) ∧
    ∀ p ∈ [((0 : Nat), (0 : Nat)), (0x80000180, 0), (0x80000100, 256)],
      windowPlace 0 p.1 = none ∨ p.1 % 256 ≠ 0 ∨ 256 ≤ p.2 := by decide +kernel

/-- A line of a host write and of a host read at the head of channel 1's queue, and a read behind a write of its link. -/
def hostOp (wr : Bool) : HostOp := { id := 3, link := 1, wr := wr, lines := [(dramPlace 1 0xBFFFF80, 128, 7)] }
def hosting (wr : Bool) : State :=
  { State.reset.modDram 1 fun d => { d with queue := [(hostRequester, 3)] } with cyc := 2000, hostOps := [hostOp wr] }
def hostBehind : HostOp := { hostOp false with id := 4, lines := [] }

theorem witness_HostAccesses :
    (∀ wr ∈ [true, false], hostHead (hosting wr) 1 (hostOp wr) (dramPlace 1 0xBFFFF80) 128 7 ∧ (hosting wr).mem.wf = true ∧
      (hosting wr).chanFailed (dramPlace 1 0xBFFFF80) = false ∧ (hostOp wr).wr = wr) ∧
    ((hostOp true).wr = true ∧ (hostOp true).lines ≠ [] ∧ hostBehind.wr = false ∧ (hostOp true).link = hostBehind.link ∧
      (hostOp true).id < hostBehind.id ∧ hostBehind.lines = [] ∧ hostBehind.reg = none) ∧
    State.reset.hostOps = [] ∧ 0 % 128 + (List.replicate 128 (0 : Byte)).length ≤ 128 ∧
    (∀ o ∈ [0, 0xBFFFFFF, 2 ^ 38 - 2 ^ 26 - 1], o < 2 ^ 38 ∧ o % 2 ^ 28 < 0xC000000 ∧ State.reset.chanFailed (bar2 o) = false) ∧
    (0xC000000 : Nat) ≤ 0xC000000 % 2 ^ 28 ∧ State.reset.mem.wf = true ∧
    (∀ b ∈ [true, false], ∀ n ∈ [0, 1, 2, 3, 4, 5], let s := ({ State.reset with mbox := { (default : Mailbox) with busy := b, cmd := BitVec.ofNat 64 n } } : State)
      s.mbox.busy = b ∧ (s.mbox.cmd.extractLsb' 0 8).toNat = n) ∧
    commandTable.map (·.1) = [1, 2, 3, 4, 5, 0] := by
  refine ⟨?_, by decide +kernel, by decide +kernel, by decide +kernel, by decide +kernel, by decide +kernel, by decide +kernel,
    by decide +kernel, by decide +kernel⟩
  unfold hostHead
  decide +kernel

theorem witness_TimeSteps : (1 ≤ 8 ∧ 8 ≤ 16 ∧ 8 * 8 * 8 * 1 ≤ 512) ∧ State.reset.locked = false ∧ State.reset.time ≤ 5 ∧
    ({ State.reset with locked := true } : State).locked = true ∧ State.reset.slicePend = none ∧
    ({ State.reset with slicePend := some (1, 0) } : State).slicePend = some (1, 0) ∧ (State.reset.slot 0).live = false ∧
    (State.reset.clu 255).move = none ∧ (State.reset.clu 255).phys[15]? = some 15 := by decide +kernel

/-- Cluster 31 and die 0 with an armed wheel, at the boundary of a revolution. -/
def armedWheels : State :=
  (State.reset.modClu 31 fun c => { c with wheel := { c.wheel with armed := true } }).modDie 0 fun d => { d with wheel := { d.wheel with armed := true } }

/-- The stores of cluster 31 and of group 31 of die 0 under a retirement. -/
def retired (r : Retire) : State :=
  (State.reset.modClu 31 fun c => { c with retire := r }).modDie 0 fun d => { d with retire := [(31, r)] }

/-- Cluster 31 with a move of a core's role. -/
def roleMoves (m : Move) : State := State.reset.modClu 31 fun c => { c with move := some m }

theorem witness_CareSteps :
    (∀ p ∈ [(false, (31 : Nat)), (true, 0)], (wheelOf armedWheels p.1 p.2).armed = true ∧
      (armedWheels.cyc - (wheelOf armedWheels p.1 p.2).base) % (wheelOf armedWheels p.1 p.2).dwell = 0 ∧
      (wheelOf armedWheels p.1 p.2).step armedWheels.cyc = 0 ∧ (wheelOf State.reset p.1 p.2).armed = false) ∧
    (∀ p ∈ [(false, (512 : Nat)), (true, 2048)],
      let s := retired { (default : Retire) with phase := 1, bank := 15, done := p.2, spare := false }
      let u := if p.1 then 31 / 32 else 31
      (retireAt s p.1 u 31).phase = 1 ∧ p.2 ≤ (retireAt s p.1 u 31).done ∧
        (s.cyc - (wheelOf s p.1 u).base) % (wheelOf s p.1 u).dwell = 0 ∧ (wheelOf s p.1 u).step s.cyc = 0 ∧
        (retireAt State.reset p.1 u 31).phase ≠ 1) ∧
    (∀ p ∈ [(false, (31 : Nat)), (true, 0)],
      ((retireAt State.reset p.1 p.2 31).spare = true ∧ (retireAt State.reset p.1 p.2 31).phase ≠ 1 ∧
        (retireAt State.reset p.1 p.2 31).phase ≠ 2) ∧
      (retireAt (retired { (default : Retire) with spare := false }) p.1 p.2 31).spare = false) ∧
    ((State.reset.die 7).spareChans < 4 ∧ 4 ≤ ((State.reset.modDie 7 fun d => { d with spareChans := 4 }).die 7).spareChans) ∧
    (let m : Move := { core := 15, begun := true, copied := false, doneAt := 0, wear := false }
     ((roleMoves m).clu 31).move = some m ∧ (roleMoves m).coreDrained (31 * 20 + 15) = true) ∧
    (let m : Move := { core := 15, begun := true, copied := true, doneAt := 0, wear := false }
     ((roleMoves m).clu 31).move = some m ∧ m.doneAt ≤ (roleMoves m).cyc ∧ ((roleMoves m).clu 31).wheel.step (roleMoves m).cyc = 0) ∧
    ((∀ i < 8, (State.reset.slot ((31 * 20 + 15) * 8 + i)).live = false) ∧ (State.reset.clu 31).move = none ∧
      (State.reset.clu 31).lastWear = 0 ∧ (State.reset.clu 31).down = 0) := by decide +kernel

/-! ## Witnesses: pre-emption, dispatch and arrivals -/

/-- The region's block with a save area of two slot frames. -/
def saveEff : Eff := { placedEff with save := 0x10001, wsbase := 0x8000 }

/-- Cluster `k` is bound to the region of the records, whose block is cached. -/
def bound (k : Nat) (s : State) : State :=
  { s.modClu k fun c => { c with binds := c.binds.set! 15 0x101001FFFF } with
    dir := [(1, placedEff.rcb)], effs := [(placedEff.rcb, saveEff)] }

/-- A thread in slot 0, ready to leave, its save begun to end in a cycle, with its entry among those that leave, and its slot frame. -/
def ending (at' : Nat) (l : List QEntry) (frame : Option Nat := none) : State :=
  { (bound 0 (aboutWith (.nop .base) fun x => { x with saveEnd := at', frame := frame, frameRegion := 1 })).modClu 0 fun c => { c with leaving := l } with cyc := 9 }

theorem witness_PreemptionSteps :
    (∀ f ∈ [none, some 1], let s := ending 0 [] f
      (s.slot 0).live = true ∧ (s.slot 0).phase = 0 ∧ (s.slot 7).live = false ∧ s.eff? (s.slot 0).rcb = some saveEff ∧ (s.slot 0).cls = 0 ∧
        (s.slot 0).calls = [] ∧ (s.slot 0).reports = [] ∧ (s.slot 0).absent = false ∧ s.mem.wf = true ∧ (s.slot 0).frame = f ∧
        (s.slot 0).frameRegion = (s.slot 0).region) ∧
    (((ending 9 []).slot 0).live = true ∧ ((ending 9 []).slot 0).saveEnd ≠ 0 ∧ ((ending 9 []).slot 0).saveEnd ≤ (ending 9 []).cyc) ∧
    (let q : QEntry := { val := waiting, slotNo := 0, since := 9 }
     ((ending 9 [q]).clu 0).leaving = [q] ∧ q.since ≤ (ending 9 [q]).cyc ∧ q.await = none ∧
      queueRoom ((((ending 9 [q]).clu 0).queues[(ending 9 [q]).queueNo 0 q.val]?).getD []) q.val.depth = some true) := by decide +kernel

/-- Cluster 255 with an entry in one of its queues, at a cycle. -/
def queued (p : Fin 4) (e : QEntry) (n : Nat) : State :=
  { (bound 255 State.reset).modClu 255 fun c => { c with queues := c.queues.set p [e] } with cyc := n }

/-- A thread that waits for a part of its context, with one report in its slot frame. -/
def restoring : State :=
  (bound 0 (aboutWith (.nop .base) fun x =>
    { x with frame := some 1, frameRegion := 1, unrestored := [0, 1, 2, 3], restore := some (0, 0) })).writeMem
    (localPlace 0 (saveEff.frameOff 0 1 + 1064)).key 0x100 8

/-- A park table with an entry that is due, its record in the local store. -/
def parked (w : Option Nat) : State :=
  ((bound 0 State.reset).storeBytes (localPlace 0 0x3FF00) waiting.bytes).modCore 0 fun c =>
    { c with park := [{ rcd := localPlace 0 0x3FF00, wake := w, saved := true }] }

theorem witness_DispatchSteps :
    (∀ q : Fin 4, (State.reset.clu 255).queues[q] = []) ∧
    (let e : QEntry := { val := waiting, since := 0 }
     let s := queued 1 e 65536
     (s.clu 255).queues[1] = [e] ∧ (s.clu 255).queues[2] = [] ∧ (s.clu 255).queues[3] = [] ∧ e.since + 65536 ≤ s.cyc ∧
      queueRoom (s.clu 255).queues[0] e.val.depth = some true) ∧
    (∀ p ∈ [((3 : Nat), true), (2, false)], let s := queued 3 { val := waiting, since := 0 } p.1
      (match s.pickEntry 255 (s.clu 255).heads with
        | (_, some (i, _, m, _)) => p.2 && decide (i < 4) && decide (slotClu m = 255)
        | (_, none) => !p.2) = true) ∧
    (restoring.eff? (restoring.rcbOf (restoring.slot 0).frameRegion) = some saveEff ∧
      (BitVec.ofNat 64 (restoring.readMem (localPlace (slotCore 0) (saveEff.frameOff 0 1 + 1064)).key 8) : Word).extractLsb' 8 8 ≠ 0) ∧
    (let s := parked (some 0)
     let r := Rec.ofBytes (s.readBytes (localPlace 0 0x3FF00).key 256)
     (s.core 0).park = [{ rcd := localPlace 0 0x3FF00, wake := some 0, saved := true }] ∧ 0 ≤ s.cyc ∧
      queueRoom (((s.clu 0).queues[s.queueNo 0 r]?).getD []) r.depth = some true) ∧
    (∀ p ∈ ((parked none).core 0).park, p.due (parked none).cyc = false) := by
  refine ⟨by decide +kernel, by decide +kernel, by decide +kernel, by decide +kernel, by decide +kernel, ?_⟩
  have k : (((parked none).core 0).park.all fun p => p.due (parked none).cyc == false) = true := by decide +kernel
  simpa using k

/-- The network holds one packet, for cluster 2 of the device. -/
def carrying (p : Packet) (s : State) : State := { s with net := [{ p with pid := 6, dst := 2 }], pidNext := 7 }

/-- The packet as the network holds it. -/
def held (p : Packet) : Packet := { p with pid := 6, dst := 2 }

/-- A token of register 31, for core 3 of cluster 2, that slot 5 has armed. -/
def token31 : Word := 0x7C0000000000

theorem carrying_inNet (p : Packet) (s : State) (h : p.dev = s.device) : inNet (held p) (carrying p s) := by
  refine ⟨?_, h, ?_⟩
  · simp [carrying, held, State.packet?]
  · intro q hq
    simp only [carrying, List.mem_singleton] at hq
    subst hq
    exact Nat.lt_succ_self 6

/-- A thread in slot 5 of core 3 of cluster 2 has armed the token. -/
def armed5 : State :=
  State.reset.setSlot ((2 * 20 + 3) * 8 + 5) { live := true, pc := 0x100000000, armed := [(token31, 0)] }

/-- A capability of region 1 for any tile command on cores 0 to 15 of cluster 2, with its code. -/
def capability (s : State) : Word :=
  Config.capMac (Config.deviceSecret s.resets) (0xFFFFF0000001 : BitVec 48).toNat 2 0 ++ (0xFFFFF0000001 : BitVec 48)

/-- A class M thread of region 1 in slot 5 of core 3 of cluster 2. -/
def matrix5 : State :=
  State.reset.setSlot ((2 * 20 + 3) * 8 + 5) { live := true, cls := 2, region := 1, pc := 0x100000000 }

theorem append_parts (m : BitVec 16) (v : BitVec 48) :
    (m ++ v : BitVec 64).extractLsb' 48 16 = m ∧ (m ++ v : BitVec 64).extractLsb' 0 48 = v := by
  constructor <;>
  · apply BitVec.eq_of_getLsbD_eq
    intro i hi
    simp only [BitVec.getLsbD_extractLsb', BitVec.getLsbD_append]
    simp [hi]

theorem capability_admits (s : State) (i : Instr) (h : rightBit i = 46) :
    capAdmits s (capability s) (2 * 20 + 3) i = true ∧ (capability s).extractLsb' 0 28 = 1 := by
  obtain ⟨a, b⟩ := append_parts (Config.capMac (Config.deviceSecret s.resets) (0xFFFFF0000001 : BitVec 48).toNat 2 0) 0xFFFFF0000001
  constructor
  · unfold capAdmits capability
    rw [a, b, h, show cluIdx (coreClu (2 * 20 + 3)) = 2 from rfl, show cluDie (coreClu (2 * 20 + 3)) = 0 from rfl,
      show coreIdx (2 * 20 + 3) = 3 from rfl, show isMemCore (2 * 20 + 3) = false from rfl]
    simp only [BitVec.getLsbD_extractLsb', BitVec.getLsbD_append, decide_true, Bool.true_and, Bool.not_false]
    rw [if_pos (by decide), if_pos (by decide)]
    decide
  · apply BitVec.eq_of_getLsbD_eq
    intro j hj
    have c : ((capability s).extractLsb' 0 28).getLsbD j = (0xFFFFF0000001 : BitVec 48).getLsbD j := by
      unfold capability
      simp only [BitVec.getLsbD_extractLsb', BitVec.getLsbD_append]
      simp [hj, show j < 48 by omega]
    rw [c]
    clear c
    revert j
    decide

/-- The word of `TZERO` of tile 0, for slot 5. -/
def zeroWord : Word := BitVec.ofNat 64 (5 * 2 ^ 32 + ((encode (.tzero 0 .base)).headD 0).toNat)

/-- A remote call of cluster 2, core 19, with its token, priority 3 and depth 6. -/
def callPacket : Packet := { pid := 6, kind := 10, dep := 19, val := 0x100000000, region := 1, ws := [token31, 3, 6] ++ List.replicate 8 9 }

/-- A migrating thread of region 1. -/
def guest : Packet := { pid := 6, kind := 13, dep := 31, region := 1, val' := { waiting with flags := 0 } }

/-- Every general entry of every queue of cluster 2 taken, and the reserved one of depth 7. -/
def allFull (s : State) : State := s.modClu 2 fun c =>
  { c with queues := Vector.replicate 4 (List.replicate 57 { val := {} } ++ [{ val := { depth := 7 }, general := false }]) }

theorem witness_ArrivalSteps :
    (inNet (held { pid := 6, kind := 11, dep := 3, ws := [token31, 9] }) (carrying { pid := 6, kind := 11, dep := 3, ws := [token31, 9] } armed5) ∧
      (let s := carrying { pid := 6, kind := 11, dep := 3, ws := [token31, 9] } armed5
       let n := (2 * 20 + 3) * 8 + 5
       (s.core (2 * 20 + 3)).armedS = [] ∧ (s.slot n).live = true ∧ (s.slot n).saveEnd = 0 ∧ (s.slot n).armed = [(token31, (s.slot n).wp)] ∧
        (s.slot n).absent = false ∧ (token31.extractLsb' 42 6).toNat = 31) ∧
      ∀ m, m ≠ (2 * 20 + 3) * 8 + 5 → (armed5.slot m).armed = []) ∧
    ((let s := carrying { pid := 6, kind := 11, dep := 3, ws := [token31, 9] } State.reset
      (s.core (2 * 20 + 3)).armedS = [] ∧ (s.core (2 * 20 + 3)).park = [] ∧ s.entries 2 = []) ∧
      ∀ m, (State.reset.slot m).armed = []) ∧
    (inNet (held callPacket) (carrying callPacket State.reset) ∧ (∃ w : Vector Word 11, callPacket.ws = w.toList) ∧
      queueRoom (((State.reset.clu 2).queues[3]?).getD []) 7 = some true ∧
      queueRoom ((((allFull State.reset).clu 2).queues[3]?).getD []) 7 = none) ∧
    (let n := (2 * 20 + 3) * 8 + 5
     let p : Packet := { pid := 6, kind := 12, dep := 3, ws := [capability matrix5, 0, zeroWord, 0, 0] }
     let s := carrying p matrix5
     inNet (held p) s ∧ carried (zeroWord.setWidth 32) = some (.tzero 0 .base) ∧ carried 0 = none ∧
      capAdmits s (capability matrix5) (2 * 20 + 3) (.tzero 0 .base) = true ∧
      ((zeroWord.extractLsb' 32 3).toNat = 5 ∧ (matrix5.slot n).live = true ∧ (matrix5.slot n).cls = 2 ∧ (matrix5.slot n).leaving = false ∧
        (matrix5.slot n).moving = false ∧ 3 ∉ (matrix5.slot n).unrestored ∧ zeroWord.getLsbD 44 = false) ∧
      (matrix5.slot n).region = (capability matrix5).extractLsb' 0 28 ∧
      (∃ v, runCarried (.tzero 0 .base) 0 0 none { matrix5 with cur := n } = .ok ((), v) ∧ v.device = matrix5.device) ∧
      (State.reset.slot n).live = false) ∧
    (inNet (held guest) (carrying guest (bound 2 State.reset)) ∧
      ((bound 2 State.reset).arriveSlot 2 { guest.val' with region := 1 }).2.isSome = true ∧
      (State.reset.arriveSlot 2 { guest.val' with region := 1 }).2.isNone = true ∧
      ((State.reset.arriveSlot 2 { guest.val' with region := 1 }).1.enqueue 2 { val := { guest.val' with region := 1 } }).isSome = true ∧
      (((allFull State.reset).arriveSlot 2 { guest.val' with region := 1 }).1.enqueue 2 { val := { guest.val' with region := 1 } }).isNone = true) := by
  refine ⟨⟨carrying_inNet _ _ (by decide +kernel), by decide +kernel, fun m hm => ?_⟩, ⟨by decide +kernel, fun m => rfl⟩,
    ⟨carrying_inNet _ _ (by decide +kernel), ⟨#v[token31, 3, 6, 9, 9, 9, 9, 9, 9, 9, 9], by decide +kernel⟩, by decide +kernel, by decide +kernel⟩,
    ⟨carrying_inNet _ _ (by decide +kernel), by decide +kernel, by decide +kernel, (capability_admits _ _ rfl).1, by decide +kernel,
      ?_, ?_, by decide +kernel⟩,
    carrying_inNet _ _ (by decide +kernel), by decide +kernel, by decide +kernel, by decide +kernel, by decide +kernel⟩
  · rw [armed5, State.slot_setSlot_of_ne _ _ _ _ hm]
    rfl
  · rw [(capability_admits _ (.tzero 0 .base) rfl).2]
    decide +kernel
  · have k : endsIn (runCarried (.tzero 0 .base) 0 0 none) { matrix5 with cur := (2 * 20 + 3) * 8 + 5 } (fun _ v =>
        decide (v.device = matrix5.device)) = true := by decide +kernel
    obtain ⟨⟨⟩, v, e, k⟩ := ends_of k
    exact ⟨v, e, of_decide_eq_true k⟩

/-! ## Witnesses: the network -/

/-- Requests that have reached the serving cluster, each with the place that it names: the five accesses, and a view load before each of
its first two parts. -/
def requests : List Packet :=
  let q := cluPlace 2 0x380
  [{ pid := 6, kind := 0, arrived := true, place := q, size := 8 }, { pid := 6, kind := 1, arrived := true, place := q, size := 8, val := 9 },
   { pid := 6, kind := 2, arrived := true, place := q, size := 8, op := 9, val := 9, cmp := 0 },
   { pid := 6, kind := 3, arrived := true, place := q, size := 128 }, { pid := 6, kind := 4, arrived := true, place := q, size := 128, val := 9 }]

def viewRequests : List Packet :=
  [0, 1].map fun n => { pid := 6, kind := 0, arrived := true, place := cluPlace 2 0x380, size := 4, op := 1, lost := n }

/-- Cluster 2 without its banks, and with a swap of all turns at a bank. -/
def bankless (s : State) : State := s.modClu 2 fun c => { c with absent := 0xFFFF }
def swapping (bank : Nat) (s : State) : State := s.modClu 2 fun c => { c with retire := { c.retire with phase := 2, bank := bank, swapEnd := 80 } }

theorem witness_RemoteAccessServed :
    (∀ p ∈ requests ++ viewRequests, inNet (held p) (carrying p State.reset)) ∧
    (∀ p ∈ requests ++ viewRequests, let s := carrying p State.reset
      let q := (held p).part
      (s.bankAbsent q = false ∧ s.missing 2 q = false ∧ s.chanFailed p.place = false) ∧ p.arrived = true ∧
        (swapping q.bank s).missing 2 q = true ∧ ((bankless s).bankAbsent q = true ∧ (bankless s).missing 2 q = false)) ∧
    (∀ p ∈ requests, let s := carrying p State.reset
      p.place.kind = 2 ∧ p.lost = 0 ∧ p.fault = 0 ∧ p.btag = 0 ∧ p.ws = [] ∧ p.ok = true ∧ (p.kind = 3 → p.val = 0) ∧
        (p.kind = 0 → p.op = 0 ∧ p.size ≤ 8) ∧ (p.kind = 2 → p.op < 64) ∧ s.isPoisoned p.place p.size = false ∧
        ({ s with poison := [p.place.unitBase.key] } : State).isPoisoned p.place p.size = true) ∧
    (∀ p ∈ viewRequests, p.kind = 0 ∧ p.op ≠ 0 ∧ p.lost < 2 ∧
      (carrying p State.reset).isPoisoned (held p).part (held p).partSize = false) ∧
    requests.map (·.kind) = [0, 1, 2, 3, 4] := by
  refine ⟨fun p hp => carrying_inNet p _ ?_, by decide +kernel, by decide +kernel, by decide +kernel, by decide +kernel⟩
  revert p hp
  decide +kernel

/-- An answer to a thread in slot 0 of core 0, that it is owed for a reason, and the thread. -/
def answerTo (op : Nat) (c : Option TrapRec) : Packet := { pid := 6, kind := 14, slot := 0, cont := 4, owed := 3, val := 77, op := op, trap := c }
def owedThread (w : Nat) : State :=
  State.reset.setSlot 0 { live := true, cont := 4, pc := 0x100000000
                          owed := [{ id := 2 }, { id := 3, what := w, d := 31, lcl := 0x3FF80, pc := 0x100000040, va := 8 }] }

/-- An answer of a request, of a request that met a cause, of those lost, and of a migration lost. -/
def answers : List (Nat × Option TrapRec) := [(0, none), (0, some { cause := 8 }), (5, none), (14, none), (15, none), (13, none)]

theorem witness_AnswersDelivered : ∀ w ∈ [0, 1, 2, 3, 4, 8, 12], ∀ q ∈ answers, let p := answerTo q.1 q.2
    inNet (held p) (carrying p (owedThread w)) ∧ (held p).forChannel = false ∧ (∃ o, (carrying p (owedThread w)).owedOf (held p) = some o ∧
      o.what = w ∧ o.d.toNat < 32 ∧ o.ws = ((owedThread w).slot 0).wp) ∧ ((owedThread w).slot 0).absent = false ∧
      ((owedThread w).slot 0).trap.tmode = false := by
  have key : ∀ w ∈ [0, 1, 2, 3, 4, 8, 12], ∀ q ∈ answers, let p := answerTo q.1 q.2
      (held p).forChannel = false ∧ ((carrying p (owedThread w)).owedOf (held p)).any (fun o => decide (o.what = w ∧ o.d.toNat < 32 ∧
        o.ws = ((owedThread w).slot 0).wp)) = true ∧ ((owedThread w).slot 0).absent = false ∧
        ((owedThread w).slot 0).trap.tmode = false := by decide +kernel
  intro w hw q hq
  obtain ⟨channel, owed, cache, plain⟩ := key w hw q hq
  obtain ⟨o, e, k⟩ := some_of owed
  exact ⟨carrying_inNet _ _ rfl, channel, ⟨o, e, of_decide_eq_true k⟩, cache, plain⟩

/-- A packet of the stream from port 7 of slot 0 to port 3 of slot 5 of core 3 of cluster 2, and the two threads, the route open or not. -/
def streamTo : Packet :=
  { pid := 6, kind := 6, slot := 0, cont := 4, port := 7, op := 7, region := 1, ws := [9, 0x10EB000000000], place := cluPlace 2 0, size := 8
    val := 5, sid := 9 }
def twoPorts (o : Bool) (full : Nat) : State :=
  let s := State.reset.setSlot 0 { live := true, cont := 4, region := 1, ports := (Vector.replicate 8 {}).set! 7 { isOpen := o, sid := 9 } }
  let s := s.setSlot ((2 * 20 + 3) * 8 + 5)
    { live := true, cont := 8, region := 1, ports := (Vector.replicate 8 {}).set! 3 { queue := List.replicate full (1, false) } }
  { s with streams := if o then [(9, 8, 3)] else [] }

/-- Whether the piece of the multicast may be delivered in a cycle. -/
def pieceTurn (n : Nat) (s : State) : Prop := SMap.get 0 (held streamTo).held 0 ≤ n ∧ ({ s with cyc := n } : State).turnAt 2 16 (cluPlace 2 0) n = true

theorem witness_StreamSteps :
    (inNet (held streamTo) (carrying streamTo (twoPorts false 0)) ∧ streamTo.port < 8 ∧
      (let s := carrying streamTo (twoPorts false 0)
       let n := destSlotNo ((streamTo.ws[1]?).getD 0)
       s.openTaker (held streamTo) = some 8 ∧ (s.slot n).live = true ∧ (s.slot n).cont = 8 ∧ n ≠ streamTo.slot) ∧
      (carrying streamTo (twoPorts true 0)).openTaker (held streamTo) = none) ∧
    (∀ o ∈ [false, true], ownPort (held streamTo) (carrying streamTo (twoPorts o 0))) ∧
    (let s := carrying streamTo (twoPorts true 3)
     let n := (2 * 20 + 3) * 8 + 5
     s.wordTo (held streamTo) = .queue n ∧ s.streams.find? (fun t => t.1 = (held streamTo).sid) = some ((held streamTo).sid, 8, 3) ∧
      streamTo.last = false ∧ 1 ∉ (s.slot n).unrestored ∧ (s.slot n).live = true ∧ (s.slot n).cont = 8 ∧ (s.slot n).saveEnd = 0) ∧
    (carrying streamTo (twoPorts true 4)).wordTo (held streamTo) = .stall ∧
    (carrying streamTo State.reset).wordTo (held streamTo) = .nobody ∧
    (6 ≤ streamTo.op ∧ streamTo.op ≤ 9 ∧ (held streamTo).forChannel = false) ∧
    (((twoPorts true 0).slot 0).ports[(7 : Fin 8)]).isOpen = true ∧
    ((held streamTo).pieces = [(0, 0, 8, 5)] ∧ (∃ n < 64, pieceTurn n State.reset ∧ pieceTurn n (swapping 0 State.reset)) ∧
      (∃ n < 64, ¬ pieceTurn n State.reset) ∧ State.reset.missing 2 (cluPlace 2 0) = false ∧ State.reset.bankAbsent (cluPlace 2 0) = false ∧
      (swapping 0 State.reset).missing 2 (cluPlace 2 0) = true) := by
  have own : ∀ o ∈ [false, true], let s := carrying streamTo (twoPorts o 0)
      (s.slot 0).live = true ∧ (s.slot 0).cont = 4 ∧ ((s.slot 0).ports[7]?).any (fun y => y.sid == 9) = true := by decide +kernel
  refine ⟨⟨carrying_inNet _ _ rfl, by decide +kernel, by decide +kernel, by decide +kernel⟩, fun o ho => ?_, by decide +kernel,
    by decide +kernel, by decide +kernel, by decide +kernel, by decide +kernel, ?_⟩
  · obtain ⟨live, cont, port⟩ := own o ho
    obtain ⟨y, e, k⟩ := some_of port
    exact ⟨live, cont, y, e, eq_of_beq k⟩
  · unfold pieceTurn
    decide +kernel

/-- A request from cluster 0 for cluster 2, at a router, with others beside it. -/
def passing (at' due : Nat) : Packet := { pid := 6, kind := 0, at' := at', due := due, entered := true }
def crossing (p : Packet) (l : List Packet) (s : State) : State := { s with net := { p with pid := 6, dst := 2 } :: l, pidNext := 7 }

theorem crossing_inNet (p : Packet) (l : List Packet) (s : State) (h : p.dev = s.device) (k : ∀ q ∈ l, q.pid < 7) :
    inNet (held p) (crossing p l s) := by
  refine ⟨by simp [crossing, held, State.packet?], h, fun q hq => ?_⟩
  obtain rfl | hq := List.mem_cons.mp hq
  · exact Nat.lt_succ_self 6
  · exact k q hq

/-- Packets of the same class that came before it: at the same input, and in every buffer of the next router's. -/
def ahead : List Packet := (List.range 4).map fun n => { passing 0 0 with pid := n, dst := 2 }
def filling (dir : Nat) : List Packet := ahead.map fun p => { p with at' := neighbour 0 dir, inp := inputOf dir }

/-- The link of an output has lost lanes. -/
def lanesGone (dir n : Nat) (s : State) : State := s.modClu (linkEnd 0 dir).1 fun c => { c with ringLost := c.ringLost.set! (linkEnd 0 dir).2 n }

theorem witness_RouterSteps :
    (∀ r ∈ [0, 2], atRouter (held (passing r 0)) (crossing (passing r 0) [] State.reset)) ∧ State.reset.route 2 0 2 = some 0 ∧
    (∃ d, State.reset.route 0 0 2 = some d ∧ 1 ≤ d ∧ d ≤ 6 ∧ State.reset.linkDown 0 d = false ∧ ¬ linkBusy 0 d State.reset ∧
      (crossing (passing 0 0) [] State.reset).bufferRoom (held (passing 0 0)) d = true ∧
      (atRouter (held (passing 0 0)) (crossing (passing 0 0) (filling d) State.reset) ∧
        (crossing (passing 0 0) (filling d) State.reset).bufferRoom (held (passing 0 0)) d = false) ∧
      linkBusy 0 d (State.reset.modClu 0 fun c => { c with linkFree := c.linkFree.set! d 9 }) ∧
      linkBusy 0 d { lanesGone d 1 State.reset with cyc := 3 } ∧ (lanesGone d 2 State.reset).linkDown 0 d = true ∧
      (lanesGone d 2 State.reset).route 0 0 2 = some d) ∧
    State.reset.route 0 511 2 = none ∧ (passing 0 0).isStream = false ∧ (passing 0 0).kind ≠ 16 ∧ (passing 0 0).isAnswer = false ∧
    State.reset.cyc < (passing 0 5).due ∧
    (inNet (held (passing 0 0)) (crossing (passing 0 0) ahead State.reset) ∧
      (crossing (passing 0 0) ahead State.reset).queued (held (passing 0 0)) = true) ∧
    (let p := { passing 0 0 with entered := false }
     inNet (held p) (crossing p ahead State.reset) ∧ 4 ≤ (crossing p ahead State.reset).buffered (held p) 0 0) := by
  have others : ∀ q ∈ ahead, q.pid < 7 := by decide
  have waits : ∀ r ∈ [0, 2], let p := held (passing r 0)
      ¬ (p.kind = 5 ∧ 2 ≤ p.members.length) ∧ p.arrived = false ∧ p.due ≤ 0 ∧ p.fault = 0 ∧ p.kind < 17 ∧ p.entered = true ∧
        (crossing (passing r 0) [] State.reset).queued p = false ∧ ((crossing (passing r 0) [] State.reset).clu p.at').gated = false := by
    decide +kernel
  have way : (State.reset.route 0 0 2).any (fun d => decide (1 ≤ d ∧ d ≤ 6 ∧ State.reset.linkDown 0 d = false ∧
      ¬ (State.reset.cyc < ((State.reset.clu 0).linkFree[d]?).getD 0 ∨ (State.reset.lanesLost 0 d = 1 ∧ State.reset.cyc % 4 = 3)) ∧
      (crossing (passing 0 0) [] State.reset).bufferRoom (held (passing 0 0)) d = true ∧
      ((∀ q ∈ filling d, q.pid < 7) ∧ (crossing (passing 0 0) (filling d) State.reset).queued (held (passing 0 0)) = false) ∧
      (crossing (passing 0 0) (filling d) State.reset).bufferRoom (held (passing 0 0)) d = false ∧
      0 < (((State.reset.modClu 0 fun c => { c with linkFree := c.linkFree.set! d 9 }).clu 0).linkFree[d]?).getD 0 ∧
      (lanesGone d 1 State.reset).lanesLost 0 d = 1 ∧ (lanesGone d 2 State.reset).linkDown 0 d = true ∧
      (lanesGone d 2 State.reset).route 0 0 2 = some d)) = true := by decide +kernel
  obtain ⟨d, e, k⟩ := some_of way
  obtain ⟨lo, hi, up, idle, room, ⟨few, first⟩, full, busy, three, down, same⟩ := of_decide_eq_true k
  refine ⟨fun r hr => ⟨crossing_inNet _ _ _ rfl (by simp), waits r hr⟩, by decide +kernel,
    ⟨d, e, lo, hi, up, idle, room, ⟨⟨crossing_inNet _ _ _ rfl few, ?_⟩, full⟩, .inl busy, .inr ⟨three, rfl⟩, down, same⟩, by decide +kernel,
    by decide, by decide, by decide, by decide +kernel, ⟨crossing_inNet _ _ _ rfl others, by decide +kernel⟩,
    crossing_inNet _ _ _ rfl others, by decide +kernel⟩
  obtain ⟨a, b, c, d, g, h, -, j⟩ := waits 0 (by simp)
  exact ⟨a, b, c, d, g, h, first, j⟩

/-! ## Witnesses: turns, channels, units and fetch -/

/-- A thread in slot 0 with one access that waits, of a place of its cluster's store or its own local store, in a cycle. -/
def accessing (a : Access) (n : Nat) : State :=
  { State.reset.setSlot 0 { live := true, pc := 0x100000000, acc := [a] } with cyc := n }

/-- Cluster 0 with a swap of all turns at a bank. -/
def turnless (bank : Nat) (s : State) : State := s.modClu 0 fun c => { c with retire := { c.retire with phase := 2, bank := bank, swapEnd := 80 } }

/-- A load of eight bytes to `w31`, a store of eight, a `WAITW` that reads again, and a pass of `BLD` at its end. -/
def oneLoad (p : Place) : Access :=
  { id := 5, units := [{ place := p, acts := [.rd 0 p.key 8] }], fin := .reg 31 8 false false 0 }
def oneStore (p : Place) : Access := { id := 5, units := [{ place := p, acts := [.wr p.key 8 77] }] }
def oneWait (c : Nat) (y : Word) : Access :=
  { id := 5, units := [{ place := localPlace 0 0x3FFF8, acts := [.rd 0 (localPlace 0 0x3FFF8).key 8] }], fin := .waitw 1 c y [] 0, again := true }
def onePass (f : Option Nat) : Access := { id := 5, fin := .bld (cluPlace 0 0x800).key 0xFFFF 0x3F800 1, last := some 3, first := f }

/-- The commit of two lines of a row, ready at a cycle, and a pass that holds it. -/
def committing (ready : Nat) (held : Bool) : State :=
  State.reset.modClu 0 fun c => { c with
    commits := [{ slot := 0, ready := ready, row := (cluPlace 0 0x800).key, lines := [(0, 5), (15, 6)] }]
    passes := if held then [{ slot := 3, row := (cluPlace 0 0x800).key, holds := true }] else [] }

theorem witness_TurnService : ∀ f ∈ [oneLoad, oneStore],
    (let p := localPlace 0 0x3FFF8
     onlyAccess (accessing (f p) 0) 0 0 (f p) ((f p).units.headD default) ∧ ¬ noTurn (accessing (f p) 0) 0 ((f p).units.headD default)) ∧
    (let p := cluPlace 0 0x380
     (∃ n < 64, onlyAccess (accessing (f p) n) 0 1 (f p) ((f p).units.headD default) ∧
        ¬ noTurn (accessing (f p) n) 0 ((f p).units.headD default) ∧
        onlyAccess (turnless 7 (accessing (f p) n)) 0 1 (f p) ((f p).units.headD default) ∧
        noTurn (turnless 7 (accessing (f p) n)) 0 ((f p).units.headD default)) ∧
      ∃ n < 64, (accessing (f p) n).servable 0 (f p) 1 = none) := by
  have near : ∀ f ∈ [oneLoad, oneStore], let a := f (localPlace 0 0x3FFF8)
      let u := a.units.headD default
      (a.units = [u] ∧ a.poison = none ∧ a.got = [] ∧ a.job = none ∧ (accessing a 0).servable 0 a 0 = some u ∧ (0 : Nat) < 4 ∧
        (accessing a 0).chanFailed u.place = false) ∧ ¬ (u.place.kind ≠ 1 ∧ (accessing a 0).missing (slotClu 0) u.place = true) := by
    decide +kernel
  have far : ∀ f ∈ [oneLoad, oneStore], let a := f (cluPlace 0 0x380)
      let u := a.units.headD default
      (∃ n < 64, (a.units = [u] ∧ a.poison = none ∧ a.got = [] ∧ a.job = none ∧ (accessing a n).servable 0 a 1 = some u ∧ (1 : Nat) < 4 ∧
          (accessing a n).chanFailed u.place = false) ∧ ¬ (u.place.kind ≠ 1 ∧ (accessing a n).missing (slotClu 0) u.place = true) ∧
        (a.units = [u] ∧ a.poison = none ∧ a.got = [] ∧ a.job = none ∧ (turnless 7 (accessing a n)).servable 0 a 1 = some u ∧ (1 : Nat) < 4 ∧
          (turnless 7 (accessing a n)).chanFailed u.place = false) ∧
        (u.place.kind ≠ 1 ∧ (turnless 7 (accessing a n)).missing (slotClu 0) u.place = true)) ∧
      ∃ n < 64, (accessing a n).servable 0 a 1 = none := by decide +kernel
  intro f hf
  obtain ⟨⟨n, hn, one, there, two, gone⟩, idle⟩ := far f hf
  exact ⟨⟨⟨rfl, (near f hf).1⟩, (near f hf).2⟩, ⟨n, hn, ⟨rfl, one⟩, there, ⟨rfl, two⟩, gone⟩, idle⟩

theorem witness_TurnSteps :
    (∀ p ∈ [((0 : Nat), (0 : Nat)), (1, 1), (2, 0), (0, 1), (1, 0), (2, 1)], let a := oneWait p.1 (BitVec.ofNat 64 p.2)
      let s := accessing a 0
      (s.slot 0).acc = [a] ∧ a.again = true ∧ s.isPoisoned (localPlace 0 0x3FFF8) 8 = false ∧ s.readMem (localPlace 0 0x3FFF8).key 8 = 0) ∧
    (∀ a ∈ ((accessing (oneLoad (localPlace 0 0)) 0).slot 0).acc, a.again = false) ∧
    (∀ p ∈ [((0 : Nat), false), (0, true), (1, false)], let s := committing p.1 p.2
      (s.clu 0).commits.find? (fun c => c.slot = 0) = (s.clu 0).commits.head? ∧ (s.clu 0).commits.length = 1 ∧
        ∀ m ∈ (s.clu 0).commits, m.ready = p.1 ∧ (s.clu 0).commitHeld m.row = p.2 ∧ (Place.ofKey m.row).kind ≠ 4 ∧
          m.lines.Pairwise (fun a b => a.1 ≠ b.1)) ∧
    (∀ f ∈ [some 3, some 2, none], ((accessing (onePass f) 1).slot 0).acc = [onePass f] ∧ (maskBanks 0xFFFF).length ≠ 1 ∧
      ((accessing (onePass f) 1).clu 0).wheel.step (accessing (onePass f) 1).cyc ≠ 0) ∧
    (∀ n ∈ [0, 3], (((State.reset.modClu 0 fun c => { c with iso := { c.iso with pleft := n } }).clu 0).iso.pleft = n)) := by
  refine ⟨by decide +kernel, fun a ha => ?_, by decide +kernel, fun f hf => ⟨rfl, by decide +kernel, ?_⟩, by decide +kernel⟩
  · rw [List.mem_singleton.mp (show a ∈ [oneLoad (localPlace 0 0)] from ha)]
    rfl
  · revert f hf
    decide +kernel

/-- The transfer that the launch of the plain set queues on channel 0, changed, in a cycle. -/
def launched : Transfer :=
  match exec (.cpLaunch 1 .base) (launching plainSet) with
  | .next t => (t.head 0 0).getD {}
  | _ => {}
def channelRuns (f : Transfer → Transfer) (h : Bool) : State :=
  (launching plainSet).modClu 0 fun c => { c with
    chans := c.chans.set! 0 { c.chans[0] with count := 1, queue := [f launched] }
    jobs := [{ id := launched.job, region := 1, slot := 0, held := h }] }
def channelAt (f : Transfer → Transfer) (n : Nat) : State := { channelRuns f false with cyc := n }

/-- The transfer at its first line, there and in another cluster's store, with that line read, and at its end, with one hop left or none. -/
def atFetch (t : Transfer) : Transfer := { t with started := true }
def atFar (t : Transfer) : Transfer := { atFetch t with pages := [(16, cluPlace 1 0)] }
def atPut (t : Transfer) : Transfer := { atFetch t with got := [((cluPlace 0 0).key, (9, 0, 0))] }
def atStamp (t : Transfer) : Transfer := { atFetch t with pos := t.size }
def atHop (t : Transfer) : Transfer := { atStamp t with hops := [0] }

/-- What the channel does at a turn of the own cluster's store, there and where the turn is missing. -/
def atTurn (f : Transfer → Transfer) (d : Todo) (p : Place) : Prop :=
  d.place = some p ∧ p.kind ≠ 4 ∧ chanServed 0 p = 1 ∧ ∃ n < 64, (channelAt f n).chanAction 0 0 2 = some d ∧
    (channelAt f n).missing 0 p = false ∧ (channelAt f n).bankAbsent p = false ∧
    (turnless p.bank (channelAt f n)).chanAction 0 0 2 = some d ∧ (turnless p.bank (channelAt f n)).missing 0 p = true

theorem witness_ChannelSteps :
    (∀ h ∈ [true, false], headIs (channelRuns id h) 0 0 launched ∧
      (((channelRuns id h).clu 0).jobs.all fun j => j.id == launched.job && j.held == h) = true) ∧
    (∀ f ∈ [atFetch, atFar, atPut, atStamp, atHop], ∀ n, headIs (channelAt f n) 0 0 (f launched)) ∧
    atTurn atFetch (.fetch (cluPlace 0 0) 128) (cluPlace 0 0) ∧
    ((channelAt atFar 0).chanAction 0 0 0 = some (.fetch (cluPlace 1 0) 128) ∧ chanServed 0 (cluPlace 1 0) = 2) ∧
    (atTurn atPut (.put (cluPlace 0 0x1000)) (cluPlace 0 0x1000) ∧
      ∃ c v, ((atPut launched).parts 0).head? = some c ∧ c.dst = cluPlace 0 0x1000 ∧ (atPut launched).gather 0 c = (v, false)) ∧
    (∀ f ∈ [atStamp, atHop], atTurn f (.stamp (cluPlace 0 0x2000)) (cluPlace 0 0x2000)) ∧
    ((atHop launched).hop < (atHop launched).hops.length ∧ (atStamp launched).hops.length ≤ (atStamp launched).hop) ∧
    ((∀ m < 4, (channelAt id 0).chanAction 0 0 m = none) ∧ launched.kv = false ∧ ((channelAt id 0).slot launched.slot).live = true ∧
      ((channelAt id 0).slot launched.slot).cont = launched.cont) := by
  have put : ((atPut launched).parts 0).head?.any (fun c => decide (c.dst = cluPlace 0 0x1000) && !((atPut launched).gather 0 c).2) = true := by
    decide +kernel
  obtain ⟨c, e, k⟩ := some_of put
  rw [Bool.and_eq_true, decide_eq_true_eq, Bool.not_eq_true'] at k
  unfold atTurn
  refine ⟨fun h hh => ⟨rfl, ?_⟩, fun f hf n => rfl, by decide +kernel, by decide +kernel, ⟨by decide +kernel, c, _, e, k.1,
    Prod.ext rfl k.2⟩, by decide +kernel, by decide +kernel, by decide +kernel⟩
  revert h hh
  decide +kernel

/-- A DRAM channel with a store of slot 0 at the head of its queue. -/
def dramStores (n : Nat) : State :=
  { State.reset.setSlot 0 { live := true, acc := [{ id := 5, units := [{ place := dramPlace 1 0x8800, acts := [.wr (dramPlace 1 0x8800).key 8 77] }] }] } with
    chans := [(1, { queue := [(0, 5)] })], cyc := n }

/-- A matrix unit with two commands, the first posting a semaphore, or not. -/
def unitRuns (p : Option Nat) : State :=
  State.reset.modCore 0 fun c => { c with munit := [{ slot := 5, op := 1, post := p }, { slot := 5, op := 1, cycles := 9 }] }

theorem witness_UnitSteps :
    ((State.reset.dram 1).queue = [] ∧ inRefresh 0 0 = true) ∧
    (∃ n < 400, inRefresh 1 n = false ∧ (let s := dramStores n
      (s.dram 1).queue = [(0, 5)] ∧ (s.dram 1).busFree ≤ s.cyc ∧
        (match (s.slot 0).acc.find? (fun a => a.id = 5) with
          | some a => (a.units.find? (fun u => u.place.kind = 4 && u.place.unit = 1 && s.unitFree 0 a u) == a.units.head?) && a.job.isNone
          | none => false) = true ∧ s.chanFailed (dramPlace 1 0x8800) = false)) ∧
    (State.reset.core 0).munit = [] ∧
    (∀ p ∈ [none, some 15], ((unitRuns p).core 0).munit = [{ slot := 5, op := 1, post := p }, { slot := 5, op := 1, cycles := 9 }]) := by
  refine ⟨by decide +kernel, ⟨100, by decide +kernel, by decide +kernel⟩, by decide +kernel, by decide +kernel⟩

/-- A thread that waits for a block of cluster 0's store, held by the cache, missed, or neither; and a walk at a level. -/
def blockKey : Nat := (cluPlace 0 0x40).key
def fetching (c : List (Nat × Nat)) (m : List Nat) (n : Nat) : State :=
  { (State.reset.setSlot 0 { live := true, pc := 0x100000040, freq := some (0x100000040, 0, blockKey) }).modClu 0 fun x =>
      { x with icache := c, misses := m } with cyc := n }
def walking (lvl : Nat) (e : Word) (n : Nat) : State :=
  { (paged State.reset).modClu 0 fun x =>
      { x with walks := [{ core := 0, root := rootKey 0x20000000000001, rootEntry := 0x20000000000001, va := 0x100000000, level := lvl
                           entry := e, walking := true }] } with
    cyc := n }

/-- A walk's levels, each with its entry. -/
def levels : List (Nat × Word) := [(3, 0x20000000000001), (2, 0), (0, 0x20000C00000001)]

/-- The place that the walk of cluster 0 reads. -/
def walkPlace (lvl : Nat) (e : Word) : Place := ((((walking lvl e 0).clu 0).walks.head?).bind Walk.place).getD default

/-- The same with the tables in another cluster's store, and the answer there. -/
def awayEntry : Word := 0x10100000000001
def walkAnswered (v : Nat) (bad : Bool) : State :=
  (walking 3 awayEntry 9).modClu 0 fun c =>
    { c with reads := [{ seq := 0, key := (walkPlace 3 awayEntry).key, val := v, bad := bad, due := 9 }] }

/-- The root and page of these walks. -/
def walked (w : Walk) : Bool := w.root = rootKey 0x20000000000001 && w.va / 65536 = 0x10000

/-- A miss of a block in another cluster's store. -/
def awayKey : Nat := (cluPlace 4 0x40).key

theorem witness_FetchSteps :
    State.reset.fetchers 0 = [] ∧ (State.reset.clu 0).misses = [] ∧ (State.reset.clu 0).walkers.find? walked = none ∧
    (∀ c ∈ [[(blockKey, 7)], []], (fetching c [] 0).fetchers 0 = [(0, 0x100000040, 0, blockKey)] ∧
      ((fetching c [] 0).slot 0).freq = some (0x100000040, 0, blockKey) ∧
      (((fetching c [] 0).clu 0).icache.find? fun e => e.1 = blockKey) = c.head?) ∧
    (∃ n < 64, let s := fetching [] [blockKey] n
      s.portView 0 true (Place.ofKey blockKey) = .value 0 false ∧ portOwns 0 (Place.ofKey blockKey) = true ∧
        s.svcAt 0 (Place.ofKey blockKey) = true ∧ s.missing 0 (Place.ofKey blockKey) = false ∧
        (turnless 0 s).portView 0 true (Place.ofKey blockKey) = .missing) ∧
    (∃ n < 64, (fetching [] [blockKey] n).portView 0 true (Place.ofKey blockKey) = .later) ∧
    (let s := fetching [] [awayKey] 5
     awayKey ∈ (s.clu 0).misses ∧ s.portView 0 true (Place.ofKey awayKey) = .send ∧ portDram 0 (Place.ofKey awayKey) = false ∧
       s.portView 0 true (dramPlace 1 64) = .send ∧ portDram 0 (dramPlace 1 64) = true) ∧
    (∀ l ∈ levels, ∃ n < 600, let s := walking l.1 l.2 n
      (s.clu 0).walkers.find? walked = (s.clu 0).walks.head? ∧ (s.clu 0).walks.length = 1 ∧
        ∀ w ∈ (s.clu 0).walks, (w.place.all fun p => s.portView 0 false p ≠ .later) = true ∧
          ¬ (w.level = 3 ∧ w.entry.getLsbD 0 = false)) ∧
    ((walking 2 0 0).clu 0).walks.head?.bind Walk.place = none ∧
    (let s := walking 3 awayEntry 9
     (s.clu 0).walkers.find? walked = (s.clu 0).walks.head? ∧ s.portView 0 false (walkPlace 3 awayEntry) = .send) ∧
    (∀ p ∈ [((1 : Nat), false), (0, true)], (walkAnswered p.1 p.2).portView 0 false (walkPlace 3 awayEntry) = .value p.1 p.2) ∧
    (∃ x, walkEntry 0x20000400000001 false 3 = .table x) ∧ (∃ c x, walkEntry 0 true 3 = .bad c x) ∧
    (∃ pte b, walkEntry 0x2000400000001F false 0 = .leaf pte b) := by
  refine ⟨by decide +kernel, by decide +kernel, by decide +kernel, (by decide +kernel), by decide +kernel, by decide +kernel,
    by decide +kernel, by decide +kernel, by decide +kernel, by decide +kernel, by decide +kernel, ⟨_, rfl⟩, ⟨_, _, rfl⟩, ⟨_, _, rfl⟩⟩

/-! ## Witnesses: vectors -/

/-- Lanes that count up from a value. -/
def ramp (n : Nat) : BitVec 2048 := BitVec.ofNat 2048 ((List.range 64).foldl (fun v i => v + (n + i * 0x01010101) % 2 ^ 32 * 2 ^ (32 * i)) 0)

/-- A class V thread with vectors in `v1` to `v4`, masks in `k1` (no lane), `k2` (lanes 0 and 63) and `k7` (every lane), and registers. -/
def vectored (i : Instr) : State :=
  aboutWith i fun x => { holding [(2, 0x3E000), (3, 63), (4, 8)] x with
    vec := { x.vec with
      v := (((x.vec.v.set! 1 (ramp 0)).set! 2 (ramp 5)).set! 3 (ramp 0x7FFFFF80)).set! 4 (ramp 0x80808080)
      k := ((x.vec.k.set! 2 0x8000000000000001).set! 7 0xFFFFFFFFFFFFFFFF) } }

/-- The forms: the base word, and the extended one under a mask, with a type, a rounding mode and quiet. -/
def vform (ty rm q m : Nat) : Form :=
  .ext { noExt with ty := BitVec.ofNat 4 ty, rm := BitVec.ofNat 3 rm, q := BitVec.ofNat 1 q, xfn := BitVec.ofNat 6 m } 0

/-- The conditions of `unitFree` and `unitsFree`, as checks. -/
def isUnitFree (u : State) : Bool := decide (isMemCore (slotCore u.cur) = true → (u.core (slotCore u.cur)).vecFree ≤ u.cyc)
def isUnitsFree (u : State) : Bool :=
  isUnitFree u && decide ((u.core (slotCore u.cur)).normFree ≤ u.cyc ∧ (u.core (slotCore u.cur)).vdivFree ≤ u.cyc)

theorem unit_of {u : State} (h : isUnitFree u = true) : unitFree u := by
  unfold unitFree
  exact of_decide_eq_true h
theorem units_of {u : State} (h : isUnitsFree u = true) (d : Bool) : unitsFree u d := by
  unfold isUnitsFree at h
  rw [Bool.and_eq_true, decide_eq_true_eq] at h
  exact ⟨unit_of h.1, h.2.1, fun _ => h.2.2⟩

/-- The forms of an integer instruction, and of a float instruction. -/
def intForms : List Form := [.base, vform 0 0 0 2, vform 5 0 0 7]
def floatForms : List Form := [.base, vform 8 4 1 2, vform 9 1 0 7]

theorem witness_VectorInteger : ∀ f ∈ intForms, ∀ p ∈ vectorIntTable 1 2 3 f, Ready p.1 (rawOf p.1) (vectored p.1) ∧
    unitFree (entry p.1 (vectored p.1)) := by
  have k : ∀ f ∈ intForms, ∀ p ∈ vectorIntTable 1 2 3 f, ready p.1 (vectored p.1) = true ∧
      isUnitFree (entry p.1 (vectored p.1)) = true := by decide +kernel
  exact fun f hf p hp => ⟨ready_iff (k f hf p hp).1, unit_of (k f hf p hp).2⟩

/-- The float instructions, each in a form that it has: a conversion names no type beside its own. -/
def floatOps : List FloatOp :=
  (floatForms.flatMap fun f => (floatTable 1 2 3 10 4 f).take 17) ++ (floatTable 1 2 3 10 4 (vform 0 4 1 7)).drop 17

theorem witness_VectorFloat : ∀ p ∈ floatOps, Ready p.instr (rawOf p.instr) (vectored p.instr) ∧
    unitsFree (entry p.instr (vectored p.instr)) p.divide := by
  have k : ∀ p ∈ floatOps, ready p.instr (vectored p.instr) = true ∧ isUnitsFree (entry p.instr (vectored p.instr)) = true := by
    decide +kernel
  exact fun p hp => ⟨ready_iff (k p hp).1, units_of (k p hp).2 _⟩

/-- One pattern of `f16` for each clause of `FloatResults`. -/
theorem witness_FloatResults : Fmt.f16.decode 0x3C00 = .fin false 1024 (-10) ∧ Fmt.f16.decode 0x8000 = .fin true 0 (-24) ∧
    Fmt.f16.decode 0xFC00 = .inf true ∧ (Fmt.f16.decode 0x7C01).isSnan = true ∧ (Fmt.f16.decode 0x7E00).isNan = true ∧
    (Fmt.f16.decode 0x7E00).isSnan = false ∧ (Fmt.f16.decode 0x8001) = .fin true 1 (-24) := by decide +kernel

/-- The instructions over masks, with the comparisons. -/
def maskOps : List Instr :=
  (maskTable 5 2 7 .base).map (·.1) ++ [.kpop 1 2 .base, .kmovw 1 7 .base, .kmovk 5 2 .base, .vsel 1 2 3 (.ext { noExt with c := 2 } 0)]

theorem witness_VectorCompareAndMask :
    (∀ f ∈ [Form.base, vform 8 0 1 2, vform 0 0 0 2, vform 5 0 0 7], ∀ c ∈ [0, 5], let i := Instr.vcmp 5 2 3 (BitVec.ofNat 6 c) f
      Ready i (rawOf i) (vectored i) ∧ unitsFree (entry i (vectored i)) false) ∧
    (∀ i ∈ maskOps, Ready i (rawOf i) (vectored i) ∧ unitFree (entry i (vectored i)) ∧ (entry i (vectored i)).canWrite .base 1 ∧
      (entry i (vectored i)).reads .base 2 = some 0x3E000) := by
  have k : ∀ f ∈ [Form.base, vform 8 0 1 2, vform 0 0 0 2, vform 5 0 0 7], ∀ c ∈ [0, 5], let i := Instr.vcmp 5 2 3 (BitVec.ofNat 6 c) f
      ready i (vectored i) = true ∧ isUnitsFree (entry i (vectored i)) = true := by decide +kernel
  have k' : ∀ i ∈ maskOps, ready i (vectored i) = true ∧ isUnitFree (entry i (vectored i)) = true ∧
      takes (entry i (vectored i)) 1 = true ∧ (entry i (vectored i)).reads .base 2 = some 0x3E000 := by decide +kernel
  refine ⟨fun f hf c hc => ⟨ready_iff (k f hf c hc).1, units_of (k f hf c hc).2 _⟩, fun i hi => ?_⟩
  obtain ⟨a, b, c, d⟩ := k' i hi
  exact ⟨ready_iff a, unit_of b, takes_of c _, d⟩

theorem witness_VectorReductions :
    (∀ f ∈ intForms, ∀ i ∈ (intReductions 1 2 f).map (·.1) ++ (bitReductions 1 2 f).map (·.1), Ready i (rawOf i) (vectored i) ∧
      unitFree (entry i (vectored i)) ∧ (entry i (vectored i)).canWrite f 1) ∧
    (∀ f ∈ [Form.base, vform 8 0 1 2], ∀ i ∈ (floatReductions 1 2 f).map (·.1), Ready i (rawOf i) (vectored i) ∧
      unitsFree (entry i (vectored i)) false ∧ (entry i (vectored i)).canWrite f 1) := by
  have k : ∀ f ∈ intForms, ∀ i ∈ (intReductions 1 2 f).map (·.1) ++ (bitReductions 1 2 f).map (·.1), ready i (vectored i) = true ∧
      isUnitFree (entry i (vectored i)) = true ∧ takes (entry i (vectored i)) 1 = true := by decide +kernel
  have k' : ∀ f ∈ [Form.base, vform 8 0 1 2], ∀ i ∈ (floatReductions 1 2 f).map (·.1), ready i (vectored i) = true ∧
      isUnitsFree (entry i (vectored i)) = true ∧ takes (entry i (vectored i)) 1 = true := by decide +kernel
  refine ⟨fun f hf i hi => ?_, fun f hf i hi => ?_⟩
  · obtain ⟨a, b, c⟩ := k f hf i hi
    exact ⟨ready_iff a, unit_of b, takes_of c _⟩
  · obtain ⟨a, b, c⟩ := k' f hf i hi
    exact ⟨ready_iff a, units_of b _, takes_of c _⟩

/-- The lane instructions, with their forms. -/
def laneOps : List (Instr × Form) :=
  ([.base, vform 5 0 0 2].flatMap fun f =>
    [(.vbcast 1 2 f, f), (.vperm 1 2 3 f, f), (.vrot 1 2 3 f, f), (.vsetl 1 2 3 f, f), (.viota 1 2 f, f), (.vflgr 1 f, f), (.vflgc f, f)]) ++
  [(.vgetl 1 2 3 .base, .base), (.vgetl 1 2 3 (vform 4 0 0 0), vform 4 0 0 0)]

theorem witness_VectorLanes : ∀ p ∈ laneOps, Ready p.1 (rawOf p.1) (vectored p.1) ∧
    unitFree (entry p.1 (vectored p.1)) ∧ (entry p.1 (vectored p.1)).reads p.2 2 = some 0x3E000 ∧
    (entry p.1 (vectored p.1)).reads p.2 3 = some 63 ∧ (entry p.1 (vectored p.1)).canWrite p.2 1 := by
  have k : ∀ p ∈ laneOps, ready p.1 (vectored p.1) = true ∧
      isUnitFree (entry p.1 (vectored p.1)) = true ∧ (entry p.1 (vectored p.1)).reads p.2 2 = some 0x3E000 ∧
      (entry p.1 (vectored p.1)).reads p.2 3 = some 63 ∧
      takes (entry p.1 (vectored p.1)) 1 = true := by decide +kernel
  intro p hp
  obtain ⟨a, b, c, d, e⟩ := k p hp
  exact ⟨ready_iff a, unit_of b, c, d, takes_of e _⟩

/-- The vector loads and stores, with no lane active, and with lanes 0 and 63, the last at the end of the local store. -/
def vecOps (f : Form) : List (Instr × Bool) := [(.vld 1 2 0 f, false), (.vst 1 2 0 f, true), (.vldx 1 2 5 f, false), (.vstx 1 2 5 f, true)]

/-- The places of the lanes, as `VectorMemory` gives them. -/
def spots (p : Instr × Bool) (f : Form) (u : State) : Nat → Nat → Word :=
  match p.1 with
  | .vld _ _ o _ | .vst _ _ o _ => lanesFrom f o 0x3E000 8
  | _ => lanesIndexed u 5 0x3E000

/-- The forms under which no lane is active, and those under which lanes 0 and 63 are, or every lane. -/
def idleForms : List Form := [vform 10 0 0 1, .ext { noExt with ty := 10, c := 4, xfn := 9 } 0]
def busyForms : List Form := [.base, vform 4 0 0 2, .ext { noExt with ty := 0, c := 4, xfn := 10 } 0x20]

/-- The vector instructions that have a form: with a stride, those with an immediate. -/
def vecOpsOf (f : Form) : List (Instr × Bool) := (vecOps f).take (if f.xfn.getLsbD 3 then 2 else 4)

/-- The lanes of a vector access have targets, and pass every check. -/
def laneTargets (f : Form) (k : Acc) (kind ty z : Nat) (st vec rel : Bool) (ea : Nat → Nat → Word) (u : State) : Prop :=
  ∃ ts u', ts ≠ [] ∧ vecTargets f k ty z none vec ea u = .ok (ts, u') ∧ u'.cur = 0 ∧ u'.me = u.me ∧ Passes (vecGate ts z st) u' ∧
    (rel = true → Passes (releaseGate f.qual f.scope 1) u') ∧ unitFree u' ∧ Passes (vecWatch ts kind z) (unitTaken u') ∧
    u'.me.acc.length < 4 ∧ ∀ q ∈ ts, q.2.2.view = 0 ∧ q.2.2.place.kind ≠ 4

def laneCheck (f : Form) (k : Acc) (kind ty z : Nat) (st vec : Bool) (ea : Nat → Nat → Word) (u : State) : Bool :=
  endsIn (vecTargets f k ty z none vec ea) u fun ts u' => decide (ts ≠ [] ∧ u'.cur = 0 ∧ u'.me = u.me ∧ passes (vecGate ts z st) u' = true ∧
    passes (releaseGate f.qual f.scope 1) u' = true ∧ isUnitFree u' = true ∧ passes (vecWatch ts kind z) (unitTaken u') = true ∧
    u'.me.acc.length < 4 ∧ (ts.all fun q => decide (q.2.2.view = 0 ∧ q.2.2.place.kind ≠ 4)) = true)

theorem lanes_of {f : Form} {k : Acc} {kind ty z : Nat} {st vec : Bool} {ea : Nat → Nat → Word} {u : State}
    (h : laneCheck f k kind ty z st vec ea u = true) (rel : Bool) : laneTargets f k kind ty z st vec rel ea u := by
  obtain ⟨ts, u', e, c⟩ := ends_of h
  obtain ⟨some', cur, me, gate, free, unit, watch, room, plain⟩ := of_decide_eq_true c
  exact ⟨ts, u', some', e, cur, me, passes_of gate, fun _ => passes_of free, unit_of unit, passes_of watch, room, fun q hq =>
    of_decide_eq_true (List.all_eq_true.mp plain q hq)⟩

theorem witness_VectorMemory :
    (∀ f ∈ idleForms, ∀ p ∈ vecOpsOf f, let u := entry p.1 (vectored p.1)
      Ready p.1 (rawOf p.1) (vectored p.1) ∧ u.baseAt f 2 p.2 = some (0x3E000, none) ∧ u.reads f 4 = some 8 ∧
        (∀ i < 64, active u f i = false) ∧ unitFree u) ∧
    (∀ f ∈ busyForms, ∀ p ∈ vecOpsOf f, let u := entry p.1 (vectored p.1)
      Ready p.1 (rawOf p.1) (vectored p.1) ∧ u.baseAt f 2 p.2 = some (0x3E000, none) ∧ u.reads f 4 = some 8 ∧
        laneTargets f (if p.2 then .store else .load) (if p.2 then 2 else 1) (f.ty 10) (tySize (f.ty 10)) p.2 true p.2 (spots p f u) u) ∧
    (∀ m ∈ [1, 2], ∀ p ∈ [0, 7], let f := vform (if p = 7 then 9 else 4) 0 0 m
      let i := Instr.vatom 1 2 5 1 (BitVec.ofNat 3 p) f
      let u := entry i (vectored i)
      Ready i (rawOf i) (vectored i) ∧ u.reads f 2 = some 0x3E000 ∧ unitFree u ∧ (m = 1 → ∀ j < 64, active u f j = false) ∧
        (m = 2 → laneTargets f .atomic 3 (f.ty (if p < 6 then 4 else if p = 6 then 10 else 9)) 4 true false false
          (fun j _ => lanesIndexed u 5 0x3E000 j 4) u)) := by
  have idle : ∀ f ∈ idleForms, ∀ p ∈ vecOpsOf f, let u := entry p.1 (vectored p.1)
      ready p.1 (vectored p.1) = true ∧ u.baseAt f 2 p.2 = some (0x3E000, none) ∧ u.reads f 4 = some 8 ∧
        (∀ i < 64, active u f i = false) ∧ isUnitFree u = true := by decide +kernel
  have busy : ∀ f ∈ busyForms, ∀ p ∈ vecOpsOf f, let u := entry p.1 (vectored p.1)
      ready p.1 (vectored p.1) = true ∧ u.baseAt f 2 p.2 = some (0x3E000, none) ∧ u.reads f 4 = some 8 ∧
        laneCheck f (if p.2 then .store else .load) (if p.2 then 2 else 1) (f.ty 10) (tySize (f.ty 10)) p.2 true (spots p f u) u = true := by
    decide +kernel
  have atoms : ∀ m ∈ [1, 2], ∀ p ∈ [0, 7], let f := vform (if p = 7 then 9 else 4) 0 0 m
      let i := Instr.vatom 1 2 5 1 (BitVec.ofNat 3 p) f
      let u := entry i (vectored i)
      ready i (vectored i) = true ∧ u.reads f 2 = some 0x3E000 ∧ isUnitFree u = true ∧ (m = 1 → ∀ j < 64, active u f j = false) ∧
        (m = 2 → laneCheck f .atomic 3 (f.ty (if p < 6 then 4 else if p = 6 then 10 else 9)) 4 true false
          (fun j _ => lanesIndexed u 5 0x3E000 j 4) u = true) := by decide +kernel
  refine ⟨fun f hf p hp => ?_, fun f hf p hp => ?_, fun m hm p hp => ?_⟩
  · obtain ⟨a, b, c, d, e⟩ := idle f hf p hp
    exact ⟨ready_iff a, b, c, d, unit_of e⟩
  · obtain ⟨a, b, c, d⟩ := busy f hf p hp
    exact ⟨ready_iff a, b, c, lanes_of d _⟩
  · obtain ⟨a, b, c, d, e⟩ := atoms m hm p hp
    exact ⟨ready_iff a, b, unit_of c, d, fun h => lanes_of (e h) _⟩

/-! ## Witnesses: tiles and matrix commands -/

/-- A shape register (R133). -/
def shape (ty rows cols : Nat) : Word := BitVec.ofNat 64 (ty + (rows - 1) * 16 + (cols - 1) * 1024)

/-- A thread with three tiles of given shapes, 3, 4 and 5, and registers: `w2` an address in the local store, `w3` the prefix of a mask, a
stride or a scale, `w4` the last offset in a tile and `w6` a valid extent; the parents of a mask stand at the address. -/
def tiling (x y z : Word) (i : Instr) : State :=
  (aboutWith i fun q => { holding [(2, 0x1000), (3, 16), (4, 4088), (6, 0x0301)] q with
    tiles := { q.tiles with
      shape := ((q.tiles.shape.set! 3 x).set! 4 y).set! 5 z
      t := ((q.tiles.t.set! 3 (BitVec.ofNat 32768 0x7F80FF01FE02FD03FC04)).set! 4 (BitVec.ofNat 32768 0x0102030405060708090A)).set! 5
        (BitVec.ofNat 32768 0x7FFFFFFF80000000FFFFFFFF00000001) } }).writeMem (localPlace 0 0x1000).key 0xFF0100FF 4

/-- The conditions of a unit command. -/
def isAccepted (u : State) (c : UnitCmd) (weight : Nat) : Bool :=
  decide ((u.core (slotCore u.cur)).munit.length < 3 ∧ u.covers (weight * c.cycles) = true)

theorem accepts_of {u : State} {c : UnitCmd} {w : Nat} (h : isAccepted u c w = true) : accepts u c w := by
  unfold accepts
  exact of_decide_eq_true h

/-- The shapes of a product of each kind: 4 by 9 by 16 elements. -/
def product (k : Nat) (i : Instr) : State :=
  let ty := if k = 0 then 9 else if k = 1 then 8 else 0
  tiling (shape ty 4 9) (shape ty 9 16) (shape (if k = 2 then 4 else 10) 4 16) i

/-- Three tiles of one shape. -/
def alike (ty : Nat) (i : Instr) : State := tiling (shape ty 4 16) (shape ty 4 16) (shape ty 4 16) i

theorem witness_TileCommands :
    (∀ k ∈ [0, 1, 2], ∀ c ∈ [0, 1],
      let i := Instr.tmma 5 3 4 (BitVec.ofNat 1 c) (BitVec.ofNat 2 k) .base
      let u := entry i (product k i)
      Ready i (rawOf i) (product k i) ∧ typeOf u 3 = (if k = 0 then 9 else if k = 1 then 8 else 0) ∧ typeOf u 4 = typeOf u 3 ∧
        typeOf u 5 = (if k = 2 then 4 else 10) ∧ rowsOf u 4 = colsOf u 3 ∧ rowsOf u 5 = rowsOf u 3 ∧ colsOf u 5 = colsOf u 4 ∧
        readable u 3 ∧ readable u 4 ∧ writable u 5 ∧ accepts u { slot := 0, op := 0, cycles := 1 } 40) ∧
    (Ready (.tzero 5 .base) (rawOf (.tzero 5 .base)) (alike 10 (.tzero 5 .base)) ∧
      writable (entry (.tzero 5 .base) (alike 10 (.tzero 5 .base))) 5 ∧
      accepts (entry (.tzero 5 .base) (alike 10 (.tzero 5 .base))) { slot := 0, op := 1, cycles := 1 } 8) ∧
    (∀ ty ∈ [4, 10], ∀ i ∈ [Instr.tscale 5 3 3 .base, .tadd 5 3 4 .base],
      let u := entry i (alike ty i)
      Ready i (rawOf i) (alike ty i) ∧ u.reads .base 3 = some 16 ∧ sameShape u 3 5 ∧ sameShape u 4 5 ∧ typeOf u 5 = ty ∧ readable u 3 ∧
        readable u 4 ∧ writable u 5 ∧ accepts u { slot := 0, op := 2, cycles := 1 } 8) ∧
    (let i := Instr.tmask 5 2 3 .base
     let s := alike 10 i
     ∃ b u', Ready i (rawOf i) s ∧ (entry i s).reads .base 2 = some 0x1000 ∧ (entry i s).reads .base 3 = some 16 ∧
       typeOf (entry i s) 5 = 10 ∧ localBound (entry i s) = .ok (b, u') ∧ u'.cur = s.cur ∧ u'.me = (entry i s).me ∧ 0x1004 ≤ b ∧
       u'.ordered (localPlace 0 0x1000) u'.windowOrd 4 false = false ∧ u'.portFree ∧ u'.isPoisoned (localPlace 0 0x1000) 4 = false ∧
       (u'.readBytes (localPlace 0 0x1000).key 4).map BitVec.toNat = [0xFF, 0, 1, 0xFF] ∧ Passes (checkWatch 1 0x1000 4) u'.portTaken ∧
       writable u' 5 ∧ accepts u' { slot := 0, op := 4, cycles := 2 } 8) := by
  have k1 : ∀ k ∈ [0, 1, 2], ∀ c ∈ [0, 1],
      let i := Instr.tmma 5 3 4 (BitVec.ofNat 1 c) (BitVec.ofNat 2 k) .base
      let u := entry i (product k i)
      ready i (product k i) = true ∧ typeOf u 3 = (if k = 0 then 9 else if k = 1 then 8 else 0) ∧ typeOf u 4 = typeOf u 3 ∧
        typeOf u 5 = (if k = 2 then 4 else 10) ∧ rowsOf u 4 = colsOf u 3 ∧ rowsOf u 5 = rowsOf u 3 ∧ colsOf u 5 = colsOf u 4 ∧
        u.tileBusyR u.cur 3 = false ∧ u.tileBusyR u.cur 4 = false ∧ u.tileBusyW u.cur 5 = false ∧
        isAccepted u { slot := 0, op := 0, cycles := 1 } 40 = true := by decide +kernel
  have k2 : ready (.tzero 5 .base) (alike 10 (.tzero 5 .base)) = true ∧
      (let u := entry (.tzero 5 .base) (alike 10 (.tzero 5 .base))
       u.tileBusyW u.cur 5 = false ∧ isAccepted u { slot := 0, op := 1, cycles := 1 } 8 = true) := by decide +kernel
  have k3 : ∀ ty ∈ [4, 10], ∀ i ∈ [Instr.tscale 5 3 3 .base, .tadd 5 3 4 .base],
      let u := entry i (alike ty i)
      ready i (alike ty i) = true ∧ u.reads .base 3 = some 16 ∧
        (typeOf u 3 = typeOf u 5 ∧ rowsOf u 3 = rowsOf u 5 ∧ colsOf u 3 = colsOf u 5) ∧
        (typeOf u 4 = typeOf u 5 ∧ rowsOf u 4 = rowsOf u 5 ∧ colsOf u 4 = colsOf u 5) ∧ typeOf u 5 = ty ∧
        u.tileBusyR u.cur 3 = false ∧ u.tileBusyR u.cur 4 = false ∧ u.tileBusyW u.cur 5 = false ∧
        isAccepted u { slot := 0, op := 2, cycles := 1 } 8 = true := by decide +kernel
  have k4 : let i := Instr.tmask 5 2 3 .base
      let s := alike 10 i
      ready i s = true ∧ (entry i s).reads .base 2 = some 0x1000 ∧ (entry i s).reads .base 3 = some 16 ∧ typeOf (entry i s) 5 = 10 ∧
      endsIn localBound (entry i s) (fun b u' => decide (u'.cur = s.cur ∧ u'.me = (entry i s).me ∧ 0x1004 ≤ b ∧
        u'.ordered (localPlace 0 0x1000) u'.windowOrd 4 false = false ∧ (u'.core (slotCore u'.cur)).portHeld u'.cyc = false ∧ u'.isPoisoned (localPlace 0 0x1000) 4 = false ∧
        (u'.readBytes (localPlace 0 0x1000).key 4).map BitVec.toNat = [0xFF, 0, 1, 0xFF] ∧
        passes (checkWatch 1 0x1000 4) u'.portTaken = true ∧ u'.tileBusyW u'.cur 5 = false ∧
        isAccepted u' { slot := 0, op := 4, cycles := 2 } 8 = true)) = true := by decide +kernel
  refine ⟨fun k hk c hc => ?_, ⟨ready_iff k2.1, k2.2.1, accepts_of k2.2.2⟩, fun ty ht i hi => ?_, ?_⟩
  · obtain ⟨a1, a2, a3, a4, a5, a6, a7, a8, a9, a10, a11⟩ := k1 k hk c hc
    exact ⟨ready_iff a1, a2, a3, a4, a5, a6, a7, a8, a9, a10, accepts_of a11⟩
  · obtain ⟨a1, a2, a3, a4, a5, a6, a7, a8, a9⟩ := k3 ty ht i hi
    exact ⟨ready_iff a1, a2, a3, a4, a5, a6, a7, a8, accepts_of a9⟩
  · obtain ⟨a1, a2, a3, a4, a5⟩ := k4
    obtain ⟨b, u', e, c⟩ := ends_of a5
    obtain ⟨cur, me, bound, order, free, clean, bytes, watch, busy, room⟩ := of_decide_eq_true c
    exact ⟨b, u', ready_iff a1, a2, a3, a4, e, cur, me, bound, order, free, clean, bytes, passes_of watch, busy,
      accepts_of room⟩

/-- The commands of `TileResults`, one for each clause, on the tiles of `tiling`. -/
def commands : List UnitCmd := [
  { slot := 0, op := 1, d := 5, cycles := 1, shapes := [shape 10 4 16] }, { slot := 0, op := 2, d := 5, a := 3, x := 16, cycles := 1, shapes := [shape 4 4 16] },
  { slot := 0, op := 3, d := 5, a := 3, b := 4, cycles := 1, shapes := [shape 4 4 16] },
  { slot := 0, op := 3, d := 5, a := 3, b := 4, cycles := 1, shapes := [shape 10 4 16] },
  { slot := 0, op := 0, d := 5, a := 3, b := 4, kind := 2, cycles := 1, shapes := [shape 4 4 16, shape 0 4 9, shape 0 9 16] },
  { slot := 0, op := 4, d := 5, x := 8, parents := [0xFF, 0, 1, 0xFF], cycles := 1, shapes := [shape 10 4 16] }]

theorem witness_TileResults : ∀ c ∈ commands, c.d < 8 ∧ shapeRows (c.shapes.headD 0) * shapeCols (c.shapes.headD 0) * 4 ≤ 4096 ∧
    (shapeTy (c.shapes.headD 0) = 10 ∨ shapeTy (c.shapes.headD 0) = 4) ∧ c.parents.length ≤ 4 := by decide +kernel

theorem witness_parents : ∀ i < 4, ∀ q, ([0xFF, 0, 1, 0xFF] : List Nat)[i]? = some q → q = 0xFF ∨ q < i := by
  intro i hi q hq
  have k : ∀ i < 4, (([0xFF, 0, 1, 0xFF] : List Nat)[i]?.any fun q => decide (¬ (q = 0xFF ∨ q < i))) = false := by decide
  have h := k i hi
  rw [hq] at h
  simp at h
  omega

/-- The loads of a tile: with the valid extent of one row and three columns, with none, transposed, and in groups. -/
def tileLoads : List (Instr × Nat × Nat) := [
  (.tld 5 2 3 0 0 0 .base, 10, 0), (.tld 5 2 3 1 0 0 (.ext { noExt with c := 6 } 0x20), 0, 0x0301),
  (.tld 5 2 3 1 0 0 (.ext { noExt with c := 1 } 0), 10, 0), (.tld 5 2 3 0 1 1 .base, 9, 0)]

/-- The places of the elements that a load reads, as `TileAccesses` gives them. -/
def elementPlaces (ea st ext : Word) (rows cols e : Nat) (z t : BitVec 1) : List (Nat × Word) :=
  let vr := if z = 1 then (ext.extractLsb' 0 6).toNat else rows
  let vc := if z = 1 then (ext.extractLsb' 8 8).toNat else cols
  let pitch : Word := if st ≠ 0 then st else BitVec.ofNat 64 (if t = 1 then rows * e else cols * e)
  let place (i j : Nat) : Word :=
    if t = 1 then ea + BitVec.ofNat 64 j * pitch + BitVec.ofNat 64 (i * e) else ea + BitVec.ofNat 64 i * pitch + BitVec.ofNat 64 (j * e)
  (List.range (rows * cols)).filterMap fun k =>
    if k / cols < vr ∧ k % cols < vc then some (k, place (k / cols) (k % cols)) else none

/-- A valid extent that is legal for some tile. -/
abbrev isExtent (x : Word) : Prop :=
  (x.extractLsb' 0 6).toNat ≤ 32 ∧ (x.extractLsb' 8 8).toNat ≤ 128 ∧ x.extractLsb' 16 48 = 0 ∧ x.extractLsb' 6 2 = 0

/-- `Z`, `G` and `T` of a load. -/
def bitsOf : Instr → BitVec 1 × BitVec 1 × BitVec 1
  | .tld _ _ _ z g t _ => (z, g, t)
  | _ => (0, 0, 0)

theorem witness_TileLoads : ∀ p ∈ tileLoads,
    let s := tiling 0 0 (shape p.2.1 4 16) p.1
    let u := entry p.1 s
    let z := (bitsOf p.1).1
    let g := (bitsOf p.1).2.1
    let t := (bitsOf p.1).2.2
    let f := p.1.form
    let e := bytesOf u 5
    ∃ u1 u2 ts, Ready p.1 (rawOf p.1) s ∧ u.baseAt f 2 false = some (0x1000, none) ∧ u.reads f 3 = some 16 ∧
      (z = 1 → u.reads f f.c = some (BitVec.ofNat 64 p.2.2)) ∧ (z = 0 → p.2.2 = 0) ∧
      tileView (0x1000 + f.imm.signExtend 64) u = .ok (false, u1) ∧ u1.cur = s.cur ∧ u1.me = u.me ∧
      (t = 1 → (if g = 1 then 2 else 1) = e) ∧
      (z = 1 → isExtent (BitVec.ofNat 64 p.2.2)) ∧
      tileTargets .load (typeOf u 5) e none
        (elementPlaces (0x1000 + f.imm.signExtend 64) 16 (BitVec.ofNat 64 p.2.2) 4 16 e z t) u1 = .ok (ts, u2) ∧
      u2.cur = s.cur ∧ u2.me = u.me ∧ writable u2 5 ∧ Passes (vecGate ts e true) u2 ∧ Passes (vecWatch ts 1 e) u2 ∧ (ts = [] ↔ z = 1 ∧ p.2.2 = 0) ∧
      u.me.acc.length < 4 ∧ (u2.clu (slotClu s.cur)).jobs.length < 32 ∧
      (ts.all fun q => decide (q.2.2.view = 0 ∧ q.2.2.place.kind ≠ 4)) = true := by
  have k : ∀ p ∈ tileLoads,
      let s := tiling 0 0 (shape p.2.1 4 16) p.1
      let u := entry p.1 s
      let z := (bitsOf p.1).1
      let g := (bitsOf p.1).2.1
      let t := (bitsOf p.1).2.2
      let f := p.1.form
      let e := bytesOf u 5
      ready p.1 s = true ∧ u.baseAt f 2 false = some (0x1000, none) ∧ u.reads f 3 = some 16 ∧
        (z = 1 → u.reads f f.c = some (BitVec.ofNat 64 p.2.2)) ∧ (z = 0 → p.2.2 = 0) ∧ (t = 1 → (if g = 1 then 2 else 1) = e) ∧
        (z = 1 → isExtent (BitVec.ofNat 64 p.2.2)) ∧ u.me.acc.length < 4 ∧
        endsIn (tileView (0x1000 + f.imm.signExtend 64)) u (fun v u1 => decide (v = false ∧ u1.cur = s.cur ∧ u1.me = u.me ∧
          endsIn (tileTargets .load (typeOf u 5) e none
            (elementPlaces (0x1000 + f.imm.signExtend 64) 16 (BitVec.ofNat 64 p.2.2) 4 16 e z t)) u1 (fun ts u2 =>
              decide (u2.cur = s.cur ∧ u2.me = u.me ∧ u2.tileBusyW u2.cur 5 = false ∧ passes (vecGate ts e true) u2 = true ∧
                passes (vecWatch ts 1 e) u2 = true ∧ (ts = [] ↔ z = 1 ∧ p.2.2 = 0) ∧ (u2.clu (slotClu s.cur)).jobs.length < 32 ∧
                (ts.all fun q => decide (q.2.2.view = 0 ∧ q.2.2.place.kind ≠ 4)) = true)) = true)) = true := by decide +kernel
  intro p hp
  obtain ⟨a1, a2, a3, a4, a5, a6, a7, a8, a9⟩ := k p hp
  obtain ⟨v, u1, e1, c⟩ := ends_of a9
  obtain ⟨rfl, b1, b2, c⟩ := of_decide_eq_true c
  obtain ⟨ts, u2, e2, c⟩ := ends_of c
  obtain ⟨cur, me, busy, gate, watch, empty, jobs, plain⟩ := of_decide_eq_true c
  exact ⟨u1, u2, ts, ready_iff a1, a2, a3, a4, a5, e1, b1, b2, a6, a7, e2, cur, me, busy, passes_of gate, passes_of watch, empty, a8,
    jobs, plain⟩

theorem witness_TileStores : ∀ ty ∈ [0, 10],
    let i := Instr.tst 5 2 3 .base
    let s := tiling 0 0 (shape ty 4 16) i
    let u := entry i s
    let e := bytesOf u 5
    ∃ ts u2, Ready i (rawOf i) s ∧ u.baseAt .base 2 true = some (0x1000, none) ∧ u.reads .base 3 = some 16 ∧
      tileTargets .store (typeOf u 5) e none (elementPlaces 0x1000 16 0 4 16 e 0 0) u = .ok (ts, u2) ∧ u2.cur = s.cur ∧ u2.me = u.me ∧
      readable u2 5 ∧ Passes (vecGate ts e true) u2 ∧ Passes (vecWatch ts 2 e) u2 ∧ u.me.acc.length < 4 ∧ (u2.clu (slotClu s.cur)).jobs.length < 32 ∧
      (ts.all fun q => decide (q.2.2.place.kind ≠ 4)) = true := by
  have k : ∀ ty ∈ [0, 10],
      let i := Instr.tst 5 2 3 .base
      let s := tiling 0 0 (shape ty 4 16) i
      let u := entry i s
      let e := bytesOf u 5
      ready i s = true ∧ u.baseAt .base 2 true = some (0x1000, none) ∧ u.reads .base 3 = some 16 ∧ u.me.acc.length < 4 ∧
        endsIn (tileTargets .store (typeOf u 5) e none (elementPlaces 0x1000 16 0 4 16 e 0 0)) u (fun ts u2 =>
          decide (u2.cur = s.cur ∧ u2.me = u.me ∧ u2.tileBusyR u2.cur 5 = false ∧ passes (vecGate ts e true) u2 = true ∧
            passes (vecWatch ts 2 e) u2 = true ∧ (u2.clu (slotClu s.cur)).jobs.length < 32 ∧
            (ts.all fun q => decide (q.2.2.place.kind ≠ 4)) = true)) = true := by decide +kernel
  intro ty ht
  obtain ⟨a1, a2, a3, a4, a5⟩ := k ty ht
  obtain ⟨ts, u2, e, c⟩ := ends_of a5
  obtain ⟨cur, me, busy, gate, watch, jobs, plain⟩ := of_decide_eq_true c
  exact ⟨ts, u2, ready_iff a1, a2, a3, e, cur, me, busy, passes_of gate, passes_of watch, a4, jobs, plain⟩

theorem witness_TileRegisters :
    (∀ i ∈ [Instr.tgetr 1 5 4 .base, .tputr 5 2 4 .base, .twait .base],
      let u := entry i (alike 10 i)
      Ready i (rawOf i) (alike 10 i) ∧ u.reads .base 2 = some 0x1000 ∧ u.reads .base 4 = some 4088 ∧ readable u 5 ∧ writable u 5 ∧
        u.canWrite .base 1 ∧ u.tilesQuiet (alike 10 i).cur = true) := by
  have k : ∀ i ∈ [Instr.tgetr 1 5 4 .base, .tputr 5 2 4 .base, .twait .base],
      let u := entry i (alike 10 i)
      ready i (alike 10 i) = true ∧ u.reads .base 2 = some 0x1000 ∧ u.reads .base 4 = some 4088 ∧ u.tileBusyR u.cur 5 = false ∧
        u.tileBusyW u.cur 5 = false ∧ takes u 1 = true ∧ u.tilesQuiet (alike 10 i).cur = true := by decide +kernel
  intro i hi
  obtain ⟨a, b, c, d, e, g, h⟩ := k i hi
  exact ⟨ready_iff a, b, c, d, e, takes_of g _, h⟩

/-- A thread about to send a matrix command, at a phase: its block at `0x1000` names cluster 1, core 0, and carries a `TZERO` of tile 5. -/
def sending (phase : Nat) : State :=
  two <| (((aboutWith (.tcmd 2 3 .base) fun q => { holding [(2, 0x1000), (3, 0x2000)] q with phase := phase }).writeMem
    (localPlace 0 0x1000).key 0x800000000000 8).writeMem (localPlace 0 0x1008).key ((encode (.tzero 5 .base)).headD 0).toNat 8)

theorem witness_MatrixCommand :
    Ready (.tcmd 2 3 .base) (rawOf (.tcmd 2 3 .base)) (sending 2) ∧ (entry (.tcmd 2 3 .base) (sending 2)).me.phase = 2 ∧
    (let s := sending 0
     let u := entry (.tcmd 2 3 .base) s
     ∃ b u1 u2, Ready (.tcmd 2 3 .base) (rawOf (.tcmd 2 3 .base)) s ∧ u.me.phase = 0 ∧ u.reads .base 2 = some 0x1000 ∧
       u.reads .base 3 = some 0x2000 ∧ localBound u = .ok (b, u1) ∧ 0x1020 ≤ b ∧ u1.cur = s.cur ∧ u1.me = u.me ∧
       (let g (i : Nat) : Word := BitVec.ofNat 64 (u1.readMem ((localPlace 0 0x1000).key + 8 * i) 8)
        (carried ((g 1).setWidth 32)).isSome = true ∧ (g 1).extractLsb' 35 5 = 0 ∧ (g 1).extractLsb' 45 3 = 0 ∧
          (g 1).extractLsb' 48 16 = 0 ∧ destCheck (g 0) false u1 = .ok ((), u2)) ∧
       u2.cur = s.cur ∧ u2.me = u.me ∧ u2.net = s.net ∧ u2.mem = s.mem ∧ u2.isPoisoned (localPlace 0 0x1000) 32 = false ∧
       u2.ordered (localPlace 0 0x1000) u2.windowOrd 32 false = false ∧ Passes launchGate u2 ∧ u2.portFree ∧
       Passes (checkWatch 1 0x1000 32) u2.portTaken ∧ u.me.storesDone = true ∧ 0 < (u2.core (slotCore s.cur)).credits) := by
  have k : ready (.tcmd 2 3 .base) (sending 2) = true ∧ (entry (.tcmd 2 3 .base) (sending 2)).me.phase = 2 := by decide +kernel
  have k' : let s := sending 0
      let u := entry (.tcmd 2 3 .base) s
      ready (.tcmd 2 3 .base) s = true ∧ u.me.phase = 0 ∧ u.reads .base 2 = some 0x1000 ∧ u.reads .base 3 = some 0x2000 ∧
      u.me.storesDone = true ∧
      endsIn localBound u (fun b u1 =>
        let g (i : Nat) : Word := BitVec.ofNat 64 (u1.readMem ((localPlace 0 0x1000).key + 8 * i) 8)
        decide (0x1020 ≤ b ∧ u1.cur = s.cur ∧ u1.me = u.me ∧ (carried ((g 1).setWidth 32)).isSome = true ∧ (g 1).extractLsb' 35 5 = 0 ∧
          (g 1).extractLsb' 45 3 = 0 ∧ (g 1).extractLsb' 48 16 = 0 ∧
          endsIn (destCheck (g 0) false) u1 (fun _ u2 => decide (u2.cur = s.cur ∧ u2.me = u.me ∧ u2.net = s.net ∧ u2.mem = s.mem ∧
            u2.isPoisoned (localPlace 0 0x1000) 32 = false ∧ u2.ordered (localPlace 0 0x1000) u2.windowOrd 32 false = false ∧
            passes launchGate u2 = true ∧ (u2.core (slotCore u2.cur)).portHeld u2.cyc = false ∧ passes (checkWatch 1 0x1000 32) u2.portTaken = true ∧
            0 < (u2.core (slotCore s.cur)).credits)) = true)) = true := by decide +kernel
  refine ⟨ready_iff k.1, k.2, ?_⟩
  obtain ⟨a1, a2, a3, a4, a5, a6⟩ := k'
  obtain ⟨b, u1, e1, c⟩ := ends_of a6
  obtain ⟨b1, b2, b3, b4, b5, b6, b7, c⟩ := of_decide_eq_true c
  obtain ⟨x, u2, e2, c⟩ := ends_of c
  obtain ⟨cur, me, net, mem, clean, order, launch, free, watch, credit⟩ := of_decide_eq_true c
  exact ⟨b, u1, u2, ready_iff a1, a2, a3, a4, e1, b1, b2, b3, ⟨b4, b5, b6, b7, e2⟩, cur, me, net, mem, clean, order, passes_of launch,
    free, passes_of watch, a5, credit⟩

/-! ## Witnesses: the machine as a whole -/

/-- Instructions of one word and of three, in the base form, with a literal and with the extended fields. -/
def fetchedOps : List Instr := [.add 3 4 5 .base, .movi 3 0 (.lit 0x9ABCDEF012345678), .fence 2 0 0 .base, .vsel 1 2 3 (.ext { noExt with c := 2 } 0),
  .rat 1 2 3 (.ext { noExt with xfn := 9, ty := 7, c := 4 } 0)]

/-- Every word of an instruction stands in the fetch buffer of slot 0, whose turn it is. -/
def placed (i : Instr) : State := State.reset.placeCode ((encode i).foldr (fun w n => w.toNat + 2 ^ 32 * n) 0)
def turnOf (s : State) : State := { s with sched := [], cur := 0 }

/-- A word alone is legal in a thread's class, as `StepRunsInstruction` has it. -/
abbrev isLegal (s : State) (w : Word32) : Prop := baseIllegal w = false ∧ ∀ c, (baseRaw w).needsClass = some c → c = s.me.cls

def issues (s : State) (w : Word32) : Bool := !baseIllegal w && (baseRaw w).needsClass.all fun c => decide (c = s.me.cls)

theorem issues_iff {s : State} {w : Word32} : issues s w = true ↔ isLegal s w := by
  unfold issues isLegal
  cases h : (baseRaw w).needsClass <;> simp

/-- Slot 0 has its turn, and the first word of its instruction is there. -/
abbrev hasTurn (s : State) (w : Word32) : Prop :=
  s.agenda = [] ∧ s.frun = [] ∧ s.sched = [0] ∧ 0 < again ∧ (turnOf s).mayIssue 0 = true ∧ ((turnOf s).core (slotCore 0)).issued = false ∧
    codeWord (turnOf s) (turnOf s).me.pc = some w

/-- A word that is no instruction, and a vector instruction where a scalar thread stands. -/
def wrongWords : List (State × Word32) :=
  [(State.reset.placeCode 0xFC000000, 0xFC000000),
    ((placed (.vadd 1 2 3 .base)).modSlot 0 fun x => { x with cls := 0 }, (encode (.vadd 1 2 3 .base)).headD 0)]

theorem witness_StepRunsInstruction :
    (∀ i ∈ fetchedOps, let s := placed i
      let w := (encode i).headD 0
      let ws := (encode i).drop 1
      hasTurn s w ∧ isLegal (turnOf s) w ∧ ws.length + 1 = lenWords (lenOf w) ∧
        (∀ k : Fin ws.length, codeWord (turnOf s) ((turnOf s).me.pc + BitVec.ofNat 64 (4 * (k.val + 1))) = some ws[k]) ∧
        decodeWords (w :: ws) = some (i, (encode i).length)) ∧
    (∀ p ∈ wrongWords, hasTurn p.1 p.2 ∧ ¬ isLegal (turnOf p.1) p.2 ∧ (turnOf p.1).me.trap.tmode = false) ∧
    (∀ p ∈ filterWords, let s := State.reset.placeFilter p.1.toNat
      s.agenda = [] ∧ s.frun = [0] ∧ (s.die 0).run.isSome = true ∧
        decodeFilter (((s.die 0).fmem[((s.die 0).run.getD default).idx]?).getD 0) = some p.2) ∧
    (State.reset.agenda = [.boot] ∧ stepIs .boot .boot) := by
  have k1 : ∀ i ∈ fetchedOps, let s := placed i
      let w := (encode i).headD 0
      let ws := (encode i).drop 1
      hasTurn s w ∧ issues (turnOf s) w = true ∧ ws.length + 1 = lenWords (lenOf w) ∧
        (∀ k : Fin ws.length, codeWord (turnOf s) ((turnOf s).me.pc + BitVec.ofNat 64 (4 * (k.val + 1))) = some ws[k]) ∧
        decodeWords (w :: ws) = some (i, (encode i).length) := by decide +kernel
  have k2 : ∀ p ∈ wrongWords, hasTurn p.1 p.2 ∧ issues (turnOf p.1) p.2 = false ∧ (turnOf p.1).me.trap.tmode = false := by decide +kernel
  refine ⟨fun i hi => ?_, fun p hp => ?_, by decide +kernel, rfl, rfl⟩
  · obtain ⟨turn, ok, rest⟩ := k1 i hi
    exact ⟨turn, issues_iff.mp ok, rest⟩
  · obtain ⟨turn, bad, tmode⟩ := k2 p hp
    exact ⟨turn, fun h => absurd (issues_iff.mpr h) (by simp [bad]), tmode⟩

/-- The invariant holds at reset, and the step of the state with an instruction placed takes it on. -/
theorem witness_StepKeepsMemoryForm : Claims.Inv State.reset ∧ Claims.Inv (placed (.add 3 4 5 .base)) := by
  unfold Claims.Inv
  decide +kernel

/-- Well-formed instructions and filter words, for the clauses of `DecodeEncode`. -/
theorem witness_DecodeEncode : (∀ i ∈ fetchedOps, i.wf = true ∧ decodeWords (encode i) = some (i, (encode i).length)) ∧
    ∀ p ∈ filterWords, p.2.filterWf = true ∧ decodeFilter p.1 = some p.2 := by decide +kernel

end Sys2Proof.Tests
end

section
/-! PROOFS. What taking a cause outside trap service leaves, whatever the cause (R7, R278); and that a register jump, load, store or
atomic at a misaligned address raises cause 0x04 before it performs anything (R61, R90, R94). -/

namespace Sys2Proof.Machine

/-! ## Writing the register cache back -/

/-- A state with the memory and the poison of another. -/
def State.withMem (s u : State) : State := { s with mem := u.mem, poison := u.poison }

/-- A store changes memory and poison alone. -/
theorem State.store_eq_withMem (s : State) (p : Place) (v n : Nat) : s.store p v n = s.withMem (s.store p v n) := by
  unfold State.store
  split <;> rfl

/-- Steps that each change memory and poison alone change nothing else together. -/
theorem foldl_eq_withMem {α : Type} {f : State → α → State} (h : ∀ s a, f s a = s.withMem (f s a)) (l : List α) (s : State) :
    l.foldl f s = s.withMem (l.foldl f s) := by
  induction l generalizing s with
  | nil => rfl
  | cons a l ih =>
    calc l.foldl f (f s a) = (f s a).withMem (l.foldl f (f s a)) := ih (f s a)
      _ = s.withMem (l.foldl f (f s a)) := by rw [h s a]; rfl

/-- What a write-back leaves (R48): its stores change memory and poison alone; the port is claimed and no word is dirty. -/
theorem State.writeBack_eq (s : State) (n : Nat) :
    s.writeBack n = ((s.withMem (s.writeBack n)).claimPort (slotCore n)).modSlot n fun x => { x with dirty := 0 } := by
  unfold State.writeBack
  dsimp only
  rw [foldl_eq_withMem (s := s)]
  · rfl
  · intro u i
    split
    · exact State.store_eq_withMem _ _ _ _
    · rfl

theorem State.writeBack_slot (s : State) (n : Nat) : (s.writeBack n).slot n = { s.slot n with dirty := 0 } := by
  rw [State.writeBack_eq, State.modSlot_eq, State.slot_setSlot_self]
  rfl

theorem State.writeBack_slot_of_ne (s : State) {n k : Nat} (h : k ≠ n) : (s.writeBack n).slot k = s.slot k := by
  rw [State.writeBack_eq, State.modSlot_eq, State.slot_setSlot_of_ne _ _ _ _ h]
  rfl

theorem State.writeBack_clu (s : State) (n k : Nat) : (s.writeBack n).clu k = s.clu k := by
  rw [State.writeBack_eq]
  rfl

theorem State.writeBack_cyc (s : State) (n : Nat) : (s.writeBack n).cyc = s.cyc := by
  rw [State.writeBack_eq]
  rfl

theorem State.writeBack_core (s : State) (n c : Nat) :
    ∃ q, (s.writeBack n).core c = { s.core c with portClaim := q } := by
  rw [State.writeBack_eq, State.modSlot_eq, State.core_setSlot, State.claimPort, State.modCore_eq, State.core_setCore]
  split
  · subst_vars
    exact ⟨_, rfl⟩
  · exact ⟨_, rfl⟩

/-- What a store writes does not depend on the clusters. -/
theorem State.store_setClu (s : State) (c : Nat) (x : Cluster) (p : Place) (v n : Nat) :
    (s.setClu c x).store p v n = (s.store p v n).setClu c x := by
  have e : (s.setClu c x).chanFailed p = s.chanFailed p := rfl
  unfold State.store
  rw [e]
  split <;> rfl

theorem State.writeBack_setClu (s : State) (c : Nat) (x : Cluster) (n : Nat) :
    (s.setClu c x).writeBack n = (s.writeBack n).setClu c x := by
  unfold State.writeBack
  dsimp only
  rw [State.slot_setClu, List.foldl_hom (fun u => State.setClu u c x)]
  · rfl
  · intro u i
    split
    · exact State.store_setClu _ _ _ _ _ _
    · rfl

/-! ## Taking a cause -/

/-- Dropping the failed walks of a core changes the walks of one cluster (R292). -/
theorem State.dropBadWalks_eq (u : State) :
    ∃ k y, u.dropBadWalks = u.setClu k y ∧ ∃ w, y = { u.clu k with walks := w } := ⟨_, _, rfl, _, rfl⟩

theorem State.dropBadWalks_clu (u : State) (c : Nat) : ∃ w, u.dropBadWalks.clu c = { u.clu c with walks := w } := by
  obtain ⟨k, y, hd, w, hy⟩ := u.dropBadWalks_eq
  rw [hd, State.clu_setClu]
  split
  · subst_vars
    exact ⟨w, rfl⟩
  · exact ⟨_, rfl⟩

theorem State.ends_clu (v s : State) (pc : Word) (keep : Bool) (c : Nat) : (v.ends s pc keep).clu c = v.clu c := by
  rw [State.ends_rest]
  rfl

/-- A slot that has entered trap service (R278) with a record, a saved address, the handler's address, the trap workspace and the
cycle from which its handler issues. -/
def Slot.intoTrap (x : Slot) (t : TrapRec) (tepc handler ws : Word) (c : Nat) : Slot :=
  { x with
    pc := handler, wp := ws, absent := true, dirty := 0, fbuf := [], freq := none, notBefore := c, phase := 0, buf := []
    sampled := none, waiting := 0
    trap := { x.trap with
      tmode := true, tepc := tepc, tepw := x.pw, tewp := x.wp, trec0 := t.word0, trec1 := t.pc, trec2 := t.addr, trec3 := t.info
      tile := t.tile } }

/-- Taking a cause outside trap service (R278): the write-back, then the slot enters trap service. -/
theorem State.takeTrap_eq {u : State} {n : Nat} (h : (u.slot n).trap.tmode = false) (t : TrapRec) (tepc : Word) :
    u.takeTrap n t tepc = (u.writeBack n).setSlot n ((u.slot n).intoTrap t tepc
      ((u.clu (slotClu n)).trapbase + BitVec.ofNat 64 (64 * t.cause))
      ((u.core (slotCore n)).twsbase + BitVec.ofNat 64 (256 * slotIdx n)) (u.cyc + 4)) := by
  obtain ⟨q, hq⟩ := u.writeBack_core n (slotCore n)
  unfold State.takeTrap
  simp only [h, Bool.false_eq_true, if_false]
  rw [State.modSlot_eq, State.writeBack_slot, State.writeBack_clu, State.writeBack_cyc, hq]
  rfl

/-- What an attempt leaves that ends with a cause outside trap service, in a state `u` with what has been performed (R7, R278). -/
theorem trapped_of {s u : State} (h : (u.slot s.cur).trap.tmode = false) (x : TrapRec) :
    Trapped x s u ((u.dropBadWalks.takeTrap s.cur x (u.slot s.cur).pc).ends s s.me.pc false) := by
  obtain ⟨k, y, hd, -⟩ := u.dropBadWalks_eq
  have hwb : u.dropBadWalks.writeBack s.cur = (u.writeBack s.cur).setClu k y := by rw [hd, State.writeBack_setClu]
  have hclu (c : Nat) : ((u.writeBack s.cur).setClu k y).clu c = u.dropBadWalks.clu c := by
    rw [hd, State.clu_setClu, State.clu_setClu, State.writeBack_clu]
  rw [State.takeTrap_eq (u := u.dropBadWalks) h x (u.slot s.cur).pc, hwb]
  exact {
    slot := by
      obtain ⟨v, hv⟩ := u.dropBadWalks_clu (slotClu s.cur)
      rw [State.ends_slot, State.slot_setSlot_self, hv, Bool.false_or]
      rfl
    slots := fun n hn => by
      rw [State.ends_slot_of_ne _ _ _ _ hn, State.slot_setSlot_of_ne _ _ _ _ hn, State.slot_setClu, State.writeBack_slot_of_ne _ hn]
    mem := by rw [State.ends_rest]; rfl
    cores := fun c => by
      obtain ⟨q, hq⟩ := u.writeBack_core s.cur c
      rw [State.ends_core, State.core_setSlot, State.core_setClu, hq]
      split <;> exact ⟨_, _, _, _, _, rfl⟩
    clus := fun c => by
      rw [State.ends_clu, State.clu_setSlot, hclu]
      exact u.dropBadWalks_clu c
    rest := by
      rw [State.ends_rest, State.writeBack_eq]
      rfl }

/-- A ready instruction whose effect ends with a cause outside trap service takes it, with nothing performed (R7). -/
theorem issue_trapped {i : Instr} {r : Raw} {s : State} {x : TrapRec} {body : M Unit} (h : Ready i r s)
    (ht : s.me.trap.tmode = false) (hb : body (s.entered r) = .error (.trap x)) :
    ∃ t, issue i body s = .next t ∧ Trapped (x.named r) s s t := by
  refine ⟨_, ?_, trapped_of ht _⟩
  unfold issue
  rw [h.raw]
  simp only [h.live, Bool.not_true, Bool.false_eq_true, if_false]
  rw [M.bind_ok (prologue_ready h)]
  simp only [if_true]
  rw [M.bind_error hb]
  rfl

/-- The record of a cause above 3 is as the instruction raised it, but for the mark of a `TLD` or `TST` (R277). -/
theorem TrapRec.named_of {t : TrapRec} {r : Raw} (hc : 3 < t.cause) (hm : r.maj ≠ 0x30 ∧ r.maj ≠ 0x31) : t.named r = t := by
  have h1 : ¬ (t.cause = 1 ∨ t.cause = 2 ∨ t.cause = 3) := by omega
  simp only [TrapRec.named, hm.1, hm.2, decide_false, Bool.or_false]
  rw [if_neg (by simpa [or_assoc] using h1)]

/-! ## A misaligned address -/

/-- The record of cause 0x04 (R277): the instruction, and the address in `TREC2`. -/
def misaligned (s : State) (ea : Word) : TrapRec := { cause := 4, pc := s.me.pc, addr := ea }

theorem raiseIf_misaligned {p : Prop} [Decidable p] (h : p) (ea : Word) (u : State) :
    raiseIf p 0x04 0 ea 0 u = .error (.trap (misaligned u ea)) := by
  rw [decide_eq_true h, raiseIf_true]
  rfl

/-- A ready instruction that finds a misaligned address traps with it, and nothing is performed (R7, R278). -/
theorem issue_misaligned {i : Instr} {r : Raw} {s u : State} {body : M Unit} {ea : Word} (h : Ready i r s)
    (ht : s.me.trap.tmode = false) (m : BitVec 6) (hm : i.raw.map Raw.maj = some m) (hne : m ≠ 0x30 ∧ m ≠ 0x31)
    (hu : u.me = (s.entered r).me) (hb : body (s.entered r) = .error (.trap (misaligned u ea))) :
    ∃ t, issue i body s = .next t ∧ Trapped { cause := 4, pc := s.me.pc, addr := ea } s s t := by
  have hmaj : r.maj = m := by simpa [h.raw] using hm
  have hpc : misaligned u ea = { cause := 4, pc := s.me.pc, addr := ea } := by rw [misaligned, hu, entered_pc]
  rw [hpc] at hb
  have key := issue_trapped h ht hb
  rwa [TrapRec.named_of (Nat.lt_succ_self 3) (hmaj ▸ hne)] at key

/-! ## Operands of the misaligned attempts -/

/-- Taking the local-store port changes what no operand reads as. -/
theorem reads_portTaken (s : State) (f : Form) (x : Spec) : s.portTaken.reads f x = s.reads f x := by
  have hv : s.portTaken.value? s.cur x = s.value? s.cur x := by
    unfold State.value? State.portTaken
    simp only [State.modCore_eq, State.core_setCore_self, State.slot_setCore]
  have hcur : s.portTaken.cur = s.cur := rfl
  have hcyc : s.portTaken.cyc = s.cyc := rfl
  have hme : s.portTaken.me = s.me := rfl
  have hp (p : Place) : s.portTaken.isPoisoned p 8 = s.isPoisoned p 8 := rfl
  have hr (k : Nat) : s.portTaken.readMem k 8 = s.readMem k 8 := rfl
  unfold State.reads
  simp only [hv, hcur, hcyc, hme, hp, hr, bufferAt_portTaken, ordered_portTaken, windowOrd_portTaken, portHeld_portTaken]

/-- A read of one operand changes what no other reads as. -/
theorem reads_touched (s : State) (y : Spec) (f : Form) (x : Spec) : (s.touched y).reads f x = s.reads f x := by
  rw [touched_eq]
  split
  · exact reads_portTaken s f x
  · rfl

theorem readsB_touched (s : State) (y : Spec) (f : Form) (b : Spec) : (s.touched y).readsB f b = s.readsB f b := by
  unfold State.readsB
  rw [reads_touched]

theorem reads_touchedB (s : State) (g : Form) (y : Spec) (f : Form) (x : Spec) : (s.touchedB g y).reads f x = s.reads f x := by
  unfold State.touchedB
  split
  · rfl
  · exact reads_touched s y f x

/-- An address base that has a value is found, and nothing changes (R195). -/
theorem baseOf_of {f : Form} {a : Spec} {tail : Bool} {s : State} {p : Word × Option (Nat × Nat)}
    (h : s.baseAt f a tail = some p) : baseOf f a tail s = .ok (p, s) := by
  unfold State.baseAt at h
  unfold baseOf
  by_cases hh : isHandle a = true
  · simp only [hh, if_true, Option.map_eq_some_iff] at h ⊢
    obtain ⟨k, hk, rfl⟩ := h
    rw [M.bind_ok (bufferAddr_of hk)]
    rfl
  · simp only [hh, Bool.false_eq_true, if_false, Option.map_eq_some_iff] at h ⊢
    obtain ⟨v, hv, rfl⟩ := h
    rw [M.bind_ok (src_reads hv), touched_eq, if_neg hh]
    rfl

/-! ## The misaligned attempts -/

theorem jumpReg_misaligned (i : Instr) (link : Option Spec) {f : Form} {a : Spec} {s : State} {x : Word}
    (h : s.reads f a = some x) (hx : x.extractLsb' 0 2 ≠ 0) :
    jumpReg i a f link s = .error (.trap (misaligned (s.touched a) x)) := by
  unfold jumpReg
  rw [M.bind_ok (src_reads h)]
  exact M.bind_error (raiseIf_misaligned hx _ _)

theorem scalarLoad_misaligned (f : Form) (d : Spec) (sx : Bool) (buf : Option (Nat × Nat)) (s : State) {ea : Word} {z : Nat}
    (h : ea.toNat % z ≠ 0) : scalarLoad f d ea z sx buf s = .error (.trap (misaligned s ea)) :=
  M.bind_error (raiseIf_misaligned h _ _)

theorem scalarStore_misaligned (f : Form) (d : Spec) (buf : Option (Nat × Nat)) (s : State) {ea : Word} {z : Nat}
    (h : ea.toNat % z ≠ 0) : scalarStore f d ea z buf s = .error (.trap (misaligned s ea)) :=
  M.bind_error (raiseIf_misaligned h _ _)

theorem bankAtomic_misaligned (f : Form) (d : Spec) (op : Nat) (x c : Word) (s : State) {ea : Word} {z : Nat}
    (h : ea.toNat % z ≠ 0) : bankAtomic f d ea z op x c s = .error (.trap (misaligned s ea)) :=
  M.bind_error (raiseIf_misaligned h _ _)

end Sys2Proof.Machine

namespace Sys2Proof.Claims

open Sys2Proof.Machine

theorem widthI_eq (w : BitVec 2) (f : Form) : widthI w f = accessBytes w f := by cases f <;> rfl

theorem offsetI_eq (o : BitVec 10) (w : BitVec 2) (f : Form) :
    offsetI o f * BitVec.ofNat 64 (widthI w f) = accessOffset o w f := by cases f <;> rfl

section

variable {d a b : Spec} {w : BitVec 2} {o : BitVec 10} {h : BitVec 2} {sx z : BitVec 1} {f : Form} {r : Raw} {s : State}
  {v x : Word} {buf : Option (Nat × Nat)}

/-- The address and the size of a form-I access, found by its instruction (R90). -/
theorem formI_run (o : BitVec 10) (w : BitVec 2) (access : Word → Nat → Option (Nat × Nat) → M Unit) {tail : Bool}
    (hv : s.baseAt f a tail = some (v, buf)) :
    (baseOf f a tail >>= fun p => access (p.1 + offsetI o f * BitVec.ofNat 64 (widthI w f)) (widthI w f) p.2) s
      = access (v + accessOffset o w f) (accessBytes w f) buf s := by
  rw [M.bind_ok (baseOf_of hv), offsetI_eq, widthI_eq]

/-- The address of an indexed access, found by its instruction (R91). -/
theorem indexed_run (h : BitVec 2) (access : Word → Option (Nat × Nat) → M Unit) {tail : Bool}
    (hv : s.baseAt f a tail = some (v, buf)) (hx : s.reads f b = some x) :
    (baseOf f a tail >>= fun p => src f b >>= fun i => access (p.1 + i <<< h.toNat) p.2) s
      = access (v + x <<< h.toNat) buf (s.touched b) := by
  rw [M.bind_ok (baseOf_of hv), M.bind_ok (src_reads hx)]

/-- R90, R91: a scalar load at a misaligned address. -/
theorem load_misaligned {p : Instr × Bool × (Word → Word → Word) × Nat × Bool} (hp : p ∈ loadTable d a b w o h sx f)
    (hr : Ready p.1 r s) (ht : s.me.trap.tmode = false) (hv : (s.entered r).baseAt f a false = some (v, buf))
    (hx : p.2.1 = true → (s.entered r).reads f b = some x) (hz : (p.2.2.1 v x).toNat % p.2.2.2.1 ≠ 0) :
    ∃ t, exec p.1 s = .next t ∧ Trapped { cause := 4, pc := s.me.pc, addr := p.2.2.1 v x } s s t := by
  simp only [loadTable, List.mem_cons, List.not_mem_nil, or_false] at hp
  rcases hp with rfl | rfl | rfl
  case inl =>
    exact issue_misaligned hr ht 0x11 rfl (by decide) rfl
      ((formI_run o w (fun ea z buf => scalarLoad f d ea z false buf) hv).trans (scalarLoad_misaligned f d false buf _ hz))
  case inr.inl =>
    exact issue_misaligned hr ht 0x12 rfl (by decide) rfl
      ((formI_run o w (fun ea z buf => scalarLoad f d ea z true buf) hv).trans (scalarLoad_misaligned f d true buf _ hz))
  case inr.inr =>
    exact issue_misaligned hr ht 0x14 rfl (by decide) (State.touched_me _ b)
      ((indexed_run h (fun ea buf => scalarLoad f d ea (2 ^ w.toNat) (sx = 1) buf) hv (hx rfl)).trans
        (scalarLoad_misaligned f d (sx = 1) buf _ hz))

/-- R90, R91: a scalar store at a misaligned address. -/
theorem store_misaligned {p : Instr × Bool × (Word → Word → Word) × Nat} (hp : p ∈ storeTable d a b w o h f)
    (hr : Ready p.1 r s) (ht : s.me.trap.tmode = false) (hv : (s.entered r).baseAt f a true = some (v, buf))
    (hx : p.2.1 = true → (s.entered r).reads f b = some x) (hz : (p.2.2.1 v x).toNat % p.2.2.2 ≠ 0) :
    ∃ t, exec p.1 s = .next t ∧ Trapped { cause := 4, pc := s.me.pc, addr := p.2.2.1 v x } s s t := by
  simp only [storeTable, List.mem_cons, List.not_mem_nil, or_false] at hp
  rcases hp with rfl | rfl
  case inl =>
    exact issue_misaligned hr ht 0x13 rfl (by decide) rfl
      ((formI_run o w (scalarStore f d) hv).trans (scalarStore_misaligned f d buf _ hz))
  case inr =>
    exact issue_misaligned hr ht 0x14 rfl (by decide) (State.touched_me _ b)
      ((indexed_run h (fun ea buf => scalarStore f d ea (2 ^ w.toNat) buf) hv (hx rfl)).trans
        (scalarStore_misaligned f d buf _ hz))

/-- R94: a bank atomic at a misaligned address. -/
theorem atomic_misaligned {op : BitVec 4} {c : Word} {i : Instr} (hr : Ready i r s) (ht : s.me.trap.tmode = false)
    (hv : (s.entered r).reads f a = some v) (hx : (s.entered r).readsB f b = some x)
    (hz : (v + f.imm.signExtend 64).toNat % (if z = 1 then 4 else 8) ≠ 0)
    (hi : i = .bat d a b z op f ∨ (i = .batCas d a b z f ∧ (s.entered r).reads f f.c = some c)) :
    ∃ t, exec i s = .next t ∧ Trapped { cause := 4, pc := s.me.pc, addr := v + f.imm.signExtend 64 } s s t := by
  have hx' := (readsB_touched (s.entered r) a f b).trans hx
  rcases hi with rfl | ⟨rfl, hc⟩
  case inl =>
    refine issue_misaligned hr ht 0x15 rfl (by decide) ((State.touchedB_me _ f b).trans (State.touched_me _ a)) ?_
    rw [M.bind_ok (src_reads hv), M.bind_ok (srcB_reads hx')]
    exact bankAtomic_misaligned f d _ x 0 _ hz
  case inr =>
    have hc' := ((reads_touchedB _ f b f f.c).trans (reads_touched (s.entered r) a f f.c)).trans hc
    refine issue_misaligned hr ht 0x15 rfl (by decide)
      ((State.touched_me _ f.c).trans ((State.touchedB_me _ f b).trans (State.touched_me _ a))) ?_
    rw [M.bind_ok (src_reads hv), M.bind_ok (srcB_reads hx'), M.bind_ok (src_reads hc')]
    exact bankAtomic_misaligned f d 9 x c _ hz

end

/-- R61: each register jump reads its target and checks it before anything else. -/
theorem misalignedJump : MisalignedJump := by
  intro d a f r s x hx hz ht i hi hr
  have hu : ((s.entered r).touched a).me = (s.entered r).me := State.touched_me _ a
  simp only [List.mem_cons, List.not_mem_nil, or_false] at hi
  rcases hi with rfl | rfl | rfl
  case inl => exact issue_misaligned hr ht 0x10 rfl (by decide) hu (jumpReg_misaligned (.jmpr a f) none hx hz)
  case inr.inl => exact issue_misaligned hr ht 0x10 rfl (by decide) hu (jumpReg_misaligned (.ret a f) none hx hz)
  case inr.inr => exact issue_misaligned hr ht 0x10 rfl (by decide) hu (jumpReg_misaligned (.callg d a f) (some d) hx hz)

/-- R90, R91, R94: each access checks its address before it resolves it. -/
theorem misalignedAccess : MisalignedAccess := by
  intro d a b w o h sx z op f i r s v x c buf ea hr ht u hacc
  rcases hacc with ⟨p, hp, rfl, hv, hx, rfl, hz⟩ | ⟨p, hp, rfl, hv, hx, rfl, hz⟩ | ⟨hv, hx, rfl, hz, hi⟩
  · exact load_misaligned hp hr ht hv hx hz
  · exact store_misaligned hp hr ht hv hx hz
  · exact atomic_misaligned hr ht hv hx hz hi

/-- Settles O15: each attempt finds the misaligned address before it performs anything, so the trap leaves the state in which it
was issued. -/
theorem misalignmentTraps : Obligations.MisalignmentTraps := ⟨misalignedJump, misalignedAccess⟩

end Sys2Proof.Claims
end

section
/-! PROOFS. Every step keeps the canonical form of memory, and what reset leaves (O60, O58).

A step changes the two memories through `Memory.writeLE` and `Memory.writeBytes` alone, so the proof goes once over every operation
of the model, in the order of the model's files, with one lemma for each:
* `inv_f` for an operation on the state: an equivalence where it writes no memory, an implication where it may;
* `keeps_f` for a meaning in the monad `M`;
* `nextInv_f` for a meaning that answers an outcome.
All of them are `simp` rules, and the lemma of an operation cites those of the operations that it calls. -/

namespace Sys2Proof.Claims

open Sys2Proof.Machine

-- Every use of `byRules` below reads its default script from this file and waits for the proofs before it. One proof at a time, so
-- that the proofs that wait do not hold a thread each.
set_option Elab.async false

/-! ## The invariant along a meaning -/

/-- The state that a halted meaning leaves, where it carries one, has its memories in canonical form. -/
def HaltInv : Halt → Prop
  | .trap _ => True
  | .trapWith _ s => Inv s
  | .wait s _ => Inv s
  | .quit s => Inv s

@[simp] theorem haltInv_trap (t : TrapRec) : HaltInv (.trap t) := trivial
@[simp] theorem haltInv_trapWith {t : TrapRec} {s : State} : HaltInv (.trapWith t s) ↔ Inv s := .rfl
@[simp] theorem haltInv_wait {n : Nat} {s : State} : HaltInv (.wait s n) ↔ Inv s := .rfl
@[simp] theorem haltInv_quit {s : State} : HaltInv (.quit s) ↔ Inv s := .rfl

/-- The same of the end of a meaning, completed or halted. -/
def EndInv {α : Type} : Except Halt (α × State) → Prop
  | .ok p => Inv p.2
  | .error h => HaltInv h

@[simp] theorem endInv_ok {α : Type} {a : α} {t : State} : EndInv (.ok (a, t)) ↔ Inv t := .rfl
@[simp] theorem endInv_error {α : Type} {h : Halt} : EndInv (.error h : Except Halt (α × State)) ↔ HaltInv h := .rfl

/-- The same of an outcome: a refusal leaves no state, and no step of the model faults. -/
inductive NextInv : Host.Outcome State Fault Refusal → Prop
  | next {s : State} : Inv s → NextInv (.next s)
  | refused {r : Refusal} : NextInv (.refused r)

@[simp] theorem nextInv_next {s : State} : NextInv (.next s) ↔ Inv s := ⟨fun h => by cases h; assumption, .next⟩
@[simp] theorem nextInv_refused {r : Refusal} : NextInv (.refused r) := .refused

/-- A meaning keeps the invariant, however it ends. -/
structure Keeps {α : Type} (m : M α) : Prop where
  ends : ∀ s, Inv s → EndInv (m s)

section

variable {α β γ : Type}

theorem Keeps.of_ok {m : M α} (hm : Keeps m) {s t : State} {a : α} (hs : Inv s) (h : m s = .ok (a, t)) : Inv t := by
  simpa [h] using hm.ends s hs

theorem Keeps.of_error {m : M α} (hm : Keeps m) {s : State} {e : Halt} (hs : Inv s) (h : m s = .error e) : HaltInv e := by
  simpa [h] using hm.ends s hs

@[simp] theorem Keeps.pure (a : α) : Keeps (Pure.pure a : M α) := ⟨fun _ hs => hs⟩

theorem Keeps.bind {m : M α} {f : α → M β} (hm : Keeps m) (hf : ∀ a, Keeps (f a)) : Keeps (m >>= f) := by
  constructor
  intro s hs
  change EndInv ((m s).bind fun p => f p.1 p.2)
  cases h : m s with
  | error e => exact hm.of_error hs h
  | ok p => exact (hf p.1).ends p.2 (hm.of_ok hs h)

/-- What follows a read of the state may use that the state read is in canonical form. -/
theorem Keeps.get_bind {f : State → M β} (hf : ∀ s, Inv s → Keeps (f s)) : Keeps (get >>= f) :=
  ⟨fun s hs => (hf s hs).ends s hs⟩

@[simp] theorem Keeps.map {m : M α} (hm : Keeps m) (f : α → β) : Keeps (f <$> m) := by
  rw [map_eq_pure_bind]
  exact hm.bind fun _ => .pure _

@[simp] theorem Keeps.set {t : State} (h : Inv t) : Keeps (set t : M PUnit) := ⟨fun _ _ => h⟩

@[simp] theorem Keeps.modify {f : State → State} (hf : ∀ s, Inv s → Inv (f s)) : Keeps (modify f : M PUnit) :=
  ⟨fun s hs => hf s hs⟩

@[simp] theorem Keeps.throw {h : Halt} (hh : HaltInv h) : Keeps (throw h : M α) := ⟨fun _ _ => hh⟩

theorem Keeps.ite {p : Prop} [Decidable p] {m n : M α} (hm : Keeps m) (hn : Keeps n) : Keeps (if p then m else n) := by
  split <;> assumption

@[simp] theorem Keeps.forIn (l : List γ) (b : β) {f : γ → β → M (ForInStep β)} (hf : ∀ a b, Keeps (f a b)) :
    Keeps (forIn l b f) := by
  induction l generalizing b with
  | nil => exact .pure b
  | cons a l ih =>
    rw [List.forIn_cons]
    refine .bind (hf a b) fun r => ?_
    cases r with
    | done b => exact .pure b
    | yield b => exact ih b

theorem keeps_onTrap {m : M α} {h : TrapRec → M α} (hm : Keeps m) (hh : ∀ t, Keeps (h t)) : Keeps (onTrap m h) := by
  constructor
  intro s hs
  unfold onTrap
  split
  · exact (hh _).ends s hs
  · exact hm.ends s hs

theorem keeps_tryTrap {m : M α} (hm : Keeps m) : Keeps (tryTrap m) := by
  constructor
  intro s hs
  unfold tryTrap
  split
  · exact hm.of_ok hs ‹_›
  · exact hs
  · exact hm.of_error hs ‹_›

theorem keeps_forEach {k : α → M β} (hk : ∀ a, Keeps (k a)) (l : List α) : Keeps (forEach k l) := by
  induction l with
  | nil => exact .pure []
  | cons a l ih => exact .bind (hk a) fun b => .bind ih fun bs => .pure _

theorem keeps_forPages (n va : Nat) {k : Nat → M Unit} (hk : ∀ v, Keeps (k v)) : Keeps (forPages n va k) := by
  induction n generalizing va with
  | zero => exact .pure ()
  | succ n ih => exact .bind (hk va) fun _ => ih _

end

/-! ## The invariant along an operation on the state -/

/-- A state with the memories of another: whatever its other fields, it is in canonical form where that one is. -/
@[simp] theorem inv_with (s : State) (cyc poison slots cores clus dies chans net pidNext lanes streams linkFaults dir effs bads badNew
    device fabValid fabN locked timeOff sliceLen sliceCnt slicePend sliceIn slice sliceNext privt fwid bootstat image resets mbox msix
    hostBad hostRead hostOps hostNext mgmt agenda inputs sched cur fdie contNext stage setcs frun turned) :
    Inv ⟨cyc, s.mem, poison, slots, cores, clus, dies, chans, net, pidNext, lanes, streams, linkFaults, dir, effs, bads, badNew,
      device, fabValid, fabN, locked, timeOff, sliceLen, sliceCnt, slicePend, sliceIn, slice, sliceNext, privt, fwid, bootstat, image,
      resets, mbox, msix, s.host, hostBad, hostRead, hostOps, hostNext, mgmt, agenda, inputs, sched, cur, fdie, contNext, stage,
      setcs, frun, turned⟩ ↔ Inv s := .rfl

theorem inv_ite {p : Prop} [Decidable p] {s t : State} (hs : Inv s) (ht : Inv t) : Inv (if p then s else t) := by
  split <;> assumption

@[simp] theorem inv_ite_iff {p : Prop} [Decidable p] {s t : State} : Inv (if p then s else t) ↔ if p then Inv s else Inv t :=
  iff_of_eq (apply_ite Inv p s t)

/-- A further operation that is done only under a condition. -/
theorem inv_ite_of {p : Prop} [Decidable p] {s t : State} (hs : Inv s) (ht : Inv s → Inv t) : Inv (if p then t else s) :=
  inv_ite (ht hs) hs

theorem inv_foldl {α : Type} {f : State → α → State} (hf : ∀ s a, Inv s → Inv (f s a)) (l : List α) {s : State} (hs : Inv s) :
    Inv (l.foldl f s) :=
  List.foldlRecOn l f hs fun s hs a _ => hf s a hs

theorem inv_foldl_fst {α β : Type} {f : State × β → α → State × β} (hf : ∀ r a, Inv r.1 → Inv (f r a).1) (l : List α)
    {r : State × β} (hr : Inv r.1) : Inv (l.foldl f r).1 :=
  List.foldlRecOn l f hr fun r hr a _ => hf r a hr

@[simp] theorem inv_foldl_iff {α : Type} {f : State → α → State} (hf : ∀ s a, Inv (f s a) ↔ Inv s) (l : List α) (s : State) :
    Inv (l.foldl f s) ↔ Inv s := by
  induction l generalizing s with
  | nil => exact .rfl
  | cons a l ih => exact (ih _).trans (hf s a)

theorem inv_fst {α : Type} {x : State × α} {t : State} {a : α} (h : x = (t, a)) (hx : Inv x.1) : Inv t := by
  rw [h] at hx
  exact hx

theorem inv_snd {α : Type} {x : α × State} {t : State} {a : α} (h : x = (a, t)) (hx : Inv x.2) : Inv t := by
  rw [h] at hx
  exact hx

/-! ## What writes memory -/

@[simp] theorem inv_writeMem {s : State} (hs : Inv s) (k v n : Nat) : Inv (s.writeMem k v n) :=
  ⟨Memory.wf_writeLE hs.1 k v n, hs.2⟩

@[simp] theorem inv_writeBytes {s : State} (hs : Inv s) (k : Nat) (bs : List Byte) : Inv (s.writeBytes k bs) :=
  ⟨Memory.wf_writeBytes hs.1 k bs, hs.2⟩

@[simp] theorem inv_store {s : State} (hs : Inv s) (p : Place) (v n : Nat) : Inv (s.store p v n) :=
  inv_ite hs (inv_writeMem hs _ _ _)

@[simp] theorem inv_storeBytes {s : State} (hs : Inv s) (p : Place) (bs : List Byte) : Inv (s.storeBytes p bs) :=
  inv_ite hs (inv_writeBytes hs _ _)

/-! ## Entering a queue -/

theorem inv_enqueueAt {s t : State} {clu q : Nat} {e : QEntry} (h : s.enqueueAt clu q e = some t) (hs : Inv s) : Inv t := by
  unfold State.enqueueAt at h
  split at h
  · cases h
  · cases h
    exact hs

theorem inv_enqueue {s t : State} {clu : Nat} {e : QEntry} (h : s.enqueue clu e = some t) (hs : Inv s) : Inv t :=
  inv_enqueueAt h hs

/-! ## The routine argument -/

/-- The argument that the lemmas below share once an operation is unfolded, written out once as the proof that this theorem takes
when none is given: the rules above follow the body (binds, branches, loops), and the `simp` rules of the operations that it calls
close what is left. A caller with a rule of its own for an operation that runs another meaning names it `rule`. -/
theorem byRules {p : Prop} (h : p := by
  repeat' first
    | with_reducible assumption
    | intro _
    | with_reducible apply Keeps.get_bind
    | with_reducible apply Keeps.bind
    | with_reducible apply Keeps.ite
    | with_reducible apply Keeps.modify
    | with_reducible apply Keeps.set
    | with_reducible apply Keeps.throw
    | with_reducible apply Keeps.forIn
    | with_reducible apply keeps_onTrap
    | with_reducible apply keeps_tryTrap
    | with_reducible apply keeps_forEach
    | with_reducible apply keeps_forPages
    | with_reducible apply inv_store
    | with_reducible apply inv_storeBytes
    | with_reducible apply inv_ite
    | dsimp only
    | split
    | with_reducible refine inv_foldl ?_ _ ?_
    | with_reducible refine inv_foldl_fst ?_ _ ?_
    | with_reducible refine inv_fst (by assumption) ?_
    | with_reducible refine inv_snd (by assumption) ?_
    | with_reducible refine inv_enqueueAt (by assumption) ?_
    | with_reducible refine inv_enqueue (by assumption) ?_
    | with_reducible apply rule
    | simp [*]) : p := h

/-! ## Units, traps, the register cache (Ops) -/

@[simp] theorem inv_setSlot (s : State) (n : Nat) (x : Slot) : Inv (s.setSlot n x) ↔ Inv s := by
  simp [State.setSlot]

@[simp] theorem inv_setCore (s : State) (n : Nat) (x : Core) : Inv (s.setCore n x) ↔ Inv s := by
  simp [State.setCore]

@[simp] theorem inv_setClu (s : State) (n : Nat) (x : Cluster) : Inv (s.setClu n x) ↔ Inv s := by
  simp [State.setClu]

@[simp] theorem inv_setDie (s : State) (n : Nat) (x : Die) : Inv (s.setDie n x) ↔ Inv s := by
  simp [State.setDie]

@[simp] theorem inv_setDram (s : State) (n : Nat) (x : Dram) : Inv (s.setDram n x) ↔ Inv s := by
  simp [State.setDram]

@[simp] theorem inv_modSlot (s : State) (n : Nat) (f : Slot → Slot) : Inv (s.modSlot n f) ↔ Inv s := by
  simp [State.modSlot]

@[simp] theorem inv_modClu (s : State) (n : Nat) (f : Cluster → Cluster) : Inv (s.modClu n f) ↔ Inv s := by
  simp [State.modClu]

@[simp] theorem inv_tel (s : State) (c i : Nat) : Inv (s.tel c i) ↔ Inv s := by
  simp [State.tel]

@[simp] theorem inv_event (s : State) (c code : Nat) : Inv (s.event c code) ↔ Inv s := by
  simp [State.event]

@[simp] theorem inv_poisonAt (s : State) (p : Place) : Inv (s.poisonAt p) ↔ Inv s := by
  simp [State.poisonAt]

@[simp] theorem keeps_me : Keeps me := by
  unfold me; exact byRules

@[simp] theorem keeps_modMe (f : Slot → Slot) : Keeps (modMe f) := by
  simp [modMe]

@[simp] theorem keeps_myCore : Keeps myCore := by
  unfold myCore; exact byRules

@[simp] theorem keeps_modCore (f : Core → Core) : Keeps (modCore f) := by
  simp [modCore]

@[simp] theorem keeps_myClu : Keeps myClu := by
  unfold myClu; exact byRules

@[simp] theorem keeps_modClu (f : Cluster → Cluster) : Keeps (modClu f) := by
  simp [modClu]

@[simp] theorem keeps_myDie : Keeps myDie := by
  unfold myDie; exact byRules

@[simp] theorem keeps_modDie (f : Die → Die) : Keeps (modDie f) := by
  simp [modDie]

@[simp] theorem keeps_trapRec {α : Type} (t : TrapRec) : Keeps (trapRec t : M α) := by
  unfold trapRec; exact byRules

@[simp] theorem keeps_raise {α : Type} (cause sub : Nat) (addr info : Word) : Keeps (raise cause sub addr info : M α) := by
  simp [raise]

@[simp] theorem keeps_raiseIf (b : Bool) (cause sub : Nat) (addr info : Word) : Keeps (raiseIf b cause sub addr info) := by
  unfold raiseIf; exact byRules

@[simp] theorem keeps_wait {α : Type} (why : Nat) : Keeps (wait why : M α) := by
  unfold wait; exact byRules

@[simp] theorem keeps_waitIf (b : Bool) (why : Nat) : Keeps (waitIf b why) := by
  unfold waitIf; exact byRules

@[simp] theorem keeps_quit {α : Type} : Keeps (quit : M α) := by
  unfold quit; exact byRules

@[simp] theorem inv_claimPort (s : State) (core : Nat) (n : Nat) : Inv (s.claimPort core n) ↔ Inv s := by
  simp [State.claimPort]

@[simp] theorem keeps_needPort : Keeps needPort := by
  unfold needPort; exact byRules

@[simp] theorem inv_writeBack {s : State} (hs : Inv s) (n : Nat) : Inv (s.writeBack n) := by
  unfold State.writeBack; exact byRules

@[simp] theorem inv_refill (s : State) (n : Nat) : Inv (s.refill n) ↔ Inv s := by
  simp [State.refill]

@[simp] theorem inv_takeTrap {s : State} (hs : Inv s) (n : Nat) (t : TrapRec) (tepc : Word) : Inv (s.takeTrap n t tepc) := by
  simp [State.takeTrap, hs]

@[simp] theorem inv_leaveTrap {s : State} (hs : Inv s) (n : Nat) (priv : Bool) : Inv (s.leaveTrap n priv) := by
  simp [State.leaveTrap, hs]

@[simp] theorem inv_report (s : State) (n : Nat) (t : TrapRec) : Inv (s.report n t) ↔ Inv s := by
  simp [State.report]

/-! ## Regions and addresses (Translate) -/

@[simp] theorem inv_cacheEff (s : State) (k : Nat) (e : Eff) : Inv (s.cacheEff k e) ↔ Inv s := by
  simp [State.cacheEff]

@[simp] theorem keeps_sampleBlock (k : Nat) : Keeps (sampleBlock k) := by
  unfold sampleBlock; exact byRules

@[simp] theorem keeps_myEff : Keeps myEff := by
  unfold myEff; exact byRules

@[simp] theorem inv_fillTlb (s : State) (core : Nat) (e : TlbEntry) : Inv (s.fillTlb core e) ↔ Inv s := by
  simp [State.fillTlb]

@[simp] theorem keeps_translate (troot : Word) (va : Nat) (inline' : Bool) : Keeps (Machine.translate troot va inline') := by
  unfold Machine.translate; exact byRules

@[simp] theorem keeps_deny {α : Type} (sub : Nat) (va : Word) : Keeps (deny sub va : M α) := by
  simp [deny]

@[simp] theorem keeps_localBound : Keeps localBound := by
  unfold localBound; exact byRules

@[simp] theorem keeps_checkLeaf (e : Eff) (pte : Word) (k : Acc) (va : Word) : Keeps (checkLeaf e pte k va) := by
  unfold checkLeaf; exact byRules

@[simp] theorem keeps_resolveIn (e : Eff) (k : Acc) (va : Word) (inline' : Bool) : Keeps (resolveIn e k va inline') := by
  unfold resolveIn; exact byRules

@[simp] theorem keeps_resolve (k : Acc) (va : Word) : Keeps (resolve k va) := by
  unfold resolve; exact byRules

@[simp] theorem keeps_checkBank (p : Place) (va : Word) : Keeps (checkBank p va) := by
  unfold checkBank; exact byRules

@[simp] theorem inv_haltEvent (s : State) (clu why core slot : Nat) : Inv (s.haltEvent clu why core slot) ↔ Inv s := by
  simp [State.haltEvent]

@[simp] theorem keeps_checkWatch (kind : Nat) (va : Word) (n : Nat) : Keeps (checkWatch kind va n) := by
  unfold checkWatch; exact byRules

/-! ## What an access waits for (Gates) -/

@[simp] theorem keeps_launchGate : Keeps launchGate := by
  unfold launchGate; exact byRules

@[simp] theorem keeps_orderGate (p : Place) (ord n : Nat) (st : Bool) : Keeps (orderGate p ord n st) := by
  unfold orderGate; exact byRules

@[simp] theorem keeps_tileGate (p : Place) (n : Nat) : Keeps (tileGate p n) := by
  unfold tileGate; exact byRules

@[simp] theorem keeps_releaseGate (q scope ord : Nat) : Keeps (releaseGate q scope ord) := by
  unfold releaseGate; exact byRules

@[simp] theorem keeps_remoteGate (p : Place) (anywhere : Bool) : Keeps (remoteGate p anywhere) := by
  unfold remoteGate; exact byRules

/-! ## Operands, and the frame of a meaning (Operands) -/

@[simp] theorem keeps_localPoison (p : Place) (n : Nat) (va : Word) : Keeps (localPoison p n va) := by
  unfold localPoison; exact byRules

@[simp] theorem keeps_bufferAddr (f : Form) (x : Spec) (tail : Bool) : Keeps (bufferAddr f x tail) := by
  unfold bufferAddr; exact byRules

@[simp] theorem keeps_src (f : Form) (x : Spec) : Keeps (src f x) := by
  unfold src; exact byRules

@[simp] theorem keeps_srcB (f : Form) (b : Spec) : Keeps (srcB f b) := by
  unfold srcB; exact byRules

@[simp] theorem inv_take (s : State) (n : Nat) (xs : List Spec) : Inv (s.take n xs) ↔ Inv s := by
  simp [State.take]

@[simp] theorem inv_wakeRouter (s : State) (c : Nat) : Inv (s.wakeRouter c) ↔ Inv s := by
  simp [State.wakeRouter]

@[simp] theorem inv_send (s : State) (p : Packet) : Inv (s.send p) ↔ Inv s := by
  simp [State.send]

@[simp] theorem inv_streamPacket (s : State) (n port kind : Nat) (v : Word) (last : Bool) :
    Inv (s.streamPacket n port kind v last) ↔ Inv s := by
  simp [State.streamPacket]

@[simp] theorem inv_openRoute (s : State) (n q : Nat) : Inv (s.openRoute n q) ↔ Inv s := by
  simp [State.openRoute]

@[simp] theorem keeps_portCheck (q : Nat) : Keeps (portCheck q) := by
  unfold portCheck; exact byRules

@[simp] theorem keeps_portOpen (q : Nat) : Keeps (portOpen q) := by
  unfold portOpen; exact byRules

@[simp] theorem inv_portWord (s : State) (n q : Nat) (v : Word) (e : Bool) : Inv (s.portWord n q v e) ↔ Inv s := by
  simp [State.portWord]

@[simp] theorem inv_pumpPort {s : State} (hs : Inv s) (n q : Nat) : Inv (s.pumpPort n q) := by
  unfold State.pumpPort; exact byRules

@[simp] theorem inv_pumpPorts {s : State} (hs : Inv s) (n : Nat) : Inv (s.pumpPorts n) := by
  unfold State.pumpPorts; exact byRules

@[simp] theorem inv_land {s : State} (hs : Inv s) (n : Nat) (ws : Word) (i : Spec) (v : Word) : Inv (s.land n ws i v) := by
  simp [State.land, hs]

@[simp] theorem inv_setShared (s : State) (n r : Nat) (v : Word) (at' : Nat) : Inv (s.setShared n r v at') ↔ Inv s := by
  simp [State.setShared]

@[simp] theorem keeps_dstReady (x : Spec) : Keeps (dstReady x) := by
  unfold dstReady; exact byRules

@[simp] theorem keeps_dstGate (f : Form) (x : Spec) : Keeps (dstGate f x) := by
  unfold dstGate; exact byRules

@[simp] theorem keeps_loadReady (x : Spec) : Keeps (loadReady x) := by
  unfold loadReady; exact byRules

@[simp] theorem keeps_dst (f : Form) (x : Spec) (v : Word) (lat : Nat) : Keeps (dst f x v lat) := by
  unfold dst; exact byRules

@[simp] theorem keeps_setPred (p : BitVec 5) (v : Bool) (lat : Nat) : Keeps (setPred p v lat) := by
  unfold setPred; exact byRules

@[simp] theorem keeps_waitOperands (r : Raw) : Keeps (waitOperands r) := by
  unfold waitOperands; exact byRules

@[simp] theorem keeps_waitRes (q : Res) : Keeps (waitRes q) := by
  unfold waitRes; exact byRules

@[simp] theorem inv_takeCharge (s : State) (slot n : Nat) : Inv (s.takeCharge slot n) ↔ Inv s := by
  simp [State.takeCharge]

@[simp] theorem keeps_charge (n : Nat) : Keeps (charge n) := by
  unfold charge; exact byRules

@[simp] theorem keeps_nextPc (f : Form) : Keeps (nextPc f) := by
  simp [nextPc]

@[simp] theorem inv_issuedBy (s : State) (n : Nat) (pc : Word) (keep : Bool) : Inv (s.issuedBy n pc keep) ↔ Inv s := by
  simp [State.issuedBy]

@[simp] theorem inv_startRestore (s : State) (n part : Nat) : Inv (s.startRestore n part) ↔ Inv s := by
  simp [State.startRestore]

@[simp] theorem keeps_restoreContext {α : Type} (part : Nat) : Keeps (restoreContext part : M α) := by
  simp [restoreContext]

@[simp] theorem keeps_touchContext (r : Raw) : Keeps (touchContext r) := by
  unfold touchContext; exact byRules

@[simp] theorem keeps_waitTaken (xs : List Spec) : Keeps (waitTaken xs) := by
  induction xs with
  | nil => exact .pure ()
  | cons x xs ih => exact .bind (keeps_src _ _) fun _ => ih

@[simp] theorem keeps_falseWaits (r : Raw) : Keeps (falseWaits r) := by
  unfold falseWaits; exact byRules

@[simp] theorem keeps_prologue (i : Instr) (r : Raw) : Keeps (prologue i r) := by
  unfold prologue; exact byRules

@[simp] theorem inv_dropBadWalks (s : State) : Inv s.dropBadWalks ↔ Inv s := by
  simp [State.dropBadWalks]

@[simp] theorem inv_chargeOnce (s' s : State) (n : Nat) : Inv (s'.chargeOnce s n) ↔ Inv s' := by
  simp [State.chargeOnce]

@[simp] theorem inv_ends (s' s : State) (pc : Word) (keep : Bool) : Inv (s'.ends s pc keep) ↔ Inv s' := by
  simp [State.ends]

@[simp] theorem inv_notReady (s' s : State) (refill : Bool) : Inv (s'.notReady s refill) ↔ Inv s' := by
  simp [State.notReady]

@[simp] theorem inv_settle {s : State} (r : Raw) (pc : Word) (refill : Bool) {h : Halt} (hs : Inv s) (hh : HaltInv h) :
    Inv (s.settle r pc refill h) := by
  unfold State.settle
  cases h <;> simp only [haltInv_trapWith, haltInv_wait, haltInv_quit, haltInv_trap] at hh <;> exact byRules

@[simp] theorem keeps_skipped (r : Raw) : Keeps (skipped r) := by
  unfold skipped; exact byRules

theorem nextInv_issue (i : Instr) {body : M Unit} (hb : Keeps body) {s : State} (hs : Inv s) : NextInv (issue i body s) := by
  unfold issue
  split
  · simp
  · split
    · simp
    · rename_i r _ _
      have key : Keeps (do
          if ← prologue i r then
            body
            modify fun s => s.take s.cur r.taken
          else skipped r : M Unit) := by exact byRules
      have h := key.ends s hs
      dsimp only
      split
      · rename_i heq
        rw [heq] at h
        have h' : Inv _ := h
        simp [*]
      · rename_i heq
        rw [heq] at h
        have h' : HaltInv _ := h
        simp [*]

@[simp] theorem keeps_takeOps (i : Instr) : Keeps (takeOps i) := by
  simp [takeOps]

@[simp] theorem keeps_completed {α : Type} (f : Form) : Keeps (completed f : M α) := by
  unfold completed; exact byRules

@[simp] theorem keeps_jump (i : Instr) (target : Word) : Keeps (jump i target) := by
  unfold jump; exact byRules

/-! ## Accesses served at turns (Traverse) -/

@[simp] theorem keeps_addAccess (a : Access) : Keeps (addAccess a) := by
  unfold addAccess; exact byRules

@[simp] theorem inv_serveAct (p : Place) {s : State × Access} (hs : Inv s.1) (a : Act) : Inv (serveAct p s a).1 := by
  unfold serveAct; exact byRules

@[simp] theorem inv_clearCovered (s : State) (u : MemUnit) : Inv (s.clearCovered u) ↔ Inv s := by
  simp [State.clearCovered]

@[simp] theorem inv_deliver {s : State} (hs : Inv s) (n id : Nat) (ws : Word) (d : Spec) (v : Word) (e : Bool) (at' : Nat) :
    Inv (s.deliver n id ws d v e at') := by
  simp [State.deliver, hs]

@[simp] theorem keeps_lateDst (f : Form) (d : Spec) (v : Word) (c : Nat) : Keeps (lateDst f d v c) := by
  unfold lateDst; exact byRules

@[simp] theorem inv_unclaimNext (s : State) (n id : Nat) (d : Spec) : Inv (s.unclaimNext n id d) ↔ Inv s := by
  simp [State.unclaimNext]

@[simp] theorem inv_finishAccess {s : State} (hs : Inv s) (n : Nat) (a : Access) (at' : Nat) : Inv (s.finishAccess n a at') := by
  unfold State.finishAccess; exact byRules

@[simp] theorem inv_serveUnit {s : State} (hs : Inv s) (n id : Nat) (u : MemUnit) (at' : Nat) : Inv (s.serveUnit n id u at') := by
  unfold State.serveUnit
  split
  · exact hs
  · dsimp only
    generalize hx : List.foldl (serveAct u.place) _ u.acts = x
    have : Inv x.1 := hx ▸ inv_foldl_fst (fun _ _ h => inv_serveAct _ h ..) _ byRules
    obtain ⟨t, b⟩ := x
    exact byRules

@[simp] theorem inv_holdUnit (s : State) (n id : Nat) (u : MemUnit) : Inv (s.holdUnit n id u) ↔ Inv s := by
  simp [State.holdUnit]

/-! ## Leaving a slot (Depart) -/

@[simp] theorem keeps_destCheck (w : Word) (port : Bool) : Keeps (destCheck w port) := by
  unfold destCheck; exact byRules

@[simp] theorem keeps_reserveResp : Keeps reserveResp := by
  unfold reserveResp; exact byRules

@[simp] theorem keeps_reserveCredits (n : Nat) : Keeps (reserveCredits n) := by
  unfold reserveCredits; exact byRules

@[simp] theorem keeps_addOwed (o : Owed) : Keeps (addOwed o) := by
  unfold addOwed; exact byRules

@[simp] theorem keeps_sendPacket (p : Packet) : Keeps (sendPacket p) := by
  simp [sendPacket]

@[simp] theorem keeps_departGate : Keeps departGate := by
  unfold departGate; exact byRules

@[simp] theorem inv_releaseArray (s : State) (n : Nat) : Inv (s.releaseArray n) ↔ Inv s := by
  simp [State.releaseArray]

@[simp] theorem inv_freeFrames (s : State) (n : Nat) : Inv (s.freeFrames n) ↔ Inv s := by
  simp [State.freeFrames]

@[simp] theorem inv_freeSlot (s : State) (n : Nat) : Inv (s.freeSlot n) ↔ Inv s := by
  simp [State.freeSlot]

@[simp] theorem keeps_migrate {α : Type} (clu : Nat) (mc : Option Nat) (home : Word) : Keeps (Machine.migrate clu mc home : M α) := by
  unfold Machine.migrate; exact byRules

/-! ## Control flow, calls, semaphores (Control) -/

@[simp] theorem keeps_jumpReg (i : Instr) (a : Spec) (f : Form) (link : Option Spec) : Keeps (jumpReg i a f link) := by
  unfold jumpReg; exact byRules

@[simp] theorem keeps_semCount (n : BitVec 4) : Keeps (semCount n) := by
  simp [semCount]

@[simp] theorem keeps_setSem (n : BitVec 4) (v : Nat) : Keeps (setSem n v) := by
  simp [setSem]

@[simp] theorem nextInv_execNop (f : Form) {s : State} (hs : Inv s) : NextInv (execNop f s) :=
  nextInv_issue _ byRules hs

@[simp] theorem nextInv_execYield (f : Form) {s : State} (hs : Inv s) : NextInv (execYield f s) :=
  nextInv_issue _ byRules hs

@[simp] theorem nextInv_execRealign (f : Form) {s : State} (hs : Inv s) : NextInv (execRealign f s) :=
  nextInv_issue _ byRules hs

@[simp] theorem nextInv_execBr (g : BitVec 1) (p : BitVec 5) (o : BitVec 18) {s : State} (hs : Inv s) : NextInv (execBr g p o s) :=
  nextInv_issue _ byRules hs

@[simp] theorem nextInv_execCall (g : BitVec 1) (p : BitVec 5) (o : BitVec 18) {s : State} (hs : Inv s) :
    NextInv (execCall g p o s) :=
  nextInv_issue _ byRules hs

@[simp] theorem nextInv_execJmpr (a : Spec) (f : Form) {s : State} (hs : Inv s) : NextInv (execJmpr a f s) :=
  nextInv_issue _ byRules hs

@[simp] theorem nextInv_execCallg (d a : Spec) (f : Form) {s : State} (hs : Inv s) : NextInv (execCallg d a f s) :=
  nextInv_issue _ byRules hs

@[simp] theorem nextInv_execRet (a : Spec) (f : Form) {s : State} (hs : Inv s) : NextInv (execRet a f s) :=
  nextInv_issue _ byRules hs

@[simp] theorem nextInv_execCallrm (d a b : Spec) (f : Form) {s : State} (hs : Inv s) : NextInv (execCallrm d a b f s) :=
  nextInv_issue _ byRules hs

@[simp] theorem nextInv_execReply (a b : Spec) (f : Form) {s : State} (hs : Inv s) : NextInv (execReply a b f s) :=
  nextInv_issue _ byRules hs

@[simp] theorem nextInv_execWpset (a : Spec) (f : Form) {s : State} (hs : Inv s) : NextInv (execWpset a f s) :=
  nextInv_issue _ byRules hs

@[simp] theorem nextInv_execSemwait (n : BitVec 4) (f : Form) {s : State} (hs : Inv s) : NextInv (execSemwait n f s) :=
  nextInv_issue _ byRules hs

@[simp] theorem nextInv_execSempost (n : BitVec 4) (f : Form) {s : State} (hs : Inv s) : NextInv (execSempost n f s) :=
  nextInv_issue _ byRules hs

/-! ## Scalar memory, blocks, seals (Memory) -/

@[simp] theorem keeps_baseOf (f : Form) (a : Spec) (tail : Bool) : Keeps (baseOf f a tail) := by
  unfold baseOf; exact byRules

@[simp] theorem keeps_inBuffer (b : Option (Nat × Nat)) (ea : Word) (n : Nat) : Keeps (inBuffer b ea n) := by
  simp [inBuffer]

@[simp] theorem keeps_resolveWithin (k : Acc) (buf : Option (Nat × Nat)) (ea : Word) (n : Nat) :
    Keeps (resolveWithin k buf ea n) := by
  unfold resolveWithin; exact byRules

@[simp] theorem keeps_checkBanks (ps : List Place) (ea : Word) : Keeps (checkBanks ps ea) := by
  induction ps with
  | nil => exact .pure ()
  | cons p ps ih => exact .bind (keeps_checkBank p ea) fun _ => ih

@[simp] theorem keeps_checkPath (t : Target) (ea : Word) : Keeps (checkPath t ea) := by
  unfold checkPath; exact byRules

@[simp] theorem keeps_checkMig (t : Target) (ea : Word) : Keeps (checkMig t ea) := by
  unfold checkMig; exact byRules

@[simp] theorem keeps_loadDstCheck (d : Spec) : Keeps (loadDstCheck d) := by
  unfold loadDstCheck; exact byRules

@[simp] theorem keeps_claimNext (d : Spec) : Keeps (claimNext d) := by
  unfold claimNext; exact byRules

@[simp] theorem keeps_remotePlain (kind : Nat) (t : Target) (z op : Nat) (x c : Word) (o : Owed) :
    Keeps (remotePlain kind t z op x c o) := by
  unfold remotePlain; exact byRules

@[simp] theorem keeps_roomGate : Keeps roomGate := by
  unfold roomGate; exact byRules

@[simp] theorem keeps_scalarLoad (f : Form) (d : Spec) (ea : Word) (z : Nat) (sx : Bool) (buf : Option (Nat × Nat)) :
    Keeps (scalarLoad f d ea z sx buf) := by
  unfold scalarLoad; exact byRules

@[simp] theorem keeps_scalarStore (f : Form) (d : Spec) (ea : Word) (z : Nat) (buf : Option (Nat × Nat)) :
    Keeps (scalarStore f d ea z buf) := by
  unfold scalarStore; exact byRules

@[simp] theorem keeps_bankAtomic (f : Form) (d : Spec) (ea : Word) (z op : Nat) (x c : Word) :
    Keeps (bankAtomic f d ea z op x c) := by
  unfold bankAtomic; exact byRules

@[simp] theorem nextInv_execLd (d a : Spec) (w : BitVec 2) (o : BitVec 10) (f : Form) {s : State} (hs : Inv s) :
    NextInv (execLd d a w o f s) :=
  nextInv_issue _ byRules hs

@[simp] theorem nextInv_execLds (d a : Spec) (w : BitVec 2) (o : BitVec 10) (f : Form) {s : State} (hs : Inv s) :
    NextInv (execLds d a w o f s) :=
  nextInv_issue _ byRules hs

@[simp] theorem nextInv_execSt (d a : Spec) (w : BitVec 2) (o : BitVec 10) (f : Form) {s : State} (hs : Inv s) :
    NextInv (execSt d a w o f s) :=
  nextInv_issue _ byRules hs

@[simp] theorem nextInv_execLdx (d a b : Spec) (h : BitVec 2) (x : BitVec 1) (w : BitVec 2) (f : Form) {s : State} (hs : Inv s) :
    NextInv (execLdx d a b h x w f s) :=
  nextInv_issue _ byRules hs

@[simp] theorem nextInv_execStx (d a b : Spec) (h : BitVec 2) (w : BitVec 2) (f : Form) {s : State} (hs : Inv s) :
    NextInv (execStx d a b h w f s) :=
  nextInv_issue _ byRules hs

@[simp] theorem nextInv_execBat (d a b : Spec) (z : BitVec 1) (o : BitVec 4) (f : Form) {s : State} (hs : Inv s) :
    NextInv (execBat d a b z o f s) :=
  nextInv_issue _ byRules hs

@[simp] theorem nextInv_execBatCas (d a b : Spec) (z : BitVec 1) (f : Form) {s : State} (hs : Inv s) :
    NextInv (execBatCas d a b z f s) :=
  nextInv_issue _ byRules hs

@[simp] theorem keeps_stripePlace (stripe : Word) : Keeps (stripePlace stripe) := by
  unfold stripePlace; exact byRules

@[simp] theorem keeps_blockChecks (k : Acc) (stripe loc : Word) (buf : Option (Nat × Nat)) (m : Nat) :
    Keeps (blockChecks k stripe loc buf m) := by
  unfold blockChecks; exact byRules

@[simp] theorem nextInv_execBst (a b : Spec) (f : Form) {s : State} (hs : Inv s) : NextInv (execBst a b f s) :=
  nextInv_issue _ byRules hs

@[simp] theorem inv_startPass (s : State) (n start : Nat) : Inv (s.startPass n start) ↔ Inv s := by
  simp [State.startPass]

@[simp] theorem nextInv_execBld (a b : Spec) (f : Form) {s : State} (hs : Inv s) : NextInv (execBld a b f s) :=
  nextInv_issue _ byRules hs

@[simp] theorem nextInv_execWaitw (d a b : Spec) (c : BitVec 6) (f : Form) {s : State} (hs : Inv s) :
    NextInv (execWaitw d a b c f s) :=
  nextInv_issue _ byRules hs

@[simp] theorem keeps_sealLeaf (troot : Word) (va : Nat) : Keeps (sealLeaf troot va) := by
  unfold sealLeaf; exact byRules

@[simp] theorem inv_dropTlb (s : State) (hit : TlbEntry → Bool) : Inv (s.dropTlb hit) ↔ Inv s := by
  simp [State.dropTlb]

@[simp] theorem inv_dropCode (s : State) (root lo n : Nat) (frames : List Nat) : Inv (s.dropCode root lo n frames) ↔ Inv s := by
  simp [State.dropCode]

@[simp] theorem keeps_sealRange (a b : Spec) (f : Form) (on : Bool) : Keeps (sealRange a b f on) := by
  unfold sealRange; exact byRules

@[simp] theorem nextInv_execSeal (a b : Spec) (f : Form) {s : State} (hs : Inv s) : NextInv (execSeal a b f s) :=
  nextInv_issue _ byRules hs

@[simp] theorem nextInv_execUnseal (a b : Spec) (f : Form) {s : State} (hs : Inv s) : NextInv (execUnseal a b f s) :=
  nextInv_issue _ byRules hs

@[simp] theorem keeps_turnFrom (t : Target) (start : Nat) : Keeps (turnFrom t start) := by
  unfold turnFrom; exact byRules

@[simp] theorem nextInv_execTurnq (d a : Spec) (f : Form) {s : State} (hs : Inv s) : NextInv (execTurnq d a f s) :=
  nextInv_issue _ byRules hs

@[simp] theorem nextInv_execWturn (a : Spec) (f : Form) {s : State} (hs : Inv s) : NextInv (execWturn a f s) :=
  nextInv_issue _ byRules hs

/-! ## Fences, barriers, handlers (Order) -/

@[simp] theorem inv_tellMgmt (s : State) (code clu addr : Nat) (t : TrapRec) (core : Nat) :
    Inv (s.tellMgmt code clu addr t core) ↔ Inv s := by
  simp [State.tellMgmt]

@[simp] theorem inv_mgmtEvent (s : State) (code core addr : Nat) (t : TrapRec) : Inv (s.mgmtEvent code core addr t) ↔ Inv s := by
  simp [State.mgmtEvent]

@[simp] theorem inv_faultHandler {s : State} (hs : Inv s) (region : BitVec 28) (core esc : Nat) (t : TrapRec) :
    Inv (s.faultHandler region core esc t) := by
  unfold State.faultHandler; exact byRules

@[simp] theorem inv_setBarrier (s : State) (clu b : Nat) (x : Barrier) : Inv (s.setBarrier clu b x) ↔ Inv s := by
  simp [State.setBarrier]

@[simp] theorem inv_completeBar {s : State} (hs : Inv s) (clu b core : Nat) : Inv (s.completeBar clu b core) := by
  simp [State.completeBar, hs]

@[simp] theorem inv_completeTagged {s : State} (hs : Inv s) : Inv s.completeTagged := by
  unfold State.completeTagged; exact byRules

@[simp] theorem inv_applyTag (s : State) (clu tag size : Nat) (region : BitVec 28) :
    Inv (s.applyTag clu tag size region) ↔ Inv s := by
  simp [State.applyTag]

@[simp] theorem keeps_barOf (a : Spec) (f : Form) (own : Bool) : Keeps (barOf a f own) := by
  unfold barOf; exact byRules

@[simp] theorem keeps_barTrap {α : Type} (b : Nat) (x : Barrier) : Keeps (barTrap b x : M α) := by
  simp [barTrap]

@[simp] theorem inv_raceStore {s : State} (hs : Inv s) (clu : Nat) (p : Place) (n src : Nat) : Inv (s.raceStore clu p n src) := by
  unfold State.raceStore; exact byRules

@[simp] theorem nextInv_execFence (sc : BitVec 3) (k : BitVec 2) (e : BitVec 1) (f : Form) {s : State} (hs : Inv s) :
    NextInv (execFence sc k e f s) :=
  nextInv_issue _ byRules hs

@[simp] theorem nextInv_execBari (a b : Spec) (f : Form) {s : State} (hs : Inv s) : NextInv (execBari a b f s) :=
  nextInv_issue _ byRules hs

@[simp] theorem nextInv_execBara (d a b : Spec) (f : Form) {s : State} (hs : Inv s) : NextInv (execBara d a b f s) :=
  nextInv_issue _ byRules hs

@[simp] theorem nextInv_execBarw (a b : Spec) (f : Form) {s : State} (hs : Inv s) : NextInv (execBarw a b f s) :=
  nextInv_issue _ byRules hs

@[simp] theorem nextInv_execBart (d a : Spec) (f : Form) {s : State} (hs : Inv s) : NextInv (execBart d a f s) :=
  nextInv_issue _ byRules hs

/-! ## Packets and remote accesses (Network) -/

@[simp] theorem inv_putPacket (s : State) (p : Packet) : Inv (s.putPacket p) ↔ Inv s := by
  simp [State.putPacket]

@[simp] theorem inv_dropPacket (s : State) (pid : Nat) : Inv (s.dropPacket pid) ↔ Inv s := by
  simp [State.dropPacket]

@[simp] theorem inv_lose (s : State) (p : Packet) : Inv (s.lose p) ↔ Inv s := by
  simp [State.lose]

@[simp] theorem inv_wakeAhead {s : State} (hs : Inv s) (p : Packet) : Inv (s.wakeAhead p) := by
  unfold State.wakeAhead; exact byRules

@[simp] theorem inv_resend (s : State) (r dir : Nat) : Inv (s.resend r dir) ↔ Inv s := by
  simp [State.resend]

@[simp] theorem inv_strike {s : State} (hs : Inv s) (r dir : Nat) : Inv (s.strike r dir).1 := by
  unfold State.strike; exact byRules

@[simp] theorem inv_hop {s : State} (hs : Inv s) (p : Packet) (dir : Nat) : Inv (s.hop p dir) := by
  unfold State.hop; exact byRules

@[simp] theorem inv_enter {s : State} (hs : Inv s) (p : Packet) : Inv (s.enter p).1 := by
  unfold State.enter; exact byRules

@[simp] theorem inv_forward1 {s : State} (hs : Inv s) (p : Packet) : Inv (s.forward1 p) := by
  unfold State.forward1
  refine inv_ite hs ?_
  have he := inv_enter hs p
  generalize s.enter p = x at he ⊢
  obtain ⟨t, q⟩ := x
  have hw := inv_wakeAhead he q
  dsimp only
  generalize t.wakeAhead q = u at hw ⊢
  exact byRules

@[simp] theorem inv_forward {s : State} (hs : Inv s) (p : Packet) : Inv (s.forward p) := by
  unfold State.forward; exact byRules

@[simp] theorem nextInv_execPacketForward (pid : Nat) {s : State} (hs : Inv s) : NextInv (execPacketForward pid s) := by
  unfold execPacketForward; exact byRules

@[simp] theorem inv_fromFabric (s : State) (dev : Nat) (p : Packet) : Inv (s.fromFabric dev p) ↔ Inv s := by
  simp [State.fromFabric]

@[simp] theorem inv_answer (s : State) (p : Packet) (kind val : Nat) (ok : Bool) (trap : Option TrapRec) :
    Inv (s.answer p kind val ok trap) ↔ Inv s := by
  simp [State.answer]

@[simp] theorem inv_poisonSpan (s : State) (p : Place) (n : Nat) : Inv (s.poisonSpan p n) ↔ Inv s := by
  simp [State.poisonSpan]

@[simp] theorem inv_portStore {s : State} (hs : Inv s) (p : Packet) (at' : Place) (v n : Nat) (last : Bool) :
    Inv (s.portStore p at' v n last) := by
  simp [State.portStore, hs]

@[simp] theorem inv_answerPlan (s : State) (p : Packet) : Inv (s.answerPlan p) ↔ Inv s := by
  simp [State.answerPlan]

@[simp] theorem inv_planDecide {s : State} (hs : Inv s) (p : Packet) : Inv (s.planDecide p) := by
  -- `unfold` would leave a rewriting step over the whole body, too deep for the kernel: the definition is put in place of its name.
  generalize hf : State.planDecide = f
  delta State.planDecide at hf
  subst hf
  beta_reduce
  split
  · simp [*]
  · dsimp only
    split <;> simp [*]

@[simp] theorem inv_storeLine {s : State} (hs : Inv s) (ws : List (Nat × Nat)) : Inv (s.storeLine ws) := by
  unfold State.storeLine; exact byRules

@[simp] theorem inv_servePlan {s : State} (hs : Inv s) (p : Packet) : Inv (s.servePlan p) := by
  unfold State.servePlan; exact byRules

@[simp] theorem inv_serveRequest {s : State} (hs : Inv s) (p : Packet) : Inv (s.serveRequest p) := by
  unfold State.serveRequest; exact byRules

@[simp] theorem nextInv_execRemoteAccess (pid : Nat) {s : State} (hs : Inv s) : NextInv (execRemoteAccess pid s) := by
  unfold execRemoteAccess; exact byRules

@[simp] theorem nextInv_execMcastDelivery (pid : Nat) {s : State} (hs : Inv s) : NextInv (execMcastDelivery pid s) := by
  unfold execMcastDelivery; exact byRules

@[simp] theorem inv_modHead (s : State) (clu ch : Nat) (f : Transfer → Transfer) : Inv (s.modHead clu ch f) ↔ Inv s := by
  simp [State.modHead]

@[simp] theorem inv_dropOwed (s : State) (n id : Nat) : Inv (s.dropOwed n id) ↔ Inv s := by
  simp [State.dropOwed]

@[simp] theorem inv_giveBack (s : State) (n what : Nat) : Inv (s.giveBack n what) ↔ Inv s := by
  simp [State.giveBack]

@[simp] theorem inv_mcastAnswer (s : State) (n : Nat) (o : Owed) (got : Bool) (ms : List Nat) :
    Inv (s.mcastAnswer n o got ms) ↔ Inv s := by
  simp [State.mcastAnswer]

@[simp] theorem inv_respond {s : State} (hs : Inv s) (p : Packet) : Inv (s.respond p) := by
  unfold State.respond; exact byRules

@[simp] theorem nextInv_execResponseDelivery (pid : Nat) {s : State} (hs : Inv s) : NextInv (execResponseDelivery pid s) := by
  unfold execResponseDelivery; exact byRules

@[simp] theorem inv_mapEntries (s : State) (g : QEntry → QEntry) : Inv (s.mapEntries g) ↔ Inv s := by
  simp [State.mapEntries]

@[simp] theorem inv_abortPort (s : State) (sid : Nat) : Inv (s.abortPort sid) ↔ Inv s := by
  unfold State.abortPort; (repeat' split) <;> simp

@[simp] theorem inv_dropOpen (s : State) (sid : Nat) : Inv (s.dropOpen sid) ↔ Inv s := by
  simp [State.dropOpen]

@[simp] theorem inv_losePort (s : State) (p : Packet) : Inv (s.losePort p) ↔ Inv s := by
  simp [State.losePort]

@[simp] theorem inv_loseCall (s : State) (n : Nat) (tok : Word) (p : Bool) : Inv (s.loseCall n tok p) ↔ Inv s := by
  simp [State.loseCall]

@[simp] theorem inv_lossAt {s : State} (hs : Inv s) (p : Packet) : Inv (s.lossAt p) := by
  unfold State.lossAt; exact byRules

@[simp] theorem nextInv_execLossNotice (pid : Nat) {s : State} (hs : Inv s) : NextInv (execLossNotice pid s) := by
  unfold execLossNotice; exact byRules

@[simp] theorem nextInv_execStreamOpen (pid : Nat) {s : State} (hs : Inv s) : NextInv (execStreamOpen pid s) := by
  unfold execStreamOpen; exact byRules

@[simp] theorem inv_closeStream (s : State) (sid : Nat) : Inv (s.closeStream sid) ↔ Inv s := by
  unfold State.closeStream; (repeat' split) <;> simp

@[simp] theorem inv_wordDone (s : State) (p : Packet) : Inv (s.wordDone p) ↔ Inv s := by
  simp [State.wordDone]

@[simp] theorem inv_spillWord {s : State} (hs : Inv s) (k q : Nat) (v : Word) : Inv (s.spillWord k q v) := by
  unfold State.spillWord; exact byRules

@[simp] theorem nextInv_execStreamWord (pid : Nat) {s : State} (hs : Inv s) : NextInv (execStreamWord pid s) := by
  unfold execStreamWord; exact byRules

@[simp] theorem nextInv_execStreamEnd (pid : Nat) {s : State} (hs : Inv s) : NextInv (execStreamEnd pid s) := by
  unfold execStreamEnd; exact byRules

@[simp] theorem nextInv_execStreamAbort (pid : Nat) {s : State} (hs : Inv s) : NextInv (execStreamAbort pid s) := by
  unfold execStreamAbort; exact byRules

@[simp] theorem inv_giveUpOpen (s : State) (n q : Nat) : Inv (s.giveUpOpen n q) ↔ Inv s := by
  simp [State.giveUpOpen]

@[simp] theorem inv_giveUpOpens (s : State) (n : Nat) : Inv (s.giveUpOpens n) ↔ Inv s := by
  simp [State.giveUpOpens]

@[simp] theorem nextInv_execStreamTimeout (slot port : Nat) {s : State} (hs : Inv s) : NextInv (execStreamTimeout slot port s) := by
  unfold execStreamTimeout; exact byRules

@[simp] theorem nextInv_execGroupWatchdog (slot : Nat) {s : State} (hs : Inv s) : NextInv (execGroupWatchdog slot s) := by
  unfold execGroupWatchdog; exact byRules

@[simp] theorem nextInv_execLaneDrop (clu dir : Nat) {s : State} (hs : Inv s) : NextInv (execLaneDrop clu dir s) := by
  unfold execLaneDrop; exact byRules

@[simp] theorem nextInv_execRouterGate (clu : Nat) {s : State} (hs : Inv s) : NextInv (execRouterGate clu s) := by
  unfold execRouterGate; exact byRules

@[simp] theorem nextInv_execRouterWake (clu : Nat) {s : State} (hs : Inv s) : NextInv (execRouterWake clu s) := by
  unfold execRouterWake; exact byRules

@[simp] theorem keeps_remoteTarget (k : Acc) (ea : Word) (z : Nat) : Keeps (remoteTarget k ea z) := by
  unfold remoteTarget; exact byRules

@[simp] theorem keeps_remoteLocal (lcl : Word) : Keeps (remoteLocal lcl) := by
  unfold remoteLocal; exact byRules

@[simp] theorem keeps_remoteSend (kind : Nat) (t : Target) (z op : Nat) (x c : Nat) (tag : Nat) (held : Bool) (o : Owed) :
    Keeps (remoteSend kind t z op x c tag held o) := by
  unfold remoteSend; exact byRules

@[simp] theorem inv_sendHeld {s : State} (hs : Inv s) (n : Nat) : Inv (s.sendHeld n) := by
  unfold State.sendHeld; exact byRules

@[simp] theorem nextInv_execRld (d a : Spec) (f : Form) {s : State} (hs : Inv s) : NextInv (execRld d a f s) :=
  nextInv_issue _ byRules hs

@[simp] theorem nextInv_execRst (a b : Spec) (f : Form) {s : State} (hs : Inv s) : NextInv (execRst a b f s) :=
  nextInv_issue _ byRules hs

@[simp] theorem nextInv_execRldv (d a : Spec) (f : Form) {s : State} (hs : Inv s) : NextInv (execRldv d a f s) :=
  nextInv_issue _ byRules hs

@[simp] theorem nextInv_execRstv (a b : Spec) (f : Form) {s : State} (hs : Inv s) : NextInv (execRstv a b f s) :=
  nextInv_issue _ byRules hs

@[simp] theorem nextInv_execRat (d a b : Spec) (f : Form) {s : State} (hs : Inv s) : NextInv (execRat d a b f s) :=
  nextInv_issue _ byRules hs

@[simp] theorem nextInv_execPbind (d a : Spec) (f : Form) {s : State} (hs : Inv s) : NextInv (execPbind d a f s) :=
  nextInv_issue _ byRules hs

@[simp] theorem nextInv_execPclose (a : Spec) (f : Form) {s : State} (hs : Inv s) : NextInv (execPclose a f s) :=
  nextInv_issue _ byRules hs

@[simp] theorem nextInv_execPstat (d a : Spec) (f : Form) {s : State} (hs : Inv s) : NextInv (execPstat d a f s) :=
  nextInv_issue _ byRules hs

@[simp] theorem keeps_mcastGates (ms : List Nat) (off n : Nat) : Keeps (mcastGates ms off n) := by
  unfold mcastGates; exact byRules

@[simp] theorem nextInv_execMcast (d a b : Spec) (f : Form) {s : State} (hs : Inv s) : NextInv (execMcast d a b f s) :=
  nextInv_issue _ byRules hs

/-! ## Scalar operations (Scalar) -/

@[simp] theorem keeps_alu2 (f : Form) (d a b : Spec) (op : Word → Word → Word) (lat : Nat) : Keeps (alu2 f d a b op lat) := by
  unfold alu2; exact byRules

@[simp] theorem keeps_alu1 (f : Form) (d a : Spec) (op : Word → Word) : Keeps (alu1 f d a op) := by
  unfold alu1; exact byRules

@[simp] theorem keeps_divide (f : Form) (d a b : Spec) (op : Word → Word → Word) : Keeps (divide f d a b op) := by
  unfold divide; exact byRules

@[simp] theorem keeps_aluI (f : Form) (d a : Spec) (i : BitVec 12) (op : Word → Word → Word) : Keeps (aluI f d a i op) := by
  unfold aluI; exact byRules

@[simp] theorem keeps_compare (p : Spec) (c : Nat) (x y : Word) : Keeps (Machine.compare p c x y) := by
  simp [Machine.compare]

@[simp] theorem keeps_predOp (d a b : Spec) (op : Bool → Bool → Bool) : Keeps (predOp d a b op) := by
  unfold predOp; exact byRules

@[simp] theorem keeps_bitField (f : Form) (d b : Spec) : Keeps (bitField f d b) := by
  unfold bitField; exact byRules

@[simp] theorem keeps_leaOp (f : Form) (d a b : Spec) (sh : Nat) : Keeps (leaOp f d a b sh) := by
  unfold leaOp; exact byRules

@[simp] theorem keeps_selOp (f : Form) (d a b : Spec) (p : BitVec 5) (n : Bool) : Keeps (selOp f d a b p n) := by
  unfold selOp; exact byRules

@[simp] theorem nextInv_execAdd (d a b : Spec) (f : Form) {s : State} (hs : Inv s) : NextInv (execAdd d a b f s) :=
  nextInv_issue _ byRules hs

@[simp] theorem nextInv_execSub (d a b : Spec) (f : Form) {s : State} (hs : Inv s) : NextInv (execSub d a b f s) :=
  nextInv_issue _ byRules hs

@[simp] theorem nextInv_execAnd (d a b : Spec) (f : Form) {s : State} (hs : Inv s) : NextInv (execAnd d a b f s) :=
  nextInv_issue _ byRules hs

@[simp] theorem nextInv_execOr (d a b : Spec) (f : Form) {s : State} (hs : Inv s) : NextInv (execOr d a b f s) :=
  nextInv_issue _ byRules hs

@[simp] theorem nextInv_execXor (d a b : Spec) (f : Form) {s : State} (hs : Inv s) : NextInv (execXor d a b f s) :=
  nextInv_issue _ byRules hs

@[simp] theorem nextInv_execAndn (d a b : Spec) (f : Form) {s : State} (hs : Inv s) : NextInv (execAndn d a b f s) :=
  nextInv_issue _ byRules hs

@[simp] theorem nextInv_execShl (d a b : Spec) (f : Form) {s : State} (hs : Inv s) : NextInv (execShl d a b f s) :=
  nextInv_issue _ byRules hs

@[simp] theorem nextInv_execShr (d a b : Spec) (f : Form) {s : State} (hs : Inv s) : NextInv (execShr d a b f s) :=
  nextInv_issue _ byRules hs

@[simp] theorem nextInv_execSar (d a b : Spec) (f : Form) {s : State} (hs : Inv s) : NextInv (execSar d a b f s) :=
  nextInv_issue _ byRules hs

@[simp] theorem nextInv_execRol (d a b : Spec) (f : Form) {s : State} (hs : Inv s) : NextInv (execRol d a b f s) :=
  nextInv_issue _ byRules hs

@[simp] theorem nextInv_execMin (d a b : Spec) (f : Form) {s : State} (hs : Inv s) : NextInv (execMin d a b f s) :=
  nextInv_issue _ byRules hs

@[simp] theorem nextInv_execMax (d a b : Spec) (f : Form) {s : State} (hs : Inv s) : NextInv (execMax d a b f s) :=
  nextInv_issue _ byRules hs

@[simp] theorem nextInv_execMinn (d a b : Spec) (f : Form) {s : State} (hs : Inv s) : NextInv (execMinn d a b f s) :=
  nextInv_issue _ byRules hs

@[simp] theorem nextInv_execMaxn (d a b : Spec) (f : Form) {s : State} (hs : Inv s) : NextInv (execMaxn d a b f s) :=
  nextInv_issue _ byRules hs

@[simp] theorem nextInv_execMul (d a b : Spec) (f : Form) {s : State} (hs : Inv s) : NextInv (execMul d a b f s) :=
  nextInv_issue _ byRules hs

@[simp] theorem nextInv_execMulh (d a b : Spec) (f : Form) {s : State} (hs : Inv s) : NextInv (execMulh d a b f s) :=
  nextInv_issue _ byRules hs

@[simp] theorem nextInv_execMulhn (d a b : Spec) (f : Form) {s : State} (hs : Inv s) : NextInv (execMulhn d a b f s) :=
  nextInv_issue _ byRules hs

@[simp] theorem nextInv_execDiv (d a b : Spec) (f : Form) {s : State} (hs : Inv s) : NextInv (execDiv d a b f s) :=
  nextInv_issue _ byRules hs

@[simp] theorem nextInv_execDivn (d a b : Spec) (f : Form) {s : State} (hs : Inv s) : NextInv (execDivn d a b f s) :=
  nextInv_issue _ byRules hs

@[simp] theorem nextInv_execRem (d a b : Spec) (f : Form) {s : State} (hs : Inv s) : NextInv (execRem d a b f s) :=
  nextInv_issue _ byRules hs

@[simp] theorem nextInv_execRemn (d a b : Spec) (f : Form) {s : State} (hs : Inv s) : NextInv (execRemn d a b f s) :=
  nextInv_issue _ byRules hs

@[simp] theorem nextInv_execClz (d a : Spec) (f : Form) {s : State} (hs : Inv s) : NextInv (execClz d a f s) :=
  nextInv_issue _ byRules hs

@[simp] theorem nextInv_execPopc (d a : Spec) (f : Form) {s : State} (hs : Inv s) : NextInv (execPopc d a f s) :=
  nextInv_issue _ byRules hs

@[simp] theorem nextInv_execCtz (d a : Spec) (f : Form) {s : State} (hs : Inv s) : NextInv (execCtz d a f s) :=
  nextInv_issue _ byRules hs

@[simp] theorem nextInv_execAddi (d a : Spec) (i : BitVec 12) (f : Form) {s : State} (hs : Inv s) : NextInv (execAddi d a i f s) :=
  nextInv_issue _ byRules hs

@[simp] theorem nextInv_execAndi (d a : Spec) (i : BitVec 12) (f : Form) {s : State} (hs : Inv s) : NextInv (execAndi d a i f s) :=
  nextInv_issue _ byRules hs

@[simp] theorem nextInv_execOri (d a : Spec) (i : BitVec 12) (f : Form) {s : State} (hs : Inv s) : NextInv (execOri d a i f s) :=
  nextInv_issue _ byRules hs

@[simp] theorem nextInv_execXori (d a : Spec) (i : BitVec 12) (f : Form) {s : State} (hs : Inv s) : NextInv (execXori d a i f s) :=
  nextInv_issue _ byRules hs

@[simp] theorem nextInv_execShfi (d a : Spec) (o : BitVec 2) (n : BitVec 6) (f : Form) {s : State} (hs : Inv s) :
    NextInv (execShfi d a o n f s) :=
  nextInv_issue _ byRules hs

@[simp] theorem nextInv_execMovi (d : Spec) (i : BitVec 12) (f : Form) {s : State} (hs : Inv s) : NextInv (execMovi d i f s) :=
  nextInv_issue _ byRules hs

@[simp] theorem nextInv_execCmp (d a b : Spec) (c : BitVec 6) (f : Form) {s : State} (hs : Inv s) : NextInv (execCmp d a b c f s) :=
  nextInv_issue _ byRules hs

@[simp] theorem nextInv_execCmpi (d a : Spec) (c : BitVec 6) (i : BitVec 6) (f : Form) {s : State} (hs : Inv s) :
    NextInv (execCmpi d a c i f s) :=
  nextInv_issue _ byRules hs

@[simp] theorem nextInv_execPand (d a b : Spec) (f : Form) {s : State} (hs : Inv s) : NextInv (execPand d a b f s) :=
  nextInv_issue _ byRules hs

@[simp] theorem nextInv_execPor (d a b : Spec) (f : Form) {s : State} (hs : Inv s) : NextInv (execPor d a b f s) :=
  nextInv_issue _ byRules hs

@[simp] theorem nextInv_execPxor (d a b : Spec) (f : Form) {s : State} (hs : Inv s) : NextInv (execPxor d a b f s) :=
  nextInv_issue _ byRules hs

@[simp] theorem nextInv_execPandn (d a b : Spec) (f : Form) {s : State} (hs : Inv s) : NextInv (execPandn d a b f s) :=
  nextInv_issue _ byRules hs

@[simp] theorem nextInv_execPnot (d a : Spec) (f : Form) {s : State} (hs : Inv s) : NextInv (execPnot d a f s) :=
  nextInv_issue _ byRules hs

@[simp] theorem nextInv_execPset (d : Spec) (f : Form) {s : State} (hs : Inv s) : NextInv (execPset d f s) :=
  nextInv_issue _ byRules hs

@[simp] theorem nextInv_execPclr (d : Spec) (f : Form) {s : State} (hs : Inv s) : NextInv (execPclr d f s) :=
  nextInv_issue _ byRules hs

@[simp] theorem nextInv_execPmovr (d : Spec) (f : Form) {s : State} (hs : Inv s) : NextInv (execPmovr d f s) :=
  nextInv_issue _ byRules hs

@[simp] theorem nextInv_execPmovw (a : Spec) (f : Form) {s : State} (hs : Inv s) : NextInv (execPmovw a f s) :=
  nextInv_issue _ byRules hs

@[simp] theorem nextInv_execSel (d a b : Spec) (n : BitVec 1) (p : BitVec 5) (f : Form) {s : State} (hs : Inv s) :
    NextInv (execSel d a b n p f s) :=
  nextInv_issue _ byRules hs

@[simp] theorem nextInv_execLea (d a b : Spec) (sh : BitVec 2) (f : Form) {s : State} (hs : Inv s) : NextInv (execLea d a b sh f s) :=
  nextInv_issue _ byRules hs

@[simp] theorem nextInv_execBitf (d b : Spec) (f : Form) {s : State} (hs : Inv s) : NextInv (execBitf d b f s) :=
  nextInv_issue _ byRules hs

/-! ## The vector unit (Vector) -/

@[simp] theorem keeps_vecUnit : Keeps vecUnit := by
  unfold vecUnit; exact byRules

@[simp] theorem keeps_normaliser (used : Bool) : Keeps (normaliser used) := by
  unfold normaliser; exact byRules

@[simp] theorem keeps_vecDivider : Keeps vecDivider := by
  unfold vecDivider; exact byRules

@[simp] theorem keeps_setV (d : Spec) (v : BitVec 2048) (lat : Nat) : Keeps (setV d v lat) := by
  unfold setV; exact byRules

@[simp] theorem keeps_setMask (d : Spec) (v : Word) (lat : Nat) : Keeps (setMask d v lat) := by
  unfold setMask; exact byRules

@[simp] theorem keeps_raiseFlags (f : Form) (fl : Nat) (lat : Nat) : Keeps (raiseFlags f fl lat) := by
  unfold raiseFlags; exact byRules

@[simp] theorem keeps_floatLanes (f : Form) (d : Spec) (src dst : Nat) (ops : List (BitVec 2048)) (op : List Nat → Nat × Nat)
    (norm : Bool) (lat : Nat) :
    Keeps (floatLanes f d src dst ops op norm lat) := by
  unfold floatLanes; exact byRules

@[simp] theorem keeps_float2 (f : Form) (d a b : Spec) (op : Fmt → Nat → Nat → Nat → Nat × Nat) (lat : Nat) :
    Keeps (float2 f d a b op lat) := by
  unfold float2; exact byRules

@[simp] theorem keeps_float1 (f : Form) (d a : Spec) (op : Fmt → Nat → Nat → Nat × Nat) (norm : Bool) (lat : Nat) :
    Keeps (float1 f d a op norm lat) := by
  unfold float1; exact byRules

@[simp] theorem keeps_fma (f : Form) (d a b : Spec) (np nc : Bool) : Keeps (fma f d a b np nc) := by
  unfold fma; exact byRules

@[simp] theorem keeps_int2 (f : Form) (d a b : Spec) (op : Nat → Nat → Nat → Int) (lat : Nat) : Keeps (int2 f d a b op lat) := by
  unfold int2; exact byRules

@[simp] theorem keeps_mask2 (d a b : Spec) (op : Word → Word → Word) : Keeps (mask2 d a b op) := by
  unfold mask2; exact byRules

@[simp] theorem keeps_floatRed (f : Form) (d a : Spec) (ident : Fmt → Nat) (op : Fmt → Nat → Nat → Nat × Nat) :
    Keeps (floatRed f d a ident op) := by
  unfold floatRed; exact byRules

@[simp] theorem keeps_intRed (f : Form) (d a : Spec) (ident : Nat → Int) (op : Int → Int → Int) : Keeps (intRed f d a ident op) := by
  unfold intRed; exact byRules

@[simp] theorem keeps_bitRed (f : Form) (d a : Spec) (ident : Nat → Nat) (op : Nat → Nat → Nat) : Keeps (bitRed f d a ident op) := by
  unfold bitRed; exact byRules

@[simp] theorem keeps_laneOp (f : Form) (d : Spec) (op : Slot → Nat → Nat) (lat : Nat) : Keeps (laneOp f d op lat) := by
  unfold laneOp; exact byRules

@[simp] theorem keeps_allOk {α : Type} (rs : List (Except TrapRec α)) : Keeps (allOk rs : M (List α)) := by
  unfold allOk; exact byRules

@[simp] theorem keeps_onView (va : Word) : Keeps (onView va) := by
  unfold onView; exact byRules

@[simp] theorem keeps_laneTarget (k : Acc) (ty e z : Nat) (buf : Option (Nat × Nat)) (dram : Bool) (va : Word) :
    Keeps (laneTarget k ty e z buf dram va) := by
  unfold laneTarget; exact byRules

@[simp] theorem keeps_laneAddr (z : Nat) (at' : Nat → Word) : Keeps (laneAddr z at') := by
  unfold laneAddr; exact byRules

@[simp] theorem keeps_vecTargets (f : Form) (k : Acc) (ty z : Nat) (buf : Option (Nat × Nat)) (dram : Bool) (at' : Nat → Nat → Word) :
    Keeps (vecTargets f k ty z buf dram at') := by
  unfold vecTargets; exact byRules

@[simp] theorem keeps_vecWatch (ts : List (Nat × Word × Target)) (kind z : Nat) : Keeps (vecWatch ts kind z) := by
  unfold vecWatch; exact byRules

@[simp] theorem keeps_vecGate (ts : List (Nat × Word × Target)) (z : Nat) (st : Bool) : Keeps (vecGate ts z st) := by
  unfold vecGate; exact byRules

@[simp] theorem keeps_vecLoad (f : Form) (d : Spec) (buf : Option (Nat × Nat)) (at' : Nat → Nat → Word) :
    Keeps (vecLoad f d buf at') := by
  unfold vecLoad; exact byRules

@[simp] theorem keeps_vecStore (f : Form) (d : Spec) (buf : Option (Nat × Nat)) (at' : Nat → Nat → Word) :
    Keeps (vecStore f d buf at') := by
  unfold vecStore; exact byRules

@[simp] theorem keeps_laneAt (f : Form) (a : Spec) (o : BitVec 12) (tail : Bool) : Keeps (laneAt f a o tail) := by
  unfold laneAt; exact byRules

@[simp] theorem keeps_laneIdx (f : Form) (a b : Spec) (tail : Bool) : Keeps (laneIdx f a b tail) := by
  unfold laneIdx; exact byRules

@[simp] theorem nextInv_execVld (d : Spec) (a : Spec) (i : BitVec 12) (f : Form) {s : State} (hs : Inv s) :
    NextInv (execVld d a i f s) :=
  nextInv_issue _ byRules hs

@[simp] theorem nextInv_execVst (d : Spec) (a : Spec) (i : BitVec 12) (f : Form) {s : State} (hs : Inv s) :
    NextInv (execVst d a i f s) :=
  nextInv_issue _ byRules hs

@[simp] theorem nextInv_execVldx (d : Spec) (a : Spec) (b : Spec) (f : Form) {s : State} (hs : Inv s) :
    NextInv (execVldx d a b f s) :=
  nextInv_issue _ byRules hs

@[simp] theorem nextInv_execVstx (d : Spec) (a : Spec) (b : Spec) (f : Form) {s : State} (hs : Inv s) :
    NextInv (execVstx d a b f s) :=
  nextInv_issue _ byRules hs

@[simp] theorem nextInv_execVadd (d : Spec) (a : Spec) (b : Spec) (f : Form) {s : State} (hs : Inv s) :
    NextInv (execVadd d a b f s) :=
  nextInv_issue _ byRules hs

@[simp] theorem nextInv_execVsub (d : Spec) (a : Spec) (b : Spec) (f : Form) {s : State} (hs : Inv s) :
    NextInv (execVsub d a b f s) :=
  nextInv_issue _ byRules hs

@[simp] theorem nextInv_execVmul (d : Spec) (a : Spec) (b : Spec) (f : Form) {s : State} (hs : Inv s) :
    NextInv (execVmul d a b f s) :=
  nextInv_issue _ byRules hs

@[simp] theorem nextInv_execVdiv (d : Spec) (a : Spec) (b : Spec) (f : Form) {s : State} (hs : Inv s) :
    NextInv (execVdiv d a b f s) :=
  nextInv_issue _ byRules hs

@[simp] theorem nextInv_execVmin (d : Spec) (a : Spec) (b : Spec) (f : Form) {s : State} (hs : Inv s) :
    NextInv (execVmin d a b f s) :=
  nextInv_issue _ byRules hs

@[simp] theorem nextInv_execVmax (d : Spec) (a : Spec) (b : Spec) (f : Form) {s : State} (hs : Inv s) :
    NextInv (execVmax d a b f s) :=
  nextInv_issue _ byRules hs

@[simp] theorem nextInv_execVsqrt (d : Spec) (a : Spec) (f : Form) {s : State} (hs : Inv s) : NextInv (execVsqrt d a f s) :=
  nextInv_issue _ byRules hs

@[simp] theorem nextInv_execVrcp (d : Spec) (a : Spec) (f : Form) {s : State} (hs : Inv s) : NextInv (execVrcp d a f s) :=
  nextInv_issue _ byRules hs

@[simp] theorem nextInv_execVrsq (d : Spec) (a : Spec) (f : Form) {s : State} (hs : Inv s) : NextInv (execVrsq d a f s) :=
  nextInv_issue _ byRules hs

@[simp] theorem nextInv_execVexp2 (d : Spec) (a : Spec) (f : Form) {s : State} (hs : Inv s) : NextInv (execVexp2 d a f s) :=
  nextInv_issue _ byRules hs

@[simp] theorem nextInv_execVlog2 (d : Spec) (a : Spec) (f : Form) {s : State} (hs : Inv s) : NextInv (execVlog2 d a f s) :=
  nextInv_issue _ byRules hs

@[simp] theorem nextInv_execVabs (d : Spec) (a : Spec) (f : Form) {s : State} (hs : Inv s) : NextInv (execVabs d a f s) :=
  nextInv_issue _ byRules hs

@[simp] theorem nextInv_execVneg (d : Spec) (a : Spec) (f : Form) {s : State} (hs : Inv s) : NextInv (execVneg d a f s) :=
  nextInv_issue _ byRules hs

@[simp] theorem nextInv_execVrint (d : Spec) (a : Spec) (f : Form) {s : State} (hs : Inv s) : NextInv (execVrint d a f s) :=
  nextInv_issue _ byRules hs

@[simp] theorem nextInv_execVfma (d : Spec) (a : Spec) (b : Spec) (f : Form) {s : State} (hs : Inv s) :
    NextInv (execVfma d a b f s) :=
  nextInv_issue _ byRules hs

@[simp] theorem nextInv_execVfms (d : Spec) (a : Spec) (b : Spec) (f : Form) {s : State} (hs : Inv s) :
    NextInv (execVfms d a b f s) :=
  nextInv_issue _ byRules hs

@[simp] theorem nextInv_execVfnma (d : Spec) (a : Spec) (b : Spec) (f : Form) {s : State} (hs : Inv s) :
    NextInv (execVfnma d a b f s) :=
  nextInv_issue _ byRules hs

@[simp] theorem nextInv_execViadd (d : Spec) (a : Spec) (b : Spec) (f : Form) {s : State} (hs : Inv s) :
    NextInv (execViadd d a b f s) :=
  nextInv_issue _ byRules hs

@[simp] theorem nextInv_execVisub (d : Spec) (a : Spec) (b : Spec) (f : Form) {s : State} (hs : Inv s) :
    NextInv (execVisub d a b f s) :=
  nextInv_issue _ byRules hs

@[simp] theorem nextInv_execVimul (d : Spec) (a : Spec) (b : Spec) (f : Form) {s : State} (hs : Inv s) :
    NextInv (execVimul d a b f s) :=
  nextInv_issue _ byRules hs

@[simp] theorem nextInv_execVimulh (d : Spec) (a : Spec) (b : Spec) (f : Form) {s : State} (hs : Inv s) :
    NextInv (execVimulh d a b f s) :=
  nextInv_issue _ byRules hs

@[simp] theorem nextInv_execVimulhn (d : Spec) (a : Spec) (b : Spec) (f : Form) {s : State} (hs : Inv s) :
    NextInv (execVimulhn d a b f s) :=
  nextInv_issue _ byRules hs

@[simp] theorem nextInv_execVand (d : Spec) (a : Spec) (b : Spec) (f : Form) {s : State} (hs : Inv s) :
    NextInv (execVand d a b f s) :=
  nextInv_issue _ byRules hs

@[simp] theorem nextInv_execVor (d : Spec) (a : Spec) (b : Spec) (f : Form) {s : State} (hs : Inv s) : NextInv (execVor d a b f s) :=
  nextInv_issue _ byRules hs

@[simp] theorem nextInv_execVxor (d : Spec) (a : Spec) (b : Spec) (f : Form) {s : State} (hs : Inv s) :
    NextInv (execVxor d a b f s) :=
  nextInv_issue _ byRules hs

@[simp] theorem nextInv_execVshl (d : Spec) (a : Spec) (b : Spec) (f : Form) {s : State} (hs : Inv s) :
    NextInv (execVshl d a b f s) :=
  nextInv_issue _ byRules hs

@[simp] theorem nextInv_execVshr (d : Spec) (a : Spec) (b : Spec) (f : Form) {s : State} (hs : Inv s) :
    NextInv (execVshr d a b f s) :=
  nextInv_issue _ byRules hs

@[simp] theorem nextInv_execVsar (d : Spec) (a : Spec) (b : Spec) (f : Form) {s : State} (hs : Inv s) :
    NextInv (execVsar d a b f s) :=
  nextInv_issue _ byRules hs

@[simp] theorem nextInv_execVimin (d : Spec) (a : Spec) (b : Spec) (f : Form) {s : State} (hs : Inv s) :
    NextInv (execVimin d a b f s) :=
  nextInv_issue _ byRules hs

@[simp] theorem nextInv_execVimax (d : Spec) (a : Spec) (b : Spec) (f : Form) {s : State} (hs : Inv s) :
    NextInv (execVimax d a b f s) :=
  nextInv_issue _ byRules hs

@[simp] theorem nextInv_execViminn (d : Spec) (a : Spec) (b : Spec) (f : Form) {s : State} (hs : Inv s) :
    NextInv (execViminn d a b f s) :=
  nextInv_issue _ byRules hs

@[simp] theorem nextInv_execVimaxn (d : Spec) (a : Spec) (b : Spec) (f : Form) {s : State} (hs : Inv s) :
    NextInv (execVimaxn d a b f s) :=
  nextInv_issue _ byRules hs

@[simp] theorem nextInv_execVcvt (d : Spec) (a : Spec) (sr : BitVec 4) (t : BitVec 4) (f : Form) {s : State} (hs : Inv s) :
    NextInv (execVcvt d a sr t f s) :=
  nextInv_issue _ byRules hs

@[simp] theorem nextInv_execVcmp (d : Spec) (a : Spec) (b : Spec) (c : BitVec 6) (f : Form) {s : State} (hs : Inv s) :
    NextInv (execVcmp d a b c f s) :=
  nextInv_issue _ byRules hs

@[simp] theorem nextInv_execKand (d : Spec) (a : Spec) (b : Spec) (f : Form) {s : State} (hs : Inv s) :
    NextInv (execKand d a b f s) :=
  nextInv_issue _ byRules hs

@[simp] theorem nextInv_execKor (d : Spec) (a : Spec) (b : Spec) (f : Form) {s : State} (hs : Inv s) : NextInv (execKor d a b f s) :=
  nextInv_issue _ byRules hs

@[simp] theorem nextInv_execKxor (d : Spec) (a : Spec) (b : Spec) (f : Form) {s : State} (hs : Inv s) :
    NextInv (execKxor d a b f s) :=
  nextInv_issue _ byRules hs

@[simp] theorem nextInv_execKnot (d : Spec) (a : Spec) (f : Form) {s : State} (hs : Inv s) : NextInv (execKnot d a f s) :=
  nextInv_issue _ byRules hs

@[simp] theorem nextInv_execKpop (d : Spec) (a : Spec) (f : Form) {s : State} (hs : Inv s) : NextInv (execKpop d a f s) :=
  nextInv_issue _ byRules hs

@[simp] theorem nextInv_execKmovw (d : Spec) (a : Spec) (f : Form) {s : State} (hs : Inv s) : NextInv (execKmovw d a f s) :=
  nextInv_issue _ byRules hs

@[simp] theorem nextInv_execKmovk (d : Spec) (a : Spec) (f : Form) {s : State} (hs : Inv s) : NextInv (execKmovk d a f s) :=
  nextInv_issue _ byRules hs

@[simp] theorem nextInv_execVsel (d : Spec) (a : Spec) (b : Spec) (f : Form) {s : State} (hs : Inv s) :
    NextInv (execVsel d a b f s) :=
  nextInv_issue _ byRules hs

@[simp] theorem nextInv_execVradd (d : Spec) (a : Spec) (f : Form) {s : State} (hs : Inv s) : NextInv (execVradd d a f s) :=
  nextInv_issue _ byRules hs

@[simp] theorem nextInv_execVrmax (d : Spec) (a : Spec) (f : Form) {s : State} (hs : Inv s) : NextInv (execVrmax d a f s) :=
  nextInv_issue _ byRules hs

@[simp] theorem nextInv_execVrmin (d : Spec) (a : Spec) (f : Form) {s : State} (hs : Inv s) : NextInv (execVrmin d a f s) :=
  nextInv_issue _ byRules hs

@[simp] theorem nextInv_execVriadd (d : Spec) (a : Spec) (f : Form) {s : State} (hs : Inv s) : NextInv (execVriadd d a f s) :=
  nextInv_issue _ byRules hs

@[simp] theorem nextInv_execVrand (d : Spec) (a : Spec) (f : Form) {s : State} (hs : Inv s) : NextInv (execVrand d a f s) :=
  nextInv_issue _ byRules hs

@[simp] theorem nextInv_execVror (d : Spec) (a : Spec) (f : Form) {s : State} (hs : Inv s) : NextInv (execVror d a f s) :=
  nextInv_issue _ byRules hs

@[simp] theorem nextInv_execVrimax (d : Spec) (a : Spec) (f : Form) {s : State} (hs : Inv s) : NextInv (execVrimax d a f s) :=
  nextInv_issue _ byRules hs

@[simp] theorem nextInv_execVrimin (d : Spec) (a : Spec) (f : Form) {s : State} (hs : Inv s) : NextInv (execVrimin d a f s) :=
  nextInv_issue _ byRules hs

@[simp] theorem nextInv_execVbcast (d : Spec) (a : Spec) (f : Form) {s : State} (hs : Inv s) : NextInv (execVbcast d a f s) :=
  nextInv_issue _ byRules hs

@[simp] theorem nextInv_execVperm (d : Spec) (a : Spec) (b : Spec) (f : Form) {s : State} (hs : Inv s) :
    NextInv (execVperm d a b f s) :=
  nextInv_issue _ byRules hs

@[simp] theorem nextInv_execVrot (d : Spec) (a : Spec) (b : Spec) (f : Form) {s : State} (hs : Inv s) :
    NextInv (execVrot d a b f s) :=
  nextInv_issue _ byRules hs

@[simp] theorem nextInv_execVgetl (d : Spec) (a : Spec) (b : Spec) (f : Form) {s : State} (hs : Inv s) :
    NextInv (execVgetl d a b f s) :=
  nextInv_issue _ byRules hs

@[simp] theorem nextInv_execVsetl (d : Spec) (a : Spec) (b : Spec) (f : Form) {s : State} (hs : Inv s) :
    NextInv (execVsetl d a b f s) :=
  nextInv_issue _ byRules hs

@[simp] theorem nextInv_execViota (d : Spec) (a : Spec) (f : Form) {s : State} (hs : Inv s) : NextInv (execViota d a f s) :=
  nextInv_issue _ byRules hs

@[simp] theorem nextInv_execVflgr (d : Spec) (f : Form) {s : State} (hs : Inv s) : NextInv (execVflgr d f s) :=
  nextInv_issue _ byRules hs

@[simp] theorem nextInv_execVflgc (f : Form) {s : State} (hs : Inv s) : NextInv (execVflgc f s) :=
  nextInv_issue _ byRules hs

@[simp] theorem nextInv_execVatom (d : Spec) (a : Spec) (b : Spec) (o : BitVec 1) (p : BitVec 3) (f : Form) {s : State} (hs : Inv s) :
    NextInv (execVatom d a b o p f s) :=
  nextInv_issue _ byRules hs

/-! ## The matrix unit (Tile) -/

@[simp] theorem keeps_waitTileR (t : Spec) : Keeps (waitTileR t) := by
  unfold waitTileR; exact byRules

@[simp] theorem keeps_waitTileW (t : Spec) : Keeps (waitTileW t) := by
  unfold waitTileW; exact byRules

@[simp] theorem keeps_placeGate : Keeps placeGate := by
  unfold placeGate; exact byRules

@[simp] theorem keeps_acceptUnit (u : UnitCmd) (weight : Nat) : Keeps (acceptUnit u weight) := by
  unfold acceptUnit; exact byRules

@[simp] theorem keeps_enterJob (reads writes : List (Nat × Nat)) (kv : Bool) : Keeps (enterJob reads writes kv) := by
  unfold enterJob; exact byRules

@[simp] theorem keeps_tileView (base : Word) : Keeps (tileView base) := by
  simp [tileView]

@[simp] theorem keeps_tileTargets (k : Acc) (ty me : Nat) (buf : Option (Nat × Nat)) (as : List (Nat × Word)) :
    Keeps (tileTargets k ty me buf as) := by
  unfold tileTargets; exact byRules

@[simp] theorem keeps_tileLoad (d : Spec) (z g t : Bool) (rm : Nat) (base : Word) (buf : Option (Nat × Nat)) (stride ext : Word)
    (post : Option Nat) :
    Keeps (tileLoad d z g t rm base buf stride ext post) := by
  unfold tileLoad; exact byRules

@[simp] theorem keeps_tileStore (d : Spec) (base : Word) (buf : Option (Nat × Nat)) (stride : Word) (post : Option Nat) :
    Keeps (tileStore d base buf stride post) := by
  unfold tileStore; exact byRules

@[simp] theorem keeps_tileMma (d a b : Spec) (clr : Bool) (kind : Nat) (q : Bool) (post : Option Nat) (net : Bool) :
    Keeps (tileMma d a b clr kind q post net) := by
  unfold tileMma; exact byRules

@[simp] theorem keeps_tileZero (d : Spec) (post : Option Nat) (net : Bool) : Keeps (tileZero d post net) := by
  unfold tileZero; exact byRules

@[simp] theorem keeps_tileArith (op : Nat) (d a b : Spec) (v : Word) (rm : Nat) (q : Bool) (post : Option Nat) (net : Bool) :
    Keeps (tileArith op d a b v rm q post net) := by
  unfold tileArith; exact byRules

@[simp] theorem keeps_tileMask (d : Spec) (va p : Word) (post : Option Nat) (net : Bool) : Keeps (tileMask d va p post net) := by
  unfold tileMask; exact byRules

@[simp] theorem keeps_tileOffset (b : Word) : Keeps (tileOffset b) := by
  unfold tileOffset; exact byRules

@[simp] theorem nextInv_execTld (d a b : Spec) (z g t : BitVec 1) (f : Form) {s : State} (hs : Inv s) :
    NextInv (execTld d a b z g t f s) :=
  nextInv_issue _ byRules hs

@[simp] theorem nextInv_execTst (d a b : Spec) (f : Form) {s : State} (hs : Inv s) : NextInv (execTst d a b f s) :=
  nextInv_issue _ byRules hs

@[simp] theorem nextInv_execTmma (d a b : Spec) (c : BitVec 1) (t : BitVec 2) (f : Form) {s : State} (hs : Inv s) :
    NextInv (execTmma d a b c t f s) :=
  nextInv_issue _ byRules hs

@[simp] theorem nextInv_execTzero (d : Spec) (f : Form) {s : State} (hs : Inv s) : NextInv (execTzero d f s) :=
  nextInv_issue _ byRules hs

@[simp] theorem nextInv_execTscale (d a b : Spec) (f : Form) {s : State} (hs : Inv s) : NextInv (execTscale d a b f s) :=
  nextInv_issue _ byRules hs

@[simp] theorem nextInv_execTadd (d a b : Spec) (f : Form) {s : State} (hs : Inv s) : NextInv (execTadd d a b f s) :=
  nextInv_issue _ byRules hs

@[simp] theorem nextInv_execTgetr (d a b : Spec) (f : Form) {s : State} (hs : Inv s) : NextInv (execTgetr d a b f s) :=
  nextInv_issue _ byRules hs

@[simp] theorem nextInv_execTputr (d a b : Spec) (f : Form) {s : State} (hs : Inv s) : NextInv (execTputr d a b f s) :=
  nextInv_issue _ byRules hs

@[simp] theorem nextInv_execTmask (d a b : Spec) (f : Form) {s : State} (hs : Inv s) : NextInv (execTmask d a b f s) :=
  nextInv_issue _ byRules hs

@[simp] theorem nextInv_execTwait (f : Form) {s : State} (hs : Inv s) : NextInv (execTwait f s) :=
  nextInv_issue _ byRules hs

/-! ## Copy channels, DRAM, unit commands, KVCOMMIT (Engine) -/

@[simp] theorem keeps_spanPlace (e : Eff) (k : Acc) (p : Word × Nat) : Keeps (spanPlace e k p) := by
  unfold spanPlace; exact byRules

@[simp] theorem keeps_spanPlaces (e : Eff) (k : Acc) (ps : List (Word × Nat)) : Keeps (spanPlaces e k ps) := by
  unfold spanPlaces; exact byRules

@[simp] theorem keeps_locate (e : Eff) (va : Nat) : Keeps (locate e va) := by
  unfold locate; exact byRules

@[simp] theorem keeps_ownPages (e : Eff) (lo n : Nat) : Keeps (ownPages e lo n) := by
  unfold ownPages; exact byRules

@[simp] theorem keeps_chanOf (ch : Nat) : Keeps (chanOf ch) := by
  simp [chanOf]

@[simp] theorem keeps_launch (ch : Nat) (t : Transfer) : Keeps (Machine.launch ch t) := by
  unfold Machine.launch; exact byRules

@[simp] theorem nextInv_execCpLaunch (d : Spec) (f : Form) {s : State} (hs : Inv s) : NextInv (execCpLaunch d f s) :=
  nextInv_issue _ byRules hs

@[simp] theorem nextInv_execCpfwd (d a b : Spec) (f : Form) {s : State} (hs : Inv s) : NextInv (execCpfwd d a b f s) :=
  nextInv_issue _ byRules hs

@[simp] theorem nextInv_execCpwait (d a b : Spec) (f : Form) {s : State} (hs : Inv s) : NextInv (execCpwait d a b f s) :=
  nextInv_issue _ byRules hs

@[simp] theorem inv_reportEntry {s : State} (hs : Inv s) (clu : Nat) (q : QEntry) (r : TrapRec) : Inv (s.reportEntry clu q r) := by
  unfold State.reportEntry; exact byRules

@[simp] theorem inv_engineReport {s : State} (hs : Inv s) (t : Transfer) (r : TrapRec) : Inv (s.engineReport t r) := by
  unfold State.engineReport; exact byRules

@[simp] theorem inv_endTransfer (s : State) (clu ch : Nat) (t : Transfer) (stopped : Bool) :
    Inv (s.endTransfer clu ch t stopped) ↔ Inv s := by
  simp [State.endTransfer]

@[simp] theorem inv_dropKv (s : State) (n : Nat) : Inv (s.dropKv n) ↔ Inv s := by
  simp [State.dropKv]

@[simp] theorem inv_kvTrap {s : State} (hs : Inv s) (t : Transfer) (r : TrapRec) : Inv (s.kvTrap t r) := by
  simp [State.kvTrap, hs]

@[simp] theorem inv_kvYield {s : State} (hs : Inv s) (n : Nat) : Inv (s.kvYield n) := by
  unfold State.kvYield; exact byRules

@[simp] theorem inv_stopTransfer {s : State} (hs : Inv s) (clu ch cause : Nat) : Inv (s.stopTransfer clu ch cause) := by
  unfold State.stopTransfer; exact byRules

@[simp] theorem nextInv_execCopyStop (clu ch cause : Nat) {s : State} (hs : Inv s) : NextInv (execCopyStop clu ch cause s) := by
  unfold execCopyStop; exact byRules

@[simp] theorem nextInv_execCopyTransferStart (clu ch : Nat) {s : State} (hs : Inv s) : NextInv (execCopyTransferStart clu ch s) := by
  unfold execCopyTransferStart; exact byRules

@[simp] theorem inv_chanPacket (s : State) (clu ch kind : Nat) (t : Transfer) (p : Place) (n v tag pos : Nat) (ok : Bool) :
    Inv (s.chanPacket clu ch kind t p n v tag pos ok) ↔ Inv s := by
  simp [State.chanPacket]

@[simp] theorem inv_poisonReport {s : State} (hs : Inv s) (t : Transfer) (p : Place) : Inv (s.poisonReport t p) := by
  simp [State.poisonReport, hs]

@[simp] theorem inv_putPart {s : State} (hs : Inv s) (clu ch : Nat) (t : Transfer) (p : Part) : Inv (s.putPart clu ch t p) := by
  simp [State.putPart, hs]

@[simp] theorem inv_stamped (s : State) (clu ch : Nat) : Inv (s.stamped clu ch) ↔ Inv s := by
  unfold State.stamped; (repeat' split) <;> simp

@[simp] theorem inv_putStamp {s : State} (hs : Inv s) (clu ch : Nat) (t : Transfer) (p : Place) : Inv (s.putStamp clu ch t p) := by
  simp [State.putStamp, hs]

@[simp] theorem inv_copyAct {s : State} (hs : Inv s) (clu ch lat : Nat) (d : Todo) : Inv (s.copyAct clu ch lat d) := by
  unfold State.copyAct; exact byRules

@[simp] theorem inv_askDram (s : State) (clu ch : Nat) (p : Place) : Inv (s.askDram clu ch p) ↔ Inv s := by
  simp [State.askDram]

@[simp] theorem inv_holdLine (s : State) (clu : Nat) (p : Place) : Inv (s.holdLine clu p) ↔ Inv s := by
  simp [State.holdLine]

@[simp] theorem inv_copyStep {s : State} (hs : Inv s) (clu n : Nat) : Inv (s.copyStep clu n) := by
  unfold State.copyStep; exact byRules

@[simp] theorem nextInv_execCopyLine (clu ch : Nat) {s : State} (hs : Inv s) : NextInv (execCopyLine clu ch s) := by
  unfold execCopyLine; exact byRules

@[simp] theorem nextInv_execChainHop (clu ch : Nat) {s : State} (hs : Inv s) : NextInv (execChainHop clu ch s) := by
  unfold execChainHop; exact byRules

@[simp] theorem nextInv_execCopyStamp (clu ch : Nat) {s : State} (hs : Inv s) : NextInv (execCopyStamp clu ch s) := by
  unfold execCopyStamp; exact byRules

@[simp] theorem nextInv_execFootprintRelease (clu job : Nat) {s : State} (hs : Inv s) : NextInv (execFootprintRelease clu job s) := by
  unfold execFootprintRelease; exact byRules

@[simp] theorem inv_dramAnswer (s : State) (p : Packet) (lat : Nat) : Inv (s.dramAnswer p lat) ↔ Inv s := by
  simp [State.dramAnswer]

@[simp] theorem inv_hostLine {s : State} (hs : Inv s) (id : Nat) (p : Place) (n v : Nat) (wr : Bool) :
    Inv (s.hostLine id p n v wr) := by
  simp [State.hostLine, hs]

@[simp] theorem inv_dramDo {s : State} (hs : Inv s) (chan n id lat : Nat) (q0 : DramWork) : Inv (s.dramDo chan n id lat q0) := by
  unfold State.dramDo; exact byRules

@[simp] theorem inv_refillQueue {s : State} (hs : Inv s) (chan : Nat) : Inv (s.refillQueue chan) := by
  unfold State.refillQueue; exact byRules

@[simp] theorem inv_dramStart {s : State} (hs : Inv s) (chan : Nat) : Inv (s.dramStart chan) := by
  unfold State.dramStart; exact byRules

@[simp] theorem nextInv_execDramRequest (chan : Nat) {s : State} (hs : Inv s) : NextInv (execDramRequest chan s) := by
  unfold execDramRequest; exact byRules

@[simp] theorem nextInv_execRefreshWindow (chan : Nat) {s : State} (hs : Inv s) : NextInv (execRefreshWindow chan s) := by
  unfold execRefreshWindow; exact byRules

@[simp] theorem inv_unitStep (s : State) (core : Nat) : Inv (s.unitStep core) ↔ Inv s := by
  unfold State.unitStep; (repeat' split) <;> simp

@[simp] theorem nextInv_execUnitCommand (core : Nat) {s : State} (hs : Inv s) : NextInv (execUnitCommand core s) := by
  unfold execUnitCommand; exact byRules

@[simp] theorem keeps_liveHandle (a : Spec) : Keeps (liveHandle a) := by
  unfold liveHandle; exact byRules

@[simp] theorem keeps_modHandle (a : Spec) (g : Handle → Handle) : Keeps (modHandle a g) := by
  simp [modHandle]

@[simp] theorem nextInv_execCbinit (d a b : Spec) (f : Form) {s : State} (hs : Inv s) : NextInv (execCbinit d a b f s) :=
  nextInv_issue _ byRules hs

@[simp] theorem nextInv_execCbprod (d a b : Spec) (f : Form) {s : State} (hs : Inv s) : NextInv (execCbprod d a b f s) :=
  nextInv_issue _ byRules hs

@[simp] theorem nextInv_execCbcons (d a b : Spec) (f : Form) {s : State} (hs : Inv s) : NextInv (execCbcons d a b f s) :=
  nextInv_issue _ byRules hs

@[simp] theorem nextInv_execCbstat (d a : Spec) (f : Form) {s : State} (hs : Inv s) : NextInv (execCbstat d a f s) :=
  nextInv_issue _ byRules hs

@[simp] theorem keeps_kvDesc (va path : Word) : Keeps (kvDesc va path) := by
  unfold kvDesc; exact byRules

@[simp] theorem keeps_kvLength (d : KvDesc) : Keeps (kvLength d) := by
  unfold kvLength; exact byRules

@[simp] theorem keeps_kvPages (d : KvDesc) (path : Word) (len : Nat) : Keeps (kvPages d path len) := by
  unfold kvPages; exact byRules

@[simp] theorem keeps_kvJob (d : KvDesc) (path : Word) (b : Spec) (lp : Place) (len : Nat) : Keeps (kvJob d path b lp len) := by
  unfold kvJob; exact byRules

@[simp] theorem inv_reform (s : State) (n : Nat) (t : Transfer) (foot : List (Nat × Nat)) : Inv (s.reform n t foot) ↔ Inv s := by
  simp [State.reform]

@[simp] theorem keeps_kvEnter (desc : KvDesc) (path : Word) (b : Spec) (lp : Place) (len : Nat) :
    Keeps (kvEnter desc path b lp len) := by
  unfold kvEnter; exact byRules

@[simp] theorem keeps_kvRead (t : Target) (va : Word) (p : Nat) {k : Nat → M Unit} (hk : ∀ a, Keeps (k a)) :
    Keeps (kvRead t va p k) := by
  unfold kvRead; exact byRules

@[simp] theorem keeps_kvGuard {α : Type} {m : M α} (hm : Keeps m) : Keeps (kvGuard m : M α) := by
  unfold kvGuard; exact byRules

@[simp] theorem nextInv_execKvcommit (d a b : Spec) (f : Form) {s : State} (hs : Inv s) : NextInv (execKvcommit d a b f s) := by
  have rule := @keeps_kvRead
  exact nextInv_issue _ byRules hs

@[simp] theorem nextInv_execKvcommitHoldEnd (slot : Nat) {s : State} (hs : Inv s) : NextInv (execKvcommitHoldEnd slot s) := by
  unfold execKvcommitHoldEnd; exact byRules

/-! ## Placement, pre-emption, park table, deposits (Place) -/

@[simp] theorem inv_reportBad {s : State} (hs : Inv s) (k core : Nat) : Inv (s.reportBad k core) := by
  simp [State.reportBad, hs]

@[simp] theorem inv_sample {s : State} (hs : Inv s) (core : Nat) (region : BitVec 28) : Inv (s.sample core region).1 := by
  unfold State.sample; exact byRules

@[simp] theorem inv_placeIn {s : State} (hs : Inv s) (n : Nat) (q : QEntry) (e : Eff) (notBefore : Nat) :
    Inv (s.placeIn n q e notBefore) := by
  unfold State.placeIn; exact byRules

@[simp] theorem inv_target {s : State} (hs : Inv s) (clu : Nat) (q : QEntry) : Inv (s.target clu q).1 := by
  unfold State.target
  have ht := inv_sample hs (clu * 20) q.val.region
  dsimp only
  (repeat' split) <;> exact inv_fst ‹_› ht

@[simp] theorem inv_pickEntry {s : State} (hs : Inv s) (clu : Nat) (qs : List (Nat × QEntry)) : Inv (s.pickEntry clu qs).1 := by
  induction qs generalizing s with
  | nil => exact hs
  | cons q qs ih =>
    obtain ⟨i, q⟩ := q
    have ht := inv_target hs clu q
    rw [State.pickEntry]
    split
    · exact ih hs
    · split
      · exact inv_fst ‹_› ht
      · exact ih (inv_fst ‹_› ht)

@[simp] theorem inv_dispatchOne {s : State} (hs : Inv s) (clu : Nat) : Inv (s.dispatchOne clu) := by
  unfold State.dispatchOne
  have hp := inv_pickEntry hs clu (s.clu clu).heads
  split
  · exact inv_fst ‹_› hp
  · have ht := inv_fst ‹_› hp
    simp [ht]

@[simp] theorem nextInv_execDispatch (clu : Nat) {s : State} (hs : Inv s) : NextInv (execDispatch clu s) := by
  unfold execDispatch; exact byRules

@[simp] theorem nextInv_execQueueAging (clu : Nat) {s : State} (hs : Inv s) : NextInv (execQueueAging clu s) := by
  unfold execQueueAging; exact byRules

@[simp] theorem inv_dropTurnless (s : State) (n : Nat) : Inv (s.dropTurnless n) ↔ Inv s := by
  simp [State.dropTurnless]

@[simp] theorem inv_yielding {s : State} (hs : Inv s) (n : Nat) : Inv (s.yielding n) := by
  simp [State.yielding, hs]

@[simp] theorem inv_leaveWait (s : State) (n : Nat) : Inv (s.leaveWait n) ↔ Inv s := by
  simp [State.leaveWait]

@[simp] theorem inv_preempt {s : State} (hs : Inv s) (n reason : Nat) : Inv (s.preempt n reason) := by
  simp [State.preempt, hs]

@[simp] theorem nextInv_execPreemption (slot reason : Nat) {s : State} (hs : Inv s) : NextInv (execPreemption slot reason s) := by
  unfold execPreemption; exact byRules

@[simp] theorem nextInv_execTimerExpiry (slot : Nat) {s : State} (hs : Inv s) : NextInv (execTimerExpiry slot s) := by
  unfold execTimerExpiry; exact byRules

@[simp] theorem inv_takeFrame {s : State} (hs : Inv s) (core : Nat) (region : BitVec 28) (kind count : Nat) (old : Option Nat) :
    Inv (s.takeFrame core region kind count old).1 := by
  unfold State.takeFrame; exact byRules

@[simp] theorem inv_dropFrame (s : State) (n kind : Nat) : Inv (s.dropFrame n kind) ↔ Inv s := by
  simp [State.dropFrame]

@[simp] theorem inv_saveSpill {s : State} (hs : Inv s) (core base : Nat) (x : Slot) : Inv (s.saveSpill core base x) := by
  unfold State.saveSpill; exact byRules

/-- The same of a state that comes with a result, as in the save of a context, which takes a frame only for a class that has one. -/
theorem inv_ite_fst {α : Type} {p : Prop} [Decidable p] {x y : State × α} (hx : Inv x.1) (hy : Inv y.1) :
    Inv (if p then x else y).1 := by
  split <;> assumption

@[simp] theorem inv_saveContext {s : State} (hs : Inv s) (n : Nat) : Inv (s.saveContext n) := by
  unfold State.saveContext
  split
  · exact hs
  · rename_i e _
    extract_lets core s₁ x
    have h₁ : Inv s₁ := byRules
    have h₂ := inv_takeFrame h₁ (slotCore n) x.region 0 (e.ns + 1) x.frame
    clear_value s₁ x
    generalize s₁.takeFrame (slotCore n) x.region 0 (e.ns + 1) x.frame = y at h₂ ⊢
    dsimp only
    have h₃ := inv_ite_fst (p := x.cls = 1) (inv_takeFrame h₂ (slotCore n) x.region 1 e.nv x.vframe) (y := (y.1, x.vframe)) h₂
    generalize (if x.cls = 1 then y.1.takeFrame (slotCore n) x.region 1 e.nv x.vframe else (y.1, x.vframe)) = z at h₃ ⊢
    have h₄ := inv_ite_fst (p := x.cls = 2) (inv_takeFrame h₃ (slotCore n) x.region 2 e.nm x.mframe) (y := (z.1, x.mframe)) h₃
    generalize (if x.cls = 2 then z.1.takeFrame (slotCore n) x.region 2 e.nm x.mframe else (z.1, x.mframe)) = w at h₄ ⊢
    have h₅ := inv_writeBack h₄ n
    generalize w.1.writeBack n = s₅ at h₅ ⊢
    rw [inv_modSlot, inv_modClu, inv_claimPort]
    refine inv_ite_of ?_ fun h => inv_storeBytes h _ _
    refine inv_ite_of ?_ fun h => inv_storeBytes h _ _
    refine inv_saveSpill ?_ _ _ _
    have head (r : List Byte) (p : Place) := inv_storeBytes h₅ p r
    refine inv_ite (inv_storeBytes ?_ _ _) (inv_store ?_ _ _ _)
    · exact inv_ite (head _ _) (inv_storeBytes (head _ _) _ _)
    · exact inv_ite (head _ _) (inv_storeBytes (head _ _) _ _)

@[simp] theorem nextInv_execPreemptSave (slot : Nat) {s : State} (hs : Inv s) : NextInv (execPreemptSave slot s) :=
  .next (inv_saveContext hs slot)

@[simp] theorem inv_finishSave {s : State} (hs : Inv s) (n : Nat) : Inv (s.finishSave n) := by
  unfold State.finishSave
  extract_lets clu core x u t enter
  have ht : Inv t := byRules
  clear_value t
  have he : ∀ q u, enter q = some u → Inv u := by
    intro q u h
    simp only [enter] at h
    split at h
    · cases h
    · split at h
      · obtain ⟨e, -, rfl⟩ := Option.map_eq_some_iff.mp h
        simpa
      · obtain ⟨v, hv, rfl⟩ := Option.map_eq_some_iff.mp h
        simpa using inv_enqueue hv ht
  cases h : (t.clu clu).leaving.findSome? enter with
  | none => exact ht
  | some u =>
    obtain ⟨q, -, hq⟩ := List.exists_of_findSome?_eq_some h
    exact he q u hq

@[simp] theorem nextInv_execPreemptEnqueue (slot : Nat) {s : State} (hs : Inv s) : NextInv (execPreemptEnqueue slot s) := by
  unfold execPreemptEnqueue; exact byRules

@[simp] theorem inv_restorePart {s : State} (hs : Inv s) (n part : Nat) : Inv (s.restorePart n part) := by
  unfold State.restorePart; exact byRules

@[simp] theorem inv_freeRestored (s : State) (n : Nat) : Inv (s.freeRestored n) ↔ Inv s := by
  simp [State.freeRestored]

@[simp] theorem nextInv_execContextRestore (slot part : Nat) {s : State} (hs : Inv s) : NextInv (execContextRestore slot part s) := by
  unfold execContextRestore; exact byRules

@[simp] theorem nextInv_execBudgetExhausted (clu region : Nat) {s : State} (hs : Inv s) :
    NextInv (execBudgetExhausted clu region s) := by
  refine .next (inv_faultHandler ?_ _ _ _ _)
  exact inv_foldl (fun s n h => inv_preempt h n 3) _ (by simpa)

@[simp] theorem nextInv_execSliceInstant {s : State} (hs : Inv s) : NextInv (execSliceInstant s) := by
  unfold execSliceInstant; exact byRules

@[simp] theorem inv_parkWake {s : State} (hs : Inv s) (core : Nat) : Inv (s.parkWake core) := by
  unfold State.parkWake; exact byRules

@[simp] theorem nextInv_execParkWake (core : Nat) {s : State} (hs : Inv s) : NextInv (execParkWake core s) := by
  unfold execParkWake; exact byRules

@[simp] theorem nextInv_execRemoteCall (pid : Nat) {s : State} (hs : Inv s) : NextInv (execRemoteCall pid s) := by
  unfold execRemoteCall; exact byRules

@[simp] theorem inv_saveDeposit {s : State} (hs : Inv s) (clu : Nat) (q : QEntry) (t v : Word) : Inv (s.saveDeposit clu q t v) := by
  unfold State.saveDeposit; exact byRules

@[simp] theorem inv_depositAway {s : State} (hs : Inv s) (clu : Nat) (t v : Word) : Inv (s.depositAway clu t v) := by
  unfold State.depositAway; exact byRules

@[simp] theorem inv_closePark {s : State} (hs : Inv s) (core : Nat) (t v : Word) : Inv (s.closePark core t v) := by
  unfold State.closePark; exact byRules

@[simp] theorem inv_deposit {s : State} (hs : Inv s) (core : Nat) (t v : Word) : Inv (s.deposit core t v).2 := by
  unfold State.deposit; exact byRules

@[simp] theorem nextInv_execDeposit (pid : Nat) {s : State} (hs : Inv s) : NextInv (execDeposit pid s) := by
  unfold execDeposit; exact byRules

@[simp] theorem inv_arriveSlot {s : State} (hs : Inv s) (clu : Nat) (r : Rec) : Inv (s.arriveSlot clu r).1 := by
  unfold State.arriveSlot
  have ht := inv_sample hs (clu * 20) r.region
  (repeat' split) <;> exact inv_fst ‹_› ht

@[simp] theorem nextInv_execMigrationArrival (pid : Nat) {s : State} (hs : Inv s) : NextInv (execMigrationArrival pid s) := by
  unfold execMigrationArrival; exact byRules

@[simp] theorem nextInv_execMigrationResend (pid : Nat) {s : State} (hs : Inv s) : NextInv (execMigrationResend pid s) := by
  unfold execMigrationResend; exact byRules

/-! ## Tasks, regions, plans (Tasks) -/

@[simp] theorem keeps_recordPlace (k : Acc) (ea : Word) : Keeps (recordPlace k ea) := by
  unfold recordPlace; exact byRules

@[simp] theorem keeps_placeTarget (b : Word) : Keeps (placeTarget b) := by
  unfold placeTarget; exact byRules

@[simp] theorem keeps_sendRecord (r : Rec) (b : Word) {done : M Unit} (hdone : Keeps done) : Keeps (sendRecord r b done) := by
  unfold sendRecord; exact byRules

@[simp] theorem keeps_recordAnswer {done : M Unit} (hdone : Keeps done) {start : M Unit} (hstart : Keeps start) :
    Keeps (recordAnswer done start) := by
  unfold recordAnswer; exact byRules

@[simp] theorem keeps_recordChecks (bs : List Byte) (b : Word) : Keeps (recordChecks bs b) := by
  unfold recordChecks; exact byRules

@[simp] theorem inv_freeEscal (s : State) (n : Nat) (p : Place) : Inv (s.freeEscal n p) ↔ Inv s := by
  simp [State.freeEscal]

@[simp] theorem nextInv_execEnq (a b : Spec) (f : Form) {s : State} (hs : Inv s) : NextInv (execEnq a b f s) := by
  have rule := @keeps_recordAnswer
  exact nextInv_issue _ byRules hs

@[simp] theorem nextInv_execSpawn (d a b : Spec) (f : Form) {s : State} (hs : Inv s) : NextInv (execSpawn d a b f s) := by
  have rule := @keeps_recordAnswer
  exact nextInv_issue _ byRules hs

@[simp] theorem keeps_arrayGate : Keeps arrayGate := by
  unfold arrayGate; exact byRules

@[simp] theorem inv_parkFlush {s : State} (hs : Inv s) (n : Nat) : Inv (s.parkFlush n) := by
  simp [State.parkFlush, hs]

@[simp] theorem nextInv_execPark (a b : Spec) (f : Form) {s : State} (hs : Inv s) : NextInv (execPark a b f s) :=
  nextInv_issue _ byRules hs

@[simp] theorem nextInv_execEndT (f : Form) {s : State} (hs : Inv s) : NextInv (execEndT f s) :=
  nextInv_issue _ byRules hs

@[simp] theorem nextInv_execMigr (a : Spec) (f : Form) {s : State} (hs : Inv s) : NextInv (execMigr a f s) :=
  nextInv_issue _ byRules hs

@[simp] theorem keeps_planCall (op : Nat) (a : Word) (st : List Word) {k : Nat → List Nat → M Unit} (hk : ∀ a b, Keeps (k a b)) :
    Keeps (planCall op a st k) := by
  unfold planCall; exact byRules

@[simp] theorem nextInv_execDisp (d : Spec) (f : Form) {s : State} (hs : Inv s) : NextInv (execDisp d f s) :=
  nextInv_issue _ byRules hs

@[simp] theorem nextInv_execTdone (a : Spec) (f : Form) {s : State} (hs : Inv s) : NextInv (execTdone a f s) :=
  nextInv_issue _ byRules hs

@[simp] theorem nextInv_execPlanw (a : Spec) (f : Form) {s : State} (hs : Inv s) : NextInv (execPlanw a f s) :=
  nextInv_issue _ byRules hs

@[simp] theorem nextInv_execPlansw (d : Spec) (f : Form) {s : State} (hs : Inv s) : NextInv (execPlansw d f s) :=
  nextInv_issue _ byRules hs

@[simp] theorem nextInv_execTrel (a : Spec) (f : Form) {s : State} (hs : Inv s) : NextInv (execTrel a f s) :=
  nextInv_issue _ byRules hs

@[simp] theorem nextInv_execRgsync (a : Spec) (f : Form) {s : State} (hs : Inv s) : NextInv (execRgsync a f s) :=
  nextInv_issue _ byRules hs

@[simp] theorem keeps_regionGate : Keeps regionGate := by
  unfold regionGate; exact byRules

@[simp] theorem keeps_wholeContext : Keeps wholeContext := by
  unfold wholeContext; exact byRules

@[simp] theorem keeps_enterRegion (k : Nat) (down : Bool) : Keeps (enterRegion k down) := by
  unfold enterRegion; exact byRules

@[simp] theorem nextInv_execRgenter (a : Spec) (f : Form) {s : State} (hs : Inv s) : NextInv (execRgenter a f s) :=
  nextInv_issue _ byRules hs

@[simp] theorem nextInv_execRgexit (f : Form) {s : State} (hs : Inv s) : NextInv (execRgexit f s) :=
  nextInv_issue _ byRules hs

/-! ## Carried matrix commands (Command) -/

@[simp] theorem nextInv_execTcmd (a b : Spec) (f : Form) {s : State} (hs : Inv s) : NextInv (execTcmd a b f s) :=
  nextInv_issue _ byRules hs

@[simp] theorem keeps_carriedAccess {body : M Unit} (hbody : Keeps body) : Keeps (carriedAccess body) := by
  unfold carriedAccess; exact byRules

@[simp] theorem keeps_runCarried (i : Instr) (va vb : Word) (post : Option Nat) : Keeps (runCarried i va vb post) := by
  unfold runCarried; exact byRules

@[simp] theorem inv_command {s : State} (hs : Inv s) (p : Packet) : Inv (s.command p) := by
  unfold State.command
  extract_lets core g w n x cap t me fail post
  split
  · simp [hs]
  · rename_i i _
    refine inv_ite (by simp [hs]) ?_
    have ht : Inv t := byRules
    have hfail (r : TrapRec) (u : State) : Inv (fail r u) ↔ Inv u := by simp [fail]
    have key := (keeps_runCarried i (g 3) (g 4) post).ends { t with cur := n } ((inv_with ..).mpr ht)
    split
    all_goals
      rename_i heq
      rw [heq] at key
      simp only [EndInv, haltInv_trapWith, haltInv_wait, haltInv_quit] at key
      simp [hfail, key, ht]

@[simp] theorem nextInv_execMatrixCommand (pid : Nat) {s : State} (hs : Inv s) : NextInv (execMatrixCommand pid s) := by
  unfold execMatrixCommand; exact byRules

/-! ## The isochrone array (Iso) -/

@[simp] theorem nextInv_execIsochronePass (clu : Nat) {s : State} (hs : Inv s) : NextInv (execIsochronePass clu s) := by
  unfold execIsochronePass; exact byRules

@[simp] theorem keeps_modIso (g : Iso → Iso) : Keeps (modIso g) := by
  simp [modIso]

@[simp] theorem keeps_myIso : Keeps myIso := by
  simp [myIso]

@[simp] theorem keeps_mustHold : Keeps mustHold := by
  unfold mustHold; exact byRules

@[simp] theorem keeps_waitPasses : Keeps waitPasses := by
  unfold waitPasses; exact byRules

@[simp] theorem nextInv_execIsclaim (d : Spec) (f : Form) {s : State} (hs : Inv s) : NextInv (execIsclaim d f s) :=
  nextInv_issue _ byRules hs

@[simp] theorem nextInv_execIsrel (f : Form) {s : State} (hs : Inv s) : NextInv (execIsrel f s) :=
  nextInv_issue _ byRules hs

@[simp] theorem keeps_supersede (regs : List Nat) : Keeps (supersede regs) := by
  simp [supersede]

@[simp] theorem nextInv_execIswin (a : Spec) (f : Form) {s : State} (hs : Inv s) : NextInv (execIswin a f s) :=
  nextInv_issue _ byRules hs

@[simp] theorem nextInv_execIsmode (a : Spec) (f : Form) {s : State} (hs : Inv s) : NextInv (execIsmode a f s) :=
  nextInv_issue _ byRules hs

@[simp] theorem nextInv_execIsclr (f : Form) {s : State} (hs : Inv s) : NextInv (execIsclr f s) :=
  nextInv_issue _ byRules hs

@[simp] theorem keeps_isoPart (e : Eff) (p : Word × Nat) : Keeps (isoPart e p) := by
  unfold isoPart; exact byRules

@[simp] theorem keeps_isoPlaces (va : Word) (n : Nat) (mayLocal : Bool) : Keeps (isoPlaces va n mayLocal) := by
  unfold isoPlaces; exact byRules

@[simp] theorem keeps_isoRead (va : Word) (ps : List (Target × Nat)) : Keeps (isoRead va ps) := by
  unfold isoRead; exact byRules

@[simp] theorem keeps_isoLoad (va : Word) (n al : Nat) (mayLocal : Bool) {done : List Nat → M Unit} (hdone : ∀ a, Keeps (done a)) :
    Keeps (isoLoad va n al mayLocal done) := by
  unfold isoLoad; exact byRules

@[simp] theorem nextInv_execIsldw (a : Spec) (f : Form) {s : State} (hs : Inv s) : NextInv (execIsldw a f s) :=
  nextInv_issue _ byRules hs

@[simp] theorem nextInv_execIsldv (a : Spec) (f : Form) {s : State} (hs : Inv s) : NextInv (execIsldv a f s) :=
  nextInv_issue _ byRules hs

@[simp] theorem nextInv_execIsgo (a : Spec) (f : Form) {s : State} (hs : Inv s) : NextInv (execIsgo a f s) :=
  nextInv_issue _ byRules hs

@[simp] theorem nextInv_execIscap (a b : Spec) (f : Form) {s : State} (hs : Inv s) : NextInv (execIscap a b f s) :=
  nextInv_issue _ byRules hs

/-! ## Wheels, retirement, blocks (Wheels) -/

@[simp] theorem keeps_myWheel (outer : Bool) : Keeps (myWheel outer) := by
  unfold myWheel; exact byRules

@[simp] theorem keeps_modWheel (outer : Bool) (g : Wheel → Wheel) : Keeps (modWheel outer g) := by
  unfold modWheel; exact byRules

@[simp] theorem nextInv_execWhlset (a b : Spec) (f : Form) {s : State} (hs : Inv s) : NextInv (execWhlset a b f s) :=
  nextInv_issue _ byRules hs

@[simp] theorem nextInv_execWhlsw (a : Spec) (f : Form) {s : State} (hs : Inv s) : NextInv (execWhlsw a f s) :=
  nextInv_issue _ byRules hs

@[simp] theorem inv_rewturn {s : State} (hs : Inv s) (n : Nat) : Inv (s.rewturn n) := by
  unfold State.rewturn; exact byRules

@[simp] theorem nextInv_execWheelSwap (outer : Bool) (unit : Nat) {s : State} (hs : Inv s) :
    NextInv (execWheelSwap outer unit s) := by
  unfold execWheelSwap; exact byRules

@[simp] theorem inv_modRetire (s : State) (common : Bool) (unit group : Nat) (g : Retire → Retire) :
    Inv (s.modRetire common unit group g) ↔ Inv s := by
  simp [State.modRetire]

@[simp] theorem inv_startRetire (s : State) (common : Bool) (unit group bank : Nat) :
    Inv (s.startRetire common unit group bank) ↔ Inv s := by
  simp [State.startRetire]

@[simp] theorem nextInv_execBankret (a : Spec) (f : Form) {s : State} (hs : Inv s) : NextInv (execBankret a f s) :=
  nextInv_issue _ byRules hs

@[simp] theorem nextInv_execRetirementSwap (common : Bool) (unit : Nat) {s : State} (hs : Inv s) :
    NextInv (execRetirementSwap common unit s) := by
  unfold execRetirementSwap; exact byRules

@[simp] theorem nextInv_execRetirementDone (common : Bool) (unit : Nat) {s : State} (hs : Inv s) :
    NextInv (execRetirementDone common unit s) := by
  unfold execRetirementDone; exact byRules

@[simp] theorem nextInv_execScrub (clu bank : Nat) {s : State} (hs : Inv s) : NextInv (execScrub clu bank s) := by
  unfold execScrub; exact byRules

@[simp] theorem nextInv_execBankLoss (common : Bool) (unit group bank : Nat) {s : State} (hs : Inv s) :
    NextInv (execBankLoss common unit group bank s) := by
  unfold execBankLoss; exact byRules

@[simp] theorem nextInv_execErrorThreshold (kind unit group bank : Nat) {s : State} (hs : Inv s) :
    NextInv (execErrorThreshold kind unit group bank s) := by
  unfold execErrorThreshold; exact byRules

@[simp] theorem nextInv_execUncorrectableError (key : Nat) {s : State} (hs : Inv s) : NextInv (execUncorrectableError key s) := by
  unfold execUncorrectableError; exact byRules

@[simp] theorem nextInv_execTurnService (slot acc : Nat) {s : State} (hs : Inv s) : NextInv (execTurnService slot acc s) := by
  unfold execTurnService; exact byRules

@[simp] theorem nextInv_execWaitwReread (slot : Nat) {s : State} (hs : Inv s) : NextInv (execWaitwReread slot s) := by
  unfold execWaitwReread; exact byRules

@[simp] theorem nextInv_execStripeCommit (slot : Nat) {s : State} (hs : Inv s) : NextInv (execStripeCommit slot s) := by
  unfold execStripeCommit; exact byRules

@[simp] theorem inv_finishBld (s : State) (n : Nat) (a : Access) (m dst : Nat) : Inv (s.finishBld n a m dst) ↔ Inv s := by
  simp [State.finishBld]

@[simp] theorem inv_blockCycle {s : State} (hs : Inv s) (core : Nat) : Inv (s.blockCycle core) := by
  unfold State.blockCycle; exact byRules

@[simp] theorem inv_bldPass (s : State) (n : Nat) : Inv (s.bldPass n) ↔ Inv s := by
  unfold State.bldPass; (repeat' split) <;> simp

@[simp] theorem nextInv_execBldPass (slot : Nat) {s : State} (hs : Inv s) : NextInv (execBldPass slot s) := by
  unfold execBldPass; exact byRules

/-! ## Control registers, traps, TLBs (System) -/

@[simp] theorem inv_applySetc (s : State) (w : CtlWrite) : Inv (s.applySetc w) ↔ Inv s := by
  simp [State.applySetc]

@[simp] theorem keeps_waitFlags : Keeps waitFlags := by
  unfold waitFlags; exact byRules

@[simp] theorem keeps_readGate (reg : Nat) : Keeps (readGate reg) := by
  unfold readGate; exact byRules

@[simp] theorem keeps_writeGate (reg : Nat) : Keeps (writeGate reg) := by
  unfold writeGate; exact byRules

@[simp] theorem keeps_queueSetc (reg : Nat) (v : Word) : Keeps (queueSetc reg v) := by
  unfold queueSetc; exact byRules

@[simp] theorem keeps_selected {k : Word → Word → M Unit} (hk : ∀ a b, Keeps (k a b)) : Keeps (selected k) := by
  unfold selected; exact byRules

@[simp] theorem inv_writeDbgCtl (s : State) (n : Nat) (sel v : Word) : Inv (s.writeDbgCtl n sel v) ↔ Inv s := by
  simp [State.writeDbgCtl]

@[simp] theorem inv_writeDbgPc (s : State) (n : Nat) (sel v : Word) : Inv (s.writeDbgPc n sel v) ↔ Inv s := by
  simp [State.writeDbgPc]

@[simp] theorem nextInv_execGetc (d : Spec) (r : BitVec 12) (f : Form) {s : State} (hs : Inv s) : NextInv (execGetc d r f s) := by
  have rule := @keeps_selected
  exact nextInv_issue _ byRules hs

@[simp] theorem nextInv_execSetc (a : Spec) (r : BitVec 12) (f : Form) {s : State} (hs : Inv s) : NextInv (execSetc a r f s) :=
  nextInv_issue _ byRules hs

@[simp] theorem nextInv_execRaceClr (a : Spec) (f : Form) {s : State} (hs : Inv s) : NextInv (execRaceClr a f s) :=
  nextInv_issue _ byRules hs

@[simp] theorem nextInv_execCapOut (d : Spec) (f : Form) {s : State} (hs : Inv s) : NextInv (execCapOut d f s) :=
  nextInv_issue _ byRules hs

@[simp] theorem inv_dbgTransfer {s : State} (hs : Inv s) (core : Nat) : Inv (s.dbgTransfer core) := by
  unfold State.dbgTransfer; exact byRules

@[simp] theorem nextInv_execDbgData (wr : Bool) (r : Spec) (f : Form) {s : State} (hs : Inv s) : NextInv (execDbgData wr r f s) := by
  have rule := @keeps_selected
  exact nextInv_issue _ byRules hs

@[simp] theorem nextInv_execTrap (a : Spec) (f : Form) {s : State} (hs : Inv s) : NextInv (execTrap a f s) :=
  nextInv_issue _ byRules hs

@[simp] theorem nextInv_execEret (f : Form) {s : State} (hs : Inv s) : NextInv (execEret f s) :=
  nextInv_issue _ byRules hs

@[simp] theorem nextInv_execDbrk (f : Form) {s : State} (hs : Inv s) : NextInv (execDbrk f s) :=
  nextInv_issue _ byRules hs

@[simp] theorem inv_tlbDrop (s : State) (core scope kind root va : Nat) : Inv (s.tlbDrop core scope kind root va) ↔ Inv s := by
  simp [State.tlbDrop]

@[simp] theorem nextInv_execTlbinv (a b : Spec) (f : Form) {s : State} (hs : Inv s) : NextInv (execTlbinv a b f s) :=
  nextInv_issue _ byRules hs

/-! ## Trace core and debug module (Debug) -/

@[simp] theorem inv_pushTrace (s : State) (clu : Nat) (r : Word × BitVec 16) : Inv (s.pushTrace clu r) ↔ Inv s := by
  simp [State.pushTrace]

@[simp] theorem inv_emit (s : State) (core slot kind : Nat) (payload : Nat) (date : Nat) :
    Inv (s.emit core slot kind payload date) ↔ Inv s := by
  simp [State.emit]

@[simp] theorem inv_flushWay (s : State) (core : Nat) : Inv (s.flushWay core) ↔ Inv s := by
  simp [State.flushWay]

@[simp] theorem nextInv_execWaypointRecord (core : Nat) {s : State} (hs : Inv s) : NextInv (execWaypointRecord core s) := by
  unfold execWaypointRecord; exact byRules

@[simp] theorem inv_softRecord (s : State) (n payload : Nat) : Inv (s.softRecord n payload) ↔ Inv s := by
  simp [State.softRecord]

@[simp] theorem nextInv_execTracew (a : Spec) (f : Form) {s : State} (hs : Inv s) : NextInv (execTracew a f s) :=
  nextInv_issue _ byRules hs

@[simp] theorem inv_keepRecord (s : State) (die : Nat) (word : Word) (tag : BitVec 16) (label : BitVec 12) :
    Inv (s.keepRecord die word tag label) ↔ Inv s := by
  simp [State.keepRecord]

@[simp] theorem inv_ringWrite {s : State} (hs : Inv s) (die : Nat) : Inv (s.ringWrite die) := by
  unfold State.ringWrite; exact byRules

@[simp] theorem nextInv_execTraceRecord (die : Nat) {s : State} (hs : Inv s) : NextInv (execTraceRecord die s) := by
  unfold execTraceRecord; exact byRules

theorem nextInv_filterStep {g : FilterRun → State → Option FilterRun × State} (hg : ∀ r s, Inv s → Inv (g r s).2)
    {s : State} (hs : Inv s) : NextInv (filterStep g s) := by
  unfold filterStep
  split
  · simp
  · simp [hg _ s hs]

@[simp] theorem nextInv_filterOp (d a : BitVec 3) (op : Word → Word → Word) {s : State} (hs : Inv s) : NextInv (filterOp d a op s) :=
  nextInv_filterStep (fun _ _ h => h) hs

@[simp] theorem nextInv_filterJump (a b : BitVec 3) (o : BitVec 6) (p : Word → Word → Bool) {s : State} (hs : Inv s) :
    NextInv (filterJump a b o p s) :=
  nextInv_filterStep (fun _ _ h => h) hs

@[simp] theorem nextInv_execLdf (d : BitVec 3) (n : BitVec 5) {s : State} (hs : Inv s) : NextInv (execLdf d n s) :=
  nextInv_filterStep (fun _ _ h => h) hs

@[simp] theorem nextInv_execLdi (d : BitVec 3) (i : BitVec 9) {s : State} (hs : Inv s) : NextInv (execLdi d i s) :=
  nextInv_filterStep (fun _ _ h => h) hs

@[simp] theorem nextInv_execFilterAdd (d a : BitVec 3) {s : State} (hs : Inv s) : NextInv (execFilterAdd d a s) := by
  unfold execFilterAdd; exact byRules

@[simp] theorem nextInv_execFilterSub (d a : BitVec 3) {s : State} (hs : Inv s) : NextInv (execFilterSub d a s) := by
  unfold execFilterSub; exact byRules

@[simp] theorem nextInv_execFilterAnd (d a : BitVec 3) {s : State} (hs : Inv s) : NextInv (execFilterAnd d a s) := by
  unfold execFilterAnd; exact byRules

@[simp] theorem nextInv_execFilterOr (d a : BitVec 3) {s : State} (hs : Inv s) : NextInv (execFilterOr d a s) := by
  unfold execFilterOr; exact byRules

@[simp] theorem nextInv_execFilterShr (d : BitVec 3) (n : BitVec 6) {s : State} (hs : Inv s) : NextInv (execFilterShr d n s) :=
  nextInv_filterStep (fun _ _ h => h) hs

@[simp] theorem nextInv_execJeq (a b : BitVec 3) (o : BitVec 6) {s : State} (hs : Inv s) : NextInv (execJeq a b o s) := by
  unfold execJeq; exact byRules

@[simp] theorem nextInv_execJne (a b : BitVec 3) (o : BitVec 6) {s : State} (hs : Inv s) : NextInv (execJne a b o s) := by
  unfold execJne; exact byRules

@[simp] theorem nextInv_execJlt (a b : BitVec 3) (o : BitVec 6) {s : State} (hs : Inv s) : NextInv (execJlt a b o s) := by
  unfold execJlt; exact byRules

@[simp] theorem nextInv_execCnt (n : BitVec 3) {s : State} (hs : Inv s) : NextInv (execCnt n s) :=
  nextInv_filterStep (fun _ _ h => h) hs

@[simp] theorem nextInv_execKeep {s : State} (hs : Inv s) : NextInv (execKeep s) :=
  nextInv_filterStep (fun r s h => (inv_keepRecord s s.fdie r.word r.tag r.label).mpr h) hs

@[simp] theorem nextInv_execDrop {s : State} (hs : Inv s) : NextInv (execDrop s) :=
  nextInv_filterStep (fun _ _ h => h) hs

@[simp] theorem nextInv_execTrig (k : BitVec 1) {s : State} (hs : Inv s) : NextInv (execTrig k s) :=
  nextInv_filterStep (fun _ _ h => byRules) hs

@[simp] theorem nextInv_execMark (l : BitVec 12) {s : State} (hs : Inv s) : NextInv (execMark l s) :=
  nextInv_filterStep (fun _ _ h => h) hs

@[simp] theorem nextInv_execTrcCtl (a : Spec) (f : Form) {s : State} (hs : Inv s) : NextInv (execTrcCtl a f s) :=
  nextInv_issue _ byRules hs

@[simp] theorem nextInv_execTrcFdata (a : Spec) (f : Form) {s : State} (hs : Inv s) : NextInv (execTrcFdata a f s) :=
  nextInv_issue _ byRules hs

@[simp] theorem nextInv_execHalt (clu : Nat) {s : State} (hs : Inv s) : NextInv (execHalt clu s) := by
  unfold execHalt; exact byRules

@[simp] theorem nextInv_execHaltEvent (clu why core slot : Nat) {s : State} (hs : Inv s) :
    NextInv (execHaltEvent clu why core slot s) := by
  unfold execHaltEvent; exact byRules

@[simp] theorem inv_flushCluster {s : State} (hs : Inv s) (clu : Nat) : Inv (s.flushCluster clu) := by
  unfold State.flushCluster; exact byRules

@[simp] theorem nextInv_execHalted (clu : Nat) {s : State} (hs : Inv s) : NextInv (execHalted clu s) := by
  unfold execHalted; exact byRules

@[simp] theorem nextInv_execResume (clu : Nat) {s : State} (hs : Inv s) : NextInv (execResume clu s) := by
  unfold execResume; exact byRules

@[simp] theorem nextInv_execStepOne (clu core slot : Nat) {s : State} (hs : Inv s) : NextInv (execStepOne clu core slot s) := by
  unfold execStepOne; exact byRules

@[simp] theorem nextInv_execStepDone (clu : Nat) {s : State} (hs : Inv s) : NextInv (execStepDone clu s) := by
  unfold execStepDone; exact byRules

@[simp] theorem nextInv_execReportTaken (slot : Nat) {s : State} (hs : Inv s) : NextInv (execReportTaken slot s) := by
  unfold execReportTaken; exact byRules

@[simp] theorem inv_abortRoutes (s : State) (n : Nat) : Inv (s.abortRoutes n) ↔ Inv s := by
  simp [State.abortRoutes]

@[simp] theorem nextInv_execEscalation (slot : Nat) {s : State} (hs : Inv s) : NextInv (execEscalation slot s) := by
  unfold execEscalation; exact byRules

@[simp] theorem nextInv_execBindRecordWrite (clu idx : Nat) (val : Word) {s : State} (hs : Inv s) :
    NextInv (execBindRecordWrite clu idx val s) := by
  unfold execBindRecordWrite; exact byRules

/-! ## Mailbox, host, fabric, power (Platform) -/

@[simp] theorem inv_mailDone (s : State) (result : Nat) : Inv (s.mailDone result) ↔ Inv s := by
  simp [State.mailDone]

theorem inv_withHost {s : State} (hs : Inv s) {h : Memory} (hh : h.wf = true) : Inv { s with host := h } :=
  ⟨hs.1, hh⟩

@[simp] theorem nextInv_execResync {s : State} (hs : Inv s) : NextInv (execResync s) := by
  unfold execResync
  split
  · simp [hs]
  · refine .next ((inv_mailDone ..).mpr ?_)
    exact inv_withHost ((inv_with ..).mpr hs) (Memory.wf_writeBytes hs.2 _ _)

@[simp] theorem inv_runImage (s : State) (img : List Byte) : Inv (s.runImage img) ↔ Inv s := by
  simp [State.runImage]

@[simp] theorem nextInv_execLoadfw {s : State} (hs : Inv s) : NextInv (execLoadfw s) := by
  unfold execLoadfw; exact byRules

@[simp] theorem nextInv_execBoot {s : State} (hs : Inv s) : NextInv (execBoot s) := by
  unfold execBoot; exact byRules

@[simp] theorem nextInv_execLaunch {s : State} (hs : Inv s) : NextInv (execLaunch s) := by
  unfold execLaunch; exact byRules

@[simp] theorem nextInv_execReset {s : State} (hs : Inv s) : NextInv (execReset s) := by
  refine NextInv.next ?_
  have h : State.reset.mem.wf = true ∧ s.host.wf = true := ⟨rfl, hs.2⟩
  exact h

@[simp] theorem nextInv_execBadOpcode {s : State} (hs : Inv s) : NextInv (execBadOpcode s) := by
  unfold execBadOpcode; exact byRules

@[simp] theorem inv_writeBar0 (s : State) (off : Nat) (v : Word) : Inv (s.writeBar0 off v) ↔ Inv s := by
  unfold State.writeBar0; (repeat' split) <;> simp

@[simp] theorem inv_hostOver (s : State) (o : HostOp) : Inv (s.hostOver o) ↔ Inv s := by
  simp [State.hostOver]

@[simp] theorem inv_hostSettle (s : State) : Inv s.hostSettle ↔ Inv s := by
  simp [State.hostSettle]

@[simp] theorem inv_hostAsk (s : State) (link : Nat) (wr : Bool) (lines : List (Place × Nat × Nat)) (reg : Option (Nat × Nat)) :
    Inv (s.hostAsk link wr lines reg) ↔ Inv s := by
  simp [State.hostAsk]

@[simp] theorem inv_feedHost {s : State} (hs : Inv s) : Inv s.feedHost := by
  unfold State.feedHost; exact byRules

@[simp] theorem nextInv_execHostRead (link off len : Nat) {s : State} (hs : Inv s) : NextInv (execHostRead link off len s) := by
  unfold execHostRead; exact byRules

@[simp] theorem nextInv_execHostWrite (link off : Nat) (data : List Byte) {s : State} (hs : Inv s) :
    NextInv (execHostWrite link off data s) := by
  unfold execHostWrite; exact byRules

@[simp] theorem nextInv_execLinkTraining (n0 n1 n2 n3 : Nat) (hops : List (Nat × Nat)) {s : State} (hs : Inv s) :
    NextInv (execLinkTraining n0 n1 n2 n3 hops s) := by
  unfold execLinkTraining; exact byRules

@[simp] theorem nextInv_execPtpLock (t : Nat) {s : State} (hs : Inv s) : NextInv (execPtpLock t s) := by
  unfold execPtpLock; exact byRules

@[simp] theorem inv_boundary (s : State) (clu : Nat) : Inv (s.boundary clu) ↔ Inv s := by
  simp [State.boundary]

@[simp] theorem nextInv_execIntervalBoundary {s : State} (hs : Inv s) : NextInv (execIntervalBoundary s) := by
  unfold execIntervalBoundary; exact byRules

@[simp] theorem nextInv_execThermalCopy (clu : Nat) {s : State} (hs : Inv s) : NextInv (execThermalCopy clu s) := by
  unfold execThermalCopy; exact byRules

@[simp] theorem nextInv_execThermalRemap (clu : Nat) {s : State} (hs : Inv s) : NextInv (execThermalRemap clu s) := by
  unfold execThermalRemap; exact byRules

@[simp] theorem nextInv_execWearRotation (clu core : Nat) {s : State} (hs : Inv s) : NextInv (execWearRotation clu core s) := by
  unfold execWearRotation; exact byRules

/-! ## Fetch and table walks (Fetch) -/

@[simp] theorem keeps_fetchPlace (va : Word) : Keeps (fetchPlace va) := by
  unfold fetchPlace; exact byRules

@[simp] theorem keeps_fetchWord (va : Word) : Keeps (fetchWord va) := by
  unfold fetchWord; exact byRules

@[simp] theorem keeps_fetchInstr : Keeps fetchInstr := by
  unfold fetchInstr; exact byRules

@[simp] theorem inv_requestBlock {s : State} (hs : Inv s) (n : Nat) : Inv (s.requestBlock n) := by
  unfold State.requestBlock
  dsimp only
  split
  · exact hs
  · rename_i b now _
    refine inv_ite hs ?_
    have hm := keeps_fetchPlace b
    have hn : Inv { s with cur := n } := (inv_with ..).mpr hs
    split
    · have ht := hm.of_ok hn ‹_›
      simp [ht]
    · have ht := hm.of_error hn ‹_›
      exact inv_ite ((inv_with ..).mpr ht) hs
    · exact hs

@[simp] theorem inv_fetchServe {s : State} (hs : Inv s) (clu : Nat) : Inv (s.fetchServe clu) := by
  unfold State.fetchServe; exact byRules

@[simp] theorem nextInv_execFetchServe (clu : Nat) {s : State} (hs : Inv s) : NextInv (execFetchServe clu s) := by
  unfold execFetchServe; exact byRules

@[simp] theorem inv_sendRead (s : State) (clu : Nat) (code : Bool) (p : Place) : Inv (s.sendRead clu code p) ↔ Inv s := by
  simp [State.sendRead]

@[simp] theorem nextInv_execIcacheRefill (block : Nat × Nat) {s : State} (hs : Inv s) : NextInv (execIcacheRefill block s) := by
  unfold execIcacheRefill; exact byRules

@[simp] theorem inv_walkOn (s : State) (clu : Nat) (w : Walk) (g : Walk → Walk) : Inv (s.walkOn clu w g) ↔ Inv s := by
  simp [State.walkOn]

@[simp] theorem inv_walkDone (s : State) (clu : Nat) (w : Walk) (e : TlbEntry) : Inv (s.walkDone clu w e) ↔ Inv s := by
  simp [State.walkDone]

@[simp] theorem inv_walkRead (s : State) (clu : Nat) (w : Walk) (p : Place) (v : Nat) (bad : Bool) :
    Inv (s.walkRead clu w p v bad) ↔ Inv s := by
  unfold State.walkRead; (repeat' split) <;> simp

@[simp] theorem inv_tableWalk (s : State) (clu : Nat) (w : Walk) : Inv (s.tableWalk clu w) ↔ Inv s := by
  unfold State.tableWalk; (repeat' split) <;> simp

@[simp] theorem nextInv_execTableWalk (walk : Nat × Nat × Nat) {s : State} (hs : Inv s) : NextInv (execTableWalk walk s) := by
  unfold execTableWalk; exact byRules

@[simp] theorem inv_lookups {s : State} (hs : Inv s) (clu : Nat) : Inv (s.lookups clu) := by
  unfold State.lookups; exact byRules

/-! ## The cycle (Cycle) -/

@[simp] theorem nextInv_eventRun (e : Event) {s : State} (hs : Inv s) : NextInv (Event.run e s) := by
  unfold Event.run
  split <;> simp [hs]

@[simp] theorem inv_mapLive (s : State) (g : Nat → Slot → Slot) : Inv (s.mapLive g) ↔ Inv s := by
  simp [State.mapLive]

@[simp] theorem inv_mapClus (s : State) (g : Nat → Cluster → Cluster) : Inv (s.mapClus g) ↔ Inv s := by
  simp [State.mapClus]

@[simp] theorem inv_wayStep (s : State) (core : Nat) : Inv (s.wayStep core) ↔ Inv s := by
  simp [State.wayStep]

@[simp] theorem inv_countEvents (s : State) (clu : Nat) : Inv (s.countEvents clu) ↔ Inv s := by
  simp [State.countEvents]

@[simp] theorem inv_endCycle (s : State) : Inv s.endCycle ↔ Inv s := by
  simp [State.endCycle]

@[simp] theorem inv_enterHandlers {s : State} (hs : Inv s) (clu : Nat) : Inv (s.enterHandlers clu) := by
  unfold State.enterHandlers; exact byRules

@[simp] theorem inv_sendBad {s : State} (hs : Inv s) : Inv s.sendBad := by
  unfold State.sendBad; exact byRules

@[simp] theorem inv_dueSetcs (s : State) : Inv s.dueSetcs ↔ Inv s := by
  simp [State.dueSetcs]

@[simp] theorem inv_dueSlices (s : State) : Inv s.dueSlices ↔ Inv s := by
  unfold State.dueSlices; (repeat' split) <;> simp

@[simp] theorem inv_tick {s : State} (hs : Inv s) : Inv s.tick := by
  unfold State.tick
  extract_lets s₁ s₂ s₃ s₄ s₅ s₆ s₇ s₈ s₉ s₁₀
  have h₃ : Inv s₃ := (inv_mapLive ..).mpr ((inv_mapClus ..).mpr ((inv_with ..).mpr hs))
  have h₄ : Inv s₄ := inv_foldl (fun u n h => inv_ite h ((inv_modClu ..).mpr h)) _ h₃
  have h₆ : Inv s₆ := (inv_with ..).mpr ((inv_mapClus ..).mpr h₄)
  have h₇ : Inv s₇ := by
    refine inv_feedHost ((inv_hostSettle _).mpr ((inv_dueSlices _).mpr (inv_sendBad ((inv_dueSetcs _).mpr h₆))))
  have h₈ : Inv s₈ := inv_foldl (fun u n h => (inv_freeRestored ..).mpr h) _ h₇
  have h₁₀ : Inv s₁₀ := inv_foldl (fun u n h => inv_lookups h _) _ ((inv_mapClus ..).mpr h₈)
  exact inv_foldl (fun u n h => inv_enterHandlers h _) _ h₁₀

@[simp] theorem inv_beginCycle {s : State} (hs : Inv s) : Inv s.beginCycle := by
  unfold State.beginCycle
  have h : Inv ((s.live.map (·.1)).foldl State.requestBlock s) := inv_foldl (fun _ n h => inv_requestBlock h n) _ hs
  simp [h]

@[simp] theorem inv_useTurn (s : State) (core kind : Nat) : Inv (s.useTurn core kind) ↔ Inv s := by
  simp [State.useTurn]

@[simp] theorem inv_enginePass {s : State} (hs : Inv s) (core : Nat) (got : Option Nat) : Inv (s.enginePass core got) := by
  simp [State.enginePass, hs]

@[simp] theorem inv_engineFirst {s : State} (hs : Inv s) (core : Nat) : Inv (s.engineFirst core).1 := by
  unfold State.engineFirst; exact byRules

@[simp] theorem inv_engineLate {s : State} (hs : Inv s) (core : Nat) : Inv (s.engineLate core).1 := by
  unfold State.engineLate; exact byRules

@[simp] theorem inv_passOver (s : State) (clu kind bank : Nat) (us : List (Nat × List Event)) (got : Option Nat) :
    Inv (s.passOver clu kind bank us got) ↔ Inv s := by
  unfold State.passOver; (repeat' split) <;> simp

@[simp] theorem inv_svcStep {s : State} (hs : Inv s) (clu kind : Nat) : Inv (s.svcStep clu kind).1 := by
  unfold State.svcStep; exact byRules

@[simp] theorem inv_svcLate {s : State} (hs : Inv s) (clu kind : Nat) : Inv (s.svcLate clu kind).1 := by
  unfold State.svcLate; exact byRules

@[simp] theorem inv_svcSteps {s : State} (hs : Inv s) (clu : Nat) : Inv (s.svcSteps clu).1 := by
  simp [State.svcSteps, hs]

@[simp] theorem inv_turns {s : State} (hs : Inv s) : Inv s.turns := by
  unfold State.turns; exact byRules

@[simp] theorem inv_lateTurns {s : State} (hs : Inv s) : Inv s.lateTurns := by
  unfold State.lateTurns; exact byRules

@[simp] theorem inv_issueStage {s : State} (hs : Inv s) : Inv s.issueStage := by
  unfold State.issueStage; exact byRules

theorem inv_fetchHalt {s : State} {h : Halt} (hs : Inv s) (hh : HaltInv h) : Inv (s.fetchHalt h) := by
  unfold State.fetchHalt
  cases h with
  | trap t => simp [hs]
  | trapWith t u =>
    have hu : Inv u := hh
    simp [hu]
  | wait u why => simpa using hh
  | quit u => exact hh

@[simp] theorem inv_attempt {s : State} (hs : Inv s) (m : Nat) : Inv (s.attempt m).1 := by
  unfold State.attempt
  dsimp only
  have hn : Inv { s with cur := m % again } := (inv_with ..).mpr hs
  split
  · exact hn
  · split
    · have ht := keeps_fetchInstr.of_ok hn ‹_›
      exact (inv_with ..).mpr ht
    · have ht := keeps_fetchInstr.of_error hn ‹_›
      exact inv_fetchHalt hn ht

@[simp] theorem inv_filterNext {s : State} (hs : Inv s) (die : Nat) : Inv (s.filterNext die).1 := by
  unfold State.filterNext; exact byRules

theorem inv_next {s : State} (hs : Inv s) : Inv s.next.1 := by
  unfold State.next
  split
  · exact (inv_with ..).mpr hs
  · exact inv_filterNext ((inv_with ..).mpr hs) _
  · exact inv_attempt ((inv_with ..).mpr hs) _
  · split
    · exact inv_beginCycle hs
    · exact inv_turns hs
    · exact inv_issueStage hs
    · exact inv_lateTurns hs
    · exact (inv_with ..).mpr (inv_completeTagged hs)

/-! ## The step (O60) -/

theorem nextInv_exec (i : Instr) {s : State} (hs : Inv s) : NextInv (exec i s) := by
  unfold exec
  split <;> simp [hs]

theorem nextInv_step {s : State} (hs : Inv s) : NextInv (step s) := by
  have hn := inv_next hs
  unfold step
  split
  · exact nextInv_eventRun _ (inv_fst ‹_› hn)
  · exact nextInv_exec _ (inv_fst ‹_› hn)
  · exact .next (inv_fst ‹_› hn)

/-- Settles O60: whatever the step does, each operation that it is made of keeps the invariant. -/
theorem stepKeepsMemoryForm : Obligations.StepKeepsMemoryForm := by
  unfold Obligations.StepKeepsMemoryForm
  intro s t hs h
  have hn := nextInv_step hs
  rw [h] at hn
  exact nextInv_next.mp hn

/-! ## The state after reset (O58) -/

theorem innerDefault_holds : ∀ e < 18, ∀ b < 16, Wheel.innerDefault.holds b e = (b + e) % 18 := by decide

theorem outerDefault_holds : ∀ f < 32, ∀ c < 32, Wheel.outerDefault.holds c (18 * f) = (c + f) % 32 := by decide

/-- Settles O58: the state after reset lists no slot, core, cluster, die or byte, so each reads as its default; what is left are the
tables of the two default wheels, and `PRIVT`. -/
theorem resetState : Obligations.ResetState := by
  refine ⟨⟨rfl, rfl⟩, rfl, fun _ => rfl, fun _ => rfl, fun _ => ⟨rfl, rfl⟩, fun _ => ?_, fun _ => ?_, fun _ => ?_⟩
  · exact ⟨rfl, rfl, rfl, rfl, rfl, fun _ => rfl, rfl, rfl, innerDefault_holds⟩
  · exact ⟨rfl, rfl, rfl, outerDefault_holds⟩
  · simp [State.reset, Vector.getElem?_replicate]

end Sys2Proof.Claims
end

section
/-! PROOFS. How an effect begins, and what an instruction whose guard is false does in place of its own effect (O2). -/

namespace Sys2Proof.Machine

/-! ## The state in which an effect begins (R48, R78) -/

theorem State.unwaited_slot_of_ne (s : State) {n : Nat} (h : n ≠ s.cur) : s.unwaited.slot n = s.slot n :=
  State.slot_setSlot_of_ne s s.cur n _ h

theorem State.refill_slot_of_ne (s : State) {n k : Nat} (h : k ≠ n) : (s.refill n).slot k = s.slot k :=
  State.slot_setSlot_of_ne (s.claimPort (slotCore n)) n k _ h

/-- Beginning an effect leaves every other slot. -/
theorem State.entered_slot_of_ne (s : State) (r : Raw) {n : Nat} (h : n ≠ s.cur) : (s.entered r).slot n = s.slot n := by
  rw [entered_eq]
  split
  · exact (State.refill_slot_of_ne s.unwaited h).trans (s.unwaited_slot_of_ne h)
  · exact s.unwaited_slot_of_ne h

/-- A register of a cache that has just been refilled is a word of the workspace (R48). -/
theorem Slot.reg_cached (x : Slot) (s : State) {k : Nat} (hk : k < 32) : (x.cached s.cacheWords).reg (BitVec.ofNat 6 k)
    = BitVec.ofNat 64 (s.readMem (localPlace (slotCore s.cur) (s.me.wp.toNat + 8 * k)).key 8) := by
  have e : (BitVec.ofNat 6 k).toNat % 32 = k := by rw [BitVec.toNat_ofNat]; omega
  rw [Slot.reg, Slot.cached_w, e, Vector.getElem?_eq_getElem hk, Option.getD_some, State.cacheWords, Vector.getElem_ofFn]

/-! ## The waits of an instruction whose guard is false (R19) -/

/-- The operands that are taken are ports and `pv`. -/
theorem Raw.mem_taken {r : Raw} {x : Spec} (h : x ∈ r.taken) : isPort x = true ∨ x = 48 := by
  simpa using (List.mem_filter.mp h).2

/-- The value that is at hand of an operand does not depend on what the thread waits for. -/
theorem value?_unwaited (s : State) (x : Spec) : s.unwaited.value? s.cur x = s.value? s.cur x := by
  have hw : s.unwaited.slot s.cur = s.me.unwait := unwaited_me s
  unfold State.value?
  rw [hw]
  rfl

/-- What a port or `pv` reads as does not depend on what the thread waits for. -/
theorem reads_unwaited (s : State) (f : Form) {x : Spec} (h : isPort x = true ∨ x = 48) : s.unwaited.reads f x = s.reads f x := by
  have hcur : s.unwaited.cur = s.cur := rfl
  have hcyc : s.unwaited.cyc = s.cyc := rfl
  unfold State.reads
  rw [hcur, hcyc, unwaited_me, value?_unwaited]
  rcases h with h | rfl
  · simp only [h, if_true, Slot.unwait_ports]
  · rfl

/-- A read of a port or of `pv` changes nothing. -/
theorem touched_of_taken (s : State) {x : Spec} (h : isPort x = true ∨ x = 48) : s.touched x = s := by
  have hx : isHandle x = false := by
    rcases h with h | rfl
    · simp [isPort] at h
      simp [isHandle]
      omega
    · rfl
  rw [touched_eq, hx]
  rfl

/-- Ports and `pv` that hold a value are not waited for, and keep it. -/
theorem waitTaken_of {s : State} (l : List Spec) (h : ∀ x ∈ l, (isPort x = true ∨ x = 48) ∧ (s.reads .base x).isSome = true) :
    waitTaken l s = .ok ((), s) := by
  induction l with
  | nil => rfl
  | cons x xs ih =>
    obtain ⟨⟨hx, hv⟩, hxs⟩ := List.forall_mem_cons.mp h
    obtain ⟨v, hv⟩ := Option.isSome_iff_exists.mp hv
    have hs : src .base x s = .ok (v, s) := by rw [src_reads hv, touched_of_taken s hx]
    rw [waitTaken, M.bind_ok hs]
    exact ih hxs

/-- What a slot's `pv` holds, and whether a load has claimed it, do not depend on what a thread waits for. -/
theorem slot_unwaited_pv (s : State) (n : Nat) : (s.unwaited.slot n).live = (s.slot n).live ∧
    (s.unwaited.slot n).pv = (s.slot n).pv ∧ (s.unwaited.slot n).pvClaim = (s.slot n).pvClaim := by
  by_cases h : n = s.cur
  · have hw : s.unwaited.slot s.cur = s.me.unwait := unwaited_me s
    rw [h, hw]
    exact ⟨rfl, rfl, rfl⟩
  · rw [s.unwaited_slot_of_ne h]
    exact ⟨rfl, rfl, rfl⟩

/-- An instruction whose guard is false does not wait where the ports and `pv` that it would read hold a value, and the `pv` that
it would write is empty. -/
theorem falseWaits_of {r : Raw} {s : State} (ht : ∀ x ∈ r.taken, (s.reads .base x).isSome = true)
    (hd : (∃ p ∈ r.roles, p.2.1 = 49 ∧ (p.2.2 = .dst ∨ p.2.2 = .both)) → (s.slot (nextSlot s.cur)).live = true →
      (s.slot (nextSlot s.cur)).pv = none ∧ (s.slot (nextSlot s.cur)).pvClaim = none) :
    falseWaits r s.unwaited = .ok ((), s.unwaited) := by
  have hw : waitTaken r.taken s.unwaited = .ok ((), s.unwaited) :=
    waitTaken_of _ fun x hx => ⟨Raw.mem_taken hx, by rw [reads_unwaited s .base (Raw.mem_taken hx)]; exact ht x hx⟩
  rw [falseWaits, M.bind_ok hw]
  split
  · rename_i hn
    have hp : ∃ p ∈ r.roles, p.2.1 = 49 ∧ (p.2.2 = .dst ∨ p.2.2 = .both) := by simpa using hn
    obtain ⟨hlive, hpv, hclaim⟩ := slot_unwaited_pv s (nextSlot s.cur)
    have hcur : s.unwaited.cur = s.cur := rfl
    exact dstReady_of (by rw [if_pos rfl, hcur, hlive, hpv, hclaim]; exact hd hp)
  · rfl

/-! ## What an instruction whose guard is false leaves (R19, R44) -/

/-- Setting when registers are available changes nothing else of a slot. -/
theorem Slot.foldl_later (l : List Res) (c : Nat) (x : Slot) :
    l.foldl (fun x d => x.later d c) x = { x with avail := (l.foldl (fun x d => x.later d c) x).avail } := by
  induction l generalizing x with
  | nil => rfl
  | cons d l ih =>
    rw [List.foldl_cons, ih]
    rfl

theorem skipped_run (r : Raw) (s : State) :
    ∃ w, skipped r s = .ok ((), s.modSlot s.cur fun x => { x with avail := w }) := by
  unfold skipped
  rw [M.bind_ok (M.get_run s), M.modMe_run, State.modSlot_eq, Slot.foldl_later]
  exact ⟨_, rfl⟩

/-- An instruction whose guard is false completes once its waits have passed, whatever its own effect. -/
theorem issue_skipped {i : Instr} {r : Raw} {s : State} (body : M Unit) (h : Issues i r s) (hg : guardHolds r s.me = false)
    (hf : falseWaits r s.unwaited = .ok ((), s.unwaited)) :
    ∃ t w, issue i body s = .next t ∧ Finished r s ((s.entered r).modSlot s.cur fun x => { x with avail := w }) t := by
  obtain ⟨w, hw⟩ := skipped_run r (s.entered r)
  rw [State.entered_cur] at hw
  refine ⟨_, w, ?_, finished_of r s _⟩
  unfold issue
  rw [h.raw]
  simp only [h.live, Bool.not_true, Bool.false_eq_true, if_false]
  rw [M.bind_ok (prologue_issues h hg (by simp) fun _ => hf)]
  simp only [Bool.false_eq_true, if_false]
  rw [hw]

/-- The frame of a machine instruction: one that has words is issued, with an effect of its own. The words of a debug access tell its
two directions apart, its frame does not. -/
theorem exec_eq_issue {i : Instr} {r : Raw} (h : i.raw = some r) (s : State) : ∃ body, exec i s = issue i body s := by
  cases i with
  | dbgData => exact ⟨_, rfl⟩
  | _ => cases h <;> exact ⟨_, rfl⟩

end Sys2Proof.Machine

namespace Sys2Proof.Claims

open Sys2Proof.Machine

theorem effectBegins : EffectBegins := by
  intro r s
  refine ⟨fun a => by rw [State.entered_mem], fun n h => s.entered_slot_of_ne r h, s.entered_clu r, fun hc => ?_, fun hc => ?_⟩
  · refine ⟨?_, fun c => ?_⟩
    · rw [entered_me, hc]
      rfl
    · rw [entered_eq, hc]
      rfl
  · rw [entered_me, hc]
    exact ⟨rfl, fun k hk => Slot.reg_cached _ s hk⟩

theorem falseGuard : FalseGuard := by
  intro i r s h hg ht hd
  obtain ⟨body, e⟩ := exec_eq_issue h.raw s
  rw [e]
  exact issue_skipped body h hg (falseWaits_of ht hd)

/-- Settles O2: beginning an effect refills an absent register cache and does nothing else; an instruction whose guard is false
passes the waits of its operands, and then sets only when its destination is available. -/
theorem issueStage : Obligations.IssueStage := ⟨effectBegins, falseGuard⟩

end Sys2Proof.Claims
end

section
/-! PROOFS. Decoding agrees with encoding (O59). The words of an instruction's fields are read back as those fields, and fields as the
words that they were read from; and the opcode map names, for each set of fields, the one instruction that has them. -/

namespace Sys2Proof.Laws

/-! ## Slices of a word -/

theorem slice_high {v w : Nat} {x : BitVec v} {y : BitVec w} {s l : Nat} (h : w ≤ s) :
    (x.append y).extractLsb' s l = x.extractLsb' (s - w) l := BitVec.extractLsb'_append_eq_of_le h

theorem slice_low {v w : Nat} {x : BitVec v} {y : BitVec w} {s l : Nat} (h : s + l ≤ w) :
    (x.append y).extractLsb' s l = y.extractLsb' s l := BitVec.extractLsb'_append_eq_of_add_le h

theorem slices_join {n s k l m : Nat} {x : BitVec n} (h : s = k + l) :
    (x.extractLsb' s m).append (x.extractLsb' k l) = x.extractLsb' k (m + l) :=
  BitVec.extractLsb'_append_extractLsb'_eq_extractLsb' h

/-! ## Words and their fields (R24, R28, R30) -/

theorem Ext.ofWord_word (x : Ext) : Ext.ofWord x.word = x := by
  simp [Ext.ofWord, Ext.word, HAppend.hAppend, slice_high, slice_low, -BitVec.append_eq]

theorem Ext.word_ofWord (w : Word32) : (Ext.ofWord w).word = w := by
  simp [Ext.ofWord, Ext.word, HAppend.hAppend, slices_join, -BitVec.append_eq]

theorem literal_join (l : Word) : BitVec.extractLsb' 32 32 l ++ BitVec.extractLsb' 0 32 l = l :=
  BitVec.extractLsb'_append_extractLsb' (w := 32) (len := 32)

theorem literal_low (h l : Word32) : BitVec.extractLsb' (n := 64) 0 32 (h ++ l) = l := BitVec.extractLsb'_append_eq_right

theorem literal_high (h l : Word32) : BitVec.extractLsb' (n := 64) 32 32 (h ++ l) = h := BitVec.extractLsb'_append_eq_left

theorem Form.ofWords_words (f : Form) : Form.ofWords f.len f.words = some f := by
  cases f with
  | base => rfl
  | lit l => exact congrArg (fun l => some (Form.lit l)) (literal_join l)
  | ext x i => exact congrArg (fun x => some (Form.ext x i)) (Ext.ofWord_word x)
  | extLit x i l => exact congrArg₂ (fun x l => some (Form.extLit x i l)) (Ext.ofWord_word x) (literal_join l)

/-- The number of words that LEN gives is that of the words of the form, and the base word (R24). -/
theorem Form.lenWords_len (f : Form) : lenWords f.len = f.words.length + 1 := by cases f <;> rfl

theorem Form.of_ofWords {len : BitVec 2} {ws : List Word32} {f : Form} (h : Form.ofWords len ws = some f) :
    f.len = len ∧ f.words = ws.take f.words.length := by
  have hlen (n : BitVec 2) (hn : len.toNat = n.toNat) : n = len := (BitVec.eq_of_toNat_eq hn).symm
  unfold Form.ofWords at h
  split at h <;> cases h
  case h_1 hl => exact ⟨hlen 0 hl, rfl⟩
  case h_2 hl => exact ⟨hlen 1 hl, by simp [Form.words, literal_low, literal_high]⟩
  case h_3 hl => exact ⟨hlen 2 hl, by simp [Form.words, Ext.word_ofWord]⟩
  case h_4 hl => exact ⟨hlen 3 hl, by simp [Form.words, Ext.word_ofWord, literal_low, literal_high]⟩

theorem Raw.ofWord_base (r : Raw) : Raw.ofWord r.base r.f = r := by
  simp [Raw.ofWord, Raw.base, HAppend.hAppend, slice_high, slice_low, -BitVec.append_eq]

theorem lenOf_base (r : Raw) : lenOf r.base = r.f.len := by
  simp [lenOf, Raw.base, HAppend.hAppend, slice_high, -BitVec.append_eq]

theorem Raw.base_ofWord {w : Word32} {f : Form} (h : f.len = lenOf w) : (Raw.ofWord w f).base = w := by
  simp [Raw.ofWord, Raw.base, h, lenOf, HAppend.hAppend, slices_join, -BitVec.append_eq]

/-- Fields that pass the checks and name an instruction are decoded from their words (R25). -/
theorem decodeWords_words {r : Raw} {i : Instr} (hw : r.wf = true) (hi : r.instr = some i) :
    decodeWords r.words = some (i, r.words.length) := by
  simp [decodeWords, Raw.words, lenOf_base, Form.ofWords_words, Raw.ofWord_base, hw, hi, Form.lenWords_len]

/-- Words that decode begin with those of the fields that the decoder reads there. -/
theorem of_decodeWords {ws : List Word32} {i : Instr} {n : Nat} (h : decodeWords ws = some (i, n)) :
    ∃ r : Raw, r.wf = true ∧ r.instr = some i ∧ r.words = ws.take n := by
  cases ws with
  | nil => cases h
  | cons w ws =>
    unfold decodeWords at h
    cases hf : Form.ofWords (lenOf w) ws with
    | none => simp [hf] at h
    | some f =>
      obtain ⟨hl, hws⟩ := Form.of_ofWords hf
      simp only [hf, Option.ite_none_right_eq_some, Option.map_eq_some_iff, Prod.mk.injEq] at h
      obtain ⟨hw, j, hj, rfl, rfl⟩ := h
      refine ⟨_, hw, hj, ?_⟩
      rw [← hl, Form.lenWords_len, List.take_succ_cons, ← hws, Raw.words, Raw.base_ofWord hl]
      rfl

/-! ## Sub-fields of a base word (R41) -/

theorem high_of_append (x y : BitVec 6) : BitVec.extractLsb' (n := 12) 6 6 (x ++ y) = x := BitVec.extractLsb'_append_eq_left

theorem low_of_append (x y : BitVec 6) : BitVec.extractLsb' (n := 12) 0 6 (x ++ y) = y := BitVec.extractLsb'_append_eq_right

theorem split_1_5 : ∀ x : BitVec 6, x.extractLsb' 5 1 ++ x.extractLsb' 0 5 = x := by decide

theorem pad_2 : ∀ x : BitVec 6, x.extractLsb' 2 4 = 0 → 0#4 ++ x.extractLsb' 0 2 = x := by decide

theorem pad_3 : ∀ x : BitVec 6, x.extractLsb' 3 3 = 0 → 0#3 ++ x.extractLsb' 0 3 = x := by decide

theorem pad_4 : ∀ x : BitVec 6, x.extractLsb' 4 2 = 0 → 0#2 ++ x.extractLsb' 0 4 = x := by decide

/-- The offset of a form-I access stands beside its width in the two immediate fields. -/
theorem width_offset (b fn : BitVec 6) :
    b.extractLsb' 4 2 ++ BitVec.extractLsb' (n := 10) 6 4 (b.extractLsb' 0 4 ++ fn) = b ∧
      BitVec.extractLsb' (n := 10) 0 6 (b.extractLsb' 0 4 ++ fn) = fn := by
  have hb : ∀ b : BitVec 6, b.extractLsb' 4 2 ++ b.extractLsb' 0 4 = b := by decide
  have ho : BitVec.extractLsb' (n := 10) 6 4 (b.extractLsb' 0 4 ++ fn) = b.extractLsb' 0 4 := BitVec.extractLsb'_append_eq_left
  exact ⟨by rw [ho]; exact hb b, BitVec.extractLsb'_append_eq_right⟩

/-- The three fields of a branch offset (R29). -/
theorem offset_fields (a b fn : BitVec 6) : BitVec.extractLsb' (n := 18) 12 6 (a ++ b ++ fn) = a ∧
    BitVec.extractLsb' (n := 18) 6 6 (a ++ b ++ fn) = b ∧ BitVec.extractLsb' (n := 18) 0 6 (a ++ b ++ fn) = fn := by
  simp [HAppend.hAppend, slice_high, slice_low, -BitVec.append_eq]

theorem ldx_fields : ∀ x : BitVec 6, x.extractLsb' 2 1 = 0 →
    x.extractLsb' 4 2 ++ x.extractLsb' 3 1 ++ 0#1 ++ x.extractLsb' 0 2 = x := by decide

theorem stx_fields : ∀ x : BitVec 6, x.extractLsb' 2 2 = 1 → x.extractLsb' 4 2 ++ 1#2 ++ x.extractLsb' 0 2 = x := by decide

theorem bat_fields : ∀ x : BitVec 6, x.extractLsb' 4 1 = 0 → x.extractLsb' 5 1 ++ 0#1 ++ x.extractLsb' 0 4 = x := by decide

theorem cas_fields : ∀ x : BitVec 6, x.extractLsb' 0 5 = 9 → x.extractLsb' 5 1 ++ 9#5 = x := by decide

theorem not_cas : ∀ x : BitVec 6, x.extractLsb' 0 5 ≠ 9 → x.extractLsb' 4 1 = 0 → x.extractLsb' 0 4 ≠ 9 := by decide

theorem fence_fields : ∀ x : BitVec 6, x.extractLsb' 0 3 = 0 → x.extractLsb' 4 2 ++ x.extractLsb' 3 1 ++ 0#3 = x := by decide

theorem vatom_fields : ∀ x : BitVec 6, x.extractLsb' 3 2 = 0 → x.extractLsb' 5 1 ++ 0#2 ++ x.extractLsb' 0 3 = x := by decide

theorem tld_fields : ∀ x : BitVec 6, x.extractLsb' 3 3 = 0 →
    0#3 ++ x.extractLsb' 2 1 ++ x.extractLsb' 1 1 ++ x.extractLsb' 0 1 = x := by decide

theorem tmma_fields : ∀ x : BitVec 6, x.extractLsb' 2 3 = 0 → x.extractLsb' 5 1 ++ 0#3 ++ x.extractLsb' 0 2 = x := by decide

/-! ## The opcode map (R41) -/

/-- An instruction, where there is one, whose fields are `r`, and which no other row of the opcode table stands for. -/
def Named (r : Raw) (o : Option Instr) : Prop := ∀ i, o = some i → i.raw = some r ∧ i.ownRow = false

theorem named_none (r : Raw) : Named r none := fun _ h => (Option.some_ne_none _ h.symm).elim

theorem named_some {r u : Raw} {i : Instr} (hi : i.raw = some u) (ho : i.ownRow = false) (h : u = r) : Named r (some i) := by
  rintro _ ⟨⟩
  exact ⟨h ▸ hi, ho⟩

theorem named_ite {r : Raw} {p : Prop} [Decidable p] {x y : Option Instr} (hx : p → Named r x) (hy : ¬ p → Named r y) :
    Named r (if p then x else y) := by
  split
  · exact hx ‹_›
  · exact hy ‹_›

/-- A row of the opcode map whose instruction has the fields that the row asks for, and the rows after it. -/
theorem named_row {r u : Raw} {i : Instr} {p : Prop} [Decidable p] {y : Option Instr} (hi : i.raw = some u)
    (ho : i.ownRow = false) (h : p → u = r) (hy : Named r y) : Named r (if p then some i else y) :=
  named_ite (fun hp => named_some hi ho (h hp)) fun _ => hy

/-- A control-register number is written in the fields that it was read from (R75). -/
theorem creg_of_number {r : Raw} {n : BitVec 12} (h : r.number = n.toNat) : Raw.creg r.maj r.d r.a n r.f = r := by
  obtain ⟨m, d, a, b, fn, f⟩ := r
  have hn := n.isLt
  unfold Raw.number at h
  cases f with
  | base =>
    obtain rfl : b ++ fn = n := BitVec.eq_of_toNat_eq h
    simp [Raw.creg, high_of_append, low_of_append]
  | ext x imm =>
    dsimp only at h
    split at h
    · simp_all [Raw.creg]
    · omega
  | lit | extLit => dsimp only at h; omega

/-- The number of a control-register access does not depend on its operands. -/
theorem number_creg (m d a m' d' a' : BitVec 6) (n : BitVec 12) (f : Form) :
    (Raw.creg m d a n f).number = (Raw.creg m' d' a' n f).number := by cases f <;> rfl

/-- A row of its own for one control register (R42, R75). -/
theorem named_creg {r : Raw} {i : Instr} {k : Nat} (n : BitVec 12) {y : Option Instr} (hk : n.toNat = k)
    (hi : i.raw = some (Raw.creg r.maj r.d r.a n r.f)) (ho : (Raw.creg r.maj r.d r.a n r.f).number = k → i.ownRow = false)
    (hy : r.number ≠ k → Named r y) : Named r (if r.number = k then some i else y) :=
  named_ite (fun h => named_some hi (ho (by rw [creg_of_number (h.trans hk.symm), h])) (creg_of_number (h.trans hk.symm))) hy

theorem maj1F_named {r : Raw} (h : r.maj = 31) : Named r r.maj1F := by
  obtain ⟨m, d, a, b, fn, f⟩ := r
  subst h
  refine named_ite (fun ha => ?_) fun _ => named_none _
  obtain rfl : a = 0 := ha
  have own (n : BitVec 12) (k : Nat) (h : (Raw.creg 31 d 0 n f).number = k) :
      decide ((Raw.creg 31 0 0 n f).number ≠ k) = false := by rw [number_creg 31 0 0 31 d 0, h]; simp
  refine named_creg 0x02F rfl rfl (own 0x02F _) fun h1 => named_creg 0x15A rfl rfl (own 0x15A _) fun h2 =>
    named_creg 0x185 rfl rfl (own 0x185 _) fun h3 => named_some rfl ?_ ?_
  · simp only [Instr.ownRow, high_of_append, low_of_append]
    simpa using ⟨h1, h2, h3⟩
  · simp only [high_of_append, low_of_append]

theorem maj20_named {r : Raw} (h : r.maj = 32) : Named r r.maj20 := by
  obtain ⟨m, d, a, b, fn, f⟩ := r
  subst h
  refine named_ite (fun hd => ?_) fun _ => named_none _
  obtain rfl : d = 0 := hd
  have own (n : BitVec 12) (k : Nat) (m : BitVec 6) (h : (Raw.creg 32 0 a n f).number = k) :
      decide ((Raw.creg m 0 0 n f).number ≠ k) = false := by rw [number_creg m 0 0 32 0 a, h]; simp
  refine named_creg 0x185 rfl rfl (own 0x185 _ 31) fun h1 => named_creg 0x190 rfl rfl (own 0x190 _ 32) fun h2 =>
    named_creg 0x194 rfl rfl (own 0x194 _ 32) fun h3 => named_creg 0x143 rfl rfl (own 0x143 _ 32) fun h4 => named_some rfl ?_ ?_
  · simp only [Instr.ownRow, high_of_append, low_of_append]
    simpa using ⟨h4, h1, h2, h3⟩
  · simp only [high_of_append, low_of_append]

theorem field_eq {k n : Nat} {m : BitVec k} (h : m.toNat = n) : m = BitVec.ofNat k n := by
  rw [← h, BitVec.ofNat_toNat, BitVec.setWidth_eq]

theorem maj15_named {r : Raw} (h : r.maj = 21) : Named r r.maj15 := by
  obtain ⟨m, d, a, b, fn, f⟩ := r
  subst h
  refine named_ite (fun h => named_some rfl rfl (by rw [cas_fields fn h])) fun hc =>
    named_ite (fun h => named_some rfl (decide_eq_false (not_cas fn hc h)) (by rw [bat_fields fn h])) fun _ => named_none _

/-- Each major of the opcode map names the instruction that has the fields read. Case `h_k` is the `k`-th arm of the map: major `k - 1` up
to 0x21, major `k + 1` from 0x24 on. -/
theorem instr_named (r : Raw) : Named r r.instr := by
  unfold Raw.instr
  obtain ⟨m, d, a, b, fn, f⟩ := r
  split
  case h_53 => exact named_none _
  case h_22 h => exact maj15_named (field_eq h)
  case h_32 h => exact maj1F_named (field_eq h)
  case h_33 h => exact maj20_named (field_eq h)
  all_goals
    rename_i h
    obtain rfl := field_eq h
  case h_3 | h_4 | h_5 | h_6 | h_35 | h_36 =>
    exact named_some rfl rfl (by simp [high_of_append, low_of_append])
  case h_9 | h_10 | h_24 | h_42 => exact named_some rfl rfl rfl
  case h_7 => exact named_row rfl rfl (by simp +contextual [pad_2]) (named_none _)
  case h_8 => exact named_row rfl rfl (by simp +contextual [high_of_append, low_of_append]) (named_none _)
  case h_12 => exact named_some rfl rfl (by simp [split_1_5])
  case h_13 => exact named_row rfl rfl (by simp +contextual [pad_2]) (named_none _)
  case h_15 | h_16 => exact named_row rfl rfl (by simp +contextual [split_1_5, offset_fields]) (named_none _)
  case h_18 | h_19 | h_20 => exact named_some rfl rfl (by simp [width_offset])
  case h_21 =>
    exact named_row rfl rfl (by simp +contextual [stx_fields])
      (named_row rfl rfl (by simp +contextual [ldx_fields]) (named_none _))
  case h_41 => exact named_row rfl rfl (by simp +contextual [pad_4]) (named_none _)
  case h_46 => exact named_row rfl rfl (by simp +contextual [vatom_fields]) (named_none _)
  case h_47 => exact named_row rfl rfl (by simp +contextual [tld_fields]) (named_none _)
  case h_49 => exact named_row rfl rfl (by simp +contextual [tmma_fields]) (named_none _)
  case' h_17 =>
    refine named_row rfl rfl (by simp +contextual [pad_4]) (named_row rfl rfl (by simp +contextual [pad_4]) ?_)
  case' h_29 =>
    refine named_row rfl rfl (by simp +contextual [pad_3, fence_fields]) ?_
  all_goals
    simp only [Raw.maj00, Raw.maj01, Raw.maj0A, Raw.maj0D, Raw.maj16, Raw.maj18, Raw.maj19, Raw.maj1A, Raw.maj1B, Raw.maj1D,
      Raw.maj1E, Raw.maj21, Raw.maj26, Raw.maj27, Raw.maj28, Raw.maj29, Raw.maj2C, Raw.maj2D, Raw.maj2E, Raw.maj31, Raw.maj33,
      Raw.maj34, Raw.maj35]
    repeat refine named_row rfl rfl (by simp +contextual) ?_
    exact named_none _

/-- The fields of every well-formed instruction name it: a law for each constructor. -/
theorem instr_of_raw (i : Instr) : Fields.Statement i := by
  cases i <;> simp only [
    Fields.nop, Fields.yield, Fields.realign, Fields.add, Fields.sub, Fields.and, Fields.or, Fields.xor, Fields.andn,
    Fields.shl, Fields.shr, Fields.sar, Fields.rol, Fields.min, Fields.max, Fields.minn, Fields.maxn, Fields.mul,
    Fields.mulh, Fields.mulhn, Fields.div, Fields.divn, Fields.rem, Fields.remn, Fields.clz, Fields.popc, Fields.ctz,
    Fields.addi, Fields.andi, Fields.ori, Fields.xori, Fields.shfi, Fields.movi, Fields.cmp, Fields.cmpi, Fields.pand,
    Fields.por, Fields.pxor, Fields.pandn, Fields.pnot, Fields.pset, Fields.pclr, Fields.pmovr, Fields.pmovw, Fields.sel,
    Fields.lea, Fields.bitf, Fields.br, Fields.call, Fields.jmpr, Fields.callg, Fields.ret, Fields.callrm, Fields.reply,
    Fields.wpset, Fields.semwait, Fields.sempost, Fields.ld, Fields.lds, Fields.st, Fields.ldx, Fields.stx, Fields.bat,
    Fields.batCas, Fields.bst, Fields.bld, Fields.waitw, Fields.seal, Fields.unseal, Fields.wturn, Fields.turnq, Fields.rld,
    Fields.rst, Fields.rldv, Fields.rstv, Fields.rat, Fields.pbind, Fields.mcast, Fields.pclose, Fields.pstat, Fields.cpfwd,
    Fields.cpwait, Fields.cbinit, Fields.cbprod, Fields.cbcons, Fields.cbstat, Fields.fence, Fields.bari, Fields.bara,
    Fields.barw, Fields.bart, Fields.spawn, Fields.enq, Fields.park, Fields.endT, Fields.migr, Fields.disp, Fields.tdone,
    Fields.planw, Fields.plansw, Fields.rgsync, Fields.rgenter, Fields.rgexit, Fields.trel, Fields.isclaim, Fields.isrel,
    Fields.iswin, Fields.ismode, Fields.isldw, Fields.isldv, Fields.isgo, Fields.iscap, Fields.isclr, Fields.getc,
    Fields.setc, Fields.cpLaunch, Fields.trap, Fields.eret, Fields.tlbinv, Fields.whlset, Fields.whlsw, Fields.bankret,
    Fields.dbrk, Fields.tracew, Fields.vld, Fields.vst, Fields.vldx, Fields.vstx, Fields.vadd, Fields.vsub, Fields.vmul,
    Fields.vdiv, Fields.vmin, Fields.vmax, Fields.vsqrt, Fields.vrcp, Fields.vrsq, Fields.vexp2, Fields.vlog2, Fields.vabs,
    Fields.vneg, Fields.vrint, Fields.vfma, Fields.vfms, Fields.vfnma, Fields.viadd, Fields.visub, Fields.vimul,
    Fields.vimulh, Fields.vand, Fields.vor, Fields.vxor, Fields.vshl, Fields.vshr, Fields.vsar, Fields.vimin, Fields.vimax,
    Fields.viminn, Fields.vimaxn, Fields.vimulhn, Fields.vcvt, Fields.vcmp, Fields.kand, Fields.kor, Fields.kxor,
    Fields.knot, Fields.kpop, Fields.kmovw, Fields.kmovk, Fields.vsel, Fields.vradd, Fields.vrmax, Fields.vrmin,
    Fields.vriadd, Fields.vrand, Fields.vror, Fields.vrimax, Fields.vrimin, Fields.vbcast, Fields.vperm, Fields.vrot,
    Fields.vgetl, Fields.vsetl, Fields.viota, Fields.vflgr, Fields.vflgc, Fields.vatom, Fields.tld, Fields.tst, Fields.tmma,
    Fields.tzero, Fields.tscale, Fields.tadd, Fields.tgetr, Fields.tputr, Fields.tmask, Fields.twait, Fields.tcmd,
    Fields.kvcommit, Fields.ldf, Fields.ldi, Fields.filterAdd, Fields.filterSub, Fields.filterAnd, Fields.filterOr,
    Fields.filterShr, Fields.jeq, Fields.jne, Fields.jlt, Fields.cnt, Fields.keep, Fields.drop, Fields.trig, Fields.mark,
    Fields.traceRecord, Fields.waypointRecord, Fields.halt, Fields.haltEvent, Fields.halted, Fields.resume, Fields.stepOne,
    Fields.stepDone, Fields.dbgData, Fields.trcCtl, Fields.trcFdata, Fields.raceClr, Fields.capOut, Fields.resync,
    Fields.loadfw, Fields.launch, Fields.reset, Fields.badOpcode, Fields.boot, Fields.hostRead, Fields.hostWrite,
    Fields.linkTraining, Fields.ptpLock, Fields.sliceInstant, Fields.intervalBoundary, Fields.thermalCopy,
    Fields.thermalRemap, Fields.timerExpiry, Fields.budgetExhausted, Fields.preemption, Fields.preemptSave,
    Fields.preemptEnqueue, Fields.queueAging, Fields.dispatch, Fields.contextRestore, Fields.parkWake, Fields.deposit,
    Fields.remoteCall, Fields.matrixCommand, Fields.migrationArrival, Fields.migrationResend, Fields.remoteAccess,
    Fields.responseDelivery, Fields.lossNotice, Fields.mcastDelivery, Fields.streamOpen, Fields.streamWord,
    Fields.streamEnd, Fields.streamTimeout, Fields.streamAbort, Fields.groupWatchdog, Fields.packetForward, Fields.laneDrop,
    Fields.routerGate, Fields.routerWake, Fields.turnService, Fields.waitwReread, Fields.wheelSwap, Fields.stripeCommit,
    Fields.bldPass, Fields.retirementSwap, Fields.retirementDone, Fields.errorThreshold, Fields.bankLoss, Fields.scrub,
    Fields.dramRequest, Fields.refreshWindow, Fields.copyTransferStart, Fields.copyLine, Fields.copyStamp, Fields.chainHop,
    Fields.copyStop, Fields.footprintRelease, Fields.kvcommitHoldEnd, Fields.unitCommand, Fields.isochronePass,
    Fields.fetchServe, Fields.icacheRefill, Fields.tableWalk, Fields.reportTaken, Fields.escalation, Fields.bindRecordWrite,
    Fields.wearRotation, Fields.uncorrectableError]

/-! ## The filter's words (R312) -/

theorem decodeFilter_encodeFilter {i : Instr} (h : i.filterWf = true) :
    ∃ w, encodeFilter i = some w ∧ decodeFilter w = some i := by
  cases i
  case ldf d n =>
    have hn : n.toNat ≤ 9 := of_decide_eq_true h
    refine ⟨_, rfl, ?_⟩
    simp [decodeFilter, HAppend.hAppend, slice_high, slice_low, -BitVec.append_eq, hn]
  all_goals
    cases h <;>
    exact ⟨_, rfl, by simp [decodeFilter, HAppend.hAppend, slice_high, slice_low, -BitVec.append_eq]⟩

theorem encodeFilter_of_decodeFilter {w : BitVec 16} {i : Instr} (h : decodeFilter w = some i) :
    i.filterWf = true ∧ encodeFilter i = some w := by
  unfold decodeFilter at h
  dsimp only at h
  split at h
  case h_1 hop =>
    obtain ⟨⟨h0, hn⟩, rfl⟩ := by simpa using h
    refine ⟨decide_eq_true hn, congrArg some ?_⟩
    calc 0#4 ++ w.extractLsb' 9 3 ++ w.extractLsb' 4 5 ++ 0#4
        = w.extractLsb' 12 4 ++ w.extractLsb' 9 3 ++ w.extractLsb' 4 5 ++ w.extractLsb' 0 4 := by rw [field_eq hop, h0]
      _ = w := by simp [HAppend.hAppend, slices_join, -BitVec.append_eq]
  case h_2 hop | h_8 hop | h_9 hop | h_10 hop | h_15 hop =>
    cases h
    refine ⟨rfl, congrArg some ?_⟩
    simp [HAppend.hAppend, ← field_eq hop, slices_join, -BitVec.append_eq]
  case h_16 => cases h
  all_goals
    rename_i hop
    obtain ⟨h0, rfl⟩ := by simpa using h
    refine ⟨rfl, congrArg some ?_⟩
    simp [HAppend.hAppend, ← field_eq hop, ← h0, slices_join, -BitVec.append_eq]

end Sys2Proof.Laws

namespace Sys2Proof.Claims

open Sys2Proof.Laws

theorem wf_of_raw {i : Instr} {r : Raw} (h : i.raw = some r) : i.wf = true ↔ r.wf = true ∧ i.ownRow = false := by
  unfold Instr.wf
  rw [h]
  simp only [Bool.and_eq_true, Bool.not_eq_true']

theorem encode_of_raw {i : Instr} {r : Raw} (h : i.raw = some r) : encode i = r.words := by
  unfold encode
  rw [h]

theorem raw_of_wf {i : Instr} (h : i.wf = true) : ∃ r, i.raw = some r := by
  unfold Instr.wf at h
  split at h
  · exact ⟨_, ‹_›⟩
  · cases h

/-- A well-formed instruction is what its own words decode to (R24 to R42, R75). -/
theorem decodeWords_encode {i : Instr} (h : i.wf = true) : decodeWords (encode i) = some (i, (encode i).length) := by
  obtain ⟨r, hr⟩ := raw_of_wf h
  rw [encode_of_raw hr]
  exact decodeWords_words ((wf_of_raw hr).mp h).1 (instr_of_raw i r hr h)

/-- Words that decode are those of the well-formed instruction that they decode to. -/
theorem encode_of_decodeWords {ws : List Word32} {i : Instr} {n : Nat} (h : decodeWords ws = some (i, n)) :
    i.wf = true ∧ encode i = ws.take n := by
  obtain ⟨r, hw, hi, hws⟩ := of_decodeWords h
  obtain ⟨hr, ho⟩ := instr_named r i hi
  exact ⟨(wf_of_raw hr).mpr ⟨hw, ho⟩, (encode_of_raw hr).trans hws⟩

/-- Settles O59: the decoder reads an instruction's fields from its own words, and the opcode map names the one instruction that has
the fields read. -/
theorem decodeEncode : Obligations.DecodeEncode :=
  ⟨fun _ => decodeWords_encode, fun _ => decodeFilter_encodeFilter, fun _ _ _ => encode_of_decodeWords,
    fun _ _ => encodeFilter_of_decodeFilter⟩

/-- Settles O57: the decoder reads each of the listed words. -/
theorem wordsDecode : Obligations.WordsDecode := ⟨by decide, by decide⟩

end Sys2Proof.Claims
end

section
/-! PROOFS. The causes that an instruction raises before its own effect begins (O3): the checks of R43 in their order. -/

namespace Sys2Proof.Machine

/-- An instruction that a check of its prologue ends with a cause outside trap service takes it, with nothing performed (R7, R43). -/
theorem issue_stopped {i : Instr} {r : Raw} {s : State} {x : TrapRec} (body : M Unit) (hr : i.raw = some r) (hl : s.me.live = true)
    (ht : s.me.trap.tmode = false) (hp : prologue i r s = .error (.trap x)) :
    ∃ t, issue i body s = .next t ∧ Trapped (x.named r) s s t := by
  refine ⟨_, ?_, trapped_of ht _⟩
  unfold issue
  rw [hr]
  simp only [hl, Bool.not_true, Bool.false_eq_true, if_false]
  rw [M.bind_error hp]
  rfl

section

variable {i : Instr} {r : Raw} {s : State}

/-- The record of a cause that a check of the prologue raises carries the base word (R277). -/
def stopRecord (r : Raw) (s : State) (cause sub : Nat) : TrapRec :=
  { cause := cause, sub := sub, pc := s.me.pc, info := r.base.setWidth 64 }

theorem raiseIf_stop {b : Bool} (h : b = true) (r : Raw) (s : State) (c k : Nat) :
    raiseIf b c k 0 (r.base.setWidth 64) s.unwaited = .error (.trap (stopRecord r s c k)) := by
  rw [h, raiseIf_true, unwaited_me, Slot.unwait_pc]
  rfl

/-- Whether the encoding is illegal, or of another class than the thread's, as the first check finds it (R43). -/
theorem illegal_iff : (!i.wf || r.needsClass.any (· ≠ s.unwaited.me.cls)) = true ↔
    i.wf = false ∨ ∃ c, r.needsClass = some c ∧ c ≠ s.me.cls := by
  rw [unwaited_me, Slot.unwait_cls]
  simp [Option.any_eq_true]

/-- Whether the thread lacks the privilege that the instruction needs, as the second check finds it (R43, R272). -/
theorem unprivileged_iff :
    ((r.needsPriv && !s.unwaited.me.privileged) || (r.maj = 0x21 && r.fn = 1 && !s.unwaited.me.trap.tmode)) = true ↔
      (r.needsPriv = true ∧ s.me.privileged = false) ∨ (r.isEret = true ∧ s.me.trap.tmode = false) := by
  have hp : s.unwaited.me.privileged = s.me.privileged := by rw [unwaited_me]; rfl
  have he : (decide (r.maj = 0x21) && decide (r.fn = 1)) = r.isEret := rfl
  rw [hp, unwaited_me, Slot.unwait_trap, he]
  simp

theorem prologue_illegal (h : i.wf = false ∨ ∃ c, r.needsClass = some c ∧ c ≠ s.me.cls) :
    prologue i r s = .error (.trap (stopRecord r s 1 0)) := by
  unfold prologue
  rw [M.bind_ok (M.modMe_run _ _), show (s.modSlot s.cur fun x => { x with rxWait := none }) = s.unwaited from rfl,
    M.bind_ok (M.get_run _)]
  dsimp only
  exact M.bind_error (raiseIf_stop (illegal_iff.mpr h) r s 1 0)

theorem prologue_unprivileged (hw : i.wf = true) (hc : ∀ c, r.needsClass = some c → c = s.me.cls)
    (h : (r.needsPriv = true ∧ s.me.privileged = false) ∨ (r.isEret = true ∧ s.me.trap.tmode = false)) :
    prologue i r s = .error (.trap (stopRecord r s 3 0)) := by
  have legal := Bool.eq_false_iff.mpr (illegal_iff (i := i) (r := r) (s := s).not.mpr (by simpa [hw] using hc))
  unfold prologue
  rw [M.bind_ok (M.modMe_run _ _), show (s.modSlot s.cur fun x => { x with rxWait := none }) = s.unwaited from rfl,
    M.bind_ok (M.get_run _)]
  dsimp only
  rw [M.bind_ok (raiseIf_of legal _ _ _ _ _)]
  exact M.bind_error (raiseIf_stop (unprivileged_iff.mpr h) r s 3 0)

/-- An instruction that may issue and whose guard holds gets as far as the check of its operands (R43, R44). -/
theorem prologue_misused {k : Nat} (h : Issues i r s) (hg : guardHolds r s.me = true) (hb : r.badOperand = some k) :
    prologue i r s = .error (.trap (stopRecord r s 2 k)) := by
  have hme : s.unwaited.me = s.me.unwait := unwaited_me s
  have legal := Bool.eq_false_iff.mpr (illegal_iff (i := i) (r := r) (s := s).not.mpr (by simpa [h.wf] using h.cls))
  have priv := Bool.eq_false_iff.mpr (unprivileged_iff (r := r) (s := s).not.mpr (by
    rintro (⟨hp, hs⟩ | ⟨he, hs⟩)
    · simp [h.priv hp] at hs
    · simp [h.tmode he] at hs))
  have time : decide (s.unwaited.cyc < s.unwaited.me.notBefore) = false :=
    decide_eq_false (Nat.not_lt.mpr (by rw [hme]; exact h.time))
  have plain : (s.unwaited.me.owed.any fun o => decide (11 ≤ o.what ∧ o.what ≤ 13)) = false := by
    rw [hme, List.any_eq_false]
    exact fun o ho => by simpa using h.plain o ho
  have regs : ∀ q ∈ r.resources, waitRes q s.unwaited = .ok ((), s.unwaited) := fun q hq =>
    waitRes_of (by rw [hme]; exact h.regs q hq)
  have guard : (do let x ← me; pure (guardHolds r x) : M Bool) s.unwaited = .ok (true, s.unwaited) := by
    rw [M.bind_ok (M.me_run _), hme, show guardHolds r s.me.unwait = true from hg]
    rfl
  unfold prologue
  rw [M.bind_ok (M.modMe_run _ _), show (s.modSlot s.cur fun x => { x with rxWait := none }) = s.unwaited from rfl,
    M.bind_ok (M.get_run _)]
  dsimp only
  rw [M.bind_ok (raiseIf_of legal _ _ _ _ _), M.bind_ok (raiseIf_of priv _ _ _ _ _), M.bind_ok (waitIf_of time _ _),
    M.bind_ok (waitIf_of plain _ _)]
  refine (M.bind_ok (a := true) (u := s.unwaited) ?_).trans ?_
  · split
    case' isTrue hm => rw [M.bind_ok (regs _ (Raw.guard_mem r (by simpa using hm)))]
    all_goals
      cases he : r.f.ext? with
      | none => exact guard
      | some e =>
        by_cases hgp : e.g = 1
        · simp only [hgp, if_true]
          rw [M.bind_ok (regs _ (Raw.ext_guard_mem r e he hgp))]
          exact guard
        · simp only [hgp, if_false]
          exact guard
  · simp only [if_true, hb]
    refine M.bind_error ?_
    rw [raise, trapRec, M.bind_ok (M.me_run _), hme]
    rfl

/-- The record of a check as the trap takes it (R277): it carries the base word already. -/
theorem stopRecord_named (r : Raw) (s : State) {c : Nat} (k : Nat) (hc : c = 1 ∨ c = 2 ∨ c = 3) :
    (stopRecord r s c k).named r =
      { cause := c, sub := k, pc := s.me.pc, info := r.base.setWidth 64, tile := r.maj = 0x30 || r.maj = 0x31 } := by
  rcases hc with rfl | rfl | rfl <;> rfl

/-- No instruction that needs privilege is a `TLD` or a `TST` (R272). -/
theorem maj_of_priv (h : r.needsPriv = true ∨ r.isEret = true) : r.maj ≠ 0x30 ∧ r.maj ≠ 0x31 := by
  constructor <;> (intro e; simp [Raw.needsPriv, Raw.isEret, e] at h)

end

end Sys2Proof.Machine

namespace Sys2Proof.Claims

open Sys2Proof.Machine

theorem illegalInstruction : IllegalInstruction := by
  intro i r s hr hl ht h
  obtain ⟨body, e⟩ := exec_eq_issue hr s
  rw [e, ← stopRecord_named r s 0 (.inl rfl)]
  exact issue_stopped body hr hl ht (prologue_illegal h)

theorem privilegeTrap : PrivilegeTrap := by
  intro i r s hr hl hw hc hp h
  have ht : s.me.trap.tmode = false := (Bool.or_eq_false_iff.mp hp).1
  obtain ⟨body, e⟩ := exec_eq_issue hr s
  obtain ⟨h30, h31⟩ := maj_of_priv h
  have key := issue_stopped body hr hl ht (prologue_unprivileged hw hc (h.imp (⟨·, hp⟩) (⟨·, ht⟩)))
  rwa [stopRecord_named r s 0 (.inr (.inr rfl)), decide_eq_false h30, decide_eq_false h31, Bool.or_false, ← e] at key

theorem operandMisuse : OperandMisuse := by
  intro i r s k h ht hg hb
  obtain ⟨body, e⟩ := exec_eq_issue h.raw s
  rw [e, ← stopRecord_named r s k (.inr (.inl rfl))]
  exact issue_stopped body h.raw h.live ht (prologue_misused h hg hb)

/-- Settles O3: each check of the prologue ends the instruction with its cause before anything is performed. -/
theorem issueTraps : Obligations.IssueTraps := ⟨illegalInstruction, privilegeTrap, operandMisuse⟩

end Sys2Proof.Claims
end

section
/-! PROOFS. Where the program counter goes: `NOP`, `YIELD`, `REALIGN`, branches, calls and register jumps (O8). -/

namespace Sys2Proof.Machine

/-! ## What taking operands and writing a result leave -/

/-- Taking the port words and the `pv` that an instruction has read changes the thread alone (R19, R69). -/
theorem State.take_eq (s : State) (n : Nat) (xs : List Spec) : s.take n xs = { s with slots := (s.take n xs).slots } := by
  unfold State.take
  generalize xs.eraseDups = l
  induction l generalizing s with
  | nil => rfl
  | cons x l ih =>
    rw [List.foldl_cons, ih]
    split <;> rfl

@[simp] theorem State.take_cur (s : State) (n : Nat) (xs : List Spec) : (s.take n xs).cur = s.cur := by rw [State.take_eq]
@[simp] theorem State.take_cyc (s : State) (n : Nat) (xs : List Spec) : (s.take n xs).cyc = s.cyc := by rw [State.take_eq]

theorem State.store_cyc (s : State) (p : Place) (v n : Nat) : (s.store p v n).cyc = s.cyc := by
  unfold State.store
  split <;> rfl

/-- Writing a result takes no time. -/
@[simp] theorem State.put_cyc (s : State) (f : Form) (x : Spec) (v : Word) (lat : Nat) : (s.put f x v lat).cyc = s.cyc := by
  unfold State.put
  split
  · rfl
  split
  · split
    · exact State.store_cyc _ _ _ _
    · rfl
  split
  · rfl
  split
  · split <;> rfl
  · split <;> rfl

/-! ## Jumps -/

/-- An instruction that places the program counter takes its operands and goes to its target three cycles later (R62). -/
theorem jump_run {i : Instr} {r : Raw} (hr : i.raw = some r) (target : Word) (s : State) :
    jump i target s = .error (.quit ((s.take s.cur r.taken).modSlot s.cur fun x => x.goto target (s.cyc + 3))) := by
  unfold jump takeOps
  rw [hr, M.bind_ok (M.modify_run _ _), M.bind_ok (M.get_run _), M.throw_run]
  simp only [State.take_cur, State.take_cyc]
  rfl

section

variable {i : Instr} {r : Raw} {f : Form} {a : Spec} {s : State} {x : Word}

/-- A register jump without a link (R61). -/
theorem jumpReg_run (hr : i.raw = some r) (ha : s.reads f a = some x) (hx : x.extractLsb' 0 2 = 0) : jumpReg i a f none s
    = .error (.quit (((s.touched a).take s.cur r.taken).modSlot s.cur fun y => y.goto x (s.cyc + 3))) := by
  have aligned : decide (x.extractLsb' 0 2 ≠ 0) = false := by simp [hx]
  unfold jumpReg
  rw [M.bind_ok (src_reads ha), M.bind_ok (raiseIf_of aligned _ _ _ _ _)]
  dsimp only
  rw [jump_run hr, State.touched_cur, State.touched_cyc]

theorem nextPc_touched (f : Form) (s : State) (a : Spec) :
    nextPc f (s.touched a) = .ok (s.me.pc + BitVec.ofNat 64 f.size, s.touched a) := by
  rw [nextPc, M.bind_ok (M.me_run _), State.touched_me]
  rfl

/-- A register jump that first leaves the address of the next instruction in its destination (R61). -/
theorem jumpReg_link_run {d : Spec} (hr : i.raw = some r) (ha : s.reads f a = some x) (hx : x.extractLsb' 0 2 = 0)
    (hd : s.canWrite f d) : jumpReg i a f (some d) s
      = .error (.quit ((((s.touched a).put f d (s.me.pc + BitVec.ofNat 64 f.size) 3).take s.cur r.taken).modSlot s.cur
          fun y => y.goto x (s.cyc + 3))) := by
  have aligned : decide (x.extractLsb' 0 2 ≠ 0) = false := by simp [hx]
  unfold jumpReg
  rw [M.bind_ok (src_reads ha), M.bind_ok (raiseIf_of aligned _ _ _ _ _)]
  dsimp only
  rw [M.bind_ok (nextPc_touched f s a), M.bind_ok (dst_put _ _ (by rwa [canWrite_touched])), jump_run hr, State.put_cur,
    State.put_cyc, State.touched_cur, State.touched_cyc]

end

/-- A ready instruction whose effect ends, still in its own slot, completes. -/
theorem issue_completed {i : Instr} {r : Raw} {s v : State} {body : M Unit} (h : Ready i r s)
    (hb : body (s.entered r) = .ok ((), v)) (hc : v.cur = s.cur) :
    ∃ t, issue i body s = .next t ∧ Finished r s (v.take s.cur r.taken) t := by
  rw [← hc]
  exact issue_finished h hb

end Sys2Proof.Machine

namespace Sys2Proof.Claims

open Sys2Proof.Machine

theorem nopYieldRealign : NopYieldRealign := by
  intro f r s
  refine ⟨fun h => issue_completed h rfl (s.entered_cur r), fun h => issue_completed h ?_ (s.entered_cur r), fun h => ?_⟩
  · rw [M.bind_ok (M.get_run _), M.modMe_run, State.entered_cur, State.entered_cyc]
  · have hb : (do let c := (← get).cyc; modMe fun x => { x with notBefore := (c / 64 + 1) * 64 } : M Unit) (s.entered r)
        = .ok ((), (s.entered r).modSlot s.cur fun x => { x with notBefore := (s.cyc / 64 + 1) * 64 }) := by
      rw [M.bind_ok (M.get_run _), M.modMe_run, State.entered_cur, State.entered_cyc]
    obtain ⟨t, ht, hf⟩ := issue_completed h hb (s.entered_cur r)
    exact ⟨t, (s.cyc / 64 + 1) * 64, ht, by omega, by omega, by omega, hf⟩

theorem branchAndCall : BranchAndCall := by
  intro g p o r s
  refine ⟨fun h => issue_placed h ?_, fun h hd => issue_placed h ?_⟩
  · rw [M.bind_ok (M.me_run _), jump_run h.raw, entered_pc, State.entered_cur, State.entered_cyc]
    rfl
  · rw [M.bind_ok (M.me_run _), M.bind_ok (dst_put _ _ hd), jump_run h.raw, entered_pc, State.put_cur, State.put_cyc,
      State.entered_cur, State.entered_cyc]
    rfl

theorem registerJumps : RegisterJumps := by
  intro d a f r s x u ha hx
  have hcur : u.cur = s.cur := s.entered_cur r
  have hcyc : u.cyc = s.cyc := s.entered_cyc r
  refine ⟨fun i hi => ?_, fun h hd => issue_placed h ?_⟩
  · simp only [List.mem_cons, List.not_mem_nil, or_false] at hi
    rcases hi with rfl | rfl
    · exact fun h => issue_placed h (by rw [jumpReg_run h.raw ha hx, hcur, hcyc])
    · exact fun h => issue_placed h (by rw [jumpReg_run h.raw ha hx, hcur, hcyc])
  · rw [jumpReg_link_run h.raw ha hx hd, hcur, hcyc, entered_pc]

/-- Settles O8: each of these instructions leaves the program counter where its words or its register say. -/
theorem jumps : Obligations.Jumps := ⟨nopYieldRealign, branchAndCall, registerJumps⟩

end Sys2Proof.Claims
end

section
/-! PROOFS. A result goes to the named destination and nowhere else (O1). One equation for each kind of destination but a
port says what the write leaves; a port sends its word, which is not in memory. -/

namespace Sys2Proof.Machine

section

variable (s : State) (f : Form) {d : Spec} (v : Word) (lat : Nat)

theorem isPort_iff : isPort d = true ↔ 32 ≤ d.toNat ∧ d.toNat ≤ 39 := by simp [isPort]

theorem isHandle_iff : isHandle d = true ↔ 40 ≤ d.toNat ∧ d.toNat ≤ 47 := by simp [isHandle]

/-- No other destination is a port or a buffer handle (R34). -/
theorem not_port_of (h : d.toNat < 32 ∨ 48 ≤ d.toNat) : isPort d = false ∧ isHandle d = false := by
  rw [Bool.eq_false_iff, Bool.eq_false_iff, ne_eq, ne_eq, isPort_iff, isHandle_iff]
  omega

theorem State.put_reg (h : d.toNat < 32) :
    s.put f d v lat = s.setSlot s.cur ((s.me.setReg d v).later (.spec d) (s.cyc + lat)) := by
  unfold State.put
  rw [(not_port_of (.inl h)).1, (not_port_of (.inl h)).2, if_pos h]
  rfl

theorem State.put_reg_me (h : d.toNat < 32) : (s.put f d v lat).me = (s.me.setReg d v).later (.spec d) (s.cyc + lat) := by
  rw [s.put_reg f v lat h]
  exact State.me_setSlot_cur s _

theorem State.put_wz : s.put f 50 v lat = s := rfl

theorem State.put_nx (h : (s.slot (nextSlot s.cur)).live = true) : s.put f 49 v lat
    = s.setSlot (nextSlot s.cur) { s.slot (nextSlot s.cur) with pv := some v, pvAt := s.cyc + lat } := by
  have e : s.put f 49 v lat = if (s.slot (nextSlot s.cur)).live then
      s.modSlot (nextSlot s.cur) fun y => { y with pv := some v, pvAt := s.cyc + lat } else s := rfl
  rw [e, if_pos h]
  rfl

theorem State.put_shared (h : 52 ≤ d.toNat ∧ d.toNat ≤ 55) : s.put f d v lat
    = (s.setShared s.cur (d.toNat - 52) v (s.cyc + lat)).modSlot s.cur fun y => y.later (.spec d) (s.cyc + lat) := by
  have h49 : d ≠ 49 := by rintro rfl; simp at h
  unfold State.put
  rw [(not_port_of (.inr (by omega))).1, (not_port_of (.inr (by omega))).2, if_neg (show ¬ d.toNat < 32 by omega), if_neg h49,
    if_pos h]
  rfl

theorem State.put_shared_me (h : 52 ≤ d.toNat ∧ d.toNat ≤ 55) : (s.put f d v lat).me = s.me.later (.spec d) (s.cyc + lat) := by
  rw [s.put_shared f v lat h]
  exact State.slot_setSlot_self _ _ _

theorem State.put_buffer (h : isHandle d = true) {k : Nat} (hk : s.bufferAt? f d true = some k) :
    s.put f d v lat = s.portTaken.store (localPlace (slotCore s.cur) k) v.toNat 8 := by
  have hp : isPort d = false := Bool.eq_false_iff.mpr (by rw [ne_eq, isPort_iff]; have := isHandle_iff.mp h; omega)
  unfold State.put
  rw [hp, h, hk]
  rfl

/-! ## Memory -/

/-- A store leaves every byte outside the bytes that it names. -/
theorem State.store_read (p : Place) (u n : Nat) {a : Nat} (h : a < p.key ∨ p.key + n ≤ a) :
    (s.store p u n).mem.read a = s.mem.read a := by
  unfold State.store
  split
  · rfl
  · exact Memory.read_writeLE_of_outside s.mem p.key u n a h

/-- Only a buffer slot is in memory. -/
theorem State.put_mem (h : isHandle d = false) : (s.put f d v lat).mem = s.mem := by
  unfold State.put
  rw [h]
  split
  · rfl
  simp only [Bool.false_eq_true, if_false]
  split
  · rfl
  split
  · split <;> rfl
  · split <;> rfl

theorem Slot.reg_later (x : Slot) (q : Res) (c : Nat) (e : Spec) : (x.later q c).reg e = x.reg e := rfl

/-- The register written is dirty (R48). -/
theorem Slot.dirty_setReg (x : Slot) (h : d.toNat < 32) : (x.setReg d v).dirty.getLsbD d.toNat = true := by
  simp [Slot.setReg, Nat.mod_eq_of_lt h, h]

end

end Sys2Proof.Machine

namespace Sys2Proof.Claims

open Sys2Proof.Machine

/-- Settles O1: the equation of each kind of destination, and that a store leaves the bytes outside its slot. -/
theorem destinationWrites : Obligations.DestinationWrites := by
  intro s f d v lat t
  refine ⟨fun h => ?_, ?_, fun h1 h2 => ?_, ?_, fun h a => ?_, fun k hk a ha => ?_⟩
  · have ht : t = _ := s.put_reg f v lat h
    rw [show t.me = _ from s.put_reg_me f v lat h]
    refine ⟨?_, fun e he hne => ?_, Slot.dirty_setReg v s.me h, rfl, fun c => ?_, fun n hn => ?_⟩
    · rw [Slot.reg_later, Slot.reg_setReg _ _ _ _ h h, if_pos rfl]
    · rw [Slot.reg_later, Slot.reg_setReg _ _ _ _ h he, if_neg hne]
    · rw [ht, State.core_setSlot]
    · rw [ht, State.slot_setSlot_of_ne _ _ _ _ hn]
  · rintro rfl
    exact s.put_wz f v lat
  · refine ⟨by rw [show t.me = _ from s.put_shared_me f v lat ⟨h1, h2⟩, Slot.later_w], ?_⟩
    rw [show t = _ from s.put_shared f v lat ⟨h1, h2⟩]
    simp [State.setShared]
  · rintro rfl hne hl
    have ht : t = _ := s.put_nx f v lat hl
    rw [ht, State.slot_setSlot_self]
    exact ⟨rfl, State.slot_setSlot_of_ne _ _ _ _ hne.symm⟩
  · rw [show t.mem = s.mem from s.put_mem f v lat h]
  · cases hh : isHandle d with
    | false => rw [show t.mem = s.mem from s.put_mem f v lat hh]
    | true =>
      rw [show t = _ from s.put_buffer f v lat hh hk, State.store_read _ _ _ _ ha]
      rfl

end Sys2Proof.Claims
end

section
/-! PROOFS. A step runs the decoded instruction, the filter's word or the step that is due (O56). -/

namespace Sys2Proof.Machine

theorem forEach_ok {α β : Type} {f : α → M β} {g : α → β} {s : State} {l : List α} (h : ∀ a ∈ l, f a s = .ok (g a, s)) :
    forEach f l s = .ok (l.map g, s) := by
  induction l with
  | nil => rfl
  | cons a l ih =>
    obtain ⟨ha, hl⟩ := List.forall_mem_cons.mp h
    rw [forEach, M.bind_ok ha, M.bind_ok (ih hl)]
    rfl

/-! ## Fetching an instruction (R27, R63) -/

section

variable {s : State} {w : Word32}

theorem fetchWord_of {va : Word} (h : Claims.codeWord s va = some w) : fetchWord va s = .ok (w, s) := by
  unfold Claims.codeWord at h
  obtain ⟨b, hb, rfl⟩ := Option.map_eq_some_iff.mp h
  unfold fetchWord
  rw [M.bind_ok (M.get_run _), hb]
  rfl

/-- Whether the base word decides cause 0x01, as the fetch finds it (R27, R43). -/
theorem baseStops_iff (w : Word32) (k : Nat) : (baseIllegal w || (baseRaw w).needsClass.any (· ≠ k)) = false ↔
    baseIllegal w = false ∧ ∀ c, (baseRaw w).needsClass = some c → c = k := by
  simp [Option.any_eq_false]

/-- The instruction that the words in the fetch buffer decode to. -/
theorem fetchInstr_of {ws : List Word32} {i : Instr} {l : Nat} (hw : Claims.codeWord s s.me.pc = some w)
    (legal : baseIllegal w = false ∧ ∀ c, (baseRaw w).needsClass = some c → c = s.me.cls)
    (hl : ws.length + 1 = lenWords (lenOf w))
    (hws : ∀ k : Fin ws.length, Claims.codeWord s (s.me.pc + BitVec.ofNat 64 (4 * (k.val + 1))) = some ws[k])
    (hd : decodeWords (w :: ws) = some (i, l)) : fetchInstr s = .ok (i, s) := by
  have later : forEach (fun k => fetchWord (s.me.pc + BitVec.ofNat 64 (4 * (k + 1)))) (List.range (lenWords (lenOf w) - 1)) s
      = .ok (ws, s) := by
    have hr : (List.range ws.length).map (fun k => ws.getD k 0) = ws :=
      List.ext_getElem (by simp) fun k _ hk => by simp [hk]
    rw [← hl, Nat.add_sub_cancel]
    conv_rhs => rw [← hr]
    refine forEach_ok fun k hk => ?_
    have hk : k < ws.length := List.mem_range.mp hk
    rw [fetchWord_of (hws ⟨k, hk⟩)]
    simp [hk]
  unfold fetchInstr
  rw [M.bind_ok (M.me_run _), M.bind_ok (fetchWord_of hw),
      M.bind_ok (raiseIf_of ((baseStops_iff w _).mpr legal) _ _ _ _ _), M.bind_ok later, hd]
  rfl

/-- A base word that is illegal, or of another class, raises cause 0x01 alone (R27, R43). -/
theorem fetchInstr_illegal (hw : Claims.codeWord s s.me.pc = some w)
    (h : ¬ (baseIllegal w = false ∧ ∀ c, (baseRaw w).needsClass = some c → c = s.me.cls)) :
    fetchInstr s = .error (.trap { cause := 1, pc := s.me.pc, info := w.setWidth 64 }) := by
  have stops : (baseIllegal w || (baseRaw w).needsClass.any (· ≠ s.me.cls)) = true :=
    Bool.not_eq_false _ ▸ (baseStops_iff w s.me.cls).not.mpr h
  unfold fetchInstr
  rw [M.bind_ok (M.me_run _), M.bind_ok (fetchWord_of hw), stops]
  exact M.bind_error (raiseIf_true _ _ _ _ _)

end

/-! ## The slot whose turn it is (R45) -/

section

variable {s : State} {n : Nat} {ns : List Nat}

theorem next_of_sched (ha : s.agenda = []) (hf : s.frun = []) (hs : s.sched = n :: ns) :
    s.next = ({ s with sched := ns } : State).attempt n := by
  unfold State.next
  rw [ha, hf, hs]

theorem next_of_frun {d : Nat} {ds : List Nat} (ha : s.agenda = []) (hf : s.frun = d :: ds) :
    s.next = ({ s with frun := ds } : State).filterNext d := by
  unfold State.next
  rw [ha, hf]

theorem next_of_agenda {e : Event} {l : List Event} (ha : s.agenda = e :: l) :
    s.next = ({ s with agenda := l }, .event e) := by
  unfold State.next
  rw [ha]

/-- The trace core of a die whose word decodes runs it (R311, R312). -/
theorem filterNext_of {d : Nat} {r : FilterRun} {i : Instr} (hr : (s.die d).run = some r)
    (hd : decodeFilter (((s.die d).fmem[r.idx]?).getD 0) = some i) : s.filterNext d = ({ s with fdie := d }, .instr i) := by
  have hr' : (({ s with fdie := d } : State).die d).run = some r := hr
  unfold State.filterNext
  dsimp only
  rw [hr']
  dsimp only
  rw [show ({ s with fdie := d } : State).die d = s.die d from rfl, hd]

/-- A slot that may issue, and whose core has not issued yet, is not passed over (R45). -/
theorem not_passed (hm : ({ s with cur := n } : State).mayIssue n = true)
    (hi : (s.core (slotCore n)).issued = false ∨ ({ s with cur := n } : State).me.hasIssued = true) :
    (!({ s with cur := n } : State).mayIssue n ||
      ((({ s with cur := n } : State).core (slotCore n)).issued && !({ s with cur := n } : State).me.hasIssued)) = false := by
  rw [hm]
  rcases hi with hi | hi
  · rw [show ({ s with cur := n } : State).core (slotCore n) = s.core (slotCore n) from rfl, hi]
    rfl
  · rw [hi]
    simp

variable (hn : n < again) (hm : ({ s with cur := n } : State).mayIssue n = true)
  (hi : (s.core (slotCore n)).issued = false ∨ ({ s with cur := n } : State).me.hasIssued = true)

include hn hm hi

/-- It runs the instruction that is fetched. -/
theorem attempt_fetched {i : Instr} {t : State} (h : fetchInstr { s with cur := n } = .ok (i, t)) : s.attempt n =
    ({ t with sched := if ({ s with cur := n } : State).completedWait n then (n + again) :: t.sched else t.sched }, .instr i) := by
  unfold State.attempt
  rw [Nat.mod_eq_of_lt hn]
  dsimp only
  rw [not_passed hm hi, h, decide_eq_true hn, Bool.and_true]
  rfl

/-- It takes what the fetch ends with where there is no instruction. -/
theorem attempt_halted {e : Halt} (h : fetchInstr { s with cur := n } = .error e) :
    s.attempt n = (({ s with cur := n } : State).fetchHalt e, .goOn) := by
  unfold State.attempt
  rw [Nat.mod_eq_of_lt hn]
  dsimp only
  rw [not_passed hm hi, h]
  rfl

end

/-! ## A cause found at fetch (R278) -/

theorem State.issuedBy_slot (s : State) (n : Nat) (pc : Word) (keep : Bool) : (s.issuedBy n pc keep).slot n =
    { s.slot n with waiting := 0, trap := { (s.slot n).trap with wskip := (s.slot n).trap.wskip && keep } } := by
  unfold State.issuedBy
  simp

theorem fetchHalt_trap {s : State} (ht : s.me.trap.tmode = false) (t : TrapRec) :
    let x := (s.fetchHalt (.trap t)).slot s.cur
    x.trap.tmode = true ∧ x.trap.tepc = s.me.pc ∧ x.trap.trec0 = t.word0 ∧ x.trap.trec1 = t.pc ∧ x.trap.trec3 = t.info ∧
      x.pc = (s.clu (slotClu s.cur)).trapbase + BitVec.ofNat 64 (64 * t.cause) := by
  obtain ⟨v, hv⟩ := s.dropBadWalks_clu (slotClu s.cur)
  intro x
  have hx : x = _ := State.issuedBy_slot _ _ _ _
  rw [hx, State.takeTrap_eq (u := s.dropBadWalks) ht, State.slot_setSlot_self, hv]
  exact ⟨rfl, rfl, rfl, rfl, rfl, rfl⟩

/-! ## Steps of the device -/

/-- A step of the device that is due is the instruction of its name. -/
theorem run_eq_exec {e : Event} {i : Instr} (h : Claims.stepIs e i) (s : State) : e.run s = exec i s := by
  cases e <;> cases h <;> rfl

end Sys2Proof.Machine

namespace Sys2Proof.Claims

open Sys2Proof.Machine

/-- Settles O56: what comes next is the fetched instruction, the cause that its base word raises, the filter's word or the step that is
due. -/
theorem stepRunsInstruction : Obligations.StepRunsInstruction := by
  refine ⟨?_, ?_, ?_⟩
  · intro s n ns w ha hf hs hn u legal hm hi hw
    refine ⟨fun ws i l hl hlen hws hd => ?_, fun hl ht => ?_⟩
    · have fetched : fetchInstr u = .ok (i, u) := fetchInstr_of hw hl hlen hws hd
      have next : s.next = _ := (next_of_sched ha hf hs).trans (attempt_fetched (s := { s with sched := ns }) hn hm hi fetched)
      rw [step, next]
    · have fetched := fetchInstr_illegal hw hl
      have next : s.next = _ := (next_of_sched ha hf hs).trans (attempt_halted (s := { s with sched := ns }) hn hm hi fetched)
      obtain ⟨tmode, tepc, trec0, trec1, trec3, pc⟩ := fetchHalt_trap ht { cause := 1, pc := u.me.pc, info := w.setWidth 64 }
      exact ⟨_, by rw [step, next], tmode, tepc, by rw [trec0]; rfl, trec1, trec3, pc⟩
  · intro s d ds r i ha hf hr hd
    have next : s.next = _ := (next_of_frun ha hf).trans (filterNext_of hr hd)
    rw [step, next]
  · intro s e l i ha h
    rw [step, next_of_agenda ha]
    exact run_eq_exec h _

end Sys2Proof.Claims
end

section
/-! PROOFS. The scalar instructions that compute a result from their operands and write it: integer arithmetic (O4), division and the
bit counts (O5), compares and predicates (O6), immediates, selection, addresses and bit fields (O7). Each instruction is issued with
the effect that its table names; what the effect computes is said once, by a lemma on words. -/

namespace Sys2Proof.Machine

/-! ## Results (R51, R52) -/

section

variable (x y : Word)

theorem maxW_eq : maxW x y = if y.toInt < x.toInt then x else y := by
  unfold maxW
  simp only [← not_le, ite_not]

theorem maxnW_eq : maxnW x y = if y.toNat < x.toNat then x else y := by
  unfold maxnW
  simp only [← not_le, ite_not]

/-- A remainder is A less B times the quotient, and A where B is zero (R52). -/
theorem remW_eq : remW x y = x - y * Claims.quotient x y := by
  unfold remW Claims.quotient
  split_ifs with h
  · simp [h]
  · rw [eq_sub_iff_add_eq]
    calc BitVec.ofInt 64 (x.toInt.tmod y.toInt) + y * BitVec.ofInt 64 (x.toInt.tdiv y.toInt)
        = BitVec.ofInt 64 (x.toInt.tmod y.toInt + y.toInt * x.toInt.tdiv y.toInt) := by
          rw [BitVec.ofInt_add, BitVec.ofInt_mul, BitVec.ofInt_toInt]
      _ = x := by rw [Int.tmod_add_mul_tdiv, BitVec.ofInt_toInt]

theorem remnW_eq : remnW x y = x - y * Claims.quotientN x y := by
  unfold remnW Claims.quotientN
  split_ifs with h
  · simp [h]
  · rw [eq_sub_iff_add_eq]
    calc BitVec.ofNat 64 (x.toNat % y.toNat) + y * BitVec.ofNat 64 (x.toNat / y.toNat)
        = BitVec.ofNat 64 (x.toNat % y.toNat + y.toNat * (x.toNat / y.toNat)) := by
          rw [BitVec.ofNat_add, BitVec.ofNat_mul, BitVec.ofNat_toNat, BitVec.setWidth_eq]
      _ = x := by rw [Nat.mod_add_div, BitVec.ofNat_toNat, BitVec.setWidth_eq]

end

/-! ## Counts of bits (R51) -/

/-- The numbers below `n` before the first one that fails a test. -/
theorem length_takeWhile_range {p : Nat → Bool} {n k : Nat} (hk : k ≤ n) (hp : ∀ i < k, p i = true) (hf : k < n → p k = false) :
    ((List.range n).takeWhile p).length = k := by
  rw [List.takeWhile_eq_take_findIdx_not, List.length_take, List.length_range]
  rcases Nat.lt_or_eq_of_le hk with h | rfl
  · rw [(List.findIdx_eq (i := k) (by simpa using h)).mpr (by simpa [hf h] using hp), Nat.min_eq_left hk]
  · rw [List.findIdx_eq_length_of_false (by simpa using hp), List.length_range, Nat.min_self]

section

variable (x : Word)

/-- The zeros above the highest one: `clzW` finds it as a logarithm. -/
theorem clzW_eq : clzW x = BitVec.ofNat 64 ((List.range 64).takeWhile fun i => !x.getLsbD (63 - i)).length := by
  unfold clzW
  split_ifs with h
  · subst h
    rw [length_takeWhile_range (Nat.le_refl 64) (by simp) (by simp)]
    rfl
  · have hx : x.toNat ≠ 0 := fun e => h (BitVec.eq_of_toNat_eq e)
    have hl : Nat.log2 x.toNat < 64 := (Nat.log2_lt hx).mpr x.isLt
    have above (i : Nat) (hi : i < 63 - Nat.log2 x.toNat) : x.getLsbD (63 - i) = false :=
      Nat.testBit_lt_two_pow (Nat.lt_of_lt_of_le Nat.lt_log2_self (Nat.pow_le_pow_right (by decide) (by omega)))
    have top : x.getLsbD (63 - (63 - Nat.log2 x.toNat)) = true := by
      rw [show 63 - (63 - Nat.log2 x.toNat) = Nat.log2 x.toNat by omega]
      exact Nat.testBit_log2 hx
    rw [length_takeWhile_range (k := 63 - Nat.log2 x.toNat) (by omega) (fun i hi => by rw [above i hi]; rfl) fun _ => by rw [top]; rfl]

/-- The zeros below the lowest one. -/
theorem ctzW_eq : ctzW x = BitVec.ofNat 64 ((List.range 64).takeWhile fun i => !x.getLsbD i).length := by
  unfold ctzW
  cases hf : (List.range 64).find? fun i => x.getLsbD i with
  | none =>
    rw [length_takeWhile_range (Nat.le_refl 64) (List.find?_range_eq_none.mp hf) fun h => absurd h (Nat.lt_irrefl 64)]
    rfl
  | some k =>
    obtain ⟨hk, hlt, hmin⟩ := List.find?_range_eq_some.mp hf
    rw [length_takeWhile_range (k := k) (Nat.le_of_lt (List.mem_range.mp hlt)) hmin fun _ => by rw [hk]; rfl]
    rfl

end

/-! ## Bit fields (R59) -/

section

variable (v x : Word) {pos wid i : Nat}

theorem getLsbD_insertBits (h : pos + wid ≤ 64) (hi : i < 64) :
    (insertBits v x pos wid).getLsbD i = if pos ≤ i ∧ i < pos + wid then x.getLsbD (i - pos) else v.getLsbD i := by
  have inside : (64 - wid + (i - pos) < 64) ↔ i - pos < wid := by omega
  unfold insertBits
  simp only [BitVec.getLsbD_or, BitVec.getLsbD_and, BitVec.getLsbD_not, BitVec.getLsbD_shiftLeft, BitVec.getLsbD_ushiftRight,
    BitVec.getLsbD_allOnes, hi, decide_true, Bool.true_and]
  by_cases h1 : i < pos
  · simp [h1, Nat.not_le.mpr h1]
  · by_cases h2 : i < pos + wid
    · simp [h1, h2, Nat.not_lt.mp h1, show 64 - wid + (i - pos) < 64 by omega]
    · simp [h1, h2, show ¬ 64 - wid + (i - pos) < 64 by omega]

theorem getLsbD_extractBits (sx : Bool) (h : pos + wid ≤ 64) (hw : 0 < wid) (hi : i < 64) :
    (extractBits v pos wid sx).getLsbD i = if i < wid then v.getLsbD (pos + i) else sx && v.getLsbD (pos + wid - 1) := by
  have shifted (j : Nat) (hj : j < 64) : ((v >>> pos) <<< (64 - wid)).getLsbD j
      = (!decide (j < 64 - wid) && v.getLsbD (pos + (j - (64 - wid)))) := by
    simp [hj]
  have sign : ((v >>> pos) <<< (64 - wid)).msb = v.getLsbD (pos + wid - 1) := by
    rw [BitVec.msb_eq_getLsbD_last, shifted _ (by omega), show pos + (64 - 1 - (64 - wid)) = pos + wid - 1 by omega]
    simp [show ¬ 63 < 64 - wid by omega]
  unfold extractBits
  cases sx with
  | true =>
    rw [if_pos rfl, BitVec.getLsbD_sshiftRight, sign, decide_eq_false (Nat.not_le.mpr hi)]
    by_cases h1 : i < wid
    · rw [if_pos (by omega), if_pos h1, shifted _ (by omega), decide_eq_false (by omega), Nat.add_sub_cancel_left]
      rfl
    · rw [if_neg (by omega), if_neg h1]
      rfl
  | false =>
    rw [if_neg (by decide), BitVec.getLsbD_ushiftRight]
    by_cases h1 : i < wid
    · rw [if_pos h1, shifted _ (by omega), decide_eq_false (by omega), Nat.add_sub_cancel_left]
      rfl
    · rw [if_neg h1, BitVec.getLsbD_of_ge _ _ (by omega)]
      rfl

end

/-! ## Immediates and shifts (R53, R54) -/

theorem immI_eq (imm : BitVec 12) (f : Form) : immI imm f = Claims.immediate imm f := by cases f <;> rfl

theorem shiftOp_eq (o : BitVec 2) (x : Word) (k : BitVec 6) : shiftOp o x (k.setWidth 64) =
    if o = 0 then x <<< k.toNat else if o = 1 then x >>> k.toNat else if o = 2 then x.sshiftRight k.toNat
      else x.rotateLeft k.toNat := by
  have hk : (k.setWidth 64).toNat % 64 = k.toNat := by
    rw [BitVec.toNat_setWidth]
    omega
  have ho : o = 0 ∨ o = 1 ∨ o = 2 ∨ o = 3 := by revert o; decide
  unfold shiftOp
  rcases ho with rfl | rfl | rfl | rfl
  · exact congrArg (x <<< ·) hk
  · exact congrArg (x >>> ·) hk
  · exact congrArg (x.sshiftRight ·) hk
  · exact congrArg (x.rotateLeft ·) hk

/-- The operation and the amount of `SHFI` are in the base word, or in IMM32 of the extended form. -/
theorem shiftImm_eq (o : BitVec 2) (n : BitVec 6) (f : Form) (x : Word) :
    shiftOp (if f.ext?.isSome then f.imm.extractLsb' 6 2 else o) x
      ((if f.ext?.isSome then f.imm.extractLsb' 0 6 else n).setWidth 64) = Claims.shiftImm o n f x := by
  rw [shiftOp_eq]
  unfold Claims.shiftImm
  cases f.ext? <;> rfl

/-! ## The effects -/

/-- Beginning an effect changes at most the claim of a core's local-store port (R48, R78). -/
theorem entered_core (s : State) (r : Raw) (c : Nat) : ∃ q, (s.entered r).core c = { s.core c with portClaim := q } := by
  rw [entered_eq]
  split
  · have e : (s.unwaited.refill s.cur).core c = (s.unwaited.claimPort (slotCore s.cur)).core c := rfl
    rw [e, State.claimPort, State.modCore_eq, State.core_setCore]
    split
    · subst_vars
      exact ⟨_, rfl⟩
    · exact ⟨_, rfl⟩
  · exact ⟨_, rfl⟩

section

variable {i : Instr} {r : Raw} {s : State} {f : Form} {d a b : Spec} {x y : Word}

/-- A two-operand instruction completes (R51). -/
theorem alu2_completed (op : Word → Word → Word) (lat : Nat) (h : Ready i r s) (ha : (s.entered r).reads f a = some x)
    (hb : ((s.entered r).touched a).readsB f b = some y) (hd : (s.entered r).canWrite f d) :
    ∃ t, issue i (alu2 f d a b op lat) s = .next t ∧
      Finished r s (((((s.entered r).touched a).touchedB f b).put f d (op x y) lat).take s.cur r.taken) t :=
  issue_completed h (alu2_put op lat ha hb hd) (by simp)

/-- A one-operand instruction completes (R51, R53). -/
theorem src_dst_completed (op : Word → Word) (h : Ready i r s) (ha : (s.entered r).reads f a = some x)
    (hd : (s.entered r).canWrite f d) :
    ∃ t, issue i (do let v ← src f a; dst f d (op v) 3) s = .next t ∧
      Finished r s ((((s.entered r).touched a).put f d (op x) 3).take s.cur r.taken) t :=
  issue_completed h (src_dst op 3 ha hd) (by simp)

/-- A divide-family instruction completes where the divider is free, and keeps it (R46, R52). -/
theorem divide_completed (op : Word → Word → Word) (h : Ready i r s) (free : (s.core (slotCore s.cur)).divFree ≤ s.cyc)
    (ha : (s.entered r).reads f a = some x) (hb : ((s.entered r).touched a).readsB f b = some y) (hd : (s.entered r).canWrite f d) :
    ∃ t, issue i (divide f d a b op) s = .next t ∧
      Finished r s ((((((s.entered r).touched a).touchedB f b).put f d (op x y) 22).modCore (slotCore s.cur)
        fun c => { c with divFree := s.cyc + 20 }).take s.cur r.taken) t := by
  obtain ⟨q, hq⟩ := entered_core s r (slotCore s.cur)
  have wait : decide ((s.entered r).cyc < ((s.entered r).core (slotCore (s.entered r).cur)).divFree) = false := by
    rw [State.entered_cur, State.entered_cyc, hq]
    exact decide_eq_false (Nat.not_lt.mpr free)
  refine issue_completed h ?_ (by simp)
  unfold divide
  rw [M.bind_ok (M.get_run _), M.bind_ok (waitIf_of wait _ _), M.bind_ok (alu2_put op 22 ha hb hd), M.modCore_run]
  simp only [State.put_cur, State.touchedB_cur, State.touched_cur, State.entered_cur, State.entered_cyc]

/-- A result that needs no source is written (R53, R56). -/
theorem dst_completed (v : Word) (h : Ready i r s) (hd : (s.entered r).canWrite f d) :
    ∃ t, issue i (dst f d v 3) s = .next t ∧ Finished r s (((s.entered r).put f d v 3).take s.cur r.taken) t :=
  issue_completed h (dst_put v 3 hd) (by simp)

/-- A predicate that needs no source is written (R56). -/
theorem setPred_completed (p : BitVec 5) (v : Bool) (h : Ready i r s) :
    ∃ t, issue i (setPred p v 3) s = .next t ∧ Finished r s (((s.entered r).putPred p v 3).take s.cur r.taken) t :=
  issue_completed h (setPred_put p v 3 _) (by simp)

/-- `PMOVW` writes all of `pw`, and with it when each predicate is available (R56). -/
theorem pmovw_run (ha : s.reads f a = some x) : ∃ w, (do
    let x ← src f a
    let s ← get
    modMe fun y => allPreds.foldl (fun y p => y.later p (s.cyc + 3)) { y with pw := x.setWidth 32 ||| 0x80000000#32 } : M Unit) s
      = .ok ((), (s.touched a).modSlot s.cur fun y => { y with pw := x.setWidth 32 ||| 0x80000000#32, avail := w }) := by
  rw [M.bind_ok (src_reads ha), M.bind_ok (M.get_run _), M.modMe_run, State.modSlot_eq, Slot.foldl_later, State.touched_cur]
  exact ⟨_, rfl⟩

/-- A bit field that is extracted (R59): the destination is not read. -/
theorem bitField_extract (hm : f.imm.getLsbD 9 = false) (hb : s.readsB f b = some y) (hd : s.canWrite f d) :
    bitField f d b s
      = .ok ((), (s.touchedB f b).put f d (extractBits y f.field.1 f.field.2 (f.imm.getLsbD 8)) 3) := by
  unfold bitField
  dsimp only
  rw [M.bind_ok (srcB_reads hb), hm]
  exact dst_put _ _ (by rw [canWrite_touchedB]; exact hd)

/-- A bit field that is inserted (R59). -/
theorem bitField_insert (hm : f.imm.getLsbD 9 = true) (hb : s.readsB f b = some y) (hd : s.canWrite f d)
    (hx : (s.touchedB f b).reads f d = some x) : bitField f d b s
      = .ok ((), ((s.touchedB f b).touched d).put f d (insertBits x y f.field.1 f.field.2) 3) := by
  unfold bitField
  dsimp only
  rw [M.bind_ok (srcB_reads hb), hm, if_pos rfl, M.bind_ok (src_reads hx)]
  exact dst_put _ _ (by rw [canWrite_touched, canWrite_touchedB]; exact hd)

end

end Sys2Proof.Machine

namespace Sys2Proof.Claims

open Sys2Proof.Machine

/-! ## Integer instructions -/

/-- Each of the seventeen is issued with the operation and the delay of its row. -/
theorem exec_intTable (d a b : Spec) (f : Form) (s : State) :
    ∀ p ∈ intTable d a b f, exec p.1 s = issue p.1 (alu2 f d a b p.2.1 p.2.2) s := by
  have hmax : (fun x y : Word => if y.toInt < x.toInt then x else y) = maxW := (funext₂ maxW_eq).symm
  have hmaxn : (fun x y : Word => if y.toNat < x.toNat then x else y) = maxnW := (funext₂ maxnW_eq).symm
  simp only [intTable, List.forall_mem_cons, hmax, hmaxn]
  exact ⟨rfl, rfl, rfl, rfl, rfl, rfl, rfl, rfl, rfl, rfl, rfl, rfl, rfl, rfl, rfl, rfl, rfl, List.forall_mem_nil _⟩

/-- Settles O4: each row of the table is issued with its operation, which is read, computed and written. -/
theorem integerTwoOperand : Obligations.IntegerTwoOperand := by
  intro d a b f p hp r s x y h u ha hb hd
  rw [exec_intTable d a b f s p hp]
  exact alu2_completed p.2.1 p.2.2 h ha hb hd

/-! ## Division and counts -/

theorem exec_divTable (d a b : Spec) (f : Form) (s : State) :
    ∀ p ∈ divTable d a b f, exec p.1 s = issue p.1 (divide f d a b p.2) s := by
  simp only [divTable, List.forall_mem_cons, ← remW_eq, ← remnW_eq]
  exact ⟨rfl, rfl, rfl, rfl, List.forall_mem_nil _⟩

theorem exec_bitTable (d a : Spec) (f : Form) (s : State) : ∀ p ∈ bitTable d a f,
    exec p.1 s = issue p.1 (do let x ← src f a; dst f d (BitVec.ofNat 64 (p.2 x)) 3) s := by
  simp only [bitTable, List.forall_mem_cons, ← clzW_eq, ← ctzW_eq]
  exact ⟨rfl, rfl, rfl, List.forall_mem_nil _⟩

theorem divideFamily : DivideFamily := by
  intro d a b f p hp r s x y h free u ha hb hd
  rw [exec_divTable d a b f s p hp]
  exact divide_completed p.2 h free ha hb hd

theorem bitCounts : BitCounts := by
  intro d a f p hp r s x h u ha hd
  rw [exec_bitTable d a f s p hp]
  exact src_dst_completed (fun x => BitVec.ofNat 64 (p.2 x)) h ha hd

/-- Settles O5: the results of the divide family in R52's borderline cases, and each count as that of a search. -/
theorem divideAndCount : Obligations.DivideAndCount := ⟨divideFamily, bitCounts⟩

/-! ## Compares and predicates -/

theorem condHolds_iff (x y : Word) : ∀ c ∈ conditions, condHolds c.1.toNat x y = true ↔ c.2 x y := by
  simp [conditions, condHolds]

/-- The condition of a compare is the one Boolean that says whether it holds. -/
theorem condHolds_eq {c : BitVec 6 × (Word → Word → Prop)} (hc : c ∈ conditions) {x y : Word} {v : Bool} (hv : v = true ↔ c.2 x y) :
    condHolds c.1.toNat x y = v :=
  Bool.eq_iff_iff.mpr ((condHolds_iff x y c hc).trans hv.symm)

/-- The six bits of `CMPI` in the base form are sign-extended as an immediate of twelve (R53, R55). -/
theorem exec_cmpi (d a : Spec) (c imm : BitVec 6) (f : Form) (s : State) : exec (.cmpi d a c imm f) s = issue (.cmpi d a c imm f) (do
    let x ← src f a
    Machine.compare d c.toNat x (immediate (imm.signExtend 12) f)) s := by
  cases f with
  | base =>
    rw [show immediate (imm.signExtend 12) .base = imm.signExtend 64 from
      BitVec.eq_of_toInt_eq (by simp [immediate, BitVec.toInt_signExtend_of_le])]
    rfl
  | _ => rfl

theorem compares : Compares := by
  intro d a f c hc
  refine ⟨?_, ?_⟩
  · intro b r s x y v h u ha hb hv
    refine issue_completed h ?_ (by simp [u])
    rw [M.bind_ok (src_reads ha), M.bind_ok (srcB_reads hb), Machine.compare, condHolds_eq hc hv, setPred_put]
  · intro imm r s x v h u ha hv
    rw [exec_cmpi]
    refine issue_completed h ?_ (by simp [u])
    rw [M.bind_ok (src_reads ha), Machine.compare, condHolds_eq hc hv, setPred_put]

/-- Each predicate instruction is issued with the operation of its row. -/
theorem exec_predTable (d a b : Spec) (f : Form) (s : State) : ∀ p ∈ predTable d a b f, exec p.1 s = issue p.1 (do
    let x ← me
    setPred (d.extractLsb' 0 5) (p.2 (x.pred (a.extractLsb' 0 5)) (x.pred (b.extractLsb' 0 5))) 3) s := by
  simp only [predTable, List.forall_mem_cons, ← Bool.bne_eq_xor]
  exact ⟨rfl, rfl, rfl, rfl, rfl, rfl, rfl, List.forall_mem_nil _⟩

theorem predicateInstructions : PredicateInstructions := by
  refine ⟨?_, ?_, ?_⟩
  · intro d a b f p hp r s h u
    rw [exec_predTable d a b f s p hp]
    refine issue_completed h ?_ (by simp [u])
    rw [M.bind_ok (M.me_run _), setPred_put]
  · intro d f r s h u hd
    refine issue_completed h ?_ (by simp [u])
    rw [M.bind_ok (M.me_run _), dst_put _ _ hd]
  · intro a f r s x h u ha
    obtain ⟨w, hw⟩ := pmovw_run ha
    obtain ⟨t, ht, hf⟩ := issue_completed (i := .pmovw a f) h hw (by simp [u])
    rw [State.entered_cur] at hf
    exact ⟨t, w, ht, hf⟩

/-- Settles O6: a compare writes whether its condition holds, a predicate instruction its operation; `PMOVR` and `PMOVW` all of
`pw`. -/
theorem compareAndPredicate : Obligations.CompareAndPredicate := ⟨compares, predicateInstructions⟩

/-! ## Immediates, selection, addresses and bit fields -/

theorem exec_immTable (d a : Spec) (imm : BitVec 12) (o : BitVec 2) (n : BitVec 6) (f : Form) (s : State) :
    ∀ p ∈ immTable d a imm o n f, exec p.1 s = issue p.1 (do let x ← src f a; dst f d (p.2 x) 3) s := by
  have shift : shiftImm o n f = _ := funext fun x => (shiftImm_eq o n f x).symm
  simp only [immTable, List.forall_mem_cons, ← immI_eq, shift]
  exact ⟨rfl, rfl, rfl, rfl, rfl, List.forall_mem_nil _⟩

theorem immediates : Immediates := by
  refine ⟨?_, fun d imm f r s h hd => ?_⟩
  · intro d a imm o n f p hp r s x h u ha hd
    rw [exec_immTable d a imm o n f s p hp]
    exact src_dst_completed p.2 h ha hd
  · rw [← immI_eq]
    exact dst_completed _ h hd

theorem selectAndAddress : SelectAndAddress := by
  intro d a b f r s x y u ha hb hd
  have hd' : ((u.touched a).touchedB f b).canWrite f d := by rwa [canWrite_touchedB, canWrite_touched]
  have hme : ((u.touched a).touchedB f b).me = u.me := by rw [State.touchedB_me, State.touched_me]
  refine ⟨fun n p h => issue_completed h ?_ (by simp [u]), fun sh h => issue_completed h ?_ (by simp [u])⟩
  · unfold selOp
    rw [M.bind_ok (src_reads ha), M.bind_ok (srcB_reads hb), M.bind_ok (M.me_run _), hme, dst_put _ _ hd', ← Bool.bne_eq_xor]
  · unfold leaOp
    rw [M.bind_ok (src_reads ha), M.bind_ok (srcB_reads hb), dst_put _ _ hd']

theorem bitFields : BitFields := by
  intro d b x m l r s y f u pos wid h hfit hb hd
  have hf : f.imm = m ∧ f.field = (pos, wid) := by
    cases l <;> exact ⟨rfl, rfl⟩
  obtain ⟨him, hfield⟩ := hf
  have hwid : 0 < wid := by
    have hz : ∀ k : BitVec 6, 0 < if k = 0 then 64 else k.toNat := by decide
    exact hz (m.extractLsb' 0 6)
  refine ⟨fun hm => ?_, fun hm w hw => ?_⟩
  · obtain ⟨t, ht, hfin⟩ := issue_completed (i := .bitf d b f) h (bitField_extract (him ▸ hm) hb hd) (by simp)
    rw [him, hfield] at hfin
    exact ⟨t, _, ht, hfin, fun i hi => getLsbD_extractBits y _ hfit hwid hi⟩
  · obtain ⟨t, ht, hfin⟩ := issue_completed (i := .bitf d b f) h (bitField_insert (him ▸ hm) hb hd hw) (by simp)
    rw [hfield] at hfin
    exact ⟨t, _, ht, hfin, fun i hi => getLsbD_insertBits w y hfit hi⟩

/-- Settles O7: each immediate instruction with the operation of its row, and each bit of a field that is inserted or extracted. -/
theorem immediatesAndFields : Obligations.ImmediatesAndFields := ⟨immediates, selectAndAddress, bitFields⟩

end Sys2Proof.Claims
end

section
/-! PROOFS. What a waiting attempt leaves, for the instructions that begin something and wait; then semaphores (O9) and workspaces
(O10). -/

namespace Sys2Proof.Machine

/-! ## An attempt that waits (R45) -/

/-- A ready instruction whose effect waits leaves the state that its settlement gives. -/
theorem issue_waits {i : Instr} {r : Raw} {s u : State} {body : M Unit} {why : Nat} (h : Ready i r s)
    (hb : body (s.entered r) = .error (.wait u why)) :
    ∃ refill, issue i body s = .next (s.settle r s.me.pc refill (.wait u why)) := by
  refine ⟨s.keeps r body (.wait u why), ?_⟩
  unfold issue
  rw [h.raw]
  simp only [h.live, Bool.not_true, Bool.false_eq_true, if_false]
  rw [M.bind_ok (prologue_ready h)]
  simp only [if_true]
  rw [M.bind_error hb]

/-- What the wait of an attempt leaves before the reason is noted (R45): what an instruction has begun stands; one that begins is
charged and issued; one that is not ready leaves none of its claims. -/
def State.afterWait (u s : State) (r : Raw) (pc : Word) (refill : Bool) : State :=
  if s.me.begun then u
  else if (u.slot s.cur).begun then
    if (u.slot s.cur).phase = 20 then u.takeCharge s.cur r.charge else (u.takeCharge s.cur r.charge).issuedBy s.cur pc false
  else u.notReady s refill

theorem settle_wait {s u : State} (r : Raw) (pc : Word) (refill : Bool) {why : Nat} (hw : why < 4) :
    ∃ smp : Slot → Option Eff, s.settle r pc refill (.wait u why)
      = (u.afterWait s r pc refill).modSlot s.cur fun x => { x with waiting := max why 1, sampled := smp x } := by
  have h8 : ¬ (8 ≤ why ∧ ((u.afterWait s r pc refill).slot s.cur).restore.isNone = true) := fun h => by omega
  unfold State.afterWait at h8
  unfold State.settle State.afterWait
  dsimp only
  rw [if_neg (Nat.not_le.mpr hw), if_neg h8]
  exact ⟨_, rfl⟩

/-- Taking a charge changes clusters alone. -/
theorem State.takeCharge_rest (v : State) (slot n : Nat) : v.takeCharge slot n = { v with clus := (v.takeCharge slot n).clus } := by
  unfold State.takeCharge
  dsimp only
  split <;> rfl

/-- Whatever becomes of the attempt, its memory stands, the semaphores, and the program counter of its thread. -/
theorem State.afterWait_keeps (u s : State) (r : Raw) (pc : Word) (refill : Bool) :
    let t := u.afterWait s r pc refill
    t.mem = u.mem ∧ (∀ c, (t.core c).sems = (u.core c).sems) ∧ (t.slot s.cur).pc = (u.slot s.cur).pc := by
  unfold State.afterWait
  dsimp only
  split
  case isTrue => exact ⟨rfl, fun _ => rfl, rfl⟩
  case isFalse =>
  split
  case isTrue =>
    rw [State.takeCharge_rest]
    split
    · exact ⟨rfl, fun _ => rfl, rfl⟩
    · refine ⟨rfl, fun c => ?_, by rw [State.issuedBy_slot]; rfl⟩
      unfold State.issuedBy
      rw [State.modSlot_eq, State.core_setSlot, State.modCore_eq, State.core_setCore]
      split
      · subst_vars; rfl
      · rfl
  case isFalse =>
    unfold State.notReady
    dsimp only
    refine ⟨rfl, fun c => ?_, ?_⟩
    · rw [State.modSlot_eq, State.core_setSlot, State.modCore_eq, State.core_setCore]
      split
      · subst_vars; rfl
      · rfl
    · rw [State.modSlot_eq, State.slot_setSlot_self]
      split <;> rfl

/-! ## Semaphores (R66, R67) -/

theorem semCount_run (n : BitVec 4) (s : State) : semCount n s = .ok (((s.core (slotCore s.cur)).sems[n.toNat]).toNat, s) := by
  unfold semCount myCore
  rw [M.bind_run, M.bind_run, M.get_run]
  simp [Vector.getElem?_eq_getElem n.isLt]

theorem entered_sems (s : State) (r : Raw) (c : Nat) : ((s.entered r).core c).sems = (s.core c).sems := by
  obtain ⟨q, hq⟩ := entered_core s r c
  rw [hq]

end Sys2Proof.Machine

namespace Sys2Proof.Claims

open Sys2Proof.Machine

theorem semaphores : Semaphores := by
  intro n f r s u core count
  refine ⟨fun h hc => ?_, fun h hs hq hl => ?_⟩
  · refine issue_completed h ?_ (s.entered_cur r)
    have hz : decide (((u.core (slotCore u.cur)).sems[n.toNat]).toNat = 0) = false := by
      rw [State.entered_cur]
      exact decide_eq_false (Nat.pos_iff_ne_zero.mp hc)
    rw [M.bind_ok (semCount_run n _), M.bind_ok (waitIf_of hz _ _), setSem, M.modCore_run, State.entered_cur]
  · refine issue_completed h ?_ (s.entered_cur r)
    have hcur : u.cur = s.cur := s.entered_cur r
    have hcyc : u.cyc = s.cyc := s.entered_cyc r
    have shared : (((u.core (slotCore u.cur)).spend.any fun p => p.slot = u.cur && decide (u.cyc < p.at'))
        || ([52, 53, 54, 55].any fun q => !u.me.ready u.cyc (.spec q))) = false := by
      rw [hcur, hcyc, Bool.or_eq_false_iff, List.any_eq_false, List.any_eq_false]
      refine ⟨fun p hp => ?_, fun q hm => by rw [hq q hm]; decide⟩
      by_cases e : p.slot = s.cur
      · simp [Nat.not_lt.mpr (hs p hp e)]
      · simp [e]
    have stores : (!u.me.localStoresDone (slotCore u.cur)) = false := by rw [hcur, hl]; rfl
    have post : (u.core core).post n.toNat
        = { u.core core with sems := (u.core core).sems.set! n.toNat (BitVec.ofNat 16 (min (count + 1) 65535)) } := by
      simp [Core.post, count, Vector.getElem?_eq_getElem n.isLt]
    rw [M.bind_ok (M.get_run _), M.bind_ok (waitIf_of shared _ _), M.bind_ok (waitIf_of stores _ _), M.modCore_run, hcur,
      State.modCore_eq, post]
    rfl

/-- A `SEMWAIT` at a count of zero waits for a message, with nothing done. -/
theorem semwait_waits {n : BitVec 4} {u : State} (h : (u.core (slotCore u.cur)).sems[n.toNat] = 0) :
    (do let c ← semCount n; waitIf (c = 0) 2; setSem n (c - 1) : M Unit) u = .error (.wait u 2) := by
  rw [M.bind_ok (semCount_run n _), h]
  exact M.bind_error (waitIf_true 2 u)

theorem semaphoreWaits : SemaphoreWaits := by
  intro n f r s h hphase hz
  have hbody := semwait_waits (n := n) (u := s.entered r) (by rw [State.entered_cur, entered_sems]; exact hz)
  obtain ⟨refill, hn⟩ := issue_waits (i := .semwait n f) h hbody
  refine ⟨_, hn, ?_⟩
  obtain ⟨smp, ht⟩ := settle_wait (s := s) (u := s.entered r) r s.me.pc refill (by decide : 2 < 4)
  obtain ⟨hmem, hsems, hpc⟩ := (s.entered r).afterWait_keeps s r s.me.pc refill
  have hslot : (s.entered r).slot s.cur = (s.entered r).me := by rw [State.me, State.entered_cur]
  rw [ht, State.modSlot_eq]
  refine ⟨?_, fun c => ?_, fun a => ?_, ?_⟩
  · rw [State.slot_setSlot_self, hpc, hslot, entered_pc]
  · rw [State.core_setSlot, hsems, entered_sems]
  · rw [State.setSlot_mem, hmem, State.entered_mem]
  · rw [State.slot_setSlot_self]
    rfl

/-- Settles O9: a count that is not zero is taken from, a post waits for the thread's own writes and stores, and at zero the attempt
waits with nothing done. -/
theorem semaphoreInstructions : Obligations.SemaphoreInstructions := ⟨semaphores, semaphoreWaits⟩

end Sys2Proof.Claims
end

section
/-! PROOFS. The write-back of the register cache, word by word, and the change of workspace (O10). -/

namespace Sys2Proof

/-! ## Memory -/

/-- A little-endian read sees the bytes that it names alone. -/
theorem Memory.readLE_congr {m m' : Memory} {a n : Nat} (h : ∀ k, a ≤ k → k < a + n → m.read k = m'.read k) :
    m.readLE a n = m'.readLE a n := by
  induction n generalizing a with
  | zero => rfl
  | succ n ih =>
    rw [Memory.readLE, Memory.readLE, h a (Nat.le_refl a) (by omega), ih fun k hk hk' => h k (by omega) (by omega)]

end Sys2Proof

namespace Sys2Proof.Machine

/-! ## Stores in a local store -/

/-- A local store is no DRAM channel: it takes every store (R92, R331). -/
theorem State.store_local_mem (s : State) (core off v n : Nat) :
    (s.store (localPlace core off) v n).mem = s.mem.writeLE (localPlace core off).key v n := by
  have e : s.chanFailed (localPlace core off) = false := by simp [State.chanFailed, localPlace]
  unfold State.store
  rw [e]
  rfl

theorem localPlace_key (core off : Nat) : (localPlace core off).key = (localPlace core 0).key + off := by
  simp [localPlace, Place.key]

/-! ## The write-back (R48) -/

/-- Word `k` of the register cache of a slot goes to its workspace where it is dirty. -/
def Slot.backWord (x : Slot) (core : Nat) (s : State) (k : Nat) : State :=
  if x.dirty.getLsbD k then s.store (localPlace core (x.wp.toNat + 8 * k)) (x.w[k]?.getD 0).toNat 8 else s

theorem State.writeBack_mem (s : State) (n : Nat) :
    (s.writeBack n).mem = ((List.range 32).foldl (Slot.backWord (s.slot n) (slotCore n)) s).mem := rfl

section

variable (x : Slot) (core : Nat) (s : State)

/-- What the write-back of the first words leaves: each dirty one in its place, and every other byte. -/
theorem backWords_mem (hs : s.mem.wf = true) (n : Nat) :
    let t := (List.range n).foldl (Slot.backWord x core) s
    let at' (k : Nat) : Nat := (localPlace core (x.wp.toNat + 8 * k)).key
    t.mem.wf = true ∧
      (∀ k < n, x.dirty.getLsbD k = true → t.mem.readLE (at' k) 8 = (x.w[k]?.getD 0).toNat) ∧
      ∀ a, (∀ k < n, x.dirty.getLsbD k = true → a < at' k ∨ at' k + 8 ≤ a) → t.mem.read a = s.mem.read a := by
  intro t at'
  have apart (j k : Nat) : at' j + 8 * k = at' k + 8 * j := by
    have hj : at' j = _ := localPlace_key core _
    have hk : at' k = _ := localPlace_key core _
    omega
  induction n with
  | zero => exact ⟨hs, fun k hk => absurd hk (Nat.not_lt_zero k), fun _ _ => rfl⟩
  | succ n ih =>
    obtain ⟨hwf, hin, hout⟩ := ih
    have ht : t = Slot.backWord x core ((List.range n).foldl (Slot.backWord x core) s) n := by
      simp only [t, List.range_succ, List.foldl_append, List.foldl_cons, List.foldl_nil]
    cases hd : x.dirty.getLsbD n with
    | false =>
      have ht' : t = (List.range n).foldl (Slot.backWord x core) s := by rw [ht, Slot.backWord, hd]; rfl
      rw [ht']
      refine ⟨hwf, fun k hk hkd => hin k ?_ hkd, fun a ha => hout a fun k hk => ha k (by omega)⟩
      have : k ≠ n := by rintro rfl; rw [hd] at hkd; cases hkd
      omega
    | true =>
      have hm : t.mem = ((List.range n).foldl (Slot.backWord x core) s).mem.writeLE (at' n) (x.w[n]?.getD 0).toNat 8 := by
        rw [ht, Slot.backWord, if_pos hd, State.store_local_mem]
      rw [hm]
      have outside (a : Nat) (ha : a < at' n ∨ at' n + 8 ≤ a) := Memory.read_writeLE_of_outside
        ((List.range n).foldl (Slot.backWord x core) s).mem (at' n) (x.w[n]?.getD 0).toNat 8 a ha
      refine ⟨Memory.wf_writeLE hwf _ _ _, fun k hk hkd => ?_, fun a ha => ?_⟩
      · rcases Nat.lt_succ_iff_lt_or_eq.mp hk with h | rfl
        · have hap := apart k n
          rw [Memory.readLE_congr fun a h1 h2 => outside a (.inl (by omega))]
          exact hin k h hkd
        · rw [Memory.readLE_writeLE hwf]
          exact Nat.mod_eq_of_lt (x.w[k]?.getD 0).isLt
      · rw [outside a (ha n (Nat.lt_succ_self n) hd)]
        exact hout a fun k hk => ha k (by omega)

end

end Sys2Proof.Machine

namespace Sys2Proof.Claims

open Sys2Proof.Machine

theorem workspaceChange : WorkspaceChange := by
  intro a f r s u' x bound h u ha hal hsp hb hcur hbound hready
  have aligned : decide (x.extractLsb' 0 8 ≠ 0) = false := by simp [hal]
  have inStore : decide (0x40000 < x.toNat + 256) = false := decide_eq_false (Nat.not_lt.mpr hsp)
  have inBound : decide (bound < x.toNat + 256) = false := decide_eq_false (Nat.not_lt.mpr hbound)
  have quiet : ((List.range 32).any fun i => !u'.me.ready u'.cyc (.spec (BitVec.ofNat 6 i))) = false := by
    rw [List.any_eq_false]
    intro k hk
    rw [hready k (List.mem_range.mp hk)]
    decide
  refine issue_completed h ?_ ?_
  · rw [M.bind_ok (src_reads ha), M.bind_ok (raiseIf_of aligned _ _ _ _ _), M.bind_ok (raiseIf_of inStore _ _ _ _ _), M.bind_ok hb,
      M.bind_ok (raiseIf_of inBound _ _ _ _ _), M.bind_ok (M.get_run _), M.bind_ok (waitIf_of quiet _ _), M.set_run, hcur]
  · rw [State.modSlot_eq, State.setSlot_cur, State.writeBack_eq]
    exact hcur

theorem writeBackStores : WriteBackStores := by
  intro s n hs x at'
  obtain ⟨-, hin, hout⟩ := backWords_mem x (slotCore n) s hs 32
  refine ⟨fun k hk hd => ?_, fun a ha => ?_, ?_, ?_⟩
  · have hr : x.reg (BitVec.ofNat 6 k) = x.w[k]?.getD 0 := by
      rw [Slot.reg, BitVec.toNat_ofNat, show k % 2 ^ 6 % 32 = k by omega]
    rw [State.readMem, State.writeBack_mem, hr]
    exact hin k hk hd
  · rw [State.writeBack_mem]
    exact hout a ha
  · rw [State.writeBack_slot]
  · rw [State.writeBack_slot]

/-- Settles O10: the change of workspace once its checks and waits have passed, and what the stores of a write-back leave, by induction
on the words. -/
theorem workspaceInstructions : Obligations.WorkspaceInstructions := ⟨workspaceChange, writeBackStores⟩

end Sys2Proof.Claims
end

section
/-! PROOFS. `CALLRM` and `REPLY` (O11): what the checks of a destination, the reservation of a credit and the sending of a packet
leave of the state, then the two instructions. -/

namespace Sys2Proof.Machine

/-! ## A wait with something begun -/

/-- What has begun stands while it waits (R45): memory, the network and the slots do, but for the marks of issue in the own one. -/
theorem State.afterWait_begun {u s : State} (h : (u.slot s.cur).begun = true) (r : Raw) (pc : Word) (refill : Bool) :
    let t := u.afterWait s r pc refill
    t.mem = u.mem ∧ t.net = u.net ∧ (∃ w k, t.slot s.cur = { u.slot s.cur with waiting := w, trap := k }) ∧
      ∀ n, n ≠ s.cur → t.slot n = u.slot n := by
  unfold State.afterWait
  dsimp only
  rw [if_pos h, State.takeCharge_rest]
  split
  · exact ⟨rfl, rfl, ⟨_, _, rfl⟩, fun _ _ => rfl⟩
  · split
    · exact ⟨rfl, rfl, ⟨_, _, rfl⟩, fun _ _ => rfl⟩
    · refine ⟨rfl, rfl, ⟨_, _, State.issuedBy_slot _ _ _ _⟩, fun n hn => ?_⟩
      exact State.slot_setSlot_of_ne _ _ _ _ hn

/-- A settled wait leaves what has begun. -/
theorem settle_wait_begun {s u : State} (r : Raw) (pc : Word) (refill : Bool) {why : Nat} (hw : why < 4)
    (h : (u.slot s.cur).begun = true) :
    let t := s.settle r pc refill (.wait u why)
    t.mem = u.mem ∧ t.net = u.net ∧ (∃ w k e, t.slot s.cur = { u.slot s.cur with waiting := w, trap := k, sampled := e }) ∧
      ∀ n, n ≠ s.cur → t.slot n = u.slot n := by
  obtain ⟨smp, ht⟩ := settle_wait (s := s) (u := u) r pc refill hw
  obtain ⟨hmem, hnet, ⟨w, k, hslot⟩, hother⟩ := State.afterWait_begun h r pc refill
  dsimp only
  rw [ht, State.modSlot_eq]
  refine ⟨hmem, hnet, ⟨max why 1, k, smp ((u.afterWait s r pc refill).slot s.cur), ?_⟩, fun n hn => ?_⟩
  · rw [State.slot_setSlot_self, hslot]
  · rw [State.slot_setSlot_of_ne _ _ _ _ hn, hother n hn]

/-! ## Checks that pass -/

theorem raiseIf_inv {b : Bool} {c k : Nat} {a i : Word} {s t : State} {x : Unit} (h : raiseIf b c k a i s = .ok (x, t)) :
    b = false ∧ t = s := by
  cases b with
  | true => rw [raiseIf_true] at h; cases h
  | false => rw [raiseIf_false] at h; cases h; exact ⟨rfl, rfl⟩

/-- Two effects in a row that end: the first ends where the second begins. -/
theorem M.bind_inv {α β : Type} {x : M α} {f : α → M β} {s t : State} {b : β} (h : (x >>= f) s = .ok (b, t)) :
    ∃ a u, x s = .ok (a, u) ∧ f a u = .ok (b, t) := by
  rw [M.bind_run] at h
  cases hx : x s with
  | error e => rw [hx] at h; cases h
  | ok p => rw [hx] at h; exact ⟨p.1, p.2, rfl, h⟩

/-- Sampling an effective block keeps a copy and changes nothing else (R226). -/
theorem sampleBlock_inv {k : Nat} {s t : State} {e : Eff} (h : sampleBlock k s = .ok (e, t)) :
    s.eff? k = some e ∧ t = s.cacheEff k e := by
  unfold sampleBlock at h
  rw [M.bind_ok (M.get_run _)] at h
  cases he : s.eff? k with
  | none => rw [he] at h; cases h
  | some e' => rw [he] at h; cases h; exact ⟨rfl, rfl⟩

/-- A thread's effective block is sampled with copies of blocks changed alone (R226). -/
theorem myEff_inv {s t : State} {e : Eff} (h : myEff s = .ok (e, t)) : ∃ l, t = { s with effs := l } := by
  unfold myEff at h
  rw [M.bind_ok (M.me_run _)] at h
  have sampled (h : sampleBlock s.me.rcb s = .ok (e, t)) : ∃ l, t = { s with effs := l } := ⟨_, (sampleBlock_inv h).2⟩
  cases hx : s.me.sampled with
  | none => rw [hx] at h; exact sampled h
  | some e' =>
    rw [hx] at h
    dsimp only at h
    split at h
    · cases h; exact ⟨_, rfl⟩
    · exact sampled h

/-- A destination word that passes its checks leaves all but copies of blocks (R168). -/
theorem destCheck_inv {w : Word} {port : Bool} {s t : State} (h : destCheck w port s = .ok ((), t)) :
    ∃ l, t = { s with effs := l } := by
  unfold destCheck at h
  obtain ⟨_, u, h1, h'⟩ := M.bind_inv h
  obtain ⟨e, v, h2, h3⟩ := M.bind_inv h'
  obtain ⟨_, rfl⟩ := raiseIf_inv h1
  obtain ⟨_, rfl⟩ := raiseIf_inv h3
  exact myEff_inv h2

/-! ## Packets -/

/-- A packet as the network takes it (R159): under the next number, at its source. -/
def State.injected (s : State) (p : Packet) : Packet :=
  { p with pid := s.pidNext, at' := p.src, dev := s.device, sdev := s.device, due := s.cyc + 1, inj := s.cyc }

theorem State.send_net (s : State) (p : Packet) : (s.send p).net = s.net ++ [s.injected p] := rfl

@[simp] theorem State.send_cur (s : State) (p : Packet) : (s.send p).cur = s.cur := rfl
@[simp] theorem State.send_mem (s : State) (p : Packet) : (s.send p).mem = s.mem := rfl
@[simp] theorem State.slot_send (s : State) (p : Packet) (n : Nat) : (s.send p).slot n = s.slot n := rfl
@[simp] theorem State.core_send (s : State) (p : Packet) (n : Nat) : (s.send p).core n = s.core n := rfl

/-- One state follows another but for the ports and the `pv` of a slot. -/
def Took (n : Nat) (s t : State) : Prop :=
  (∃ ps v, t.slot n = { s.slot n with ports := ps, pv := v }) ∧ ∀ m, m ≠ n → t.slot m = s.slot m

theorem Took.foldl {α : Type} {n : Nat} {g : State → α → State} (h : ∀ s a, Took n s (g s a)) (l : List α) (s : State) :
    Took n s (l.foldl g s) := by
  induction l generalizing s with
  | nil => exact ⟨⟨_, _, rfl⟩, fun _ _ => rfl⟩
  | cons a l ih =>
    obtain ⟨⟨ps, v, h1⟩, o1⟩ := h s a
    obtain ⟨⟨ps', v', h2⟩, o2⟩ := ih (g s a)
    exact ⟨⟨ps', v', by rw [List.foldl_cons, h2, h1]⟩, fun m hm => by rw [List.foldl_cons, o2 m hm, o1 m hm]⟩

/-- Taking what an instruction has read changes no more of the slots than ports and `pv` (R69, R172). -/
theorem State.take_took (s : State) (n : Nat) (xs : List Spec) : Took n s (s.take n xs) := by
  refine Took.foldl (fun s x => ?_) _ s
  split
  · exact ⟨⟨_, _, State.slot_setSlot_self s n _⟩, fun m hm => State.slot_setSlot_of_ne s n m _ hm⟩
  · exact ⟨⟨_, _, State.slot_setSlot_self s n _⟩, fun m hm => State.slot_setSlot_of_ne s n m _ hm⟩

/-- The words of a thread depend on its workspace, its register cache and memory alone (R48). -/
theorem State.word_congr {s t : State} {n : Nat} (ha : (t.slot n).absent = (s.slot n).absent) (hp : (t.slot n).wp = (s.slot n).wp)
    (hw : (t.slot n).w = (s.slot n).w) (hm : t.mem = s.mem) (i : Nat) : t.word n i = s.word n i := by
  unfold State.word State.readMem
  dsimp only
  rw [ha, hp, hw, hm]

/-- A credit of the core is taken (R164). -/
theorem reserveCredits_run {n : Nat} {s : State} (h : n ≤ (s.core (slotCore s.cur)).credits) :
    reserveCredits n s = .ok ((), s.modCore (slotCore s.cur) fun c => { c with credits := c.credits - n }) := by
  unfold reserveCredits myCore
  rw [M.bind_run, M.bind_run, M.get_run]
  exact M.bind_ok (waitIf_of (decide_eq_false (Nat.not_lt.mpr h)) _ _)

/-- A slot that an answer is owed to (R178). -/
def Slot.owing (x : Slot) (o : Owed) : Slot :=
  { x with owed := x.owed ++ [{ o with id := x.accNext, pc := x.pc, ws := x.wp }], accNext := x.accNext + 1 }

theorem addOwed_run (o : Owed) (s : State) : addOwed o s = .ok (s.me.accNext, s.modSlot s.cur fun x => x.owing o) := rfl

/-! ## A call (R70, R73) -/

/-- A slot that waits for the answer of a call. -/
def Slot.calling (x : Slot) (f : Form) (d : Spec) (tok : Word) : Slot :=
  { x with callSeq := x.callSeq + 1, calls := x.calls ++ [(x.pc, tok, 0, x.pc + BitVec.ofNat 64 f.size)]
           armed := if d.toNat < 32 then x.armed ++ [(tok, x.wp)] else x.armed }

/-- The state in which the current thread waits for the answer of a call, which it is owed. -/
def State.calling (s : State) (f : Form) (d : Spec) (tok : Word) : State :=
  (s.modSlot s.cur fun x => x.owing { id := 0, what := 6, va := tok }).modSlot s.cur fun x => x.calling f d tok

/-- That state, with a core-shared reply register armed for the core. -/
def State.called (s : State) (f : Form) (d : Spec) (tok : Word) : State :=
  if 52 ≤ d.toNat then
    (s.calling f d tok).modCore (slotCore s.cur) fun c => { c with armedS := c.armedS ++ [(d.toNat - 52, tok)] }
  else s.calling f d tok

/-- What waiting for a call leaves: the slot that waits, every other one, memory and the network. -/
theorem State.called_keeps (s : State) (f : Form) (d : Spec) (tok : Word) :
    let t := s.called f d tok
    t.slot s.cur = (s.me.owing { id := 0, what := 6, va := tok }).calling f d tok ∧ t.mem = s.mem ∧ t.net = s.net ∧ t.cur = s.cur := by
  have hs : (s.calling f d tok).slot s.cur = (s.me.owing { id := 0, what := 6, va := tok }).calling f d tok := by
    rw [State.calling, State.modSlot_eq, State.slot_setSlot_self, State.modSlot_eq, State.slot_setSlot_self]
    rfl
  unfold State.called
  dsimp only
  split
  · exact ⟨hs, rfl, rfl, rfl⟩
  · exact ⟨hs, rfl, rfl, rfl⟩

/-- The packet of a call (R70). -/
def State.callPacket (s u : State) (x w tok : Word) (id : Nat) : Packet :=
  { s.packetOf s.cur 10 with
    ddev := destDev w, dst := destClu w, dep := destEp w, val := x.toNat, owed := id
    ws := [tok, BitVec.ofNat 64 u.me.prio, BitVec.ofNat 64 u.me.depth] ++ (List.range 8).map fun i => s.word s.cur i }

/-- The core that a call leaves has one credit less, and its ports' words and `pv` have been taken (R164, R172). -/
def State.spent (s : State) (r : Raw) : State :=
  (s.modCore (slotCore s.cur) fun c => { c with credits := c.credits - 1 }).take s.cur r.taken

theorem spent_run {i : Instr} {r : Raw} (h : i.raw = some r) (s : State) :
    takeOps i (s.modCore (slotCore s.cur) fun c => { c with credits := c.credits - 1 }) = .ok ((), s.spent r) := by
  rw [takeOps, h]
  rfl

section

variable {d a b : Spec} {f : Form} {r : Raw} {s u' : State} {x w : Word}

/-- A call's charges leave memory, the network and the thread but for its ports and its `pv`. -/
theorem State.spent_keeps (s : State) (r : Raw) :
    let t := s.spent r
    t.mem = s.mem ∧ t.net = s.net ∧ t.cur = s.cur ∧ ∃ ps v, t.me = { s.me with ports := ps, pv := v } := by
  have hcur : (s.spent r).cur = s.cur := State.take_cur _ _ _
  obtain ⟨⟨ps, v, h⟩, -⟩ := State.take_took (s.modCore (slotCore s.cur) fun c => { c with credits := c.credits - 1 }) s.cur r.taken
  refine ⟨?_, ?_, hcur, ps, v, ?_⟩
  · rw [State.spent, State.take_eq]; rfl
  · rw [State.spent, State.take_eq]; rfl
  · rw [State.me, hcur]; exact h

/-- What a thread is once its call waits: it has given away port words and `pv`, is owed the answer and holds the call. -/
theorem State.spent_called (u' : State) (r : Raw) (f : Form) (d : Spec) (tok : Word) :
    let v := (u'.spent r).called f d tok
    (∃ ps pv, v.slot u'.cur = ({ u'.me with ports := ps, pv := pv }.owing { id := 0, what := 6, va := tok }).calling f d tok) ∧
      v.mem = u'.mem ∧ v.net = u'.net ∧ v.cur = u'.cur := by
  obtain ⟨hmem, hnet, hcur, ps, pv, hme⟩ := u'.spent_keeps r
  obtain ⟨hself, hmem', hnet', hcur'⟩ := (u'.spent r).called_keeps f d tok
  rw [hme, hcur] at hself
  exact ⟨⟨ps, pv, hself⟩, hmem'.trans hmem, hnet'.trans hnet, hcur'.trans hcur⟩

theorem completed_run {α : Type} (f : Form) (s : State) :
    (completed f : M α) s = .error (.quit (s.modSlot s.cur fun x => x.advance f)) := rfl

/-- A call whose checks pass is sent, and waits for its answer (R70, R73). -/
theorem callrm_sends (h : Ready (.callrm d a b f) r s) (hf : (s.entered r).me.calls.find? (fun c => c.1 = (s.entered r).me.pc) = none)
    (ha : (s.entered r).reads f a = some x) (hb : ((s.entered r).touched a).reads f b = some w) (hdepth : (s.entered r).me.depth < 7)
    (hal : x.extractLsb' 0 2 = 0) (hdest : destCheck w false (((s.entered r).touched a).touched b) = .ok ((), u'))
    (harm : isArmed (s.entered r) d = false) (hcred : 0 < (u'.core (slotCore s.cur)).credits) :
    let u := s.entered r
    let tok := u.token s.cur u.me.callSeq d
    let v := (u'.spent r).called f d tok
    ∃ refill, exec (.callrm d a b f) s
      = .next (s.settle r s.me.pc refill (.wait (v.send (v.callPacket u x w tok (u'.spent r).me.accNext)) 2)) := by
  intro u tok v
  obtain ⟨l, hu'⟩ := destCheck_inv hdest
  have hcur : u'.cur = s.cur := by
    rw [hu']
    exact (State.touched_cur _ b).trans ((State.touched_cur _ a).trans (s.entered_cur r))
  clear hu'
  have shallow : decide (7 ≤ u.me.depth) = false := decide_eq_false (Nat.not_le.mpr hdepth)
  have aligned : decide (x.extractLsb' 0 2 ≠ 0) = false := by simp [hal]
  refine issue_waits (i := .callrm d a b f) h ?_
  rw [M.bind_ok (M.get_run _), M.bind_ok (M.me_run _), hf]
  dsimp only
  rw [M.bind_ok (src_reads ha), M.bind_ok (src_reads hb), M.bind_ok (raiseIf_of shallow _ _ _ _ _),
    M.bind_ok (raiseIf_of aligned _ _ _ _ _), M.bind_ok hdest, M.bind_ok (raiseIf_of harm _ _ _ _ _),
    M.bind_ok (reserveCredits_run (by rw [hcur]; exact hcred)), M.bind_ok (spent_run h.raw u'), M.bind_ok (addOwed_run _ _),
    M.bind_ok (M.modMe_run _ _), State.entered_cur]
  by_cases h52 : 52 ≤ d.toNat
  · have e : v = ((u'.spent r).calling f d tok).modCore (slotCore (u'.spent r).cur) fun c =>
        { c with armedS := c.armedS ++ [(d.toNat - 52, tok)] } := if_pos h52
    rw [if_pos h52, M.bind_ok (M.modCore_run _ _), M.bind_ok (M.get_run _), e]
    rfl
  · have e : v = (u'.spent r).calling f d tok := if_neg h52
    rw [if_neg h52, M.bind_ok (M.get_run _), e]
    rfl

end

end Sys2Proof.Machine

namespace Sys2Proof.Claims

open Sys2Proof.Machine

theorem remoteCallInstruction : RemoteCallInstruction := by
  intro d a b f r s h u
  refine ⟨?_, ?_⟩
  · intro x w u' hf ha hb hdepth hal hdest hme hnet hmem hcur harm hcred tok
    obtain ⟨refill, hn⟩ := callrm_sends h hf ha hb hdepth hal hdest harm hcred
    obtain ⟨⟨ps, pv, hv⟩, hmemv, hnetv, hcurv⟩ := u'.spent_called r f d tok
    rw [hcur, hme] at hv
    have hword (n : Nat) : ((u'.spent r).called f d tok).word s.cur n = u.word s.cur n := by
      have hu : u.slot s.cur = u.me := by rw [State.me, State.entered_cur]
      refine State.word_congr ?_ ?_ ?_ ?_ n
      · rw [hv, hu]; rfl
      · rw [hv, hu]; rfl
      · rw [hv, hu]; rfl
      · rw [hmemv, hmem, State.entered_mem]
    have hbegun : (((u'.spent r).called f d tok).slot s.cur).begun = true := by
      rw [hv]
      simp [Slot.begun, Slot.calling, Slot.owing]
    obtain ⟨hmemt, hnett, ⟨wt, k, e, ht⟩, -⟩ := settle_wait_begun (s := s) (why := 2) r s.me.pc refill (by decide)
      (u := ((u'.spent r).called f d tok).send (((u'.spent r).called f d tok).callPacket u x w tok (u'.spent r).me.accNext)) hbegun
    rw [State.slot_send, hv] at ht
    refine ⟨_, _, hn, by rw [hnett, State.send_net, hnetv, hnet], rfl, rfl, rfl, rfl, rfl, ?_, ?_, ?_, fun hd => ?_, fun n => ?_⟩
    · have hv' : ((u'.spent r).called f d tok).cur = s.cur := hcurv.trans hcur
      show [tok, _, _] ++ (List.range 8).map (fun n => ((u'.spent r).called f d tok).word ((u'.spent r).called f d tok).cur n) = _
      rw [hv']
      exact congrArg _ (List.map_congr_left fun n _ => hword n)
    · rw [ht]; exact entered_pc s r
    · rw [ht]; rfl
    · rw [ht]; exact if_pos hd
    · rw [hmemt, State.send_mem, hmemv, hmem]
  · intro tok link hf harm
    refine issue_placed h ?_
    rw [M.bind_ok (M.get_run _), M.bind_ok (M.me_run _), hf]
    dsimp only
    rw [if_neg (by decide), harm, if_neg (by decide), M.bind_ok (M.modMe_run _ _), State.entered_cur,
      M.bind_error (completed_run f _), State.modSlot_eq _ s.cur, State.setSlot_cur, State.entered_cur]

theorem replyInstruction : ReplyInstruction := by
  intro a b f r s x y h u ha hb w
  refine issue_completed h ?_ ?_
  · rw [M.bind_ok (src_reads ha), M.bind_ok (src_reads hb), M.bind_ok (M.get_run _), sendPacket, M.modify_run]
    simp [w, u]
  · simp [w, u]

/-- Settles O11: a call is sent with its token and arms its reply register, and completes once it is answered; a reply is sent to
where its token names. -/
theorem callInstructions : Obligations.CallInstructions := ⟨remoteCallInstruction, replyInstruction⟩

end Sys2Proof.Claims
end

section
/-! PROOFS. Instruction fetch and the page-table walker (O47): what the service port's steps leave, then the fetch steps. -/

namespace Sys2Proof.Machine

open Sys2Proof.Claims

/-! ## Changes of one cluster -/

theorem onlyClu_modClu (s : State) (k : Nat) (f : Cluster → Cluster) : onlyClu k f s (s.modClu k f) :=
  ⟨rfl, s.clu_setClu_self k _, fun _ h => s.clu_setClu_of_ne k _ _ h⟩

theorem onlyClu_trans {k : Nat} {f g : Cluster → Cluster} {s t u : State} (h : onlyClu k f s t) (h' : onlyClu k g t u) :
    onlyClu k (fun c => g (f c)) s u := by
  obtain ⟨ht, hk, ho⟩ := h
  obtain ⟨hu, hk', ho'⟩ := h'
  exact ⟨by rw [hu, ht], by rw [hk', hk], fun c hc => (ho' c hc).trans (ho c hc)⟩

/-! ## Reads that the service port sends for (R63, R200, R292) -/

/-- The event and the waking of a router that a packet causes (R159, R167) leave a cluster's reads, misses and walks. -/
theorem State.send_clu (s : State) (p : Packet) (k : Nat) :
    ((s.send p).clu k).reads = (s.clu k).reads ∧ ((s.send p).clu k).misses = (s.clu k).misses ∧
      ((s.send p).clu k).walks = (s.clu k).walks := by
  have waken (t : State) (c : Nat) : ((t.wakeRouter c).clu k).reads = (t.clu k).reads ∧
      ((t.wakeRouter c).clu k).misses = (t.clu k).misses ∧ ((t.wakeRouter c).clu k).walks = (t.clu k).walks := by
    unfold State.wakeRouter
    rw [State.modClu_eq, State.clu_setClu]
    by_cases h : k = c
    · subst h
      rw [if_pos rfl]
      split
      · split <;> exact ⟨rfl, rfl, rfl⟩
      · exact ⟨rfl, rfl, rfl⟩
    · rw [if_neg h]
      exact ⟨rfl, rfl, rfl⟩
  obtain ⟨hr, hm, hw⟩ := waken (s.event p.src 6) p.src
  have counted : ((s.event p.src 6).clu k).reads = (s.clu k).reads ∧ ((s.event p.src 6).clu k).misses = (s.clu k).misses ∧
      ((s.event p.src 6).clu k).walks = (s.clu k).walks := by
    unfold State.event
    rw [State.modClu_eq, State.clu_setClu]
    by_cases h : k = p.src
    · subst h
      rw [if_pos rfl]
      exact ⟨rfl, rfl, rfl⟩
    · rw [if_neg h]
      exact ⟨rfl, rfl, rfl⟩
  exact ⟨hr.trans counted.1, hm.trans counted.2.1, hw.trans counted.2.2⟩

/-- A read that goes out is noted in its cluster, and stands in a DRAM channel's queue or in the network. -/
theorem State.sendRead_sent (s : State) (k : Nat) (code : Bool) (p : Place) :
    sentFor k code p s (s.sendRead k code p) ∧ ((s.sendRead k code p).clu k).misses = (s.clu k).misses ∧
      ((s.sendRead k code p).clu k).walks = (s.clu k).walks := by
  unfold State.sendRead
  dsimp only
  by_cases h : portDram k p = true
  · rw [if_pos h, State.modDram_eq]
    refine ⟨⟨rfl, fun _ => rfl, ?_, fun _ => ?_, fun h' => absurd h (by simp [h'])⟩, ?_, ?_⟩
    · rw [State.clu_setDram, State.clu_setClu_self]
    · rw [State.dram_setDram_self, State.dram_setClu]
    · rw [State.clu_setDram, State.clu_setClu_self]
    · rw [State.clu_setDram, State.clu_setClu_self]
  · rw [if_neg h]
    obtain ⟨hr, hm, hw⟩ := State.send_clu (s.setClu k { s.clu k with
      reads := (s.clu k).reads ++ [{ seq := (s.clu k).readNext, key := p.key, code := code }], readNext := (s.clu k).readNext + 1 })
      { pid := 0, kind := if code then 3 else 0, ddev := if p.dev = 0 then s.device else p.dev - 1
        dst := if p.kind = 2 then p.unit else if p.kind = 3 then p.unit * 32 + p.group else chanClu p.unit
        dep := 30, src := k, sep := portEp code
        place := ({ seq := (s.clu k).readNext, key := p.key, code := code } : PortRead).span.1
        size := ({ seq := (s.clu k).readNext, key := p.key, code := code } : PortRead).span.2, owed := (s.clu k).readNext } k
    rw [State.clu_setClu_self] at hr hm hw
    exact ⟨⟨rfl, fun _ => rfl, hr, fun h' => absurd h' h, fun _ => ⟨_, rfl, rfl, rfl, rfl, rfl⟩⟩, hm, hw⟩

/-- A missing turn is made good after a revolution (R88): the line is held until then. -/
theorem State.holdLine_held (s : State) (k : Nat) (p : Place) :
    let t := (s.holdLine k p).event k 9
    untouched s t ∧ (t.clu k).misses = (s.clu k).misses ∧ SMap.get 0 (t.clu k).held p.line.key = s.cyc + s.revolution k p := by
  unfold State.holdLine State.event
  dsimp only
  rw [State.modClu_eq, State.modClu_eq, State.clu_setClu_self, State.clu_setClu_self]
  exact ⟨⟨rfl, fun _ => rfl⟩, rfl, SMap.get_set_self _ _ _ _⟩

/-! ## The instruction cache (R63) -/

/-- The slots that wait for a block depend on the clusters' missed blocks alone. -/
theorem State.fetchers_cached (s : State) (k : Nat) (g : Cluster → List (Nat × Nat)) :
    (s.modClu k fun c => { c with icache := g c }).fetchers k = s.fetchers k := by
  unfold State.fetchers
  rw [State.modClu_eq, State.clu_setClu_self]
  rfl

/-- The block that the only waiting slot has asked for goes to it, two cycles from its issue. -/
theorem State.fetchServe_hit {s : State} {k n c key : Nat} {b : Word} {e : Nat × Nat} (hf : s.fetchers k = [(n, b, c, key)])
    (hq : (s.slot n).freq = some (b, c, key)) (he : (s.clu k).icache.find? (fun e => e.1 = key) = some e) :
    s.fetchServe k = ((s.modClu k fun c => { c with icache := cachePut c.icache key e.2 }).modSlot n fun x =>
      { x with fbuf := (b, e.2, s.cyc + 2) :: x.fbuf.take 1, freq := none }) := by
  unfold State.fetchServe
  rw [hf]
  dsimp only
  split
  case h_1 hnone => exact absurd (he.symm.trans hnone) (by simp)
  case h_2 e' hsome =>
    obtain rfl : e = e' := Option.some.inj (he.symm.trans hsome)
    rw [List.foldl_nil, State.fetchers_cached s k fun c => cachePut c.icache key e.2, hf]
    simp [hq]

/-- A block that the cache does not hold is missed. -/
theorem State.fetchServe_miss {s : State} {k n c key : Nat} {b : Word} (hf : s.fetchers k = [(n, b, c, key)])
    (he : (s.clu k).icache.find? (fun e => e.1 = key) = none) :
    s.fetchServe k = s.modClu k fun c => { c with misses := c.misses ++ [key] } := by
  unfold State.fetchServe
  rw [hf]
  dsimp only
  split
  case h_1 => rfl
  case h_2 e' hsome => exact absurd (he.symm.trans hsome) (by simp)

/-- What a refill makes of the read of its block (R63), as the service port sees it. -/
def State.refilled (s : State) (k key : Nat) : PortView → State
  | .later => s
  | .missing => (s.holdLine k (Place.ofKey key)).event k 9
  | .send => s.sendRead k true (Place.ofKey key)
  | .value v _ => s.modClu k fun c =>
    { c.readOver true key with misses := c.misses.filter (· ≠ key), icache := cachePut c.icache key v }

theorem exec_icacheRefill {s : State} {k key : Nat} (h : key ∈ (s.clu k).misses) :
    exec (.icacheRefill (k, key)) s = .next (s.refilled k key (s.portView k true (Place.ofKey key))) := by
  have hm : (!(s.clu k).misses.contains key) = false := by simp [h]
  show execIcacheRefill (k, key) s = _
  unfold execIcacheRefill
  dsimp only
  rw [hm, if_neg Bool.false_ne_true]
  cases s.portView k true (Place.ofKey key) <;> rfl

theorem exec_icacheRefill_idle {s : State} {k key : Nat}
    (h : key ∉ (s.clu k).misses ∨ s.portView k true (Place.ofKey key) = .later) : exec (.icacheRefill (k, key)) s = .next s := by
  by_cases hm : key ∈ (s.clu k).misses
  · rw [exec_icacheRefill hm, h.resolve_left (not_not_intro hm)]
    rfl
  · show execIcacheRefill (k, key) s = _
    unfold execIcacheRefill
    exact if_pos (by simp [hm])

/-! ## The walker (R289 to R292) -/

/-- What a walk makes of the read of its level's entry (R292), as the service port sees it. -/
def State.walked (s : State) (k : Nat) (w : Walk) (p : Place) : PortView → State
  | .later => s
  | .missing => (s.holdLine k p).event k 9
  | .send => s.sendRead k false p
  | .value v bad => s.walkRead k w p v bad

section

variable {s : State} {k root page : Nat} {w : Walk}
  (hw : (s.clu k).walkers.find? (fun w => w.root = root && w.va / 65536 = page) = some w)
include hw

theorem exec_tableWalk : exec (.tableWalk (k, root, page)) s = .next (s.tableWalk k w) := by
  show execTableWalk (k, root, page) s = _
  unfold execTableWalk
  dsimp only
  rw [hw]

/-- A level that has no entry ends its walk; one that has an entry is read (R290, R292). -/
theorem exec_tableWalk_level (hroot : ¬ (w.level = 3 ∧ w.entry.getLsbD 0 = false)) :
    (w.place = none →
      exec (.tableWalk (k, root, page)) s = .next (s.walkOn k w fun v => { v with bad := some (w.level, 1, w.entry) })) ∧
    ∀ p, w.place = some p → exec (.tableWalk (k, root, page)) s = .next (s.walked k w p (s.portView k false p)) := by
  have hl : ¬ (decide (w.level = 3) && !w.entry.getLsbD 0) = true := by simpa using hroot
  rw [exec_tableWalk hw]
  unfold State.tableWalk
  rw [if_neg hl]
  refine ⟨fun hp => by rw [hp], fun p hp => ?_⟩
  rw [hp]
  dsimp only
  cases s.portView k false p <;> rfl

end

/-- Where the walks of a cluster change, they alone do. -/
theorem State.walkOn_only (s : State) (k : Nat) (w : Walk) (g : Walk → Walk) :
    onlyClu k (fun c => { c with walks := walksOf s k g w }) s (s.walkOn k w g) :=
  onlyClu_modClu s k _

/-- A read entry that leaves its walk going, or ends it at a fault, changes the walks and ends the read. -/
theorem State.walkRead_on {s : State} {k : Nat} {w : Walk} {p : Place} {v : Nat} {bad : Bool} {g : Walk → Walk}
    (h : s.walkRead k w p v bad = (s.modClu k fun c => c.readOver false p.key).walkOn k w g) :
    onlyClu k (fun c => { c.readOver false p.key with walks := walksOf s k g w }) s (s.walkRead k w p v bad) := by
  rw [h]
  have both := onlyClu_trans (onlyClu_modClu s k fun c => c.readOver false p.key)
    ((s.modClu k fun c => c.readOver false p.key).walkOn_only k w g)
  unfold walksOf at both
  rw [State.modClu_eq, State.clu_setClu_self] at both
  exact both

/-- Filling the TLBs of a list of cores leaves an entry in the TLB of each, and of every core that holds it. -/
theorem fillCores_mem (e : TlbEntry) (l : List Nat) (s : State) :
    let t := l.foldl (fun s c => s.modCore c fun x => { x with tlb := tlbPut 96 x.tlb e }) s
    t.mem = s.mem ∧ (∀ m, t.slot m = s.slot m) ∧ (∀ c, t.clu c = s.clu c) ∧
      ∀ c, c ∈ l ∨ e ∈ (s.core c).tlb → e ∈ (t.core c).tlb := by
  induction l generalizing s with
  | nil => exact ⟨rfl, fun _ => rfl, fun _ => rfl, fun c hc => hc.resolve_left (List.not_mem_nil)⟩
  | cons d l ih =>
    obtain ⟨hm, hs, hk, hc⟩ := ih (s.modCore d fun x => { x with tlb := tlbPut 96 x.tlb e })
    refine ⟨hm, hs, hk, fun c h => hc c ?_⟩
    rw [State.modCore_eq, State.core_setCore]
    by_cases hcd : c = d
    · rw [if_pos hcd]
      exact Or.inr List.mem_cons_self
    · rw [if_neg hcd]
      exact h.imp_left fun hm => (List.mem_cons.mp hm).resolve_left hcd

end Sys2Proof.Machine

namespace Sys2Proof.Claims

open Sys2Proof.Machine

/-- A block that the cache holds goes to the slot that waits for it; one that it does not hold is missed. -/
theorem fetchServed {s : State} {k n c key : Nat} {b : Word} (hf : s.fetchers k = [(n, b, c, key)])
    (hq : (s.slot n).freq = some (b, c, key)) :
    (∀ e, (s.clu k).icache.find? (fun e => e.1 = key) = some e →
      ∃ t, exec (.fetchServe k) s = .next t ∧ (t.slot n).fbuf.head? = some (b, e.2, s.cyc + 2) ∧ (t.slot n).freq = none ∧
        (t.slot n).pc = (s.slot n).pc ∧ t.mem = s.mem ∧ ∀ m, m ≠ n → t.slot m = s.slot m) ∧
    ((s.clu k).icache.find? (fun e => e.1 = key) = none →
      ∃ t, exec (.fetchServe k) s = .next t ∧ onlyClu k (fun c => { c with misses := c.misses ++ [key] }) s t) := by
  refine ⟨fun e he => ⟨_, rfl, ?_⟩, fun he => ⟨_, rfl, ?_⟩⟩
  · rw [State.fetchServe_hit hf hq he, State.modSlot_eq, State.slot_setSlot_self]
    exact ⟨rfl, rfl, rfl, rfl, fun m hm => State.slot_setSlot_of_ne _ _ _ _ hm⟩
  · rw [State.fetchServe_miss hf he]
    exact onlyClu_modClu s k _

/-- A read block goes into the cache, and is no longer missed. -/
theorem refilled_value (s : State) (k key v : Nat) (bad : Bool) :
    let t := s.refilled k key (.value v bad)
    untouched s t ∧ (t.clu k).icache.head? = some (key, v) ∧ key ∉ (t.clu k).misses ∧
      ∀ j ∈ (s.clu k).misses, j ≠ key → j ∈ (t.clu k).misses := by
  unfold State.refilled
  dsimp only
  rw [State.modClu_eq, State.clu_setClu_self]
  exact ⟨⟨rfl, fun _ => rfl⟩, rfl, by simp, fun j hj hne => List.mem_filter.mpr ⟨hj, by simpa using hne⟩⟩

/-- A walk that ends at a leaf fills the TLBs of its cluster and of every core that waits for it. -/
theorem walkDone_fills (s : State) (k : Nat) (w : Walk) (e : TlbEntry) :
    let t := s.walkDone k w e
    untouched s t ∧ e ∈ (t.clu k).tlb ∧ (∀ v ∈ (t.clu k).walks, v.joins w = false) ∧
      ∀ v ∈ (s.clu k).walks, v.joins w = true → e ∈ (t.core v.core).tlb := by
  unfold State.walkDone
  dsimp only
  obtain ⟨hmem, hslot, hclu, hcore⟩ := fillCores_mem e (((s.clu k).walks.filter fun v => v.joins w).map (·.core))
    (s.modClu k fun c => { c with tlb := tlbPutClu c.tlb e, walks := c.walks.filter fun v => !v.joins w })
  rw [hclu, State.modClu_eq, State.clu_setClu_self]
  refine ⟨⟨hmem, hslot⟩, List.mem_cons_self, fun v hv => by simpa using (List.mem_filter.mp hv).2, fun v hv hj => hcore v.core ?_⟩
  exact Or.inl (List.mem_map.mpr ⟨v, List.mem_filter.mpr ⟨hv, hj⟩, rfl⟩)

/-- Settles O47: a fetch is served by what the cache holds, a refill and a walk by what the service port makes of their read, and a
walk's entry by what it is. -/
theorem fetchSteps : Obligations.FetchSteps := by
  intro s k
  refine ⟨fun h => ?_, fun n c key b e hf hq => ?_, fun key h => exec_icacheRefill_idle h, fun key hm hv => ?_, fun key hm hv => ?_,
    fun key v bad hm hv => ?_, fun code p ho ht hms => ?_, fun root page h => ?_, fun root page w h hroot => ?_⟩
  · show execFetchServe k s = _
    unfold execFetchServe State.fetchServe
    rw [h]
  · obtain ⟨hit, miss⟩ := fetchServed hf hq
    exact ⟨hit e, miss⟩
  · obtain ⟨hun, hmiss, hheld⟩ := s.holdLine_held k (Place.ofKey key)
    exact ⟨_, by rw [exec_icacheRefill hm, hv]; rfl, hun, hmiss, hheld⟩
  · obtain ⟨hsent, hmiss, -⟩ := s.sendRead_sent k true (Place.ofKey key)
    exact ⟨_, by rw [exec_icacheRefill hm, hv]; rfl, hsent, hmiss⟩
  · exact ⟨_, by rw [exec_icacheRefill hm, hv], refilled_value s k key v bad⟩
  · unfold State.portView
    dsimp only
    rw [if_pos ho, ht, hms]
    rfl
  · show execTableWalk (k, root, page) s = _
    unfold execTableWalk
    dsimp only
    rw [h]
  · obtain ⟨stopped, level⟩ := exec_tableWalk_level h hroot
    refine ⟨fun hp => ⟨_, stopped hp, s.walkOn_only k w _⟩, fun p hp hv => ?_, fun p v bad hp hv => ?_⟩
    · obtain ⟨hsent, -, hwalks⟩ := s.sendRead_sent k false p
      exact ⟨_, by rw [level p hp, hv]; rfl, hsent, hwalks⟩
    · have hread : exec (.tableWalk (k, root, page)) s = .next (s.walkRead k w p v bad) := by rw [level p hp, hv]; rfl
      refine ⟨fun y hy => ⟨_, hread, State.walkRead_on ?_⟩, fun c y hy => ⟨_, hread, State.walkRead_on ?_⟩,
        fun pte big hy => ⟨_, hread, ?_⟩⟩
      · unfold State.walkRead
        dsimp only
        rw [hy]
      · unfold State.walkRead
        dsimp only
        rw [hy]
      · have hdone : s.walkRead k w p v bad
            = (s.modClu k fun c => c.readOver false p.key).walkDone k w ⟨w.root, w.va / 65536, big, pte⟩ := by
          unfold State.walkRead
          dsimp only
          rw [hy]
        obtain ⟨⟨hmem, hslot⟩, htlb, hgone, hcores⟩ := walkDone_fills (s.modClu k fun c => c.readOver false p.key) k w
          ⟨w.root, w.va / 65536, big, pte⟩
        rw [State.modClu_eq, State.clu_setClu_self] at hcores
        rw [hdone]
        exact ⟨⟨hmem, hslot⟩, htlb, hgone, hcores⟩

end Sys2Proof.Claims
end

section
/-! PROOFS. `GETC` and `SETC` (O29): operands that cannot be buffer slots, the two instructions, and what a written register reads as. -/

namespace Sys2Proof.Machine

/-! ## Sources that are no buffer slots (R195) -/

/-- A legal source outside the majors whose operands may be buffer slots is none. -/
theorem Raw.not_handle {r : Raw} (h : r.badOperand = none) (hv : r.bufferValue = false) {k : Nat} {x : Spec}
    (hx : (k, x, Role.src) ∈ r.roles) : isHandle x = false := by
  unfold Raw.badOperand at h
  have ok : ∀ p ∈ r.roles, r.roleOk p.2.1 p.2.2 = true := by
    cases hf : r.roles.find? fun p => !r.roleOk p.2.1 p.2.2 with
    | some p => rw [hf] at h; cases h
    | none => simpa using List.find?_eq_none.mp hf
  have hrole := ok _ hx
  by_contra hh
  obtain ⟨h40, h47⟩ := isHandle_iff.mp (Bool.eq_true_of_not_eq_false hh)
  have h48 : x ≠ 48 := fun e => by rw [e] at h47; exact absurd h47 (by decide)
  simp [Raw.roleOk, hv] at hrole
  omega

/-- So reading it changes nothing. -/
theorem touched_eq_self {x : Spec} (h : isHandle x = false) (s : State) : s.touched x = s := by
  rw [touched_eq, if_neg (by simp [h])]

/-! ## The registers' numbers, gates and writes (R75) -/

open Sys2Proof.Claims

/-- A check that passes where it is made can be passed over. -/
theorem M.guarded_run {β : Type} {c : Prop} [Decidable c] {x : M Unit} {k : M β} {s : State} (h : c → x s = .ok ((), s)) :
    (if c then (do x; k) else k) s = k s := by
  split
  case isTrue hc => exact M.bind_ok (h hc)
  case isFalse => rfl

theorem mustHold_run {s : State} (h : s.holdsArray s.cur = true) : mustHold s = .ok ((), s) := by
  unfold mustHold
  rw [M.bind_ok (M.get_run _), h]
  rfl

theorem queueSetc_run (n : Nat) (v : Word) (s : State) : queueSetc n v s = .ok ((), withWrite s n v) := rfl

/-- The identity registers read the same in the state in which an effect begins (R224, R274). -/
theorem entered_identity (s : State) (r : Raw) : ∀ p ∈ identity s, (s.entered r).readCtl s.cur p.1 = BitVec.ofNat 64 p.2 := by
  have hslot : (s.entered r).slot s.cur = (s.entered r).me := by rw [State.me, State.entered_cur]
  have htime : (s.entered r).time = s.time ∧ (s.entered r).device = s.device := by
    rw [entered_eq]
    split <;> exact ⟨rfl, rfl⟩
  have hme : (s.entered r).me.region = s.me.region ∧ (s.entered r).me.depth = s.me.depth ∧ (s.entered r).me.timer = s.me.timer := by
    rw [entered_me]
    split <;> simp
  obtain ⟨htime, hdev⟩ := htime
  obtain ⟨hregion, hdepth, htimer⟩ := hme
  unfold identity
  simp only [List.forall_mem_cons]
  refine ⟨congrArg (BitVec.ofNat 64) (s.entered_cyc r), congrArg (BitVec.ofNat 64) htime, rfl, rfl, rfl,
    congrArg (fun d => BitVec.ofNat 64 (d % 512)) hdev, ?_, ?_, ?_, nofun⟩
  · rw [← hregion, ← hslot]; rfl
  · rw [← hdepth, ← hslot]; rfl
  · rw [← htimer, ← hslot]; rfl

theorem ctlNumber_eq (n : BitVec 12) (f : Form) : ctlNumber n f = register n f := by cases f <;> rfl

end Sys2Proof.Machine

namespace Sys2Proof.Claims

open Sys2Proof.Machine

/-- `GETC` answers what the register holds. -/
theorem getcReads (d : Spec) (n : BitVec 12) (f : Form) (r : Raw) (s : State) (h : Ready (.getc d n f) r s) :
    let u := s.entered r
    let reg := register n f
    ¬ selectedRegister reg → Passes (readGate reg) u → u.canWrite f d →
      ∃ t v, exec (.getc d n f) s = .next t ∧ Finished r s ((u.put f d v 3).take s.cur r.taken) t ∧
        v = u.readCtl s.cur reg ∧ ∀ p ∈ identity s, p.1 = reg → v = BitVec.ofNat 64 p.2 := by
  intro u reg hsel hgate hd
  have hbody : (do
      let reg := ctlNumber n f
      readGate reg
      if 0x181 ≤ reg ∧ reg ≤ 0x183 then
        selected fun sel _ => do
          let s ← get
          dst f d (s.readSelected s.cur reg sel) 3
      else
        let s ← get
        dst f d (s.readCtl s.cur reg) 3 : M Unit) u = .ok ((), u.put f d (u.readCtl s.cur reg) 3) := by
    rw [ctlNumber_eq]
    dsimp only
    rw [M.bind_ok hgate, if_neg (show ¬ (0x181 ≤ register n f ∧ register n f ≤ 0x183) from hsel), M.bind_ok (M.get_run _), State.entered_cur]
    exact dst_put _ 3 hd
  obtain ⟨t, ht, hfin⟩ := issue_completed h hbody (by simp [u])
  exact ⟨t, _, ht, hfin, rfl, fun p hp he => by rw [← he]; exact entered_identity s r p hp⟩

/-- `SETC` notes its write for three cycles later. -/
theorem setcWrites (a : Spec) (n : BitVec 12) (f : Form) (r : Raw) (s : State) (v : Word) (h : Ready (.setc a n f) r s) :
    let u := s.entered r
    let reg := register n f
    ¬ selectedRegister reg → (reg = 0x040 ∨ reg = 0x041 → u.holdsArray s.cur = true) → u.reads f a = some v →
    ctlOk (slotDie s.cur) reg v = true → Passes (writeGate reg) u →
      ∃ t, exec (.setc a n f) s = .next t ∧
        Finished r s ((withWrite (if reg = 0x158 ∨ reg = 0x159 then u.modSlot s.cur fun x => { x with capAt := s.cyc } else u) reg v).take
          s.cur r.taken) t := by
  intro u reg hsel hhold ha hok hgate
  have hcur : u.cur = s.cur := s.entered_cur r
  have hna : isHandle a = false := by
    have hr : some (⟨32, 0, a, n.extractLsb' 6 6, n.extractLsb' 0 6, f⟩ : Raw) = some r := h.raw
    obtain rfl := Option.some.inj hr
    exact Raw.not_handle h.operands rfl (k := 2) List.mem_cons_self
  refine issue_completed h ?_ ?_
  · have h181 : register n f ≠ 0x181 := fun e => hsel (by simp [selectedRegister, reg, e])
    have h183 : register n f ≠ 0x183 := fun e => hsel (by simp [selectedRegister, reg, e])
    have legal : (!ctlOk (slotDie u.cur) (register n f) v) = false := by rw [hcur, hok]; rfl
    rw [ctlNumber_eq]
    dsimp only
    rw [M.guarded_run fun hc => mustHold_run (by rw [hcur]; exact hhold hc), M.bind_ok (src_reads ha), touched_eq_self hna,
      M.bind_ok (M.get_run _), M.bind_ok (raiseIf_of legal _ _ _ _ _), M.bind_ok hgate, if_neg h181, if_neg h183]
    by_cases hcap : reg = 0x158 ∨ reg = 0x159
    · rw [if_pos hcap, if_pos hcap, M.bind_ok (M.modMe_run _ _), queueSetc_run, hcur]
      exact congrArg (fun c => Except.ok ((), withWrite (u.modSlot s.cur fun x => { x with capAt := c }) reg v)) (s.entered_cyc r)
    · rw [if_neg hcap, if_neg hcap]
      exact queueSetc_run _ _ _
  · split <;> exact hcur

end Sys2Proof.Claims

namespace Sys2Proof.Machine

open Sys2Proof.Claims

/-! ## A write takes effect (R75) -/

section

variable {s : State} {w : CtlWrite}

theorem applySetc_array (h : w.reg = 0x040 ∨ w.reg = 0x041)
    (hhold : ∀ h, (s.clu (slotClu w.slot)).iso.holder = some h → h.2 = w.cont) :
    s.applySetc w = s.modClu (slotClu w.slot) fun c =>
      { c with iso := if w.reg = 0x040 then { c.iso with win := w.val.toNat } else { c.iso with mode := w.val } } := by
  have hall : ((s.clu (slotClu w.slot)).iso.holder.all fun h => h.2 = w.cont) = true := by
    cases hh : (s.clu (slotClu w.slot)).iso.holder with
    | none => rfl
    | some p => exact decide_eq_true (hhold p hh)
  unfold State.applySetc
  dsimp only
  rw [if_pos (by simpa using h), State.modClu_eq, if_pos hall]
  rfl

theorem applySetc_own (hlive : (s.slot w.slot).live = true) (hcont : (s.slot w.slot).cont = w.cont) (h : w.reg ≤ 0x060)
    (h40 : w.reg ≠ 0x040) (h41 : w.reg ≠ 0x041) : s.applySetc w = s.modSlot w.slot fun x => x.writeCtl w.reg w.val := by
  unfold State.applySetc
  dsimp only
  rw [if_neg (by simp [h40, h41]), if_pos h, if_pos (by simp [hlive, hcont])]

theorem applySetc_watch (h : 0x061 ≤ w.reg ∧ w.reg ≤ 0x064) : s.applySetc w = s.modCore (slotCore w.slot) fun c =>
    { c with watch := c.watch.set! (w.reg - 0x061) w.val, watchRegion := c.watchRegion.set! (w.reg - 0x061) w.region } := by
  obtain ⟨hl, hu⟩ := h
  unfold State.applySetc
  dsimp only
  rw [if_neg (by simp; omega), if_neg (by omega), if_pos hu]

theorem applySetc_base (h : w.reg = 0x110) :
    s.applySetc w = s.modCore (slotCore w.slot) fun c => { c with twsbase := w.val } := by
  unfold State.applySetc
  simp [h]

/-- A register of the system space is written in its slot, its cluster and its die, of which one holds it. -/
theorem applySetc_system (h : 0x064 < w.reg) (h100 : w.reg ≠ 0x100) (h110 : w.reg ≠ 0x110) :
    s.applySetc w = ((s.modSlot w.slot fun x => x.writeSys w.reg w.val).modClu (slotClu w.slot) fun c => c.writeCtl w.reg w.val).modDie
      (slotDie w.slot) fun d => d.writeCtl w.reg w.val := by
  unfold State.applySetc
  dsimp only
  rw [if_neg (by simp; omega), if_neg (by omega), if_neg (by omega), if_neg h100, if_neg h110]
  rfl

/-- A write leaves every other slot, and memory. -/
theorem applySetc_keeps : (∀ n, n ≠ w.slot → (s.applySetc w).slot n = s.slot n) ∧ (s.applySetc w).mem = s.mem := by
  have own (g : Slot → Slot) : (∀ n, n ≠ w.slot → (s.modSlot w.slot g).slot n = s.slot n) ∧ (s.modSlot w.slot g).mem = s.mem :=
    ⟨fun n hn => s.slot_setSlot_of_ne _ _ _ hn, rfl⟩
  unfold State.applySetc
  dsimp only
  split
  · exact ⟨fun _ _ => rfl, rfl⟩
  split
  · split
    · exact own _
    · exact ⟨fun _ _ => rfl, rfl⟩
  split
  · exact ⟨fun _ _ => rfl, rfl⟩
  split
  · split
    · exact own _
    · exact ⟨fun _ _ => rfl, rfl⟩
  split
  · exact ⟨fun _ _ => rfl, rfl⟩
  · exact own fun x => x.writeSys w.reg w.val

/-- What a write to the system space leaves of its slot, its cluster and its die. -/
theorem applySetc_system_parts (h : 0x064 < w.reg) (h100 : w.reg ≠ 0x100) (h110 : w.reg ≠ 0x110) :
    (s.applySetc w).slot w.slot = (s.slot w.slot).writeSys w.reg w.val ∧
      (s.applySetc w).clu (slotClu w.slot) = (s.clu (slotClu w.slot)).writeCtl w.reg w.val ∧
      (s.applySetc w).die (slotDie w.slot) = (s.die (slotDie w.slot)).writeCtl w.reg w.val := by
  rw [applySetc_system h h100 h110]
  refine ⟨?_, ?_, ?_⟩
  · rw [State.modDie_eq, State.slot_setDie, State.modClu_eq, State.slot_setClu, State.modSlot_eq, State.slot_setSlot_self]
  · rw [State.modDie_eq, State.clu_setDie, State.modClu_eq, State.clu_setClu_self]
    rfl
  · rw [State.modDie_eq, State.die_setDie_self]
    rfl

/-! ## What a written register reads as -/

end

theorem CopySet.words_ofWords (g : Nat → Word) : (CopySet.ofWords g).words = (List.range 9).map g := rfl

theorem PlanSet.words_ofWords (g : Nat → Word) : (PlanSet.ofWords g).words = (List.range 12).map g := by
  simp [PlanSet.ofWords, PlanSet.words, List.range, List.range.loop, Vector.toList_ofFn, List.ofFn_succ]

theorem CopySet.word_put (c : CopySet) {i : Nat} (h : i < 9) (v : Word) : ((c.put i v).words[i]?).getD 0 = v := by
  rw [CopySet.put, CopySet.words_ofWords]
  simp [h, CopySet.words]

theorem PlanSet.word_put (p : PlanSet) {i : Nat} (h : i < 12) (v : Word) : ((p.put i v).words[i]?).getD 0 = v := by
  rw [PlanSet.put, PlanSet.words_ofWords]
  simp [h, PlanSet.words]

/-- A bit pattern that passes the check of a mask is its own reading through it. -/
theorem and_of_onlyBits {v m : Word} (h : onlyBits v m = true) : v &&& m = v := by
  have h0 : v &&& ~~~m = 0 := of_decide_eq_true h
  calc v &&& m = (v &&& m) ||| (v &&& ~~~m) := by rw [h0]; simp
    _ = v := by rw [← BitVec.and_or_distrib_left, BitVec.or_not_self, BitVec.and_allOnes]

theorem shown_eq {k : Nat} (v : Word) (h26 : k ≠ 0x026) (h28 : k ≠ 0x028) : shown k v = v := by
  rw [shown, if_neg h26, if_neg h28]

theorem and_copyMask (k : Nat) (v : Word) : v &&& copyMask k = shown k v := by
  unfold copyMask shown
  split
  · rfl
  split
  · rfl
  · exact BitVec.and_allOnes

/-- A vector's element that has just been set, by its number. -/
theorem getElem?_set!_getD {α : Type} {m i : Nat} (l : Vector α m) (h : i < m) (v d : α) : ((l.set! i v)[i]?).getD d = v := by
  simp [h]

/-- The registers that a thread holds itself (R133, R183, R240, R248): each shows what was written to it. -/
theorem readCtl_writeCtl {t : State} {n k : Nat} {v : Word} {x : Slot} (ht : t.slot n = x.writeCtl k v)
    (hk : (0x010 ≤ k ∧ k ≤ 0x018) ∨ (0x020 ≤ k ∧ k ≤ 0x028) ∨ (0x030 ≤ k ∧ k ≤ 0x03A)) :
    t.readCtl n k = shown k v := by
  unfold State.readCtl
  rw [ht]
  dsimp only
  unfold Slot.writeCtl
  obtain ⟨hl, hu⟩ | ⟨hl, hu⟩ | ⟨hl, hu⟩ := hk
  · rw [shown_eq v (by omega) (by omega), if_neg (by omega)]
    by_cases h18 : k < 0x018
    · rw [if_pos h18, if_pos h18]
      exact getElem?_set!_getD _ (by omega) v 0
    · rw [if_neg h18, if_neg h18, if_pos (by omega), if_pos (by omega)]
  · rw [if_neg (by omega), if_neg (by omega), if_neg (by omega), if_pos (by omega), if_neg (by omega), if_neg (by omega),
      if_pos (by omega)]
    dsimp only
    rw [CopySet.word_put _ (by omega), and_copyMask]
  · rw [shown_eq v (by omega) (by omega), if_neg (by omega), if_neg (by omega), if_neg (by omega), if_neg (by omega),
      if_neg (by omega), if_pos (by omega), if_neg (by omega), if_neg (by omega), if_neg (by omega), if_pos (by omega)]
    exact PlanSet.word_put _ (by omega) v

theorem ofNat_toNat (v : Word) : BitVec.ofNat 64 v.toNat = v := BitVec.ofNat_toNat 64 v |>.trans (BitVec.setWidth_eq v)

/-- A saved predicate word has no bits above those of `pw` (R276). -/
theorem setWidth_saved {v : Word} (h : onlyBits v 0xFFFFFFFF = true) : (v.setWidth 32).setWidth 64 = v := by
  have hm : v.toNat &&& (2 ^ 32 - 1) = v.toNat := by
    conv_rhs => rw [← and_of_onlyBits h, BitVec.toNat_and]
    rfl
  rw [Nat.and_two_pow_sub_one_eq_mod] at hm
  refine BitVec.eq_of_toNat_eq ?_
  rw [BitVec.toNat_setWidth, BitVec.toNat_setWidth, hm, Nat.mod_eq_of_lt v.isLt]

section

variable {t : State} {n : Nat} {v : Word} {x : Slot} {c : Cluster} {d : Die}

/-- The watchpoints of a core (R307). -/
theorem readCtl_watch {k : Nat} (hl : 0x061 ≤ k) (hu : k ≤ 0x064) (n : Nat) (t : State) :
    t.readCtl n k = ((t.core (slotCore n)).watch[k - 0x061]?).getD 0 := by
  interval_cases k <;> rfl

/-- The registers of a slot (R276, R296, R302, R318). -/
theorem readCtl_slotReg {k : Nat} (hok : ctlOk (slotDie n) k v = true) (hx : t.slot n = x.writeSys k v)
    (hk : (0x101 ≤ k ∧ k ≤ 0x107) ∨ k = 0x158 ∨ k = 0x159 ∨ k = 0x180 ∨ k = 0x184 ∨ k = 0x1C6 ∨ k = 0x1C8) : t.readCtl n k = v := by
  obtain ⟨hl, hu⟩ | rfl | rfl | rfl | rfl | rfl | rfl := hk
  · interval_cases k
    · exact congrArg (fun y => y.trap.tepc) hx
    · exact (congrArg (fun y => y.trap.tepw.setWidth 64) hx).trans (setWidth_saved hok)
    · exact congrArg (fun y => y.trap.tewp) hx
    · exact congrArg (fun y => y.trap.trec0) hx
    · exact congrArg (fun y => y.trap.trec1) hx
    · exact congrArg (fun y => y.trap.trec2) hx
    · exact congrArg (fun y => y.trap.trec3) hx
  · exact congrArg Slot.capIn hx
  · exact congrArg Slot.capTgt hx
  · exact congrArg Slot.debsel hx
  · exact congrArg Slot.dbgAddr hx
  · exact congrArg Slot.chgWidx hx
  · exact congrArg Slot.telIdx hx

/-- The registers of a cluster (R294, R295, R297, R302). -/
theorem readCtl_cluReg {k : Nat} (hc : t.clu (slotClu n) = c.writeCtl k v)
    (hk : k = 0x120 ∨ k = 0x132 ∨ k = 0x13B ∨ k = 0x140 ∨ k = 0x148 ∨ k = 0x150 ∨ k = 0x152 ∨ (0x188 ≤ k ∧ k ≤ 0x18C)) :
    t.readCtl n k = v := by
  obtain rfl | rfl | rfl | rfl | rfl | rfl | rfl | ⟨hl, hu⟩ := hk
  · exact congrArg Cluster.trapbase hc
  · exact congrArg Cluster.whlSel hc
  · exact congrArg Cluster.gsSel hc
  · exact congrArg Cluster.raceIdx hc
  · exact congrArg Cluster.bindIdx hc
  · exact congrArg Cluster.datumIdx hc
  · exact (congrArg (fun c => BitVec.ofNat 64 c.thermlim) hc).trans (ofNat_toNat v)
  · have counter {i : Nat} (hi : i < 4) (h : (t.clu (slotClu n)).pmc = c.pmc.set! i v) :
        ((t.clu (slotClu n)).pmc[i]?).getD 0 = v := by rw [h]; exact getElem?_set!_getD _ hi v 0
    interval_cases k
    · exact congrArg Cluster.pmsel hc
    · exact counter (i := 0) (by decide) (congrArg Cluster.pmc hc)
    · exact counter (i := 1) (by decide) (congrArg Cluster.pmc hc)
    · exact counter (i := 2) (by decide) (congrArg Cluster.pmc hc)
    · exact counter (i := 3) (by decide) (congrArg Cluster.pmc hc)

theorem Die.writeCtl_fconst {k : Nat} (hl : 0x198 ≤ k) (hu : k < 0x1A0) (d : Die) (v : Word) :
    (d.writeCtl k v).fconst = d.fconst.set! (k - 0x198) v := by
  interval_cases k <;> rfl

theorem Die.writeCtl_fcnt {k : Nat} (hl : 0x1A0 ≤ k) (hu : k ≤ 0x1A7) (d : Die) (v : Word) :
    (d.writeCtl k v).fcnt = d.fcnt.set! (k - 0x1A0) v := by
  interval_cases k <;> rfl

/-- The constants and counters of the trace filter. -/
theorem readCtl_filter {k : Nat} (hl : 0x198 ≤ k) (hu : k ≤ 0x1A7) (n : Nat) (t : State) :
    t.readCtl n k = if k < 0x1A0 then ((t.die (slotDie n)).fconst[k - 0x198]?).getD 0
      else ((t.die (slotDie n)).fcnt[k - 0x1A0]?).getD 0 := by
  interval_cases k <;> rfl

/-- The registers of a die (R302). -/
theorem readCtl_dieReg {k : Nat} (hd : t.die (slotDie n) = d.writeCtl k v)
    (hk : k = 0x191 ∨ k = 0x193 ∨ (0x198 ≤ k ∧ k ≤ 0x1A7)) : t.readCtl n k = v := by
  obtain rfl | rfl | ⟨hl, hu⟩ := hk
  · exact congrArg Die.tbase hd
  · exact (congrArg (fun d => BitVec.ofNat 64 d.fidx) hd).trans (ofNat_toNat v)
  · rw [readCtl_filter hl hu, hd]
    split
    case isTrue hlow =>
      rw [Die.writeCtl_fconst hl hlow]
      exact getElem?_set!_getD _ (by omega) v 0
    case isFalse hhigh =>
      rw [Die.writeCtl_fcnt (by omega) hu]
      exact getElem?_set!_getD _ (by omega) v 0

end

end Sys2Proof.Machine

namespace Sys2Proof.Claims

open Sys2Proof.Machine

/-- A write that takes effect shows in the register, by the unit that holds it. -/
theorem writtenReads (s : State) (w : CtlWrite) (hp : plainRegister w.reg) (hok : ctlOk (slotDie w.slot) w.reg w.val = true)
    (hlive : (s.slot w.slot).live = true) (hcont : (s.slot w.slot).cont = w.cont)
    (hhold : ∀ h, (s.clu (slotClu w.slot)).iso.holder = some h → h.2 = w.cont) :
    (s.applySetc w).readCtl w.slot w.reg = shown w.reg w.val := by
  unfold plainRegister at hp
  by_cases harr : w.reg = 0x040 ∨ w.reg = 0x041
  · rw [shown_eq _ (by omega) (by omega), applySetc_array harr hhold]
    obtain h40 | h41 := harr
    · rw [h40]
      show BitVec.ofNat 64 (State.clu _ _).iso.win = _
      rw [State.modClu_eq, State.clu_setClu_self, if_pos rfl]
      exact ofNat_toNat _
    · rw [h41]
      show (State.clu _ _).iso.mode = _
      rw [State.modClu_eq, State.clu_setClu_self]
      rfl
  by_cases hown : w.reg ≤ 0x060
  · have hslot : (s.applySetc w).slot w.slot = (s.slot w.slot).writeCtl w.reg w.val := by
      rw [applySetc_own hlive hcont hown (fun h => harr (.inl h)) (fun h => harr (.inr h))]
      exact s.slot_setSlot_self _ _
    by_cases h60 : w.reg = 0x060
    · rw [h60] at hslot ⊢
      exact (congrArg (fun x => BitVec.ofNat 64 x.timer) hslot).trans (ofNat_toNat _)
    · exact readCtl_writeCtl hslot (by omega)
  by_cases hwatch : w.reg ≤ 0x064
  · rw [shown_eq _ (by omega) (by omega), applySetc_watch ⟨by omega, hwatch⟩, readCtl_watch (by omega) hwatch, State.modCore_eq,
      State.core_setCore, if_pos rfl]
    exact getElem?_set!_getD _ (by omega) _ 0
  by_cases hbase : w.reg = 0x110
  · rw [shown_eq _ (by omega) (by omega), applySetc_base hbase, hbase]
    show (State.core _ _).twsbase = _
    rw [State.modCore_eq, State.core_setCore, if_pos rfl]
  obtain ⟨hx, hc, hd⟩ := applySetc_system_parts (s := s) (w := w) (by omega) (by omega) hbase
  rw [shown_eq _ (by omega) (by omega)]
  by_cases hclu : w.reg = 0x120 ∨ w.reg = 0x132 ∨ w.reg = 0x13B ∨ w.reg = 0x140 ∨ w.reg = 0x148 ∨ w.reg = 0x150 ∨ w.reg = 0x152 ∨
      (0x188 ≤ w.reg ∧ w.reg ≤ 0x18C)
  · exact readCtl_cluReg hc hclu
  by_cases hdie : w.reg = 0x191 ∨ w.reg = 0x193 ∨ (0x198 ≤ w.reg ∧ w.reg ≤ 0x1A7)
  · exact readCtl_dieReg hd hdie
  · exact readCtl_slotReg hok hx (by omega)

/-- Settles O29: a read answers what the register holds, a write is noted for three cycles later, and once it takes effect the register
reads as written. -/
theorem controlRegisters : Obligations.ControlRegisters :=
  ⟨getcReads, setcWrites, fun s w hp hok hlive hcont hhold => ⟨writtenReads s w hp hok hlive hcont hhold, applySetc_keeps⟩⟩

end Sys2Proof.Claims
end

section
/-! PROOFS. The instructions by which a thread leaves its slot (O25): what a record's place is, what a gate that passes leaves, then
`END`, `PARK` and `MIGR`. -/

namespace Sys2Proof

/-! ## Maps and bytes -/

theorem SMap.has_set_self {α : Type} (m : SMap α) (k : Nat) (v : α) : SMap.has (SMap.set m k v) k = true := by
  fun_induction SMap.set m k v <;> simp_all [SMap.has]

theorem Memory.bytes_writeBytes {m : Memory} (h : m.wf = true) (a : Nat) (bs : List Byte) :
    (m.writeBytes a bs).bytes a bs.length = bs := by
  induction bs generalizing m a with
  | nil => rfl
  | cons b bs ih =>
    have hw : (m.write a b).wf = true := Memory.wf_write h a b
    rw [Memory.writeBytes, List.length_cons, Memory.bytes, ih hw,
      Memory.read_writeBytes_of_outside _ _ _ _ (.inl (Nat.lt_succ_self a)), Memory.read_write_self h]

theorem Memory.bytes_congr {m m' : Memory} (h : m.read = m'.read) (a n : Nat) : m.bytes a n = m'.bytes a n := by
  induction n generalizing a with
  | zero => rfl
  | succ n ih => rw [Memory.bytes, Memory.bytes, ih, h]

end Sys2Proof

namespace Sys2Proof.Machine

/-- A store outside the DRAM channels writes its bytes. -/
theorem State.storeBytes_mem {p : Place} (h : p.kind ≠ 4) (s : State) (bs : List Byte) :
    (s.storeBytes p bs).mem = s.mem.writeBytes p.key bs := by
  have hf : s.chanFailed p = false := by simp [State.chanFailed, h]
  rw [State.storeBytes, hf]
  rfl

theorem length_leBytes (n v : Nat) : (leBytes n v).length = n := by
  induction n generalizing v with
  | zero => rfl
  | succ n ih => rw [leBytes, List.length_cons, ih]

/-- A record has 256 bytes (R222). -/
theorem Rec.length_bytes (r : Rec) : r.bytes.length = 256 := by
  have hw : (r.w.toList.flatMap fun v => leBytes 8 v.toNat).length = 192 := by
    simp [List.length_flatMap, length_leBytes]
  simp [Rec.bytes, length_leBytes, hw]

/-! ## The place of a record (R231, R238) -/

/-- A copy of a block that has just been kept is the block. -/
theorem sampleBlock_again {k : Nat} {s v w : State} {e e' : Eff} (he : v.effs = (s.cacheEff k e).effs)
    (h' : sampleBlock k v = .ok (e', w)) : e' = e := by
  obtain ⟨hv, -⟩ := sampleBlock_inv h'
  have has : SMap.has v.effs k = true := by rw [he]; exact SMap.has_set_self _ _ _
  have hget : SMap.get {} v.effs k = e := by rw [he]; exact SMap.get_set_self _ _ _ _
  rw [State.eff?, if_pos has, hget] at hv
  exact (Option.some.inj hv).symm

/-- An effective block that has been sampled is sampled again as it was, whatever else has changed meanwhile (R226). -/
theorem myEff_again {s t v w : State} {e e' : Eff} (h : myEff s = .ok (e, t)) (hme : v.me = s.me) (he : v.effs = t.effs)
    (h' : myEff v = .ok (e', w)) : e' = e := by
  unfold myEff at h h'
  rw [M.bind_ok (M.me_run _)] at h h'
  rw [hme] at h'
  have again (h : sampleBlock s.me.rcb s = .ok (e, t)) (h' : sampleBlock s.me.rcb v = .ok (e', w)) : e' = e := by
    obtain ⟨-, rfl⟩ := sampleBlock_inv h
    exact sampleBlock_again he h'
  cases hx : s.me.sampled with
  | none => rw [hx] at h h'; exact again h h'
  | some x =>
    rw [hx] at h h'
    dsimp only at h h'
    split at h
    case isTrue hp =>
      rw [if_pos hp] at h'
      cases h
      cases h'
      rfl
    case isFalse hp =>
      rw [if_neg hp] at h'
      exact again h h'

/-- A translation that succeeds takes an entry of the core's TLB, which it puts first (R292). -/
theorem translate_inv {troot : Word} {va : Nat} {s t : State} {pte : Word} {big : Bool}
    (h : translate troot va false s = .ok ((pte, big), t)) :
    ∃ x, tlbFind (s.core (slotCore s.cur)).tlb (rootKey troot) va = some x ∧ pte = x.pte ∧ big = x.big ∧
      t = s.modCore (slotCore s.cur) fun c => { c with tlb := tlbPut 96 c.tlb x } := by
  unfold translate at h
  rw [M.bind_ok (M.get_run _)] at h
  dsimp only at h
  cases hx : tlbFind (s.core (slotCore s.cur)).tlb (rootKey troot) va with
  | some x =>
    rw [hx] at h
    cases h
    exact ⟨x, rfl, rfl, rfl, rfl⟩
  | none =>
    rw [hx] at h
    dsimp only at h
    cases hw : (s.clu (coreClu (slotCore s.cur))).walks.find? fun w =>
        decide (w.core = slotCore s.cur ∧ w.root = rootKey troot ∧ w.va / 65536 = va / 65536) with
    | none => rw [hw] at h; cases h
    | some w =>
      rw [hw] at h
      dsimp only at h
      cases hbad : w.bad with
      | none => rw [hbad] at h; cases h
      | some b => rw [hbad] at h; cases h

theorem tlbFind_tlbPut {t : List TlbEntry} {root va : Nat} {x : TlbEntry} (h : tlbFind t root va = some x) (l : List TlbEntry) :
    tlbFind (tlbPut 96 l x) root va = some x := by
  have hx := List.find?_some h
  unfold tlbFind tlbPut
  rw [List.take_succ_cons]
  exact List.find?_cons_of_pos hx

theorem windowPlace_kind {dev va : Nat} {p : Place} (h : windowPlace dev va = some p) : p.kind ≠ 4 := by
  unfold windowPlace at h
  split at h
  · cases h; exact Nat.ne_of_lt (by decide : 2 < 4)
  split at h
  · cases h; exact Nat.ne_of_lt (by decide : 3 < 4)
  · cases h

/-- An address below the paged space lies in a store of some core, cluster or die (R76). -/
theorem resolve_low {k : Acc} {va : Word} {s u : State} {t : Target} (h : resolve k va s = .ok (t, u)) (hlow : va.toNat < 2 ^ 32) :
    t.place.kind ≠ 4 := by
  unfold resolve at h
  obtain ⟨e, s₁, -, h⟩ := M.bind_inv h
  unfold resolveIn at h
  rw [M.bind_ok (M.get_run _)] at h
  dsimp only at h
  rw [if_neg (by omega)] at h
  split at h
  · obtain ⟨b, s₂, -, h⟩ := M.bind_inv h
    split at h <;> cases h
    exact Nat.ne_of_lt (by decide : 1 < 4)
  split at h
  · cases h; exact Nat.ne_of_lt (by decide : 2 < 4)
  cases hp : windowPlace 0 va.toNat with
  | none => rw [hp] at h; cases h
  | some p =>
    rw [hp] at h
    dsimp only at h
    have hk := windowPlace_kind hp
    split at h
    · cases hl : e.logical s₁.device p.unit with
      | none => rw [hl] at h; cases h
      | some i =>
        rw [hl] at h
        dsimp only at h
        split at h <;> cases h
        exact hk
    · cases h; exact hk

/-- An address of the paged space lies at its offset in its page's frame, where that is no view (R76, R93). -/
theorem resolve_paged {k : Acc} {va : Word} {s u : State} {t : Target} (h : resolve k va s = .ok (t, u)) (hhigh : 2 ^ 32 ≤ va.toNat) :
    ∃ e s₁ pte big s₂ f, myEff s = .ok (e, s₁) ∧ translate e.troot va.toNat false s₁ = .ok ((pte, big), s₂) ∧
      pageFrame pte big va.toNat = some f ∧ (t.view = 0 → t.place = f.add (va.toNat % 65536)) ∧ va.toNat < 2 ^ 48 := by
  unfold resolve at h
  obtain ⟨e, s₁, he, h⟩ := M.bind_inv h
  unfold resolveIn at h
  rw [M.bind_ok (M.get_run _)] at h
  dsimp only at h
  split at h
  case isTrue => cases h
  case isFalse hpaged =>
  rw [if_neg (by omega), if_neg (by omega), if_neg (by omega)] at h
  obtain ⟨⟨pte, big⟩, s₂, ht, h⟩ := M.bind_inv h
  dsimp only at h
  obtain ⟨_, s₃, -, h⟩ := M.bind_inv h
  refine ⟨e, s₁, pte, big, s₂, ?_⟩
  cases hf : pageFrame pte big va.toNat with
  | none => rw [hf] at h; cases h
  | some f =>
    rw [hf] at h
    dsimp only at h
    refine ⟨f, he, ht, rfl, fun hv => ?_, by omega⟩
    split at h <;> cases h
    · cases hv
    · rfl

/-- A place in a store that the thread's own cluster or die serves lies in no DRAM channel (R76). -/
theorem kind_of_servedBy {s : State} {p : Place} (h : servedBy s p = 1 ∨ servedBy s p = 2) : p.kind ≠ 4 := by
  intro hk
  unfold servedBy at h
  rw [hk] at h
  dsimp only at h
  by_cases hd : p.dev ≠ 0
  · rw [if_pos hd] at h
    exact absurd h (by decide)
  · rw [if_neg hd] at h
    by_cases hm : (isMemCore (slotCore s.cur) && decide (coreChan (slotCore s.cur) = p.unit)) = true
    · rw [if_pos hm] at h
      exact absurd (show 3 = 1 ∨ 3 = 2 from h) (by decide)
    · rw [if_neg hm] at h
      exact absurd (show 5 = 1 ∨ 5 = 2 from h) (by decide)

/-- The last checks of a record's place leave the target that its address resolves to, which is no view. -/
theorem recordTarget_inv {k : Acc} {ea : Word} {s u : State} {t : Target} (h : (do
      let t ← resolve k ea
      raiseIf (decide (t.view ≠ 0)) 7 0 ea 0
      if t.place.kind ≠ 1 then do
        checkBank t.place ea
        checkBank (t.place.add 128) ea
        pure t
      else pure t : M Target) s = .ok (t, u)) : t.view = 0 ∧ ∃ v, resolve k ea s = .ok (t, v) := by
  obtain ⟨t', v, hres, h1⟩ := M.bind_inv h
  obtain ⟨_, v', hview, h2⟩ := M.bind_inv h1
  obtain ⟨hv, -⟩ := raiseIf_inv hview
  have ht : t = t' := by
    split at h2
    · obtain ⟨_, _, -, h3⟩ := M.bind_inv h2
      obtain ⟨_, _, -, h4⟩ := M.bind_inv h3
      cases h4
      rfl
    · cases h2
      rfl
  subst ht
  exact ⟨by simpa using hv, v, hres⟩

/-- A record's place lies in no DRAM channel (R231, R238). -/
theorem recordPlace_kind {k : Acc} {ea : Word} {s u : State} {t : Target} (h : recordPlace k ea s = .ok (t, u)) :
    t.place.kind ≠ 4 := by
  unfold recordPlace at h
  obtain ⟨_, s₀, h0, h1⟩ := M.bind_inv h
  obtain ⟨-, rfl⟩ := raiseIf_inv h0
  rw [M.bind_ok (M.get_run _)] at h1
  dsimp only at h1
  split at h1
  case isTrue hlow =>
    obtain ⟨_, s₁, -, h2⟩ := M.bind_inv h1
    obtain ⟨-, v, hres⟩ := recordTarget_inv h2
    exact resolve_low hres hlow
  case isFalse hhigh =>
  split at h1
  case isTrue =>
    obtain ⟨e, s₁, he, h2⟩ := M.bind_inv h1
    obtain ⟨⟨pte, big⟩, s₂, htr, h3⟩ := M.bind_inv h2
    dsimp only at h3
    obtain ⟨_, s₃, hcheck, h4⟩ := M.bind_inv h3
    obtain ⟨hown, rfl⟩ := raiseIf_inv hcheck
    obtain ⟨hview, v, hres⟩ := recordTarget_inv h4
    obtain ⟨e', s₁', pte', big', s₂', p, he', htr', hp, hplace, -⟩ := resolve_paged hres (by omega)
    obtain ⟨x, hx, rfl, rfl, hs₂⟩ := translate_inv htr
    obtain ⟨l, hs₁⟩ := myEff_inv he
    obtain rfl : e' = e := myEff_again he (by rw [hs₂, hs₁]; rfl) (by rw [hs₂]; rfl) he'
    obtain ⟨x', hx', rfl, rfl, -⟩ := translate_inv htr'
    obtain ⟨l', hs₁'⟩ := myEff_inv he'
    have htlb : (s₁'.core (slotCore s₁'.cur)).tlb = tlbPut 96 (s₁.core (slotCore s₁.cur)).tlb x := by
      rw [hs₁', hs₂]
      exact congrArg Core.tlb (s₁.core_setCore_self _ _)
    rw [htlb, tlbFind_tlbPut hx] at hx'
    obtain rfl := Option.some.inj hx'
    rw [hp] at hown
    rw [hplace hview]
    show p.kind ≠ 4
    have hserved : servedBy s₀ p = 1 ∨ servedBy s₀ p = 2 := by
      by_contra hno
      simp [not_or.mp hno] at hown
    exact kind_of_servedBy hserved
  case isFalse hbeyond =>
    obtain ⟨-, v, hres⟩ := recordTarget_inv h1
    obtain ⟨_, _, _, _, _, _, -, -, -, -, hpaged⟩ := resolve_paged hres (by omega)
    omega

/-! ## Leaving a slot (R237, R261) -/

@[simp] theorem State.freeSlot_mem (s : State) (n : Nat) : (s.freeSlot n).mem = s.mem := by
  unfold State.freeSlot State.releaseArray
  split <;> rfl

theorem State.slot_freeSlot (s : State) (n : Nat) : (s.freeSlot n).slot n = (s.slot n).bare := State.slot_setSlot_self _ _ _

theorem departGate_of {s : State} (h : s.departed s.cur = true) : departGate s = .ok ((), s) := by
  unfold departGate
  rw [M.bind_ok (M.get_run _), h]
  rfl

theorem arrayGate_of {s : State} (h : s.holdsArray s.cur = false ∨ (s.clu (slotClu s.cur)).iso.pleft = 0) :
    arrayGate s = .ok ((), s) := by
  unfold arrayGate
  rw [M.bind_ok (M.get_run _)]
  exact waitIf_of (by rcases h with h | h <;> simp [h]) _ _

/-! ## The words of a record that come late (R239) -/

/-- The word that a deposit has brought for a record while its lines were written, in memory. -/
def State.lateWord (key : Nat) (s : State) (p : ParkEntry) : State :=
  match p.late with
  | some (k, v) => if p.rcd.key = key then s.writeMem (p.rcd.add (8 * k)).key v.toNat 8 else s
  | none => s

/-- Whether an address lies outside the word that an entry has brought for a record. -/
def ParkEntry.spares (key k : Nat) (p : ParkEntry) : Prop :=
  p.rcd.key = key → ∀ i y, p.late = some (i, y) → k < p.rcd.key + 8 * i ∨ p.rcd.key + 8 * i + 8 ≤ k

/-- A late word changes memory alone, and no address that its entry spares. -/
theorem State.lateWord_keeps (key : Nat) (s : State) (p : ParkEntry) :
    (∃ m, s.lateWord key p = { s with mem := m }) ∧ ∀ k, p.spares key k → (s.lateWord key p).mem.read k = s.mem.read k := by
  unfold State.lateWord
  cases hp : p.late with
  | none => exact ⟨⟨_, rfl⟩, fun _ _ => rfl⟩
  | some w =>
    dsimp only
    by_cases hkey : p.rcd.key = key
    · rw [if_pos hkey]
      refine ⟨⟨_, rfl⟩, fun k hk => Memory.read_writeLE_of_outside _ _ _ _ _ ?_⟩
      have hadd : (p.rcd.add (8 * w.1)).key = p.rcd.key + 8 * w.1 := by simp [Place.key, Place.add, Nat.add_assoc]
      rw [hadd]
      exact hk hkey w.1 w.2 hp
    · rw [if_neg hkey]
      exact ⟨⟨_, rfl⟩, fun _ _ => rfl⟩

theorem State.lateWords_keep (key : Nat) (l : List ParkEntry) (s : State) :
    (∃ m, l.foldl (State.lateWord key) s = { s with mem := m }) ∧
      ∀ k, (∀ p ∈ l, p.spares key k) → (l.foldl (State.lateWord key) s).mem.read k = s.mem.read k := by
  induction l generalizing s with
  | nil => exact ⟨⟨_, rfl⟩, fun _ _ => rfl⟩
  | cons p l ih =>
    obtain ⟨⟨m, hm⟩, hp⟩ := s.lateWord_keeps key p
    obtain ⟨⟨m', hm'⟩, hl⟩ := ih (s.lateWord key p)
    rw [List.foldl_cons]
    refine ⟨⟨m', by rw [hm', hm]⟩, fun k hk => ?_⟩
    rw [hl k fun q hq => hk q (List.mem_cons_of_mem _ hq), hp k (hk p List.mem_cons_self)]

/-- The entries of a record whose lines are written. -/
def State.recordsSaved (s : State) (key : Nat) : State :=
  s.modCore (slotCore s.cur) fun c => { c with park := c.park.map fun p =>
    if p.rcd.key = key then { p with saved := true, late := none } else p }

/-! ## Steps of a `PARK` -/

/-- A step that is made in one case only leaves, in the other, the state as it is. -/
theorem M.ite_run {β : Type} {c : Prop} [Decidable c] {x : M Unit} {k : M β} {s u : State} (h : x s = .ok ((), u)) :
    (if c then (do x; k) else k) s = k (if c then u else s) := by
  split
  · exact M.bind_ok h
  · rfl

theorem takeOps_run {i : Instr} {r : Raw} (h : i.raw = some r) (s : State) : takeOps i s = .ok ((), s.take s.cur r.taken) := by
  rw [takeOps, h]
  rfl

/-- A thread whose access waits for its turns (R81). -/
def State.holding (s : State) (a : Access) : State :=
  s.modSlot s.cur fun x => { x with
    acc := x.acc ++ [{ a with id := s.me.accNext, issued := max a.issued s.cyc, pc := s.me.pc, ws := s.me.wp }]
    accNext := x.accNext + 1 }

theorem State.slot_holding (s : State) (a : Access) :
    ∃ g : Access, (s.holding a).slot s.cur = { s.slot s.cur with acc := (s.slot s.cur).acc ++ [g], accNext := (s.slot s.cur).accNext + 1 } ∧
      g.fin = a.fin := ⟨_, State.slot_setSlot_self _ _ _, rfl⟩

/-- An access outside the DRAM channels of a thread with fewer than four joins those that wait for turns (R81). -/
theorem addAccess_run {a : Access} {s : State} (few : s.me.acc.length < 4) (noDram : ∀ u ∈ a.units, u.place.kind ≠ 4) :
    addAccess a s = .ok ((), s.holding a) := by
  have hnone : a.units.filter (fun u => u.place.kind = 4) = [] := by
    simpa [List.filter_eq_nil_iff] using noDram
  unfold addAccess
  rw [M.bind_ok (M.get_run _)]
  dsimp only
  rw [hnone, M.bind_ok (waitIf_of (decide_eq_false (by omega)) _ _), List.any_nil, M.bind_ok (waitIf_false _ _),
    M.bind_ok (M.modMe_run _ _), M.modify_run]
  rfl

end Sys2Proof.Machine

namespace Sys2Proof.Claims

open Sys2Proof.Machine

/-- `END` leaves the slot empty, and memory. -/
theorem endLeaves {f : Form} {r : Raw} {s : State} (h : Ready (.endT f) r s) (hleave : MayLeave s.cur (s.entered r)) :
    ∃ t, exec (.endT f) s = .next t ∧ Placed r s ((s.entered r).freeSlot s.cur) t ∧ (t.slot s.cur).live = false ∧
      ∀ k, t.mem.read k = s.mem.read k := by
  obtain ⟨hroute, hdep, harr⟩ := hleave
  have hcur : (s.entered r).cur = s.cur := s.entered_cur r
  have hexec : ∃ t, exec (.endT f) s = .next t ∧ Placed r s ((s.entered r).freeSlot s.cur) t := by
    refine issue_placed h ?_
    rw [M.bind_ok (M.me_run _), M.bind_ok (raiseIf_of hroute _ _ _ _ _), M.bind_ok (departGate_of (by rw [hcur]; exact hdep)),
      M.bind_ok (arrayGate_of (by rw [hcur]; exact harr)), M.bind_ok (M.modify_run _ _), hcur]
    rfl
  obtain ⟨t, ht, hplaced⟩ := hexec
  refine ⟨t, ht, hplaced, ?_, fun k => ?_⟩
  · rw [hplaced.slot, State.slot_freeSlot]
    rfl
  · rw [hplaced.mem, State.freeSlot_mem, State.entered_mem]

/-- A thread whose record's lines are written leaves its slot, and what a deposit has brought meanwhile is written to the record. -/
theorem parkEnds {a b : Spec} {f : Form} {r : Raw} {s : State} (h : Ready (.park a b f) r s) (hphase : (s.entered r).me.phase = 9) :
    let u := s.entered r
    ∃ t v, exec (.park a b f) s = .next t ∧ Placed r s v t ∧ (t.slot s.cur).live = false ∧
      ∀ k, (∀ p ∈ (u.core (slotCore s.cur)).park, p.rcd.key = u.me.buf.headD 0 → ∀ i y, p.late = some (i, y) →
        k < p.rcd.key + 8 * i ∨ p.rcd.key + 8 * i + 8 ≤ k) → t.mem.read k = s.mem.read k := by
  intro u
  have hcur : u.cur = s.cur := s.entered_cur r
  let key := u.me.buf.headD 0
  let v := ((u.core (slotCore s.cur)).park.foldl (State.lateWord key) u).recordsSaved key
  obtain ⟨⟨m, hm⟩, hmem⟩ := State.lateWords_keep key (u.core (slotCore s.cur)).park u
  have hv : v.cur = s.cur ∧ v.mem = ((u.core (slotCore s.cur)).park.foldl (State.lateWord key) u).mem := by
    refine ⟨?_, rfl⟩
    show State.cur (List.foldl _ _ _) = _
    rw [hm]
    exact hcur
  have hexec : ∃ t, exec (.park a b f) s = .next t ∧ Placed r s (v.freeSlot s.cur) t := by
    refine issue_placed h ?_
    rw [M.bind_ok (M.me_run _), if_pos hphase, myCore, M.bind_ok (M.bind_ok (M.get_run _)), M.bind_ok (M.modify_run _ _),
      M.bind_ok (M.modCore_run _ _), M.bind_ok (M.modify_run _ _), State.entered_cur]
    show Except.error (Halt.quit (v.freeSlot v.cur)) = _
    rw [hv.1]
  obtain ⟨t, ht, hplaced⟩ := hexec
  refine ⟨t, _, ht, hplaced, ?_, fun k hk => ?_⟩
  · rw [hplaced.slot, State.slot_freeSlot]
    rfl
  · rw [hplaced.mem, State.freeSlot_mem, hv.2, hmem k hk, State.entered_mem]

/-- A `PARK` that passes its checks goes on where its record's place has been found (R238). -/
theorem Parks.run {a b : Spec} {f : Form} {x w : Word} {t : Target} {s u u' : State} (h : Parks a b f x w t s u u')
    (ha : isHandle a = false) (hb : isHandle b = false) (e : Slot → M Unit) (k : Slot → Word → Word → Target → M Unit) :
    (do
      let y ← me
      if y.phase = 9 then e y
      else
        waitIf (y.phase = 8) 3
        raiseIf y.trap.tmode 0x02 5 0 0
        let ea ← src f a
        let w ← src f b
        let t ← recordPlace .store ea
        raiseIf (w.extractLsb' 32 32 ≠ 0 || y.holdsRoute) 0x02 5 0 0
        checkWatch 2 ea 256
        departGate
        arrayGate
        tileGate t.place 256
        k y ea w t : M Unit) u = k u.me x w t u' := by
  obtain ⟨⟨hroute, hdep, harr⟩, hphase, hplain, haddr, ⟨hwake, hsmall⟩, hplace, ⟨hcur, hme⟩, hwatch, htiles, -⟩ := h
  have h9 : u.me.phase ≠ 9 := by omega
  have h8 : decide (u.me.phase = 8) = false := decide_eq_false (by omega)
  have hw : (decide (w.extractLsb' 32 32 ≠ 0) || u.me.holdsRoute) = false := by
    rw [hme] at hroute
    have hz : w.extractLsb' 32 32 = 0 := by
      refine BitVec.eq_of_toNat_eq ?_
      rw [BitVec.extractLsb'_toNat, Nat.shiftRight_eq_div_pow, Nat.div_eq_of_lt hsmall]
      rfl
    simp [hz, hroute]
  rw [M.bind_ok (M.me_run _), if_neg h9, M.bind_ok (waitIf_of h8 _ _), M.bind_ok (raiseIf_of hplain _ _ _ _ _),
    M.bind_ok (src_reads haddr), touched_eq_self ha, M.bind_ok (src_reads hwake), touched_eq_self hb, M.bind_ok hplace,
    M.bind_ok (raiseIf_of hw _ _ _ _ _), M.bind_ok hwatch, M.bind_ok (departGate_of (by rw [hcur]; exact hdep)),
    M.bind_ok (arrayGate_of (by rw [hcur]; exact harr)), M.bind_ok htiles]

/-- The wait for room in the park table passes (R241). -/
theorem Parks.room_passes {a b : Spec} {f : Form} {x w : Word} {t : Target} {s u u' : State} (h : Parks a b f x w t s u u')
    (needs : Bool) (n : Nat) : waitIf (needs && decide (24 ≤ u'.parkUsed (slotCore u'.cur))) n u' = .ok ((), u') := by
  obtain ⟨hcur, -⟩ := h.same
  exact waitIf_of (by rw [hcur, decide_eq_false (Nat.not_le.mpr h.room), Bool.and_false]) _ _

/-- The operands of a `PARK` are no buffer slots. -/
theorem park_sources {a b : Spec} {f : Form} {r : Raw} {s : State} (h : Ready (.park a b f) r s) :
    isHandle a = false ∧ isHandle b = false := by
  have hr : some (⟨29, 0, a, b, 2, f⟩ : Raw) = some r := h.raw
  obtain rfl := Option.some.inj hr
  exact ⟨Raw.not_handle h.operands rfl (k := 2) List.mem_cons_self,
    Raw.not_handle h.operands rfl (k := 3) (List.mem_cons_of_mem _ List.mem_cons_self)⟩

section

variable {a b : Spec} {f : Form} {r : Raw} {s u' : State} {x w : Word} {t : Target} (h : Ready (.park a b f) r s)
  (hp : Parks a b f x w t s (s.entered r) u')
include h hp

/-- Dirty words of the register cache go to the workspace first (R48, R49). -/
theorem parkFlushes (hd : (s.entered r).me.dirty ≠ 0) :
    ∃ t', exec (.park a b f) s = .next t' ∧ (t'.slot s.cur).pc = s.me.pc ∧ (t'.slot s.cur).phase = 7 ∧
      (t'.slot s.cur).dirty = 0 ∧ t'.mem = (u'.writeBack s.cur).mem := by
  obtain ⟨hcur, hme⟩ := hp.same
  have hexec : ∃ refill, exec (.park a b f) s = .next (s.settle r s.me.pc refill (.wait (u'.parkFlush s.cur) 3)) := by
    obtain ⟨ha, hb⟩ := park_sources h
    refine issue_waits (i := .park a b f) h ?_
    refine (hp.run ha hb _ _).trans ?_
    rw [M.bind_ok (M.get_run _), M.bind_ok (hp.room_passes _ _), nextPc, M.bind_ok (M.bind_ok (M.me_run _)), if_pos hd, hcur]
    rfl
  have hslot : (u'.parkFlush s.cur).slot s.cur = { (s.entered r).me with dirty := 0, phase := 7 } := by
    rw [State.parkFlush, State.modSlot_eq, State.slot_setSlot_self, State.writeBack_slot, ← hme, State.me, hcur]
  obtain ⟨refill, hn⟩ := hexec
  obtain ⟨hmem, -, ⟨wt, k, e, ht⟩, -⟩ := settle_wait_begun (s := s) (u := u'.parkFlush s.cur) r s.me.pc refill (why := 3) (by decide)
    (by rw [hslot]; rfl)
  refine ⟨_, hn, ?_, ?_, ?_, hmem⟩
  · rw [ht, hslot]; exact entered_pc s r
  · rw [ht, hslot]
  · rw [ht, hslot]

/-- A thread parks at once at a record in its own local store (R238). -/
theorem parksHere (hd : (s.entered r).me.dirty = 0) (hk : t.place.kind = 1) (hport : u'.portFree) :
    ∃ t' v, exec (.park a b f) s = .next t' ∧ Placed r s v t' ∧ (t'.slot s.cur).live = false ∧
      (∀ k, (k < t.place.key ∨ t.place.key + 256 ≤ k) → t'.mem.read k = u'.mem.read k) ∧
      (u'.mem.wf = true → t'.readBytes t.place.key 256
        = ({ u'.recordOf s.cur (s.me.pc + BitVec.ofNat 64 f.size) with link := 0 } : Rec).bytes) := by
  obtain ⟨hcur, hme⟩ := hp.same
  let rcd : Rec := { u'.recordOf s.cur (s.me.pc + BitVec.ofNat 64 f.size) with link := 0 }
  have hexec : ∃ v : State, (v.mem = u'.mem ∧ v.cur = s.cur) ∧ ∃ t',
      exec (.park a b f) s = .next t' ∧ Placed r s ((v.storeBytes t.place rcd.bytes).freeSlot v.cur) t' := by
    obtain ⟨ha, hb⟩ := park_sources h
    have hpc : u'.me.pc = s.me.pc := by rw [hme]; exact entered_pc s r
    refine ⟨?after, ?keeps, issue_placed (i := .park a b f) h ?run⟩
    case run =>
      refine (hp.run ha hb _ _).trans ?_
      rw [M.bind_ok (M.get_run _), M.bind_ok (hp.room_passes _ _), nextPc, M.bind_ok (M.bind_ok (M.me_run _)),
        if_neg (not_not_intro hd)]
      dsimp only
      rw [if_pos hk, M.bind_ok (needPort_of hport), M.bind_ok (takeOps_run h.raw _)]
      simp only [if_pos hk]
      rw [M.ite_run (M.modCore_run _ _), hpc, M.bind_ok (M.modify_run _ _), hcur]
      rfl
    case keeps =>
      have htake : ∀ n l, (u'.portTaken.take n l).mem = u'.mem ∧ (u'.portTaken.take n l).cur = s.cur := fun n l => by
        rw [State.take_eq]
        exact ⟨rfl, hcur⟩
      split <;> exact htake _ _
  obtain ⟨v, ⟨hmem, hvcur⟩, t', ht, hplaced⟩ := hexec
  have hstored : t'.mem.read = (u'.mem.writeBytes t.place.key rcd.bytes).read := by
    funext k
    rw [hplaced.mem, State.freeSlot_mem, State.storeBytes_mem (by omega), hmem]
  refine ⟨t', _, ht, hplaced, ?_, fun k hk => ?_, fun hwf => ?_⟩
  · rw [hplaced.slot, hvcur, State.slot_freeSlot]
    rfl
  · rw [hstored]
    exact Memory.read_writeBytes_of_outside _ _ _ _ (by rw [Rec.length_bytes]; exact hk)
  · rw [State.readBytes, Memory.bytes_congr hstored]
    have hbytes := Memory.bytes_writeBytes hwf t.place.key rcd.bytes
    rw [Rec.length_bytes] at hbytes
    exact hbytes

/-- A thread parks elsewhere once its record's lines are written (R238). -/
theorem parksAway (hd : (s.entered r).me.dirty = 0) (hk : t.place.kind ≠ 1) :
    ∃ t' g, exec (.park a b f) s = .next t' ∧ (t'.slot s.cur).pc = s.me.pc ∧ (t'.slot s.cur).phase = 8 ∧
      (t'.slot s.cur).acc = u'.me.acc ++ [g] ∧ g.fin = .park ∧ (∀ k, t'.mem.read k = u'.mem.read k) := by
  obtain ⟨hcur, hme⟩ := hp.same
  have hempty : u'.me.acc = [] := by
    have hdep := hp.departed
    simp only [State.departed, Bool.and_eq_true, List.isEmpty_iff] at hdep
    rw [State.me, hcur]
    exact hdep.1.1.1
  have hkept (c : Prop) [Decidable c] (g : Core → Core) :
      let v := if c then (u'.take u'.cur r.taken).modCore (slotCore (u'.take u'.cur r.taken).cur) g else u'.take u'.cur r.taken
      v.mem = u'.mem ∧ v.cur = s.cur ∧ (v.slot s.cur).pc = s.me.pc ∧ (v.slot s.cur).acc = u'.me.acc := by
    obtain ⟨⟨ps, pv, hslot⟩, -⟩ := u'.take_took u'.cur r.taken
    rw [hcur] at hslot
    have htake : (u'.take u'.cur r.taken).mem = u'.mem ∧ (u'.take u'.cur r.taken).cur = s.cur := by
      rw [State.take_eq]
      exact ⟨rfl, hcur⟩
    have hpc : (u'.slot s.cur).pc = s.me.pc := by
      rw [← hcur, ← State.me, hme]
      exact entered_pc s r
    have hacc : (u'.slot s.cur).acc = u'.me.acc := by rw [State.me, hcur]
    obtain ⟨hm, hc⟩ := htake
    dsimp only
    split
    · exact ⟨hm, hc, by rw [State.modCore_eq, State.slot_setCore, hcur, hslot]; exact hpc,
        by rw [State.modCore_eq, State.slot_setCore, hcur, hslot]; exact hacc⟩
    · exact ⟨hm, hc, by rw [hcur, hslot]; exact hpc, by rw [hcur, hslot]; exact hacc⟩
  have hfew (c : Prop) [Decidable c] (g : Core → Core) : (if c then
      (u'.take u'.cur r.taken).modCore (slotCore (u'.take u'.cur r.taken).cur) g else u'.take u'.cur r.taken).me.acc.length < 4 := by
    obtain ⟨-, hvcur, -, hvacc⟩ := hkept c g
    rw [State.me, hvcur, hvacc, hempty]
    decide
  have hexec : ∃ (v : State) (acc : Access) (key : Nat), (v.mem = u'.mem ∧ v.cur = s.cur ∧ (v.slot s.cur).pc = s.me.pc ∧
      (v.slot s.cur).acc = u'.me.acc) ∧ acc.fin = .park ∧ ∃ refill, exec (.park a b f) s = .next (s.settle r s.me.pc refill (.wait
        ((v.holding acc).modSlot (v.holding acc).cur fun x => { x with phase := 8, armed := [], buf := [key] }) 3)) := by
    obtain ⟨ha, hb⟩ := park_sources h
    refine ⟨?after, ?acc, ?key, ?keeps, ?fin, issue_waits (i := .park a b f) h ?run⟩
    case run =>
      refine (hp.run ha hb _ _).trans ?_
      rw [M.bind_ok (M.get_run _), M.bind_ok (hp.room_passes _ _), nextPc, M.bind_ok (M.bind_ok (M.me_run _)),
        if_neg (not_not_intro hd)]
      dsimp only
      rw [if_neg hk, M.bind_ok (takeOps_run h.raw _)]
      simp only [if_neg hk]
      rw [M.ite_run (M.modCore_run _ _), M.bind_ok (addAccess_run ?few ?noDram), M.bind_ok (M.modMe_run _ _)]
      case few => exact hfew _ _
      case noDram =>
        intro u hu
        obtain ⟨i, -, rfl⟩ := List.mem_map.mp hu
        exact recordPlace_kind hp.place
      rfl
    case keeps => exact hkept _ _
    case fin => rfl
  obtain ⟨v, acc, key, ⟨hmem, hvcur, hvpc, hvacc⟩, hfin, refill, hn⟩ := hexec
  have hslot : ((v.holding acc).modSlot (v.holding acc).cur fun x => { x with phase := 8, armed := [], buf := [key] }).slot s.cur
      = { (v.holding acc).slot s.cur with phase := 8, armed := [], buf := [key] } := by
    have hc : (v.holding acc).cur = s.cur := hvcur
    rw [hc]
    exact State.slot_setSlot_self _ _ _
  obtain ⟨g, hheld, hgfin⟩ := v.slot_holding acc
  rw [hvcur] at hheld
  obtain ⟨hmemt, -, ⟨wt, k, e, ht⟩, -⟩ := settle_wait_begun (s := s) r s.me.pc refill (why := 3) (by decide)
    (u := (v.holding acc).modSlot (v.holding acc).cur fun x => { x with phase := 8, armed := [], buf := [key] })
    (by rw [hslot]; rfl)
  rw [hslot, hheld] at ht
  refine ⟨_, g, hn, ?_, ?_, ?_, hgfin.trans hfin, fun k => ?_⟩
  · rw [ht]; exact hvpc
  · rw [ht]
  · rw [ht, ← hvacc]
  · rw [hmemt, ← hmem]
    rfl

end

/-- `END` and `PARK`, in each way in which a thread leaves. -/
theorem endAndPark : EndAndPark := by
  intro a b f r s u
  exact ⟨endLeaves, fun x w t u' h hp => ⟨parksHere h hp, parksAway h hp, parkFlushes h hp⟩, parkEnds⟩

/-- A migration that passes its checks is sent with the thread's record; the thread waits for its answer (R246). -/
theorem migrate_sends {α : Type} {u : State} {c : Nat} {mc : Option Nat} {home : Word} (h : MayMove mc u.cur u)
    (hplain : u.me.trap.tmode = false) :
    ∃ v p, (migrate c mc home : M α) u = .error (.quit v) ∧ v.net = u.net ++ [p] ∧ v.mem = u.mem ∧ p.kind = 13 ∧ p.dst = c ∧
      p.dep = (mc.map (16 + ·)).getD 30 ∧ p.val'.pc = u.me.pc ∧ p.val'.reason = 6 ∧ p.val'.home = home ∧
      (v.slot u.cur).moving = true ∧ (v.slot u.cur).pc = u.me.pc := by
  obtain ⟨hroute, harr, ⟨harmed, hshared⟩, hcls, hdep, hcred⟩ := h
  have hstay : (u.me.holdsRoute || u.holdsArray u.cur || !u.me.armed.isEmpty
      || (u.core (slotCore u.cur)).armedS.any (fun p => slotIdx u.cur = (p.2.extractLsb' 37 3).toNat)
      || (mc.isSome && (u.me.cls = 2 || u.me.cls = 4))) = false := by
    have hany : (u.core (slotCore u.cur)).armedS.any (fun p => slotIdx u.cur = (p.2.extractLsb' 37 3).toNat) = false := by
      simpa [List.any_eq_false] using hshared
    have hkind : (mc.isSome && (u.me.cls = 2 || u.me.cls = 4)) = false := by
      cases hm : mc.isSome with
      | false => rfl
      | true => obtain ⟨h2, h4⟩ := hcls hm; simp [h2, h4]
    rw [hroute, harr, harmed, hany, hkind]
    rfl
  unfold migrate
  rw [M.bind_ok (M.get_run _)]
  dsimp only
  rw [M.bind_ok (raiseIf_of hplain _ _ _ _ _), M.bind_ok (raiseIf_of hstay _ _ _ _ _), M.bind_ok (departGate_of hdep),
    M.bind_ok (reserveCredits_run hcred), M.bind_ok (addOwed_run _ _), M.bind_ok (M.modify_run _ _), M.bind_ok (M.get_run _),
    sendPacket, M.bind_ok (M.modify_run _ _)]
  refine ⟨_, _, rfl, State.send_net _ _, rfl, rfl, rfl, rfl, rfl, rfl, rfl, ?_, ?_⟩
  · rw [State.slot_send]
    exact congrArg Slot.moving (State.slot_setSlot_self _ u.cur _)
  · rw [State.slot_send]
    refine (congrArg Slot.pc (State.slot_setSlot_self _ u.cur _)).trans ?_
    exact (congrArg Slot.pc (State.slot_setSlot_self _ u.cur _)).trans rfl

/-- `MIGR`, in each of the places that its operand may name. -/
theorem migrates : Migrate := by
  intro a f r s u' x t h u ha hplain hres hcur hme hbank
  have hna : isHandle a = false := by
    have hr : some (⟨29, 0, a, 0, 4, f⟩ : Raw) = some r := h.raw
    obtain rfl := Option.some.inj hr
    exact Raw.not_handle h.operands rfl (k := 2) List.mem_cons_self
  have hrun (k : Target → Word → M Unit) (e : Target → State → Word → M Unit) : (do
      let ea ← src f a
      raiseIf (← me).trap.tmode 0x02 5 0 0
      let t ← resolve .load ea
      let s ← get
      if s.bankAbsent t.place then e t s ea
      else k t ea : M Unit) u = k t x u' := by
    rw [M.bind_ok (src_reads ha), touched_eq_self hna, M.bind_ok (M.me_run _), M.bind_ok (raiseIf_of hplain _ _ _ _ _),
      M.bind_ok hres, M.bind_ok (M.get_run _), hbank]
    rfl
  refine ⟨fun hstay => ?_, fun c mc e u2 htarget heff hcur2 hme2 hnet2 hmem2 => ⟨fun hmc hlog => ?_, fun hlog hmove => ?_⟩⟩
  · refine issue_completed (i := .migr a f) h ((hrun _ _).trans ?_) hcur
    unfold checkMig
    dsimp only
    rw [M.bind_ok (M.get_run _), hstay]
    rfl
  · refine issue_completed (i := .migr a f) h ((hrun _ _).trans ?_) hcur2
    unfold checkMig
    dsimp only
    rw [M.bind_ok (M.get_run _), htarget]
    dsimp only
    rw [M.bind_ok heff, hmc, hlog]
    rfl
  · have hgo : (mc.isSome || (e.logical u'.device c).isSome) = true := by
      cases mc with
      | none => exact hlog rfl
      | some m => rfl
    obtain ⟨v, p, hv, hnet, hmem, hkind, hdst, hdep, hpc, hreason, hhome, hmoving, hvpc⟩ :=
      migrate_sends (α := Unit) (home := x) (c := c) (by rw [hcur2]; exact hmove) (by rw [hme2]; exact hplain)
    have hexec : ∃ t', exec (.migr a f) s = .next t' ∧ Placed r s v t' := by
      refine issue_placed (i := .migr a f) h ((hrun _ _).trans ?_)
      unfold checkMig
      dsimp only
      rw [M.bind_ok (M.get_run _), htarget]
      dsimp only
      rw [M.bind_ok heff, if_pos hgo, hv]
    obtain ⟨t', ht, hplaced⟩ := hexec
    rw [hcur2] at hmoving hvpc
    refine ⟨t', v, p, ht, hplaced, ?_, hkind, hdst, hdep, ?_, hreason, hhome, ?_, ?_, fun k => ?_⟩
    · rw [hplaced.rest]
      exact hnet.trans (by rw [hnet2])
    · rw [hpc, hme2]; exact entered_pc s r
    · rw [hplaced.slot]; exact hmoving
    · rw [hplaced.slot]; exact hvpc.trans (by rw [hme2]; exact entered_pc s r)
    · rw [hplaced.mem, hmem, hmem2]

/-- Settles O25: a thread that may leave its slot leaves it empty, at once or once its record is written, and one that migrates is sent as
its record. -/
theorem leaveInstructions : Obligations.LeaveInstructions := ⟨endAndPark, migrates⟩

end Sys2Proof.Claims
end

section
/-! PROOFS. Deposits where they arrive (O42): the statement is of every state, and a map of slots that lists one slot twice refutes it. -/

namespace Sys2Proof.Machine

/-! ## Two readings of the map of slots

`State.slot` reads the first entry of a slot (`SMap.get`), while `State.armedSlot` searches every entry that the map lists. They agree on
maps whose keys rise, as `SMap.set` keeps them, and disagree where a second entry of a slot lies behind its first. -/

/-- A thread whose register `w0` is armed for token 0. -/
def armedThread : Slot := { live := true, absent := false, armed := [(0, 0)] }

/-- A deposit of 1 for token 0, at core 0 of cluster 0. -/
def depositPacket : Packet := { pid := 0, kind := 11, src := 0, sep := 0, slot := 0, dev := State.reset.device, ws := [0, 1] }

/-- Slot 0 waits for the deposit. Slot 1 is listed twice: it reads as empty, and the entry behind holds a thread that is armed for the
same token. -/
def listedTwice : State :=
  { State.reset with slots := [(1, {}), (1, armedThread), (0, armedThread)], net := [depositPacket], pidNext := 1 }

theorem listedTwice_others {m : Nat} (h : m ≠ 0) : (listedTwice.slot m).armed = [] := by
  by_cases h1 : m = 1
  · subst h1
    rfl
  · have hdefault : listedTwice.slot m = {} := by
      simp [State.slot, listedTwice, SMap.get, Ne.symm h1, Ne.symm h]
    rw [hdefault]

/-- The deposit goes to the entry behind, and slot 0 still waits. -/
theorem listedTwice_deposit {t : State} (h : exec (.deposit 0) listedTwice = .next t) : (t.slot 0).armed ≠ [] := by
  have hstep : exec (.deposit 0) listedTwice = .next ((listedTwice.dropPacket 0).deposit 0 0 1).2 := rfl
  rw [hstep] at h
  cases h
  decide +kernel

end Sys2Proof.Machine

namespace Sys2Proof.Claims

open Sys2Proof.Machine

/-- Refutes O42: the search for the armed slot finds the second entry of a slot that the map lists twice, so the deposit does not reach
the one slot that reads as armed. -/
theorem not_arrivalSteps : ¬ Obligations.ArrivalSteps := by
  unfold Obligations.ArrivalSteps
  intro h
  have hin : inNet depositPacket listedTwice := by
    refine ⟨rfl, rfl, fun p hp => ?_⟩
    obtain rfl := List.mem_singleton.mp hp
    decide
  obtain ⟨arrives, -⟩ := h listedTwice depositPacket hin
  obtain ⟨t, ht, harmed, -⟩ := arrives 0 (by decide) rfl rfl rfl rfl rfl (by decide) fun m _ hm => listedTwice_others hm
  exact listedTwice_deposit ht harmed

end Sys2Proof.Claims
end

section
/-! PROOFS. Remote requests and answers (O43): a request for a DRAM channel joins the channel's queue, which the statement leaves out. -/

namespace Sys2Proof.Machine

/-! ## A request that a DRAM channel holds

A request at a turn of a bank is answered in the step that serves it. One for a DRAM channel joins the channel's queue (R200), and is
answered only when the channel serves it. -/

/-- A load of 8 bytes at the first line of DRAM channel 0 of this device that has come to its channel. -/
def dramRequest : Packet :=
  { pid := 0, kind := 0, arrived := true, place := dramPlace 0 0, size := 8, dev := State.reset.device }

/-- The device just reset, with that request in its network. -/
def dramRequested : State := { State.reset with net := [dramRequest], pidNext := 1 }

/-- The step leaves the request in the network, as a packet that its channel's queue names. -/
theorem dramRequested_queued :
    exec (.remoteAccess 0) dramRequested = .next ((dramRequested.putPacket { dramRequest with lost := 1 }).modDram 0
      fun d => { d with queue := d.queue ++ [(packetRequester, 0)] }) := rfl

theorem dramRequested_net {t : State} (h : exec (.remoteAccess 0) dramRequested = .next t) :
    t.net = [{ dramRequest with lost := 1 }] := by
  rw [dramRequested_queued] at h
  cases h
  rfl

/-- The channel is present, at its home and without a failure. -/
theorem dramRequested_here :
    dramRequested.bankAbsent dramRequest.part = false ∧ dramRequested.missing dramRequest.dst dramRequest.part = false ∧
      dramRequested.chanFailed dramRequest.place = false := ⟨rfl, rfl, rfl⟩

end Sys2Proof.Machine

namespace Sys2Proof.Claims

open Sys2Proof.Machine

theorem inNet_dramRequested : inNet dramRequest dramRequested := by
  refine ⟨rfl, rfl, fun p hp => ?_⟩
  obtain rfl := List.mem_singleton.mp hp
  decide

/-- Refutes O43: a load of 8 bytes that has come to its DRAM channel joins the channel's queue, and no answer is sent in that step. -/
theorem not_remoteAnswers : ¬ Obligations.RemoteAnswers := by
  unfold Obligations.RemoteAnswers
  rintro ⟨served, -⟩
  obtain ⟨loads, -⟩ := served dramRequested dramRequest inNet_dramRequested rfl
  obtain ⟨t, ht, ⟨q, hnet, hkind, -⟩, -⟩ := loads dramRequested_here rfl rfl rfl (by decide) rfl
  rw [dramRequested_net ht] at hnet
  have hq : q ∈ [{ dramRequest with lost := 1 }] := by
    rw [hnet]
    simp
  rw [List.mem_singleton.mp hq] at hkind
  exact absurd hkind (by decide)

end Sys2Proof.Claims
end

section
/-! PROOFS. Scalar loads and stores (O12, O13): the checks that an access passes, the access at issue in the own local store, and the access
that waits for its turns. -/

namespace Sys2Proof.Machine

/-! ## Operands that are no buffer slots (R195) -/

/-- A legal operand that an instruction reads or writes, outside the majors whose operands may be buffer slots, is none. -/
theorem Raw.operand_not_handle {r : Raw} (h : r.badOperand = none) (hv : r.bufferValue = false) {k : Nat} {x : Spec} {role : Role}
    (hrole : role = .src ∨ role = .dst) (hx : (k, x, role) ∈ r.roles) : isHandle x = false := by
  rcases hrole with rfl | rfl
  · exact Raw.not_handle h hv hx
  · have hok : r.roleOk x .dst = true := by
      unfold Raw.badOperand at h
      cases hf : r.roles.find? fun p => !r.roleOk p.2.1 p.2.2 with
      | some p => rw [hf] at h; cases h
      | none => simpa using List.find?_eq_none.mp hf _ hx
    by_contra hh
    obtain ⟨h40, h47⟩ := isHandle_iff.mp (Bool.eq_true_of_not_eq_false hh)
    simp [Raw.roleOk, hv] at hok
    omega

/-! ## Checks that pass -/

/-- A watchpoint check passes where its checks are skipped or no watchpoint matches (R304, R308). -/
theorem checkWatch_iff {k n : Nat} {ea : Word} {s : State} :
    Passes (checkWatch k ea n) s ↔ s.me.trap.wskip = true ∨ watchHit s k ea n = none := by
  unfold Passes checkWatch
  rw [M.bind_ok (M.get_run _)]
  cases hw : s.me.trap.wskip with
  | true => simp
  | false =>
    cases hh : watchHit s k ea n with
    | none => simp
    | some i =>
      simp only [Bool.false_eq_true, if_false, false_or, reduceCtorEq, iff_false]
      split <;> exact fun h => nomatch h

/-- Taking the local-store port changes no watchpoint. -/
theorem checkWatch_portTaken {k n : Nat} {ea : Word} {s : State} (h : Passes (checkWatch k ea n) s) :
    Passes (checkWatch k ea n) s.portTaken := by
  have hme : s.portTaken.me = s.me := rfl
  have hhit : watchHit s.portTaken k ea n = watchHit s k ea n := by
    unfold watchHit State.portTaken
    simp only [State.modCore_eq, State.setCore_cur, State.core_setCore_self]
    rfl
  rw [checkWatch_iff] at h ⊢
  rwa [hme, hhit]

theorem localPoison_of {p : Place} {n : Nat} {s : State} (h : s.isPoisoned p n = false) (va : Word) :
    localPoison p n va s = .ok ((), s) := by
  unfold localPoison
  rw [M.bind_ok (M.get_run _)]
  exact raiseIf_of h _ _ _ _ _

/-- An access that homes no thread elsewhere goes on (R246). -/
theorem checkMig_of {t : Target} {s : State} (h : migTarget s t = none) (ea : Word) : checkMig t ea s = .ok ((), s) := by
  unfold checkMig
  rw [M.bind_ok (M.get_run _), h]
  rfl

theorem roomGate_of {s : State} (h : s.me.acc.length < 4) : roomGate s = .ok ((), s) := by
  unfold roomGate
  rw [M.bind_ok (M.me_run _)]
  exact waitIf_of (decide_eq_false (Nat.not_le.mpr h)) _ _

/-! ## An access that waits for its turns (R81, R200) -/

/-- An access that finds room joins those of its thread. -/
theorem addAccess_room {a : Access} {s : State} (h : s.hasRoom a) : addAccess a s = .ok ((), s.withAccess a) := by
  obtain ⟨few, room⟩ := h
  have hdram : ((a.units.filter fun u => u.place.kind = 4).any fun u => decide (16 ≤ (s.dram u.place.unit).queue.length)) = false := by
    rw [List.any_eq_false]
    intro u hu
    obtain ⟨hmem, hkind⟩ := List.mem_filter.mp hu
    have := room u hmem (of_decide_eq_true hkind)
    simpa using this
  unfold addAccess
  rw [M.bind_ok (M.get_run _)]
  dsimp only
  rw [M.bind_ok (waitIf_of (decide_eq_false (Nat.not_le.mpr few)) _ _), M.bind_ok (waitIf_of hdram _ _), M.bind_ok (M.modMe_run _ _),
    M.modify_run]
  rfl

theorem State.foldl_modDram_cur {α : Type} (g : α → Nat) (f : State → α → Dram → Dram) (l : List α) (s : State) :
    (l.foldl (fun s u => s.modDram (g u) (f s u)) s).cur = s.cur := by
  induction l generalizing s with
  | nil => rfl
  | cons u l ih => rw [List.foldl_cons, ih]; rfl

@[simp] theorem State.withAccess_cur (s : State) (a : Access) : (s.withAccess a).cur = s.cur := by
  unfold State.withAccess
  dsimp only
  rw [State.foldl_modDram_cur]
  rfl

@[simp] theorem State.claimed_cur (s : State) (d : Spec) : (s.claimed d).cur = s.cur := by
  unfold State.claimed
  split <;> rfl

@[simp] theorem State.portTaken_cur (s : State) : s.portTaken.cur = s.cur := rfl

theorem claimNext_run (d : Spec) (s : State) : claimNext d s = .ok ((), s.claimed d) := by
  unfold claimNext State.claimed
  by_cases hd : d = 49
  · simp only [hd, if_true, true_and, M.modify_run]
  · simp only [hd, if_false, false_and]
    rfl

/-- The raw bytes of a load are one unit of its access (R80, R93). -/
theorem elements_raw {t : Target} (h : t.view = 0) (z : Nat) :
    let es := (t.elements z).zipIdx
    es.foldl (fun us e => readUnits us e.1 e.2 (if t.view = 0 then z else 1)) []
        = [{ place := t.place.line, acts := [.rd 0 t.place.key z] }] ∧
      es.foldl (fun g e => readMarks g e.1 e.2) [] = ([] : SMap Nat) := by
  have hes : (t.elements z).zipIdx = [(t, 0)] := by simp [Target.elements, h]
  simp [hes, readUnits, readMarks, h, putUnit]

theorem loadValue_raw (v n : Nat) (sx : Bool) : loadValue [(0, v)] n sx 0 = Claims.extended n sx v := rfl

theorem qualOf_eq (f : Form) (t : Target) : qualOf f.qual t.ord = Claims.honoured f t := rfl

end Sys2Proof.Machine

namespace Sys2Proof.Claims

open Sys2Proof.Machine

section

variable {k : Acc} {kind : Nat} {st sx : Bool} {buf : Option (Nat × Nat)} {ea x : Word} {n : Nat} {f : Form} {d : Spec} {u u' : State}
  {t : Target}

/-- An access that reaches its target has it resolved within its buffer, and its path is free. -/
theorem Reaches.run {β : Type} (h : Reaches k kind st buf ea n u u' t) (access : Target → M β) :
    (do let t ← resolveWithin k buf ea n; checkPath t ea; access t : M β) u = access t u' := by
  have hin : inBuffer buf ea n u' = .ok ((), u') := raiseIf_of (raiseIf_inv h.inside).1 _ _ _ _ _
  have hres (g : TrapRec → M Target) : onTrap (resolve k ea) g u = .ok (t, u') := by
    unfold onTrap
    rw [h.resolved]
  have hwithin : resolveWithin k buf ea n u = .ok (t, u') := by
    unfold resolveWithin
    rw [M.bind_ok (hres _), M.bind_ok hin]
    rfl
  rw [M.bind_ok hwithin, M.bind_ok h.path]

theorem Reaches.aligned_passes (h : Reaches k kind st buf ea n u u' t) :
    raiseIf (ea.toNat % n ≠ 0) 0x04 0 ea 0 u = .ok ((), u) := raiseIf_of (by simp [h.aligned]) _ _ _ _ _

/-! ## Loads -/

/-- R81, R90: a load of the own local store takes its port, reads, and writes its destination. -/
theorem scalarLoad_local (h : Reaches .load 1 false buf ea n u u' t) (hk : t.place.kind = 1) (hd : isHandle d = false)
    (hp : u'.isPoisoned t.place n = false) (hc : Passes (loadDstCheck d) u') (hport : u'.portFree) (hw : u'.canWrite f d) :
    scalarLoad f d ea n sx buf u = .ok ((), u'.portTaken.put f d (extended n sx (u'.readMem t.place.key n)) 3) := by
  have hgate : dstGate f d u' = .ok ((), u') := by rw [dstGate_of hw, hd]; rfl
  unfold scalarLoad
  rw [M.bind_ok h.aligned_passes, h.run, M.bind_ok hc, M.bind_ok h.ordered]
  dsimp only
  rw [if_pos hk, M.bind_ok hgate, M.bind_ok (needPort_of hport), M.bind_ok (localPoison_of (s := u'.portTaken) hp ea),
    M.bind_ok (checkWatch_portTaken h.watch), M.bind_ok (M.get_run _), loadValue_raw]
  exact dst_put _ _ ((canWrite_portTaken u' f d).symm ▸ hw)

/-- R81, R93: any other load of raw data that the core reaches joins the accesses that wait for turns. -/
theorem scalarLoad_turn (h : Reaches .load 1 false buf ea n u u' t) (hk : t.place.kind ≠ 1) (h4 : servedBy u' t.place ≠ 4)
    (hview : t.view = 0) (hc : Passes (loadDstCheck d) u') (hr : Passes (loadReady d) u') :
    let a : Access :=
      { id := 0, units := [{ place := t.place.line, acts := [.rd 0 t.place.key n] }], fin := .reg d n sx f.endMark 0, va := ea
        ord := t.ord, acq := decide (honoured f t = 1) || decide (honoured f t = 3), scope := f.scope }
    u'.hasRoom a → scalarLoad f d ea n sx buf u = .ok ((), (u'.withAccess a).claimed d) := by
  intro a room
  obtain ⟨hunits, hgot⟩ := elements_raw hview n
  unfold scalarLoad
  rw [M.bind_ok h.aligned_passes, h.run, M.bind_ok hc, M.bind_ok h.ordered]
  dsimp only
  rw [if_neg hk, M.bind_ok (M.get_run _), if_neg h4, M.bind_ok hr, M.bind_ok (roomGate_of room.1), M.bind_ok h.watch,
    M.bind_ok (checkMig_of h.stays ea), hunits, hgot, if_pos hview, qualOf_eq, M.bind_ok (addAccess_room room)]
  exact claimNext_run d _

/-! ## Stores -/

/-- R81, R90: a store to the own local store takes its port and stores the low bytes of its source. -/
theorem scalarStore_local (h : Reaches .store 2 true buf ea n u u' t) (hk : t.place.kind = 1) (hd : isHandle d = false)
    (hx : u'.reads f d = some x) (hrel : Passes (releaseGate f.qual f.scope t.ord) u') (htile : Passes (tileGate t.place n) u')
    (hport : u'.portFree) : scalarStore f d ea n buf u = .ok ((), u'.portTaken.store t.place x.toNat n) := by
  unfold scalarStore
  rw [M.bind_ok h.aligned_passes, h.run, M.bind_ok (src_reads hx), touched_eq_self hd, M.bind_ok h.ordered, if_pos hk, M.bind_ok hrel,
    M.bind_ok htile, M.bind_ok (needPort_of hport), M.bind_ok (checkWatch_portTaken h.watch)]
  rfl

/-- R81, R93: any other store that the core reaches joins the accesses that wait for turns. -/
theorem scalarStore_turn (h : Reaches .store 2 true buf ea n u u' t) (hk : t.place.kind ≠ 1) (h4 : servedBy u' t.place ≠ 4)
    (hd : isHandle d = false) (hx : u'.reads f d = some x) :
    let a : Access :=
      { id := 0, units := [{ place := t.place.line, acts := [.wr t.place.key n x.toNat] }], fin := .store, va := ea
        ord := t.ord, rel := decide (2 ≤ honoured f t), scope := f.scope }
    u'.hasRoom a → scalarStore f d ea n buf u = .ok ((), u'.withAccess a) := by
  intro a room
  unfold scalarStore
  rw [M.bind_ok h.aligned_passes, h.run, M.bind_ok (src_reads hx), touched_eq_self hd, M.bind_ok h.ordered, if_neg hk,
    M.bind_ok (M.get_run _), if_neg h4, M.bind_ok (roomGate_of room.1), M.bind_ok h.watch, M.bind_ok (checkMig_of h.stays ea)]
  exact addAccess_room room

end

section

variable {d a b : Spec} {w : BitVec 2} {o : BitVec 10} {h : BitVec 2} {sx : BitVec 1} {f : Form} {r : Raw} {s y : State} {v i : Word}
  {buf : Option (Nat × Nat)}

/-- The operands of an indexed access (R91): bit 2 of its function tells a store from a load. -/
theorem ldx_not_store : ∀ (h : BitVec 2) (sx : BitVec 1) (w : BitVec 2), (h ++ sx ++ 0#1 ++ w : BitVec 6).getLsbD 2 = false := by decide
theorem stx_store : ∀ (h w : BitVec 2), (h ++ 1#2 ++ w : BitVec 6).getLsbD 2 = true := by decide

/-- The destination of a load, and the index of one that has it, are no buffer slots (R36). -/
theorem load_operands {p : Instr × Bool × (Word → Word → Word) × Nat × Bool} (hp : p ∈ loadTable d a b w o h sx f)
    (hr : Ready p.1 r s) : isHandle d = false ∧ (p.2.1 = true → isHandle b = false) := by
  simp only [loadTable, List.mem_cons, List.not_mem_nil, or_false] at hp
  rcases hp with rfl | rfl | rfl
  case inl =>
    obtain rfl := Option.some.inj hr.raw
    exact ⟨Raw.operand_not_handle hr.operands rfl (k := 1) (.inr rfl) List.mem_cons_self, nofun⟩
  case inr.inl =>
    obtain rfl := Option.some.inj hr.raw
    exact ⟨Raw.operand_not_handle hr.operands rfl (k := 1) (.inr rfl) List.mem_cons_self, nofun⟩
  case inr.inr =>
    obtain rfl := Option.some.inj hr.raw
    have hroles : (Raw.mk 0x14 d a b (h ++ sx ++ 0#1 ++ w) f).roles = [(1, d, .dst), (2, a, .baseHead), (3, b, .src)] :=
      if_neg (by rw [ldx_not_store h sx w]; decide)
    exact ⟨Raw.operand_not_handle hr.operands rfl (k := 1) (x := d) (.inr rfl) (by rw [hroles]; simp),
      fun _ => Raw.operand_not_handle hr.operands rfl (k := 3) (x := b) (.inl rfl) (by rw [hroles]; simp)⟩

/-- The source of a store, and the index of one that has it, are no buffer slots (R36). -/
theorem store_operands {p : Instr × Bool × (Word → Word → Word) × Nat} (hp : p ∈ storeTable d a b w o h f)
    (hr : Ready p.1 r s) : isHandle d = false ∧ (p.2.1 = true → isHandle b = false) := by
  simp only [storeTable, List.mem_cons, List.not_mem_nil, or_false] at hp
  rcases hp with rfl | rfl
  case inl =>
    obtain rfl := Option.some.inj hr.raw
    exact ⟨Raw.operand_not_handle hr.operands rfl (k := 1) (.inl rfl) List.mem_cons_self, nofun⟩
  case inr =>
    obtain rfl := Option.some.inj hr.raw
    have hroles : (Raw.mk 0x14 d a b (h ++ 1#2 ++ w) f).roles = [(1, d, .src), (2, a, .baseTail), (3, b, .src)] :=
      if_pos (stx_store h w)
    exact ⟨Raw.operand_not_handle hr.operands rfl (k := 1) (x := d) (.inl rfl) (by rw [hroles]; simp),
      fun _ => Raw.operand_not_handle hr.operands rfl (k := 3) (x := b) (.inl rfl) (by rw [hroles]; simp)⟩

/-- R90, R91: each scalar load finds its address and then does what `scalarLoad` says. -/
theorem load_completed {p : Instr × Bool × (Word → Word → Word) × Nat × Bool} (hp : p ∈ loadTable d a b w o h sx f)
    (hr : Ready p.1 r s) (hv : (s.entered r).baseAt f a false = some (v, buf)) (hi : p.2.1 = true → (s.entered r).reads f b = some i)
    (hrun : scalarLoad f d (p.2.2.1 v i) p.2.2.2.1 p.2.2.2.2 buf (s.entered r) = .ok ((), y)) (hc : y.cur = s.cur) :
    ∃ t, exec p.1 s = .next t ∧ Finished r s (y.take s.cur r.taken) t := by
  obtain ⟨-, hb⟩ := load_operands hp hr
  simp only [loadTable, List.mem_cons, List.not_mem_nil, or_false] at hp
  rcases hp with rfl | rfl | rfl
  case inl =>
    exact issue_completed (i := .ld d a w o f) hr
      ((formI_run o w (fun ea z buf => scalarLoad f d ea z false buf) hv).trans hrun) hc
  case inr.inl =>
    exact issue_completed (i := .lds d a w o f) hr
      ((formI_run o w (fun ea z buf => scalarLoad f d ea z true buf) hv).trans hrun) hc
  case inr.inr =>
    refine issue_completed (i := .ldx d a b h sx w f) hr
      ((indexed_run h (fun ea buf => scalarLoad f d ea (2 ^ w.toNat) (sx = 1) buf) hv (hi rfl)).trans ?_) hc
    rw [touched_eq_self (hb rfl)]
    exact hrun

/-- R90, R91: each scalar store finds its address and then does what `scalarStore` says. -/
theorem store_completed {p : Instr × Bool × (Word → Word → Word) × Nat} (hp : p ∈ storeTable d a b w o h f)
    (hr : Ready p.1 r s) (hv : (s.entered r).baseAt f a true = some (v, buf)) (hi : p.2.1 = true → (s.entered r).reads f b = some i)
    (hrun : scalarStore f d (p.2.2.1 v i) p.2.2.2 buf (s.entered r) = .ok ((), y)) (hc : y.cur = s.cur) :
    ∃ t, exec p.1 s = .next t ∧ Finished r s (y.take s.cur r.taken) t := by
  obtain ⟨-, hb⟩ := store_operands hp hr
  simp only [storeTable, List.mem_cons, List.not_mem_nil, or_false] at hp
  rcases hp with rfl | rfl
  case inl => exact issue_completed (i := .st d a w o f) hr ((formI_run o w (scalarStore f d) hv).trans hrun) hc
  case inr =>
    refine issue_completed (i := .stx d a b h w f) hr
      ((indexed_run h (fun ea buf => scalarStore f d ea (2 ^ w.toNat) buf) hv (hi rfl)).trans ?_) hc
    rw [touched_eq_self (hb rfl)]
    exact hrun

end

/-- R81, R90, R91: the loads of the own local store. -/
theorem localLoads : LocalLoads := by
  intro d a b w o h sx f p hp r s u' v i buf t hr u ea hv hi hreach hcur hk hpois hc hport hw
  obtain ⟨hd, -⟩ := load_operands hp hr
  exact load_completed hp hr hv hi (scalarLoad_local hreach hk hd hpois hc hport hw) ((State.put_cur _ _ _ _ _).trans hcur)

/-- R81, R93: the loads that wait for a turn. -/
theorem turnLoads : TurnLoads := by
  intro d a b w o h sx f p hp r s u' v i buf t hr u ea a' hv hi hreach hcur hk h4 hview hc hl room
  exact load_completed hp hr hv hi (scalarLoad_turn hreach hk h4 hview hc hl room) (by rw [State.claimed_cur, State.withAccess_cur, hcur])

/-- Settles O12: a load of the own local store reads at issue; any other joins the accesses that wait for a turn. -/
theorem scalarLoads : Obligations.ScalarLoads := ⟨localLoads, turnLoads⟩

/-- A store to a local store writes its own bytes and no other (R90). -/
theorem store_local {p : Place} (hk : p.kind = 1) (s : State) (v n : Nat) :
    (s.store p v n).mem = s.mem.writeLE p.key v n := by
  unfold State.store
  simp [State.chanFailed, hk]
  rfl

/-- R81, R90, R91: the stores to the own local store. -/
theorem localStores : LocalStores := by
  intro d a b w o h f p hp r s u' v i x buf t hr u ea n hv hi hreach hcur hk hx hrel htile hport
  obtain ⟨hd, -⟩ := store_operands hp hr
  obtain ⟨t', hrun, hfin⟩ := store_completed hp hr hv hi (scalarStore_local hreach hk hd hx hrel htile hport)
    ((State.store_cur _ _ _ _).trans hcur)
  have hmem (j : Nat) : t'.mem.read j = (u'.mem.writeLE t.place.key x.toNat n).read j := by
    rw [hfin.mem, State.take_eq, store_local hk]
    rfl
  refine ⟨t', hrun, hfin, fun j hj => ?_, fun hwf => ?_⟩
  · rw [hmem, Memory.read_writeLE_of_outside _ _ _ _ _ hj]
  · exact (Memory.readLE_congr fun j _ _ => hmem j).trans (Memory.readLE_writeLE hwf _ _ _)

/-- R81, R93: the stores that wait for a turn. -/
theorem turnStores : TurnStores := by
  intro d a b w o h f p hp r s u' v i x buf t hr u ea n a' hv hi hreach hcur hk h4 hx room
  obtain ⟨hd, -⟩ := store_operands hp hr
  exact store_completed hp hr hv hi (scalarStore_turn hreach hk h4 hd hx room) (by rw [State.withAccess_cur, hcur])

/-- Settles O13: a store to the own local store is performed at issue; any other joins the accesses that wait for a turn. -/
theorem scalarStores : Obligations.ScalarStores := ⟨localStores, turnStores⟩

end Sys2Proof.Claims
end

section
/-! PROOFS. Bank atomics (O14): at issue, at a turn, and what each integer operation computes. -/

namespace Sys2Proof.Machine

/-- A destination that is no buffer slot does not depend on memory. -/
theorem canWrite_withMem {d : Spec} (h : isHandle d = false) (s u : State) (f : Form) : (s.withMem u).canWrite f d = s.canWrite f d := by
  unfold State.canWrite
  simp only [h, Bool.false_eq_true, if_false]
  rfl

theorem canWrite_store {d : Spec} (h : isHandle d = false) (s : State) (p : Place) (v n : Nat) (f : Form) :
    (s.store p v n).canWrite f d = s.canWrite f d := by
  rw [State.store_eq_withMem, canWrite_withMem h]

theorem touchedB_eq_self {f : Form} {b : Spec} (h : f.hasLit = false → isHandle b = false) (s : State) : s.touchedB f b = s := by
  unfold State.touchedB
  cases hl : f.hasLit with
  | true => rfl
  | false => exact touched_eq_self (h hl) s

end Sys2Proof.Machine

namespace Sys2Proof.Claims

open Sys2Proof.Machine

section

variable {ea x c : Word} {n op : Nat} {f : Form} {d : Spec} {u u' : State} {t : Target}

/-- R81, R94: a bank atomic at the own local store takes its port, stores the update, and writes the old value to its destination. -/
theorem bankAtomic_local (h : Reaches .atomic 3 true none ea n u u' t) (hk : t.place.kind = 1) (hd : isHandle d = false)
    (hp : u'.isPoisoned t.place n = false) (hc : Passes (loadDstCheck d) u') (hrel : Passes (releaseGate f.qual f.scope t.ord) u')
    (htile : Passes (tileGate t.place n) u') (hport : u'.portFree) (hw : u'.canWrite f d) :
    bankAtomic f d ea n op x c u = .ok ((),
      (u'.portTaken.store t.place (atomicOp op n (u'.readMem t.place.key n) x.toNat c.toNat) n).put f d
        (BitVec.ofNat 64 (u'.readMem t.place.key n)) 3) := by
  have hgate : dstGate f d u' = .ok ((), u') := by rw [dstGate_of hw, hd]; rfl
  have hread : u'.portTaken.readMem t.place.key n = u'.readMem t.place.key n := rfl
  unfold bankAtomic
  rw [M.bind_ok h.aligned_passes, M.bind_ok h.resolved, M.bind_ok h.path, M.bind_ok hc, M.bind_ok h.ordered]
  dsimp only
  rw [if_pos hk, M.bind_ok hrel, M.bind_ok htile, M.bind_ok hgate, M.bind_ok (needPort_of hport),
    M.bind_ok (localPoison_of (s := u'.portTaken) hp ea), M.bind_ok (checkWatch_portTaken h.watch), M.bind_ok (M.get_run _), hread,
    M.bind_ok (M.modify_run _ _)]
  exact dst_put _ _ (by rwa [canWrite_store hd, canWrite_portTaken])

/-- R81, R94: a bank atomic elsewhere in the own stores joins the accesses that wait for turns. -/
theorem bankAtomic_turn (h : Reaches .atomic 3 true none ea n u u' t) (hk : t.place.kind ≠ 1) (h4 : servedBy u' t.place ≠ 4)
    (hc : Passes (loadDstCheck d) u') (hr : Passes (loadReady d) u') :
    let q := honoured f t
    let a : Access :=
      { id := 0, units := [{ place := t.place.line, acts := [.rmw 0 t.place.key n op x.toNat c.toNat] }]
        fin := .reg d n false f.endMark 0, va := ea, ord := t.ord, acq := decide (q = 1) || decide (q = 3), rel := decide (2 ≤ q)
        scope := f.scope }
    u'.hasRoom a → bankAtomic f d ea n op x c u = .ok ((), (u'.withAccess a).claimed d) := by
  intro q a room
  unfold bankAtomic
  rw [M.bind_ok h.aligned_passes, M.bind_ok h.resolved, M.bind_ok h.path, M.bind_ok hc, M.bind_ok h.ordered]
  dsimp only
  rw [if_neg hk, M.bind_ok (M.get_run _), if_neg h4, M.bind_ok hr, M.bind_ok (roomGate_of room.1), M.bind_ok h.watch,
    M.bind_ok (checkMig_of h.stays ea)]
  exact (M.bind_ok (addAccess_room room)).trans (claimNext_run d _)

end

section

variable {d a b : Spec} {z : BitVec 1} {o : BitVec 4} {f : Form} {r : Raw} {s y : State} {v x c : Word} {p : Instr × Nat}

theorem cas_operation : ∀ z : BitVec 1, (z ++ 9#5 : BitVec 6).extractLsb' 0 4 = 9 := by decide

/-- The operands of a bank atomic are no buffer slots (R36). -/
theorem atomic_operands (hp : p = (.bat d a b z o f, o.toNat) ∨ p = (.batCas d a b z f, 9)) (hr : Ready p.1 r s) :
    isHandle d = false ∧ isHandle a = false ∧ (f.hasLit = false → isHandle b = false) ∧
      (p = (.batCas d a b z f, 9) → isHandle f.c = false) := by
  have roles : (1, d, Role.dst) ∈ r.roles ∧ (2, a, Role.src) ∈ r.roles ∧ (f.hasLit = false → (3, b, Role.src) ∈ r.roles) ∧
      (p = (.batCas d a b z f, 9) → (4, f.c, Role.src) ∈ r.roles) ∧ r.bufferValue = false := by
    rcases hp with rfl | rfl
    case inl =>
      obtain rfl := Option.some.inj hr.raw
      refine ⟨?_, ?_, fun hl => ?_, nofun, rfl⟩ <;> simp [Raw.roles, *]
    case inr =>
      obtain rfl := Option.some.inj hr.raw
      refine ⟨?_, ?_, fun hl => ?_, fun _ => ?_, rfl⟩ <;> simp [Raw.roles, *, cas_operation]
  obtain ⟨hd, ha, hb, hc, hv⟩ := roles
  exact ⟨Raw.operand_not_handle hr.operands hv (.inr rfl) hd, Raw.not_handle hr.operands hv ha,
    fun hl => Raw.not_handle hr.operands hv (hb hl), fun h => Raw.not_handle hr.operands hv (hc h)⟩

/-- R94: each bank atomic reads its operands and then does what `bankAtomic` says. -/
theorem atomic_completed (hp : (p = (.bat d a b z o f, o.toNat) ∧ c = 0) ∨ p = (.batCas d a b z f, 9)) (hr : Ready p.1 r s)
    (hv : (s.entered r).reads f a = some v) (hx : (s.entered r).readsB f b = some x)
    (hc : p.1 = .batCas d a b z f → (s.entered r).reads f f.c = some c)
    (hrun : bankAtomic f d (v + f.imm.signExtend 64) (if z = 1 then 4 else 8) p.2 x c (s.entered r) = .ok ((), y))
    (hcur : y.cur = s.cur) : ∃ t, exec p.1 s = .next t ∧ Finished r s (y.take s.cur r.taken) t := by
  obtain ⟨-, ha, hb, hcas⟩ := atomic_operands (hp.imp_left And.left) hr
  have hsrc := (src_reads hv).trans (by rw [touched_eq_self ha])
  have hsrcB := (srcB_reads hx).trans (by rw [touchedB_eq_self hb])
  rcases hp with ⟨rfl, rfl⟩ | rfl
  case inl =>
    refine issue_completed (i := .bat d a b z o f) hr ?_ hcur
    rw [M.bind_ok hsrc, M.bind_ok hsrcB]
    exact hrun
  case inr =>
    refine issue_completed (i := .batCas d a b z f) hr ?_ hcur
    rw [M.bind_ok hsrc, M.bind_ok hsrcB, M.bind_ok ((src_reads (hc rfl)).trans (by rw [touched_eq_self (hcas rfl)]))]
    exact hrun

end

/-- R81, R94: bank atomics at issue, and those that wait for a turn. -/
theorem bankAtomics : BankAtomics := by
  intro d a b z o f r s u' v x c t p hp hr u ea n q a' hv hx hcmp hreach hcur h4 hc
  obtain ⟨hd, -⟩ := atomic_operands (hp.imp_left And.left) hr
  refine ⟨fun hk hpois hrel htile hport hw => ?_, fun hk hl room => ?_⟩
  · obtain ⟨t', hrun, hfin⟩ := atomic_completed hp hr hv hx hcmp (bankAtomic_local hreach hk hd hpois hc hrel htile hport hw)
      (by rw [State.put_cur, State.store_cur, State.portTaken_cur, hcur])
    refine ⟨t', hrun, hfin, fun j hj => ?_⟩
    rw [hfin.mem, State.take_eq]
    dsimp only
    rw [State.put_mem (h := hd), State.store_read (h := hj)]
    rfl
  · exact atomic_completed hp hr hv hx hcmp (bankAtomic_turn hreach hk h4 hc hl room)
      (by rw [State.claimed_cur, State.withAccess_cur, hcur])

section

variable {w : Nat}

/-- The signed reading of a word that an atomic compares (R94). -/
theorem signed_eq (hw : 0 < w) (v : BitVec w) :
    (if 2 ^ (w - 1) ≤ v.toNat % 2 ^ w then ((v.toNat % 2 ^ w : Nat) : Int) - ((2 ^ w : Nat) : Int) else ((v.toNat % 2 ^ w : Nat) : Int))
      = v.toInt := by
  have hhalf : 2 * 2 ^ (w - 1) = 2 ^ w := by rw [← pow_succ', Nat.sub_add_cancel hw]
  rw [Nat.mod_eq_of_lt v.isLt, BitVec.toInt_eq_toNat_cond]
  by_cases h : 2 ^ (w - 1) ≤ v.toNat
  · rw [if_pos h, if_neg (by omega)]
  · rw [if_neg h, if_pos (by omega)]

end

/-- R94: the integer operations at a size of `n` bytes, on operands whose low bits are `x` and `c`. -/
theorem atomicOp_integer {w n : Nat} (hn : w = 8 * n) (hw : 0 < w) (old x c : BitVec w) {vx vc : Nat} (hx : vx % 2 ^ w = x.toNat)
    (hc : vc % 2 ^ w = c.toNat) :
    let op (k : Nat) : BitVec w := BitVec.ofNat w (atomicOp k n old.toNat vx vc)
    op 0 = old + x ∧ op 1 = old &&& x ∧ op 2 = old ||| x ∧ op 3 = old ^^^ x ∧
    op 4 = (if old.toInt ≤ x.toInt then old else x) ∧ op 5 = (if x.toInt < old.toInt then old else x) ∧
    op 6 = (if old.toNat ≤ x.toNat then old else x) ∧ op 7 = (if x.toNat < old.toNat then old else x) ∧
    op 8 = x ∧ op 9 = (if old = c then x else old) := by
  subst hn
  have hsg := signed_eq hw
  intro op
  have is {k : Nat} {v : BitVec (8 * n)} (h : atomicOp k n old.toNat vx vc = v.toNat) : op k = v := by
    simp only [op, h, BitVec.ofNat_toNat, BitVec.setWidth_eq]
  refine ⟨is ?add, is ?and, is ?or, is ?xor, is ?smin, is ?smax, is ?umin, is ?umax, is ?swap, is ?cas⟩
  case add => simp only [atomicOp, hx, BitVec.toNat_add]
  case and => simp only [atomicOp, hx, BitVec.toNat_and]
  case or => simp only [atomicOp, hx, BitVec.toNat_or]
  case xor => simp only [atomicOp, hx, BitVec.toNat_xor]
  case smin => simp only [atomicOp, hx, hsg, apply_ite BitVec.toNat]
  case smax => simp only [atomicOp, hx, hsg, apply_ite BitVec.toNat, ← not_le, ite_not]
  case umin => simp only [atomicOp, hx, Nat.min_def, apply_ite BitVec.toNat]
  case umax => simp only [atomicOp, hx, Nat.max_def, apply_ite BitVec.toNat, ← not_le, ite_not]
  case swap => simp only [atomicOp, hx]
  case cas => simp only [atomicOp, hx, hc, apply_ite BitVec.toNat, BitVec.toNat_inj]

/-- The low word of two is the second. -/
theorem append_mod (h l : BitVec 32) : (h ++ l).toNat % 2 ^ 32 = l.toNat := by
  have hl := congrArg BitVec.toNat (BitVec.extractLsb'_append_eq_right (a := h) (b := l))
  simpa [BitVec.extractLsb'_toNat] using hl

/-- R94: the integer operations for 8 and for 4 bytes. -/
theorem atomicOperations : AtomicOperations :=
  ⟨fun old x c => atomicOp_integer (n := 8) rfl (by decide) old x c (Nat.mod_eq_of_lt x.isLt) (Nat.mod_eq_of_lt c.isLt),
    fun old x c hx hc => atomicOp_integer (n := 4) rfl (by decide) old x c (append_mod hx x) (append_mod hc c)⟩

/-- Settles O14: a bank atomic of the own local store is performed at issue and any other waits for a turn, and the integer operations
are those of the words. -/
theorem atomicInstructions : Obligations.AtomicInstructions := ⟨bankAtomics, atomicOperations⟩

end Sys2Proof.Claims
end

section
/-! PROOFS. Turns and sealing (O16): the first turn of a core, and the leaf of a sealed page. -/

namespace Sys2Proof.Machine

/-! ## The first turn (R103) -/

/-- The search for a turn finds the first one within its bound. -/
theorem State.nextTurn_first {s : State} {clu k : Nat} {p : Place} {fuel n j : Nat} (hj : j < fuel)
    (hturn : s.turnAt clu k p (n + j) = true) (hfirst : ∀ i < j, s.turnAt clu k p (n + i) = false) :
    s.nextTurn clu k p fuel n = some (n + j) := by
  induction fuel generalizing n j with
  | zero => omega
  | succ fuel ih =>
    unfold State.nextTurn
    cases j with
    | zero => exact if_pos hturn
    | succ j =>
      have h0 : s.turnAt clu k p n = false := hfirst 0 (Nat.succ_pos j)
      have hshift (i : Nat) : n + 1 + i = n + (i + 1) := by omega
      rw [if_neg (by simp [h0]), ih (j := j) (by omega) (by rw [hshift]; exact hturn) fun i hi => by
        rw [hshift]; exact hfirst (i + 1) (by omega), hshift]

/-- What `turnFrom` answers at a state. -/
def State.turnFrom (s : State) (t : Target) (start : Nat) : Option Nat :=
  match servedBy s t.place with
  | 0 => some start
  | 1 | 2 => s.nextTurn (slotClu s.cur) (requester (slotCore s.cur)) t.place (s.turnPeriod (slotClu s.cur)) start
  | _ => none

theorem turnFrom_run (t : Target) (start : Nat) (s : State) : turnFrom t start s = .ok (s.turnFrom t start, s) := by
  unfold turnFrom State.turnFrom
  rw [M.bind_ok (M.get_run _)]
  dsimp only
  rcases servedBy s t.place with _ | _ | _ | v <;> rfl

/-- The answer of `TURNQ` in cycle `n` for a first turn, or for none. -/
def turnAnswer (n : Nat) : Option Nat → Word
  | some m => BitVec.ofNat 64 (m - n)
  | none => BitVec.allOnes 64

section

variable {s : State} {t : Target} {start : Nat}

theorem State.turnFrom_own (h : servedBy s t.place = 0) : s.turnFrom t start = some start := by
  unfold State.turnFrom
  simp only [h]

theorem State.turnFrom_far (h : 3 ≤ servedBy s t.place) : s.turnFrom t start = none := by
  unfold State.turnFrom
  obtain ⟨v, hv⟩ := Nat.exists_eq_add_of_le' h
  rw [hv]
  rfl

/-- At the own cluster and common stores it is the first turn. -/
theorem State.turnFrom_first {j : Nat} (h : servedBy s t.place = 1 ∨ servedBy s t.place = 2) (hj : j < s.turnPeriod (slotClu s.cur))
    (hturn : s.turnAt (slotClu s.cur) (requester (slotCore s.cur)) t.place (start + j) = true)
    (hfirst : ∀ i < j, s.turnAt (slotClu s.cur) (requester (slotCore s.cur)) t.place (start + i) = false) :
    s.turnFrom t start = some (start + j) := by
  unfold State.turnFrom
  rcases h with h | h <;> rw [h] <;> exact State.nextTurn_first hj hturn hfirst

end

/-- A place in a local store is never served at a turn. -/
theorem servedBy_local {s : State} {p : Place} (h : p.kind = 1) : servedBy s p ≠ 1 ∧ servedBy s p ≠ 2 := by
  unfold servedBy
  simp only [h]
  split_ifs <;> decide

/-- The state in which `WTURN` leaves its thread for a first turn, or for none, at a divider of `n` (R104). -/
def State.heldFor (s : State) (t : Target) (n : Nat) : Option Nat → State
  | some m =>
    if t.place.kind ≠ 1 then s.modSlot s.cur fun x => { x with notBefore := n * (m / n), wturn := some (t.place, n * (m / n)) } else s
  | none => s

theorem State.heldFor_cur (s : State) (t : Target) (n : Nat) (m : Option Nat) : (s.heldFor t n m).cur = s.cur := by
  cases m with
  | none => rfl
  | some m => dsimp only [State.heldFor]; split <;> rfl

theorem State.heldFor_local {s : State} {t : Target} (h : t.place.kind = 1) (n : Nat) (m : Option Nat) : s.heldFor t n m = s := by
  cases m with
  | none => rfl
  | some m => exact if_neg (by simp [h])

end Sys2Proof.Machine

namespace Sys2Proof.Claims

open Sys2Proof.Machine

/-- R103: the answer of `TURNQ`. -/
theorem turnQuery : TurnQuery := by
  intro d a f r s u' x t hr u clu turn hx hres hcur hcyc hwatch hw
  have ha : isHandle a = false := by
    obtain rfl := Option.some.inj hr.raw
    exact Raw.not_handle hr.operands rfl (k := 2) (x := a) (by simp [Raw.roles])
  have key : ∃ t', exec (.turnq d a f) s = .next t' ∧
      Finished r s ((u'.put f d (turnAnswer s.cyc (u'.turnFrom t s.cyc)) 3).take s.cur r.taken) t' := by
    refine issue_completed (i := .turnq d a f) hr ?_ ((State.put_cur _ _ _ _ _).trans hcur)
    rw [M.bind_ok (src_reads hx), touched_eq_self ha, M.bind_ok hres, M.bind_ok hwatch, M.bind_ok (M.get_run _),
      M.bind_ok (turnFrom_run _ _ _), hcyc]
    exact dst_put _ _ hw
  obtain ⟨t', hexec, hfin⟩ := key
  refine ⟨t', _, hexec, hfin, fun h => ?own, fun h k hk hturn hfirst => ?turn, fun h => ?far⟩
  case own => rw [State.turnFrom_own h, turnAnswer, Nat.sub_self]; rfl
  case turn =>
    rw [State.turnFrom_first h (by rwa [hcur]) (by rwa [hcur]) (by rwa [hcur]), turnAnswer, Nat.add_sub_cancel_left]
  case far => rw [State.turnFrom_far h]; rfl

/-- R104: how `WTURN` holds its thread. -/
theorem turnWait : TurnWait := by
  intro a f r s u' x t hr u clu n turn hx hres hcur hcyc hwatch
  have ha : isHandle a = false := by
    obtain rfl := Option.some.inj hr.raw
    exact Raw.not_handle hr.operands rfl (k := 2) (x := a) (by simp [Raw.roles])
  have hrun (y : State) (hend : u'.heldFor t n (u'.turnFrom t (s.cyc + n)) = y) :
      ∃ t', exec (.wturn a f) s = .next t' ∧ Finished r s (y.take s.cur r.taken) t' := by
    subst hend
    refine issue_completed (i := .wturn a f) hr ?_ ((State.heldFor_cur _ _ _ _).trans hcur)
    rw [M.bind_ok (src_reads hx), touched_eq_self ha, M.bind_ok hres, M.bind_ok hwatch, M.bind_ok (M.get_run _)]
    rw [hcur, M.bind_ok (turnFrom_run _ _ _), hcyc]
    cases u'.turnFrom t (s.cyc + n) with
    | none => rfl
    | some m => dsimp only [State.heldFor]; split <;> rfl
  refine ⟨fun h => hrun u' ?_, fun h k hk hturn hfirst => hrun _ ?_⟩
  · rcases h with h | h
    · exact State.heldFor_local h _ _
    · rw [State.turnFrom_far h]
      rfl
  · have hkind : t.place.kind ≠ 1 := fun hk => h.elim (servedBy_local hk).1 (servedBy_local hk).2
    rw [State.turnFrom_first (j := k) h (by rwa [hcur]) (by rwa [hcur]) (by rwa [hcur]), State.heldFor, if_pos hkind, hcur]

end Sys2Proof.Claims
namespace Sys2Proof.Machine

/-! ## Maps whose entries are all changed -/

/-- An entry of a map that is changed throughout is the default, or a changed value. -/
theorem SMap.get_map {α : Type} (d : α) (g : α → α) (m : SMap α) (k : Nat) :
    (SMap.get d (m.map fun p => (p.1, g p.2)) k = d ∧ SMap.get d m k = d) ∨
      SMap.get d (m.map fun p => (p.1, g p.2)) k = g (SMap.get d m k) := by
  induction m with
  | nil => exact .inl ⟨rfl, rfl⟩
  | cons p m ih =>
    simp only [List.map_cons, SMap.get]
    split
    · exact .inr rfl
    · exact ih

/-- What no change touches reads as before. -/
theorem SMap.get_map_of {α β : Type} (field : α → β) {d : α} {g : α → α} (h : ∀ x, field (g x) = field x) (m : SMap α) (k : Nat) :
    field (SMap.get d (m.map fun p => (p.1, g p.2)) k) = field (SMap.get d m k) := by
  rcases SMap.get_map d g m k with ⟨hm, hk⟩ | hm
  · rw [hm, hk]
  · rw [hm, h]

/-! ## The leaf of a page, and what a change of it drops (R101, R102) -/

/-- No walk reads the copies of region blocks. -/
theorem leafOf_effs (s : State) (l : SMap Eff) (va : Nat) (lvl : Nat) (e : Word) :
    leafOf { s with effs := l } va lvl e = leafOf s va lvl e := by
  have hwalk (lvl : Nat) (e : Word) : walkLevel { s with effs := l } e lvl va = walkLevel s e lvl va := rfl
  induction lvl generalizing e with
  | zero =>
    unfold leafOf
    rw [hwalk]
  | succ lvl ih =>
    unfold leafOf
    rw [hwalk]
    simp only [ih]

/-- What a store leaves in memory does not depend on them. -/
theorem store_mem_effs (s : State) (l : SMap Eff) (p : Place) (v n : Nat) :
    (({ s with effs := l } : State).store p v n).mem = (s.store p v n).mem := by
  have hfail : ({ s with effs := l } : State).chanFailed p = s.chanFailed p := rfl
  unfold State.store
  rw [hfail]
  split <;> rfl

theorem sealLeaf_of {troot : Word} {va : Nat} {s : State} {r : Place × Word × Bool} (hroot : troot.getLsbD 0 = true)
    (h : leafOf s va 3 troot = .ok r) : sealLeaf troot va s = .ok (r, s) := by
  unfold sealLeaf
  rw [M.bind_ok (M.get_run _), if_pos hroot, h]
  rfl

theorem forPages_one {k : Nat → M Unit} {va : Nat} {s u : State} (h : k va s = .ok ((), u)) : forPages 1 va k s = .ok ((), u) := by
  unfold forPages
  rw [M.bind_ok h]
  rfl

/-- A range of one small page splits no large page. -/
theorem splitsBig_of_small {s : State} {troot : Word} {lo : Nat} {q : Place} {pte : Word} (h : leafOf s lo 3 troot = .ok (q, pte, false)) :
    s.splitsBig troot lo 65536 = false := by
  unfold State.splitsBig
  simp [h]

theorem splitsBig_of_empty (s : State) (troot : Word) (lo : Nat) : s.splitsBig troot lo 0 = false := by simp [State.splitsBig]

theorem State.dropTlb_drops (s : State) (hit : TlbEntry → Bool) (c : Nat) : ∀ g ∈ ((s.dropTlb hit).core c).tlb, hit g = false := by
  intro g hg
  rcases SMap.get_map ({} : Core) (fun x => { x with tlb := x.tlb.filter fun e => !hit e }) s.cores c with ⟨h, -⟩ | h
  · have hcore : (s.dropTlb hit).core c = {} := h
    rw [hcore] at hg
    exact absurd hg (List.not_mem_nil)
  · have hcore : (s.dropTlb hit).core c = { s.core c with tlb := (s.core c).tlb.filter fun e => !hit e } := h
    rw [hcore] at hg
    simpa using (List.mem_filter.mp hg).2

/-- What dropping the code of a range leaves of a thread (R102). -/
def State.codeDropped (s : State) (root lo n : Nat) (frames : List Nat) (x : Slot) : Slot :=
  let within (k : Nat) : Bool := frames.any fun f => decide (f ≤ k ∧ k < f + 65536)
  let freq := if x.freq.any fun r => within r.2.2 then none else x.freq
  if x.live && (s.eff? x.rcb).any fun e => rootKey e.troot = root then
    { x with fbuf := x.fbuf.filter fun b => !(decide (lo ≤ b.1.toNat ∧ b.1.toNat < lo + n)), freq := freq }
  else { x with freq := freq }

/-- Dropping code leaves every register. -/
theorem State.dropCode_regs (s : State) (root lo n : Nat) (frames : List Nat) (k : Nat) :
    ((s.dropCode root lo n frames).slot k).w = (s.slot k).w ∧ ((s.dropCode root lo n frames).slot k).pw = (s.slot k).pw :=
  Prod.mk.inj (SMap.get_map_of (fun x : Slot => (x.w, x.pw)) (g := s.codeDropped root lo n frames)
    (fun x => by unfold State.codeDropped; split <;> rfl) s.slots k)

/-- What a page's `SEAL` or `UNSEAL` leaves (R101, R102): its leaf stored, its entries dropped from the TLBs, and for `UNSEAL` its code
dropped too. -/
structure Resealed (q : Place) (pte : Word) (on : Bool) (root lo : Nat) (u v : State) : Prop where
  cur : v.cur = u.cur
  mem : v.mem = (u.store q (if on then pte ||| 0x8000#64 else pte &&& ~~~0x8000#64).toNat 8).mem
  regs : ∀ k, (v.slot k).w = (u.slot k).w ∧ (v.slot k).pw = (u.slot k).pw
  dropped : ∀ c, ∀ g ∈ (v.core c).tlb, ¬ (g.root = root ∧ g.page = lo / 65536)

theorem resealed_of {q : Place} {pte : Word} {on : Bool} {root lo : Nat} {u w v : State}
    (hw : w = (u.store q (if on then pte ||| 0x8000#64 else pte &&& ~~~0x8000#64).toNat 8).dropTlb fun t =>
      t.root = root && decide (lo / 65536 ≤ t.page ∧ t.page < lo / 65536 + 1))
    (hv : v = w ∨ ∃ frames, v = w.dropCode root lo 65536 frames) : Resealed q pte on root lo u v := by
  have hslot (k : Nat) : w.slot k = u.slot k := by rw [hw, State.store_eq_withMem]; rfl
  have hcur : w.cur = u.cur := by rw [hw, State.store_eq_withMem]; rfl
  have hmem : w.mem = (u.store q (if on then pte ||| 0x8000#64 else pte &&& ~~~0x8000#64).toNat 8).mem := by rw [hw]; rfl
  have hdrop (c : Nat) : ∀ g ∈ (w.core c).tlb, ¬ (g.root = root ∧ g.page = lo / 65536) := by
    rintro g hg ⟨hr, hp⟩
    rw [hw] at hg
    have := State.dropTlb_drops _ _ _ g hg
    simp [hr, hp] at this
  rcases hv with rfl | ⟨frames, rfl⟩
  · exact ⟨hcur, hmem, fun k => by rw [hslot]; exact ⟨rfl, rfl⟩, hdrop⟩
  · refine ⟨hcur, hmem, fun k => ?_, hdrop⟩
    rw [← hslot]
    exact w.dropCode_regs root lo 65536 frames k

section

variable {a b : Spec} {f : Form} {on : Bool} {x n : Word} {e : Eff} {u u' : State}

/-- R101: an empty range has no effect. -/
theorem sealRange_empty (ha : isHandle a = false) (hb : isHandle b = false) (hx : u.reads f a = some x) (hn : u.reads f b = some 0)
    (hal : x.toNat % 65536 = 0) (he : myEff u = .ok (e, u')) (hend : x.toNat ≤ 2 ^ 48) : sealRange a b f on u = .ok ((), u') := by
  unfold sealRange
  rw [M.bind_ok (src_reads hx), touched_eq_self ha, M.bind_ok (src_reads hn), touched_eq_self hb,
    M.bind_ok (raiseIf_of (by simp [hal]) _ _ _ _ _), M.bind_ok he]
  have h0 : (0 : Word).toNat = 0 := rfl
  dsimp only
  rw [M.bind_ok (M.get_run _), h0, M.bind_ok (raiseIf_of (splitsBig_of_empty _ _ _) _ _ _ _ _),
    M.bind_ok (raiseIf_of (by simpa using hend) _ _ _ _ _)]
  rfl

/-- R101, R102: the leaf of one page is rewritten, and what copies it is dropped. -/
theorem sealRange_page {q : Place} {pte : Word} (ha : isHandle a = false) (hb : isHandle b = false) (hx : u.reads f a = some x)
    (hn : u.reads f b = some 65536) (hal : x.toNat % 65536 = 0) (he : myEff u = .ok (e, u')) (hlo : 2 ^ 32 ≤ x.toNat)
    (hend : x.toNat + 65536 ≤ 2 ^ 48) (hroot : e.troot.getLsbD 0 = true) (hleaf : leafOf u x.toNat 3 e.troot = .ok (q, pte, false))
    (htenant : (pte.extractLsb' 16 12).toNat = e.tenant) (hwrite : pte.getLsbD 3 = true) (hdone : u.me.storesDone = true) :
    ∃ v, sealRange a b f on u = .ok ((), v) ∧ Resealed q pte on (rootKey e.troot) x.toNat u' v := by
  obtain ⟨hleaf', hdone'⟩ : leafOf u' x.toNat 3 e.troot = .ok (q, pte, false) ∧ u'.me.storesDone = true := by
    obtain ⟨l, rfl⟩ := myEff_inv he
    exact ⟨(leafOf_effs _ _ _ _ _).trans hleaf, hdone⟩
  have hseal := sealLeaf_of hroot hleaf'
  have h64 : (65536 : Word).toNat = 65536 := rfl
  unfold sealRange
  rw [M.bind_ok (src_reads hx), touched_eq_self ha, M.bind_ok (src_reads hn), touched_eq_self hb,
    M.bind_ok (raiseIf_of (by simp [hal]) _ _ _ _ _), M.bind_ok he]
  dsimp only
  rw [M.bind_ok (M.get_run _), h64, M.bind_ok (raiseIf_of (splitsBig_of_small hleaf') _ _ _ _ _),
    M.bind_ok (raiseIf_of (decide_eq_false (by omega)) _ _ _ _ _), if_neg (by decide),
    M.bind_ok (forPages_one (u := u') (M.bind_ok hseal)),
    M.bind_ok (forPages_one (u := u') ((M.bind_ok hseal).trans
      (by
      rw [if_neg (by simp [htenant]), if_neg (by rw [hwrite]; decide)]; rfl))),
    M.bind_ok (M.me_run _), M.bind_ok (waitIf_of (by rw [hdone']; rfl) _ _),
    M.bind_ok (forPages_one ((M.bind_ok hseal).trans (M.modify_run _ _))), M.bind_ok (M.modify_run _ _)]
  cases on with
  | true => exact ⟨_, rfl, resealed_of rfl (.inl rfl)⟩
  | false => exact ⟨_, rfl, resealed_of rfl (.inr ⟨_, rfl⟩)⟩

end

end Sys2Proof.Machine

namespace Sys2Proof.Claims

open Sys2Proof.Machine

/-- R101, R102: each of the two instructions is `sealRange`, and its operands are no buffer slots. -/
theorem seal_completed {a b : Spec} {f : Form} {r : Raw} {s v : State} {p : Instr × Bool}
    (hp : p = (.seal a b f, true) ∨ p = (.unseal a b f, false)) (hr : Ready p.1 r s)
    (hrun : sealRange a b f p.2 (s.entered r) = .ok ((), v)) (hc : v.cur = s.cur) :
    ∃ t, exec p.1 s = .next t ∧ Finished r s (v.take s.cur r.taken) t := by
  rcases hp with rfl | rfl
  · exact issue_completed (i := .seal a b f) hr hrun hc
  · exact issue_completed (i := .unseal a b f) hr hrun hc

theorem seal_operands {a b : Spec} {f : Form} {r : Raw} {s : State} {p : Instr × Bool}
    (hp : p = (.seal a b f, true) ∨ p = (.unseal a b f, false)) (hr : Ready p.1 r s) : isHandle a = false ∧ isHandle b = false := by
  rcases hp with rfl | rfl
  all_goals
    obtain rfl := Option.some.inj hr.raw
    exact ⟨Raw.not_handle hr.operands rfl (k := 2) List.mem_cons_self,
      Raw.not_handle hr.operands rfl (k := 3) (x := b) (by simp [Raw.roles])⟩

/-- R101, R102: an empty range, and one page. -/
theorem sealAndUnseal : SealAndUnseal := by
  intro a b f r s x n p hp hr u hx hn hal
  obtain ⟨ha, hb⟩ := seal_operands hp hr
  refine ⟨?empty, ?page⟩
  case empty =>
    rintro rfl e u' he hcur hend
    exact seal_completed hp hr (sealRange_empty ha hb hx hn hal he hend) hcur
  case page =>
    rintro rfl e q pte u' he hlo hend hroot hleaf htenant hwrite hdone
    obtain ⟨v, hrun, hv⟩ := sealRange_page (on := p.2) ha hb hx hn hal he hlo hend hroot hleaf htenant hwrite hdone
    obtain ⟨l, rfl⟩ := myEff_inv he
    obtain ⟨t, hexec, hfin⟩ := seal_completed hp hr hrun (hv.cur.trans (s.entered_cur r))
    have hmem : v.mem = (u.store q (if p.2 then pte ||| 0x8000#64 else pte &&& ~~~0x8000#64).toNat 8).mem := 
      hv.mem.trans (store_mem_effs u l q _ 8)
    refine ⟨t, v, hexec, hfin, hmem, fun k hk => ?_, hv.regs, hv.dropped⟩
    rw [hmem, State.store_read (h := hk)]

/-- Settles O16: the search of the first turn answers `TURNQ` and holds `WTURN`; `SEAL` and `UNSEAL` rewrite the leaf of their page. -/
theorem turnInstructions : Obligations.TurnInstructions := ⟨turnQuery, turnWait, sealAndUnseal⟩

end Sys2Proof.Claims
end

section
/-! PROOFS. `WAITW` and `FENCE` (O18): a word that meets its condition, and the accesses that a fence keeps waiting. -/

namespace Sys2Proof.Claims

open Sys2Proof.Machine

/-! ## Waiting on a word (R100) -/

/-- The three conditions of `WAITW`. -/
def waitConditions : List (BitVec 6 × (Word → Word → Prop)) :=
  [(0, fun w y => w ≠ y), (1, fun w y => y.toNat ≤ w.toNat), (2, fun w y => w = y)]

theorem waitHolds_of {c : BitVec 6 × (Word → Word → Prop)} (hc : c ∈ waitConditions) {w y : Word} (h : c.2 w y) :
    waitHolds c.1.toNat w y = true := by
  simp only [waitConditions, List.mem_cons, List.not_mem_nil, or_false] at hc
  rcases hc with rfl | rfl | rfl
  case inl => exact bne_iff_ne.mpr h
  case inr.inl => exact decide_eq_true h
  case inr.inr => exact beq_iff_eq.mpr h

section

variable {d a b : Spec} {f : Form} {cond : BitVec 6} {r : Raw} {s : State}

/-- The operands of `WAITW` are no buffer slots (R36). -/
theorem waitw_operands (hr : Ready (.waitw d a b cond f) r s) : isHandle a = false ∧ (f.hasLit = false → isHandle b = false) := by
  obtain rfl := Option.some.inj hr.raw
  exact ⟨Raw.not_handle hr.operands rfl (k := 2) (x := a) (by simp [Raw.roles]),
    fun hl => Raw.not_handle hr.operands rfl (k := 3) (x := b) (by simp [Raw.roles, hl])⟩

/-- A word that a later read has found is written to the destination. -/
theorem waitw_found (hr : Ready (.waitw d a b cond f) r s) {k n : Nat} (hp : (s.entered r).me.phase = 2)
    (hbuf : (s.entered r).me.buf = [k, n]) (hw : (s.entered r).canWrite f d) :
    ∃ t, exec (.waitw d a b cond f) s = .next t ∧
      Finished r s (((s.entered r).put f d (BitVec.ofNat 64 k) (n + 3 - s.cyc)).take s.cur r.taken) t := by
  refine issue_completed (i := .waitw d a b cond f) hr ?_ ((State.put_cur _ _ _ _ _).trans (s.entered_cur r))
  rw [M.bind_ok (M.me_run _), if_pos hp, M.bind_ok (M.get_run _), hbuf, s.entered_cyc]
  exact dst_put _ _ hw

/-- A word of the own local store that meets the condition at issue is written to the destination at once. -/
theorem waitw_at_once (hr : Ready (.waitw d a b cond f) r s) {u' : State} {v y : Word} {t : Target}
    (hp : (s.entered r).me.phase = 0) (hone : ∀ g ∈ (s.entered r).me.acc, ∀ x k z us v, g.fin ≠ .waitw x k z us v)
    (hv : (s.entered r).reads f a = some v) (hy : (s.entered r).readsB f b = some y) (hal : (v + f.imm.signExtend 64).toNat % 8 = 0)
    (hres : resolve .load (v + f.imm.signExtend 64) (s.entered r) = .ok (t, u')) (hcur : u'.cur = s.cur) (few : u'.me.acc.length < 4)
    (hserved : servedBy u' t.place = 0) (hk : t.place.kind = 1) (hc : Passes (loadDstCheck d) u')
    (hpois : u'.isPoisoned t.place 8 = false) (hwatch : Passes (checkWatch 1 (v + f.imm.signExtend 64) 8) u')
    (horder : Passes (orderGate t.place t.ord 8) u') (hport : u'.portFree) (hw : u'.canWrite f d)
    (hmet : waitHolds cond.toNat (BitVec.ofNat 64 (u'.readMem t.place.key 8)) y = true) :
    ∃ t', exec (.waitw d a b cond f) s = .next t' ∧
      Finished r s ((u'.portTaken.put f d (BitVec.ofNat 64 (u'.readMem t.place.key 8)) 3).take s.cur r.taken) t' := by
  obtain ⟨ha, hb⟩ := waitw_operands hr
  refine issue_completed (i := .waitw d a b cond f) hr ?_ ((State.put_cur _ _ _ _ _).trans hcur)
  rw [M.bind_ok (M.me_run _), if_neg (by rw [hp]; decide)]
  refine (M.bind_ok (waitIf_of ?first _ _)).trans ?_
  case first =>
    rw [List.any_eq_false]
    intro g hg
    split
    next x k z us v hfin => exact absurd hfin (hone g hg x k z us v)
    next => decide
  rw [M.bind_ok (src_reads hv), touched_eq_self ha, M.bind_ok (srcB_reads hy), touchedB_eq_self hb]
  dsimp only [disp]
  refine (M.bind_ok (raiseIf_of (decide_eq_false (not_not_intro hal)) _ _ _ _ _)).trans ?_
  rw [M.bind_ok hres, M.bind_ok (M.get_run _),
    M.bind_ok (raiseIf_of (by simp [hserved]) _ _ _ _ _), if_neg (by simp [hk]), M.bind_ok hc, M.bind_ok horder,
    M.bind_ok (roomGate_of few), if_pos hk, M.bind_ok (needPort_of hport), if_pos hk,
    M.bind_ok (localPoison_of (s := u'.portTaken) hpois _), M.bind_ok (checkWatch_portTaken hwatch), if_pos hk, if_pos hmet]
  exact dst_put _ _ ((canWrite_portTaken u' f d).symm ▸ hw)

end

/-- R100: a word that meets its condition at issue, and one that a later read has found. -/
theorem waitOnWord : WaitOnWord := by
  intro d a b f c hc r s hr u
  refine ⟨fun k n hp hbuf hw => waitw_found hr hp hbuf hw, ?_⟩
  intro u' v y t ea w hp hone hv hy hal hres hcur few hview hserved hk hcheck hpois hwatch horder hport hw hmet
  exact waitw_at_once hr hp hone hv hy hal hres hcur few hserved hk hcheck hpois hwatch horder hport hw (waitHolds_of hc hmet)

/-! ## Fences (R209) -/

/-- The fences that still hold something of a thread. -/
def openFences (x : Slot) (core : Nat) (new : Fence) : List Fence := (x.fences ++ [new]).filter (x.fenceOpen core)

section

variable {x : Slot} {core : Nat} {new : Fence}

theorem openFences_subset : ∀ g ∈ openFences x core new, g ∈ x.fences ∨ g = new := by
  intro g hg
  simpa using (List.mem_filter.mp hg).1

theorem openFences_idle (hacc : x.acc = []) (howed : x.owed = []) : openFences x core new = [] := by
  rw [openFences, List.filter_eq_nil_iff]
  intro g _
  simp [Slot.fenceOpen, hacc, howed]

/-- A release or full fence is open while an earlier access has a part within its scope. -/
theorem mem_openFences {g : Access} (hg : g ∈ x.acc) (hid : g.id < new.first) (hscope : g.inScope core new.scope = true)
    (hkind : new.kind ≠ 1) : new ∈ openFences x core new := by
  refine List.mem_filter.mpr ⟨by simp, ?_⟩
  unfold Slot.fenceOpen
  rw [Bool.or_eq_true, List.any_eq_true]
  exact .inl ⟨g, hg, by simp [hid, hscope, hkind]⟩

end

/-- R209: a fence completes, and what it holds is named by its kind and scope. -/
theorem fences : Fences := by
  intro sc k e f r s hr u scope hidle
  have hrun : ∃ t, exec (.fence sc k e f) s = .next t ∧
      Finished r s ((u.modSlot s.cur fun x => { x with fences := openFences u.me (slotCore s.cur) ⟨k.toNat, scope, u.me.accNext⟩ }).take
        s.cur r.taken) t := by
    have hcur : u.cur = s.cur := s.entered_cur r
    have hme : u.slot s.cur = u.me := by rw [← hcur]; rfl
    refine issue_completed (i := .fence sc k e f) hr ?_ hcur
    have hwait : e = 1 → waitIf (u.engineBusy u.cur) 3 u = .ok ((), u) := fun he => waitIf_of (hcur ▸ hidle he) _ _
    rw [M.bind_ok (M.get_run _), M.guarded_run hwait, M.modMe_run, State.modSlot_eq, State.modSlot_eq, hcur, hme]
    rfl
  obtain ⟨t, hexec, hfin⟩ := hrun
  refine ⟨t, _, hexec, hfin, openFences_subset, openFences_idle, fun g hg hid hscope hk => mem_openFences hg hid hscope fun h => hk ?_⟩
  exact BitVec.eq_of_toNat_eq h

/-- Settles O18: `WAITW` completes with a word that meets its condition, and a fence keeps the accesses that it names waiting. -/
theorem waitAndFence : Obligations.WaitAndFence := ⟨waitOnWord, fences⟩

end Sys2Proof.Claims
end

section
/-! PROOFS. Stripe blocks (O17): the checks of `BST` and `BLD` leave every thread as it is, and what each of the two begins. -/

namespace Sys2Proof.Machine

/-! ## Meanings that leave every thread as it is where they complete -/

structure LeavesThreads {α : Type} (m : M α) : Prop where
  slots : ∀ {s t : State} {a : α}, m s = .ok (a, t) → t.slots = s.slots

section

variable {α β γ : Type}

@[simp] theorem LeavesThreads.pure (a : α) : LeavesThreads (Pure.pure a : M α) := ⟨fun h => by cases h; rfl⟩

theorem LeavesThreads.bind {m : M α} {f : α → M β} (hm : LeavesThreads m) (hf : ∀ a, LeavesThreads (f a)) : LeavesThreads (m >>= f) := by
  constructor
  intro s t b h
  obtain ⟨a, u, ha, hb⟩ := M.bind_inv h
  exact ((hf a).slots hb).trans (hm.slots ha)

theorem LeavesThreads.ite {p : Prop} [Decidable p] {m n : M α} (hm : LeavesThreads m) (hn : LeavesThreads n) :
    LeavesThreads (if p then m else n) := by
  split <;> assumption

@[simp] theorem LeavesThreads.throw (h : Halt) : LeavesThreads (throw h : M α) := ⟨nofun⟩
@[simp] theorem LeavesThreads.get : LeavesThreads (get : M State) := ⟨fun h => by cases h; rfl⟩
@[simp] theorem LeavesThreads.me : LeavesThreads me := ⟨fun h => by cases h; rfl⟩

theorem LeavesThreads.modify {f : State → State} (hf : ∀ s, (f s).slots = s.slots) : LeavesThreads (modify f : M PUnit) :=
  ⟨fun h => by cases h; exact hf _⟩

@[simp] theorem LeavesThreads.modCore (f : Core → Core) : LeavesThreads (modCore f) := ⟨fun h => by cases h; rfl⟩
@[simp] theorem LeavesThreads.modClu (f : Cluster → Cluster) : LeavesThreads (modClu f) := ⟨fun h => by cases h; rfl⟩

@[simp] theorem LeavesThreads.forIn (l : List γ) (b : β) {f : γ → β → M (ForInStep β)} (hf : ∀ a b, LeavesThreads (f a b)) :
    LeavesThreads (forIn l b f) := by
  induction l generalizing b with
  | nil => exact .pure b
  | cons a l ih =>
    rw [List.forIn_cons]
    refine .bind (hf a b) fun r => ?_
    cases r with
    | done b => exact .pure b
    | yield b => exact ih b

theorem LeavesThreads.onTrap {m : M α} {h : TrapRec → M α} (hm : LeavesThreads m) (hh : ∀ t, LeavesThreads (h t)) :
    LeavesThreads (onTrap m h) := by
  constructor
  intro s t a hrun
  unfold Machine.onTrap at hrun
  split at hrun
  · exact (hh _).slots hrun
  · exact hm.slots hrun

@[simp] theorem LeavesThreads.raise (c k : Nat) (a i : Word) : LeavesThreads (raise c k a i : M α) := ⟨nofun⟩
@[simp] theorem LeavesThreads.trapRec (t : TrapRec) : LeavesThreads (trapRec t : M α) := ⟨nofun⟩
@[simp] theorem LeavesThreads.deny (k : Nat) (va : Word) : LeavesThreads (deny k va : M α) := ⟨nofun⟩
@[simp] theorem LeavesThreads.wait (n : Nat) : LeavesThreads (wait n : M α) := ⟨nofun⟩

end

/-- The routine argument: it follows the body of an operation by these rules, and the rules of the operations that it calls close what is
left. -/
theorem byThreads {p : Prop} (h : p := by
  repeat' first
    | with_reducible assumption
    | intro _
    | with_reducible apply LeavesThreads.bind
    | with_reducible apply LeavesThreads.ite
    | with_reducible apply LeavesThreads.forIn
    | with_reducible apply LeavesThreads.onTrap
    | dsimp only
    | split
    | simp) : p := h

@[simp] theorem leavesThreads_raiseIf (b : Bool) (c k : Nat) (a i : Word) : LeavesThreads (raiseIf b c k a i) :=
  ⟨fun h => by rw [(raiseIf_inv h).2]⟩

@[simp] theorem leavesThreads_waitIf (b : Bool) (n : Nat) : LeavesThreads (waitIf b n) := by
  unfold waitIf
  exact byThreads

@[simp] theorem leavesThreads_myEff : LeavesThreads myEff :=
  ⟨fun h => by obtain ⟨l, rfl⟩ := myEff_inv h; rfl⟩

@[simp] theorem leavesThreads_translate (troot : Word) (va : Nat) : LeavesThreads (translate troot va false) :=
  ⟨fun {s t a} h => by obtain ⟨x, -, -, -, rfl⟩ := translate_inv (pte := a.1) (big := a.2) h; rfl⟩

@[simp] theorem leavesThreads_localBound : LeavesThreads localBound := by
  unfold localBound
  exact byThreads

@[simp] theorem leavesThreads_checkLeaf (e : Eff) (pte : Word) (k : Acc) (va : Word) : LeavesThreads (checkLeaf e pte k va) := by
  unfold checkLeaf
  exact byThreads

@[simp] theorem leavesThreads_resolve (k : Acc) (va : Word) : LeavesThreads (resolve k va) := by
  unfold resolve resolveIn
  exact byThreads

@[simp] theorem leavesThreads_checkBank (p : Place) (va : Word) : LeavesThreads (checkBank p va) := by
  unfold checkBank
  exact byThreads

@[simp] theorem leavesThreads_checkBanks (ps : List Place) (va : Word) : LeavesThreads (checkBanks ps va) := by
  induction ps with
  | nil => exact .pure ()
  | cons p ps ih => exact .bind (leavesThreads_checkBank p va) fun _ => ih

@[simp] theorem leavesThreads_inBuffer (b : Option (Nat × Nat)) (ea : Word) (n : Nat) : LeavesThreads (inBuffer b ea n) :=
  leavesThreads_raiseIf _ _ _ _ _

@[simp] theorem leavesThreads_orderGate (p : Place) (ord n : Nat) (st : Bool) : LeavesThreads (orderGate p ord n st) := by
  unfold orderGate
  exact byThreads

@[simp] theorem leavesThreads_tileGate (p : Place) (n : Nat) : LeavesThreads (tileGate p n) := by
  unfold tileGate
  exact byThreads

@[simp] theorem leavesThreads_checkWatch (kind : Nat) (va : Word) (n : Nat) : LeavesThreads (checkWatch kind va n) := by
  unfold checkWatch
  exact byThreads

@[simp] theorem leavesThreads_stripePlace (stripe : Word) : LeavesThreads (stripePlace stripe) := by
  unfold stripePlace
  exact byThreads

/-- The checks of a block instruction leave every thread as it is (R95). -/
theorem leavesThreads_blockChecks (k : Acc) (stripe loc : Word) (buf : Option (Nat × Nat)) (m : Nat) :
    LeavesThreads (blockChecks k stripe loc buf m) := by
  unfold blockChecks
  exact byThreads

end Sys2Proof.Machine

namespace Sys2Proof.Machine

/-! ## What a block instruction begins -/

/-- The blocks of a core stand while an instruction that has begun waits (R45). -/
theorem settle_wait_blocks {s u : State} (r : Raw) (pc : Word) (refill : Bool) {why : Nat} (hw : why < 4)
    (h : (u.slot s.cur).begun = true) (c : Nat) : ((s.settle r pc refill (.wait u why)).core c).blocks = (u.core c).blocks := by
  obtain ⟨smp, ht⟩ := settle_wait (s := s) (u := u) r pc refill hw
  rw [ht, State.modSlot_eq, State.core_setSlot]
  unfold State.afterWait
  rw [if_pos h, State.takeCharge_rest]
  split
  · rfl
  · split
    · rfl
    · unfold State.issuedBy
      rw [State.modSlot_eq, State.core_setSlot, State.modCore_eq, State.core_setCore]
      split
      · subst_vars; rfl
      · rfl

/-- A thread that stages a block: one more access, and the local lines that wait to be moved into the block buffer (R96). -/
def State.staging (s : State) (a : Access) (id : Nat) (lines : List (Nat × Nat × Nat)) : State :=
  ((s.holding a).modCore (slotCore s.cur) fun c => { c with blocks := c.blocks ++ [⟨s.cur, false, id, lines⟩] }).modSlot s.cur
    fun x => { x with phase := 1 }

theorem State.staging_slot (s : State) (a : Access) (id : Nat) (lines : List (Nat × Nat × Nat)) :
    ∃ g : Access, (s.staging a id lines).slot s.cur = { s.me with acc := s.me.acc ++ [g], accNext := s.me.accNext + 1, phase := 1 } ∧
      g.fin = a.fin := by
  obtain ⟨g, hslot, hfin⟩ := s.slot_holding a
  refine ⟨g, ?_, hfin⟩
  unfold State.staging
  rw [State.modSlot_eq, State.slot_setSlot_self, State.modCore_eq, State.slot_setCore, hslot]
  rfl

theorem State.staging_blocks (s : State) (a : Access) (id : Nat) (lines : List (Nat × Nat × Nat)) :
    ((s.staging a id lines).core (slotCore s.cur)).blocks = (s.core (slotCore s.cur)).blocks ++ [⟨s.cur, false, id, lines⟩] := by
  unfold State.staging
  rw [State.modSlot_eq, State.core_setSlot, State.modCore_eq, State.core_setCore_self]
  rfl

/-- A thread that reads a block (R98): its pass, row, mask and local offset, and the access of its first pass. -/
def State.passing (s : State) (row m l : Nat) : State :=
  ((s.modSlot s.cur fun x => { x with phase := 1, buf := [1, row, m, l] }).modClu (slotClu s.cur)
    fun c => { c with passes := c.passes ++ [{ slot := s.cur, row := row }] }).startPass s.cur (s.cyc + 1)

theorem State.passing_slot (s : State) (row m l : Nat) :
    let x := (s.passing row m l).slot s.cur
    x.pc = s.me.pc ∧ x.phase = 1 ∧ x.buf = [1, row, m, l] := by
  unfold State.passing State.startPass
  simp only [State.modSlot_eq, State.modClu_eq, State.slot_setClu, State.slot_setSlot_self]
  exact ⟨rfl, trivial, trivial⟩

theorem Slot.begun_of_phase {x : Slot} (h : x.phase = 1) : x.begun = true := by simp [Slot.begun, h]

/-- The banks by turn are the banks of the mask (R96). -/
theorem State.mem_banksByTurn (s : State) (core : Nat) (row : Place) (m i : Nat) : i ∈ s.banksByTurn core row m ↔ i ∈ maskBanks m := by
  have hinsert (turn : Nat → Nat) (b : Nat) (l : List Nat) : i ∈ State.banksByTurn.insert turn b l ↔ i = b ∨ i ∈ l := by
    induction l with
    | nil => simp [State.banksByTurn.insert]
    | cons c l ih =>
      unfold State.banksByTurn.insert
      split
      · simp
      · simp only [List.mem_cons, ih]
        tauto
  unfold State.banksByTurn
  dsimp only
  generalize maskBanks m = bs
  induction bs with
  | nil => rfl
  | cons b bs ih => exact (hinsert _ b _).trans ((or_congr_right ih).trans List.mem_cons.symm)

section

variable {a b : Spec} {f : Form} {r : Raw} {s u' : State} {x y : Word} {buf : Option (Nat × Nat)} {p : Place} {ord l : Nat}

/-- R95, R96: a `BST` that has passed its checks stages its lines and waits. -/
theorem bst_begins (h : Ready (.bst a b f) r s) (hp : (s.entered r).me.phase = 0) (hx : (s.entered r).reads f a = some x)
    (hy : (s.entered r).baseAt f b false = some (y, buf))
    (hc : blockChecks .store x y buf f.banks (s.entered r) = .ok ((p, ord, l), u'))
    (few : u'.me.acc.length < 4) (hk : p.kind = 2) :
    ∃ t a' lines, exec (.bst a b f) s = .next t ∧ a'.fin = .stage p.key f.banks ∧
      (∀ k, k ∈ lines ↔ ∃ i ∈ maskBanks f.banks, k = (i, l + 128 * i, 0)) ∧
      ∃ refill, t = s.settle r s.me.pc refill (.wait (u'.staging a' (s.entered r).me.accNext lines) 3) := by
  have ha : isHandle a = false := by
    obtain rfl := Option.some.inj h.raw
    exact Raw.not_handle h.operands rfl (k := 2) (x := a) List.mem_cons_self
  let a' : Access :=
    { id := 0, issued := u'.cyc + 1, units := (maskBanks f.banks).map fun i => { place := p.add (128 * i) }
      fin := .stage p.key f.banks, va := x, ord := ord }
  let lines := (u'.banksByTurn (slotCore u'.cur) p f.banks).map fun i => (i, l + 128 * i, 0)
  have hdram : ∀ v ∈ a'.units, v.place.kind ≠ 4 := by
    intro v hv
    obtain ⟨i, -, rfl⟩ := List.mem_map.mp hv
    show p.kind ≠ 4
    rw [hk]
    decide
  have hlines (k : Nat × Nat × Nat) : k ∈ lines ↔ ∃ i ∈ maskBanks f.banks, k = (i, l + 128 * i, 0) := by
    simp only [lines, List.mem_map, State.mem_banksByTurn, eq_comm]
  have key : ∃ refill, exec (.bst a b f) s
      = .next (s.settle r s.me.pc refill (.wait (u'.staging a' (s.entered r).me.accNext lines) 3)) := by
    refine issue_waits (i := .bst a b f) h ?_
    rw [M.bind_ok (M.me_run _), if_neg (by rw [hp]; decide), M.bind_ok (waitIf_of (by rw [hp]; rfl) _ _), M.bind_ok (src_reads hx),
      touched_eq_self ha, M.bind_ok (baseOf_of hy)]
    dsimp only
    rw [M.bind_ok hc]
    dsimp only
    rw [M.bind_ok (M.get_run _), M.bind_ok (addAccess_run few hdram), M.bind_ok (M.modCore_run _ _), M.bind_ok (M.modMe_run _ _)]
    rfl
  obtain ⟨refill, hexec⟩ := key
  exact ⟨_, a', lines, hexec, rfl, hlines, refill, rfl⟩

/-- R95, R98: a `BLD` that has passed its checks starts its first pass and waits. -/
theorem bld_begins (h : Ready (.bld a b f) r s) (hp : (s.entered r).me.phase = 0) (hx : (s.entered r).reads f b = some x)
    (hy : (s.entered r).baseAt f a true = some (y, buf))
    (hc : blockChecks .load x y buf f.banks (s.entered r) = .ok ((p, ord, l), u')) (few : (s.entered r).me.acc.length < 4) :
    ∃ refill, exec (.bld a b f) s = .next (s.settle r s.me.pc refill (.wait (u'.passing p.key f.banks l) 3)) := by
  have hb : isHandle b = false := by
    obtain rfl := Option.some.inj h.raw
    exact Raw.not_handle h.operands rfl (k := 3) (x := b) (by simp [Raw.roles])
  refine issue_waits (i := .bld a b f) h ?_
  rw [M.bind_ok (M.me_run _), if_neg (by rw [hp]; decide), M.bind_ok (waitIf_of (by rw [hp]; rfl) _ _), M.bind_ok (src_reads hx),
    touched_eq_self hb, M.bind_ok (baseOf_of hy)]
  dsimp only
  rw [M.bind_ok hc]
  dsimp only
  rw [M.bind_ok (M.get_run _), M.bind_ok (waitIf_of (decide_eq_false (Nat.not_le.mpr few)) _ _), M.bind_ok (M.modMe_run _ _)]
  rfl

end

end Sys2Proof.Machine

namespace Sys2Proof.Claims

open Sys2Proof.Machine

/-- The program counter of a thread whose block instruction has passed its checks is where it was. -/
theorem blockChecks_pc {k : Acc} {x y : Word} {buf : Option (Nat × Nat)} {m : Nat} {q : Place × Nat × Nat} {r : Raw} {s u' : State}
    (hc : blockChecks k x y buf m (s.entered r) = .ok (q, u')) (hcur : u'.cur = s.cur) : u'.me.pc = s.me.pc := by
  have hme : u'.me = (s.entered r).me := by
    show SMap.get {} u'.slots u'.cur = SMap.get {} (s.entered r).slots (s.entered r).cur
    rw [(leavesThreads_blockChecks _ _ _ _ _).slots hc, hcur, State.entered_cur]
  rw [hme, entered_pc]

/-- Settles O17: a block instruction that has passed its checks begins and waits, and one that is done completes. -/
theorem stripeBlocks : Obligations.StripeBlocks := by
  intro a b f r s u m
  refine ⟨?done, ?stage, ?read⟩
  case done =>
    intro p hp hr hphase
    simp only [List.mem_cons, List.not_mem_nil, or_false] at hp
    rcases hp with rfl | rfl
    · refine issue_completed (i := .bst a b f) hr ?_ (s.entered_cur r)
      rw [M.bind_ok (M.me_run _), if_pos hphase]
      rfl
    · refine issue_completed (i := .bld a b f) hr ?_ (s.entered_cur r)
      rw [M.bind_ok (M.me_run _), if_pos hphase]
      rfl
  case stage =>
    intro x y buf p ord l u' hr hphase hx hy hc hcur few hk
    obtain ⟨t, a', lines, hexec, hfin, hlines, refill, rfl⟩ := bst_begins hr hphase hx hy hc few hk
    obtain ⟨g, hslot, hg⟩ := u'.staging_slot a' u.me.accNext lines
    rw [hcur] at hslot
    have hbegun : ((u'.staging a' u.me.accNext lines).slot s.cur).begun = true := Slot.begun_of_phase (by rw [hslot])
    obtain ⟨hmem, -, ⟨w, k, e, ht⟩, -⟩ := settle_wait_begun r s.me.pc refill (why := 3) (by decide) hbegun
    have hblocks := settle_wait_blocks r s.me.pc refill (why := 3) (by decide) hbegun (slotCore s.cur)
    refine ⟨_, g, hexec, ?_, ?_, ?_, hg.trans hfin, ⟨lines, ?_, hlines⟩, fun j => by rw [hmem]; rfl⟩
    · rw [ht, hslot]
      exact blockChecks_pc hc hcur
    · rw [ht, hslot]
    · rw [ht, hslot]
    · have hst := u'.staging_blocks a' u.me.accNext lines
      rw [hcur] at hst
      rw [hblocks, hst]
  case read =>
    intro x y buf p ord l u' hr hphase hx hy hc hcur few
    have hrun : ∃ refill, exec (.bld a b f) s = .next (s.settle r s.me.pc refill (.wait (u'.passing p.key m l) 3)) :=
      bld_begins hr hphase hx hy hc few
    obtain ⟨refill, hexec⟩ := hrun
    obtain ⟨hpc, hph, hbuf⟩ := u'.passing_slot p.key m l
    rw [hcur] at hpc hph hbuf
    obtain ⟨hmem, -, ⟨w, k, e, ht⟩, -⟩ := settle_wait_begun r s.me.pc refill (why := 3) (by decide) (Slot.begun_of_phase hph)
    refine ⟨_, hexec, ?_, ?_, ?_, fun j => by rw [hmem]; rfl⟩
    · rw [ht]
      exact hpc.trans (blockChecks_pc hc hcur)
    · rw [ht]
      exact hph
    · rw [ht]
      exact hbuf

end Sys2Proof.Claims
end

section
/-! PROOFS. Wheels, retirements and TLBs under privilege (O32): the shadow table written, the swap armed, the retirement started, and the
entries that a `TLBINV` drops. -/

namespace Sys2Proof.Machine

/-! ## What an instruction that has completed leaves of the units -/

section

variable {r : Raw} {s v t : State}

theorem Finished.dies (h : Finished r s v t) (n : Nat) : t.die n = v.die n := by
  unfold State.die
  rw [congrArg State.dies h.rest]

theorem Finished.clu_keeps {β : Type} (field : Cluster → β) (hpaid : ∀ x n, field (Cluster.paid x n) = field x) (h : Finished r s v t)
    (c : Nat) : field (t.clu c) = field (v.clu c) := by
  rw [h.clus]
  split
  · exact hpaid _ _
  · rfl

theorem Finished.tlb (h : Finished r s v t) (c : Nat) : (t.core c).tlb = (v.core c).tlb := by
  rw [h.cores]
  split <;> rfl

theorem Finished.retireOf (h : Finished r s v t) (common : Bool) (unit group : Nat) :
    t.retireOf common unit group = v.retireOf common unit group := by
  unfold State.retireOf
  rw [h.dies, h.clu_keeps Cluster.retire fun _ _ => rfl]

end

theorem State.take_clu (s : State) (n : Nat) (xs : List Spec) (c : Nat) : (s.take n xs).clu c = s.clu c := by rw [State.take_eq]; rfl
theorem State.take_die (s : State) (n : Nat) (xs : List Spec) (c : Nat) : (s.take n xs).die c = s.die c := by rw [State.take_eq]; rfl
theorem State.take_core (s : State) (n : Nat) (xs : List Spec) (c : Nat) : (s.take n xs).core c = s.core c := by rw [State.take_eq]; rfl

/-! ## The shadow table (R84) -/

/-- `WHLSET` rewrites the eight IDs that it names, and no other. -/
theorem setEntry_get (t : List (List Nat)) (e k : Nat) (v : Word) {i j : Nat} (hi : i < t.length) (hj : j < (t[i]?.getD []).length) :
    ((setEntry t e k v)[i]?.getD [])[j]?
      = if i = e ∧ j / 8 = k then some (v.extractLsb' (5 * (j % 8)) 5).toNat else (t[i]?.getD [])[j]? := by
  unfold setEntry
  dsimp only
  by_cases he : i = e
  · subst he
    rw [List.getElem?_set_self hi, Option.getD_some, List.getElem?_map, List.getElem?_range hj, Option.map_some]
    by_cases hk : j / 8 = k
    · rw [if_pos hk, if_pos ⟨rfl, hk⟩]
    · rw [if_neg hk, if_neg fun h => hk h.2, List.getElem?_eq_getElem hj]
      rfl
  · rw [List.getElem?_set_ne (Ne.symm he), if_neg fun h => he h.1]

/-- The wheel that an operand names, at a state. -/
def State.wheelOf (s : State) (outer : Bool) : Wheel := if outer then (s.die (slotDie s.cur)).wheel else (s.clu (slotClu s.cur)).wheel

def State.withWheel (s : State) (outer : Bool) (w : Wheel) : State :=
  if outer then s.modDie (slotDie s.cur) fun y => { y with wheel := w } else s.modClu (slotClu s.cur) fun y => { y with wheel := w }

theorem myWheel_run (outer : Bool) (s : State) : myWheel outer s = .ok (s.wheelOf outer, s) := by
  cases outer <;> rfl

theorem modWheel_run (outer : Bool) (g : Wheel → Wheel) (s : State) :
    modWheel outer g s = .ok ((), s.withWheel outer (g (s.wheelOf outer))) := by
  cases outer <;> rfl

@[simp] theorem State.withWheel_cur (s : State) (outer : Bool) (w : Wheel) : (s.withWheel outer w).cur = s.cur := by
  cases outer <;> rfl

@[simp] theorem State.withWheel_slot (s : State) (outer : Bool) (w : Wheel) (n : Nat) : (s.withWheel outer w).slot n = s.slot n := by
  cases outer <;> rfl

@[simp] theorem State.withWheel_mem (s : State) (outer : Bool) (w : Wheel) : (s.withWheel outer w).mem = s.mem := by
  cases outer <;> rfl

theorem State.wheelOf_withWheel (s : State) (outer : Bool) (w : Wheel) : (s.withWheel outer w).wheelOf outer = w := by
  cases outer
  · simp [State.wheelOf, State.withWheel]
  · simp [State.wheelOf, State.withWheel]

/-- The wheels stand while an instruction waits that has begun (R45). -/
theorem settle_wait_wheelOf {s u : State} (r : Raw) (pc : Word) (refill : Bool) {why : Nat} (hw : why < 4)
    (h : (u.slot s.cur).begun = true) (outer : Bool) :
    let t := s.settle r pc refill (.wait u why)
    (if outer then (t.die (slotDie u.cur)).wheel else (t.clu (slotClu u.cur)).wheel) = u.wheelOf outer := by
  obtain ⟨smp, ht⟩ := settle_wait (s := s) (u := u) r pc refill hw
  have charged (c : Nat) : ((u.takeCharge s.cur r.charge).clu c).wheel = (u.clu c).wheel := by
    unfold State.takeCharge
    dsimp only
    split
    · rfl
    · rw [State.modClu_eq, State.clu_setClu]
      split
      · subst_vars; rfl
      · rfl
  have hdies (c : Nat) : (u.afterWait s r pc refill).die c = u.die c := by
    unfold State.afterWait
    rw [if_pos h, State.takeCharge_rest]
    split
    · rfl
    · split <;> rfl
  have hclus (c : Nat) : ((u.afterWait s r pc refill).clu c).wheel = (u.clu c).wheel := by
    unfold State.afterWait
    rw [if_pos h]
    split
    · rfl
    · split
      · exact charged c
      · exact charged c
  dsimp only
  rw [ht, State.modSlot_eq, State.die_setSlot, State.clu_setSlot, hdies, hclus]
  rfl

/-! ## A retirement that starts (R87, R88) -/

theorem State.retireOf_startRetire (s : State) (common : Bool) (unit group bank : Nat) :
    (s.startRetire common unit group bank).retireOf common unit group = (s.retireOf common unit group).start group bank := by
  cases common
  · simp [State.startRetire, State.modRetire, State.retireOf]
  · simp [State.startRetire, State.modRetire, State.retireOf, SMap.get_set_self]

theorem State.startRetire_cur (s : State) (common : Bool) (unit group bank : Nat) : (s.startRetire common unit group bank).cur = s.cur := by
  cases common <;> rfl

/-! ## Entries dropped from the TLBs (R293) -/

/-- Only threads, clusters and the network differ. -/
structure SameCores (s t : State) : Prop where
  cur : t.cur = s.cur
  mem : t.mem = s.mem
  cores : t.cores = s.cores

theorem SameCores.rfl {s : State} : SameCores s s := ⟨.refl _, .refl _, .refl _⟩

theorem SameCores.trans {s t u : State} (h : SameCores s t) (h' : SameCores t u) : SameCores s u :=
  ⟨h'.cur.trans h.cur, h'.mem.trans h.mem, h'.cores.trans h.cores⟩

theorem SameCores.foldl {α : Type} {g : State → α → State} (h : ∀ s a, SameCores s (g s a)) (l : List α) (s : State) :
    SameCores s (l.foldl g s) := by
  induction l generalizing s with
  | nil => exact .rfl
  | cons a l ih => exact (h s a).trans (ih _)

theorem State.giveUpOpens_same (s : State) (n : Nat) : SameCores s (s.giveUpOpens n) := by
  refine SameCores.foldl (fun s q => ?_) _ s
  dsimp only
  split
  · exact ⟨rfl, rfl, rfl⟩
  · exact .rfl

theorem State.modClu_same (s : State) (n : Nat) (f : Cluster → Cluster) : SameCores s (s.modClu n f) := ⟨rfl, rfl, rfl⟩
theorem State.modSlot_same (s : State) (n : Nat) (f : Slot → Slot) : SameCores s (s.modSlot n f) := ⟨rfl, rfl, rfl⟩

theorem State.leaveWait_same (s : State) (n : Nat) : SameCores s (s.leaveWait n) := by
  unfold State.leaveWait
  dsimp only
  exact ((State.modClu_same _ _ _).trans (State.giveUpOpens_same _ n)).trans (State.modSlot_same _ _ _)

/-- An entry of a map that is changed by its key. -/
theorem SMap.get_map_key {α : Type} {d : α} {g : Nat → α → α} (m : SMap α) (k : Nat) (hd : g k d = d) :
    SMap.get d (m.map fun p => (p.1, g p.1 p.2)) k = g k (SMap.get d m k) := by
  induction m with
  | nil => exact hd.symm
  | cons p m ih =>
    simp only [List.map_cons, SMap.get]
    split
    · next h => rw [h]
    · exact ih

/-- A core without the entries that a `TLBINV` names. -/
def Core.withoutHits (kind root va : Nat) (inScope : Bool) (x : Core) : Core :=
  if inScope then { x with tlb := x.tlb.filter fun e => !tlbHit kind root va e } else x

theorem State.tlbDrop_same (s : State) (core scope kind root va : Nat) :
    (s.tlbDrop core scope kind root va).cur = s.cur ∧ (s.tlbDrop core scope kind root va).mem = s.mem ∧
      ∀ c, (s.tlbDrop core scope kind root va).core c = (s.core c).withoutHits kind root va (coreInScope core scope c) := by
  unfold State.tlbDrop
  dsimp only
  obtain ⟨hcur, hmem, hcores⟩ := SameCores.foldl (g := State.leaveWait) State.leaveWait_same _ _
  refine ⟨hcur, hmem, fun c => ?_⟩
  unfold State.core
  rw [hcores, ← SMap.get_map_key (g := fun k => Core.withoutHits kind root va (coreInScope core scope k)) s.cores c]
  · congr 1
    refine List.map_congr_left fun p _ => ?_
    unfold Core.withoutHits
    split <;> rfl
  · unfold Core.withoutHits
    split <;> rfl

end Sys2Proof.Machine

namespace Sys2Proof.Machine

theorem Wheel.write_active (w : Wheel) (x v : Word) :
    (w.write x v).table = w.table ∧ (w.write x v).len = w.len ∧ (w.write x v).dwell = w.dwell ∧ (w.write x v).base = w.base ∧
      (w.write x v).armed = w.armed := by
  unfold Wheel.write
  split <;> exact ⟨rfl, rfl, rfl, rfl, rfl⟩

theorem Wheel.write_length {x : Word} (h : x.getLsbD 9 = true) (w : Wheel) (v : Word) :
    w.write x v = { w with slen := (v.extractLsb' 0 7).toNat, sdwell := (v.extractLsb' 16 12).toNat + 1 } := if_pos h

theorem Wheel.write_entry {x : Word} (h : x.getLsbD 9 = false) (w : Wheel) (v : Word) :
    w.write x v = { w with shadow := setEntry w.shadow (x.extractLsb' 0 6).toNat (x.extractLsb' 6 2).toNat v } :=
  if_neg (by rw [h]; exact Bool.false_ne_true)

section

variable {a b : Spec} {f : Form} {r : Raw} {s : State} {x v : Word}

/-- R84: a legal `WHLSET` writes the shadow table of a wheel on which no swap is pending. -/
theorem whlset_completed (hr : Ready (.whlset a b f) r s) (hx : (s.entered r).reads f a = some x) (hv : (s.entered r).reads f b = some v)
    (hok : whlsetOk x v = true) (harmed : ((s.entered r).wheelOf (x.getLsbD 8)).armed = false) :
    ∃ t, exec (.whlset a b f) s = .next t ∧ Finished r s
      (((s.entered r).withWheel (x.getLsbD 8) (((s.entered r).wheelOf (x.getLsbD 8)).write x v)).take s.cur r.taken) t := by
  obtain ⟨ha, hb⟩ : isHandle a = false ∧ isHandle b = false := by
    obtain rfl := Option.some.inj hr.raw
    exact ⟨Raw.not_handle hr.operands rfl (k := 2) List.mem_cons_self,
      Raw.not_handle hr.operands rfl (k := 3) (x := b) (by simp [Raw.roles])⟩
  refine issue_completed (i := .whlset a b f) hr ?_ (by rw [State.withWheel_cur, State.entered_cur])
  rw [M.bind_ok (src_reads hx), touched_eq_self ha, M.bind_ok (src_reads hv), touched_eq_self hb,
    M.bind_ok (raiseIf_of (by rw [hok]; rfl) _ _ _ _ _)]
  rw [M.bind_ok (myWheel_run _ _), M.bind_ok (waitIf_of harmed _ _)]
  exact modWheel_run _ _ _

theorem whlsw_source (hr : Ready (.whlsw a f) r s) : isHandle a = false := by
  obtain rfl := Option.some.inj hr.raw
  exact Raw.not_handle hr.operands rfl (k := 2) List.mem_cons_self

/-- The state in which a `WHLSW` waits for its swap (R85). -/
def State.swapping (s : State) (outer : Bool) : State :=
  (s.withWheel outer { s.wheelOf outer with armed := true }).modSlot s.cur fun x => { x with phase := 1, buf := [s.cyc] }

/-- R85: a legal `WHLSW` arms the swap and waits. -/
theorem whlsw_arms (hr : Ready (.whlsw a f) r s) (hx : (s.entered r).reads f a = some x) (hp : (s.entered r).me.phase = 0)
    (hlt : x.toNat < 2) (harmed : ((s.entered r).wheelOf (x.getLsbD 0)).armed = false)
    (hok : ((s.entered r).wheelOf (x.getLsbD 0)).shadowOk (x.getLsbD 0) = true) :
    ∃ refill, exec (.whlsw a f) s = .next (s.settle r s.me.pc refill (.wait ((s.entered r).swapping (x.getLsbD 0)) 3)) := by
  have hhigh : x.extractLsb' 1 63 = 0 := by
    refine BitVec.eq_of_toNat_eq ?_
    rw [BitVec.extractLsb'_toNat, Nat.shiftRight_eq_div_pow]
    change x.toNat / 2 ^ 1 % 2 ^ 63 = 0
    omega
  refine issue_waits (i := .whlsw a f) hr ?_
  rw [M.bind_ok (M.me_run _), M.bind_ok (src_reads hx), touched_eq_self (whlsw_source hr)]
  dsimp only
  rw [M.bind_ok (myWheel_run _ _), if_neg (by rw [hp]; decide), M.bind_ok (raiseIf_of (by simp [hhigh]) _ _ _ _ _),
    M.bind_ok (waitIf_of harmed _ _), M.bind_ok (raiseIf_of (by rw [hok]; rfl) _ _ _ _ _), M.bind_ok (M.get_run _),
    M.bind_ok (modWheel_run _ _ _), M.bind_ok (M.modMe_run _ _), State.withWheel_cur]
  rfl

/-- R85: it completes once the swap has taken effect. -/
theorem whlsw_completed (hr : Ready (.whlsw a f) r s) (hx : (s.entered r).reads f a = some x) (hp : (s.entered r).me.phase = 1)
    (hswap : (s.entered r).me.buf.headD 0 < ((s.entered r).wheelOf (x.getLsbD 0)).base) :
    ∃ t, exec (.whlsw a f) s = .next t ∧ Finished r s ((s.entered r).take s.cur r.taken) t := by
  refine issue_completed (i := .whlsw a f) hr ?_ (s.entered_cur r)
  rw [M.bind_ok (M.me_run _), M.bind_ok (src_reads hx), touched_eq_self (whlsw_source hr)]
  dsimp only
  rw [M.bind_ok (myWheel_run _ _), if_pos hp]
  exact waitIf_of (decide_eq_false (by omega)) _ _

/-- R87: a legal `BANKRET` starts a retirement. -/
theorem bankret_completed (hr : Ready (.bankret a f) r s) (hx : (s.entered r).reads f a = some x) :
    let common := x.getLsbD 15
    let group := (x.extractLsb' 4 5).toNat
    let unit := if common then slotDie s.cur else slotClu s.cur
    x.extractLsb' 16 48 = 0 → x.extractLsb' 9 6 = 0 → (common = false → group = 0) →
      ((s.entered r).retireOf common unit group).free = true →
        ∃ t, exec (.bankret a f) s = .next t ∧
          Finished r s (((s.entered r).startRetire common unit group (x.extractLsb' 0 4).toNat).take s.cur r.taken) t := by
  intro common group unit h16 h9 hgroup hfree
  have ha : isHandle a = false := by
    obtain rfl := Option.some.inj hr.raw
    exact Raw.not_handle hr.operands rfl (k := 2) List.mem_cons_self
  have hok : (x.extractLsb' 16 48 ≠ 0 || x.extractLsb' 9 6 ≠ 0 || (!common && group ≠ 0)
      || !((s.entered r).retireOf common unit group).free) = false := by
    have hzero : (!common && group ≠ 0) = false := by
      cases hc : common
      · simp [hgroup hc]
      · rfl
    rw [hfree, hzero, h16, h9]
    rfl
  refine issue_completed (i := .bankret a f) hr ?_ ((State.startRetire_cur _ _ _ _ _).trans (s.entered_cur r))
  rw [M.bind_ok (src_reads hx), touched_eq_self ha]
  dsimp only
  rw [M.bind_ok (M.get_run _), s.entered_cur r, M.bind_ok (raiseIf_of hok _ _ _ _ _)]
  rfl

theorem M.ite_bind_ok {α β : Type} {c : Prop} [Decidable c] {m m' : M α} {k : α → M β} {y : α} {w : State}
    (h : (if c then m else m') s = .ok (y, w)) : (if c then m >>= k else m' >>= k) s = k y w := by
  by_cases hc : c
  · rw [if_pos hc] at h ⊢
    exact M.bind_ok h
  · rw [if_neg hc] at h ⊢
    exact M.bind_ok h

/-- R293: a legal `TLBINV` with no user left drops its entries and completes. -/
theorem tlbinv_completed {e : Eff} {u' : State} (hr : Ready (.tlbinv a b f) r s) (hx : (s.entered r).reads f a = some x)
    (hv : (s.entered r).reads f b = some v) (hp : (s.entered r).me.phase = 0) (hdone : (s.entered r).me.storesDone = true)
    (he : myEff (s.entered r) = .ok (e, u')) (hcur : u'.cur = s.cur) :
    let kind := (v.extractLsb' 0 2).toNat
    let scope := (v.extractLsb' 2 3).toNat
    v.toNat < 32 → kind < 3 → 1 ≤ scope → scope ≤ 4 → (kind = 0 → 2 ^ 32 ≤ x.toNat ∧ x.toNat < 2 ^ 48) → (kind = 2 → x = 0) →
      let root := if kind = 0 then rootKey e.troot else rootKey x
      let w := if kind = 0 then u' else s.entered r
      w.tlbUsers (slotCore s.cur) scope kind root x.toNat = [] →
        ∃ t, exec (.tlbinv a b f) s = .next t ∧
          Finished r s ((w.tlbDrop (slotCore s.cur) scope kind root x.toNat).take s.cur r.taken) t := by
  intro kind scope hv32 hkind hscope1 hscope4 hpage hall root w husers
  obtain ⟨ha, hb⟩ : isHandle a = false ∧ isHandle b = false := by
    obtain rfl := Option.some.inj hr.raw
    exact ⟨Raw.not_handle hr.operands rfl (k := 2) List.mem_cons_self,
      Raw.not_handle hr.operands rfl (k := 3) (x := b) (by simp [Raw.roles])⟩
  have hhigh : v.extractLsb' 5 59 = 0 := by
    refine BitVec.eq_of_toNat_eq ?_
    rw [BitVec.extractLsb'_toNat, Nat.shiftRight_eq_div_pow]
    change v.toNat / 2 ^ 5 % 2 ^ 59 = 0
    omega
  have hok : (v.extractLsb' 5 59 ≠ 0 || kind = 3 || scope = 0 || 4 < scope
      || (kind = 0 && !(decide (2 ^ 32 ≤ x.toNat ∧ x.toNat < 2 ^ 48))) || (kind = 2 && x ≠ 0)) = false := by
    have hkpage : (kind = 0 && !(decide (2 ^ 32 ≤ x.toNat ∧ x.toNat < 2 ^ 48))) = false := by
      by_cases hk : kind = 0
      · rw [decide_eq_true (hpage hk)]
        exact Bool.and_false _
      · rw [decide_eq_false hk]
        rfl
    have hkall : (kind = 2 && x ≠ 0) = false := by
      by_cases hk : kind = 2
      · rw [hall hk]
        exact Bool.and_false _
      · rw [decide_eq_false hk]
        rfl
    rw [hkpage, hkall, hhigh, decide_eq_false (show ¬ kind = 3 by omega), decide_eq_false (show ¬ scope = 0 by omega),
      decide_eq_false (show ¬ 4 < scope by omega)]
    rfl
  have hwcur : w.cur = s.cur := by
    show (if kind = 0 then u' else s.entered r).cur = s.cur
    split
    · exact hcur
    · exact s.entered_cur r
  have hroot : (if kind = 0 then (do return rootKey (← myEff).troot) else pure (rootKey x) : M Nat) (s.entered r) = .ok (root, w) := by
    by_cases hk : kind = 0
    · simp only [root, w, if_pos hk]
      rw [M.bind_ok he]
      rfl
    · simp only [root, w, if_neg hk]
      rfl
  refine issue_completed (i := .tlbinv a b f) hr ?_ ((State.tlbDrop_same _ _ _ _ _ _).1.trans hwcur)
  rw [M.bind_ok (src_reads hx), touched_eq_self ha, M.bind_ok (src_reads hv), touched_eq_self hb]
  dsimp only
  rw [M.bind_ok (raiseIf_of hok _ _ _ _ _), M.bind_ok (M.me_run _)]
  refine (M.ite_bind_ok hroot).trans ?_
  rw [M.bind_ok (M.get_run _), if_neg (by rw [hp]; decide), M.bind_ok (waitIf_of (by rw [hdone]; rfl) _ _), hwcur,
    M.bind_ok (M.set_run _ _)]
  rw [husers]
  rfl

end

end Sys2Proof.Machine

namespace Sys2Proof.Claims

open Sys2Proof.Machine

/-- Settles O32: each of the four instructions that passes its checks does to its unit what the words say, and nothing else. -/
theorem privilegedInstructions : Obligations.PrivilegedInstructions := by
  intro a b f r s x v u outer wheel withWheel hx
  have hcur : u.cur = s.cur := s.entered_cur r
  have hwheel (o : Bool) : wheel o = u.wheelOf o := by simp only [wheel, State.wheelOf, hcur]
  have hwith (o : Bool) (w : Wheel) : withWheel o w = u.withWheel o w := by simp only [withWheel, State.withWheel, hcur]
  refine ⟨?whlset, fun hr => ⟨?arms, ?swapped⟩, ?bankret, ?tlbinv⟩
  case whlset =>
    intro hr hv hok harmed
    rw [hwheel] at harmed ⊢
    obtain ⟨t, hexec, hfin⟩ := whlset_completed hr hx hv hok harmed
    obtain ⟨htable, hlen, hdwell, hbase, harm⟩ := Wheel.write_active (u.wheelOf (outer x 8)) x v
    refine ⟨t, _, hexec, by rw [hwith]; exact hfin, htable, hlen, hdwell, hbase, harm.trans harmed, fun h9 => ?_, fun h9 => ?_⟩
    · rw [Wheel.write_length h9]
      exact ⟨rfl, rfl, rfl⟩
    · rw [Wheel.write_entry h9]
      exact ⟨rfl, rfl, fun e j he hj => setEntry_get _ _ _ _ he hj⟩
  case arms =>
    intro hp hlt harmed hok
    rw [hwheel] at harmed hok ⊢
    obtain ⟨refill, hexec⟩ := whlsw_arms hr hx hp hlt harmed hok
    have hslot : (u.swapping (outer x 0)).slot s.cur = { u.me with phase := 1, buf := [u.cyc] } := by
      unfold State.swapping
      rw [hcur, State.modSlot_eq, State.slot_setSlot_self, State.withWheel_slot, ← hcur]
      rfl
    have hbegun : ((u.swapping (outer x 0)).slot s.cur).begun = true := Slot.begun_of_phase (by rw [hslot])
    obtain ⟨hmem, -, ⟨w, k, e, ht⟩, -⟩ := settle_wait_begun r s.me.pc refill (why := 3) (by decide) hbegun
    have hw := settle_wait_wheelOf r s.me.pc refill (why := 3) (by decide) hbegun (outer x 0)
    have hc : (u.swapping (outer x 0)).cur = s.cur := (State.withWheel_cur _ _ _).trans hcur
    rw [hc] at hw
    refine ⟨_, hexec, ?_, ?_, hw.trans ?_, fun j => ?_⟩
    · rw [ht, hslot]
      exact entered_pc s r
    · rw [ht, hslot]
    · exact State.wheelOf_withWheel _ _ _
    · rw [hmem]
      exact congrArg (Memory.read · j) ((State.withWheel_mem _ _ _).trans (s.entered_mem r))
  case swapped =>
    intro hp hswap
    rw [hwheel] at hswap
    exact whlsw_completed hr hx hp hswap
  case bankret =>
    intro hr common group unit h16 h9 hgroup hspare h1 h2
    have hfree : (u.retireOf common unit group).free = true := by simp [Retire.free, hspare, h1, h2]
    obtain ⟨t, hexec, hfin⟩ := bankret_completed hr hx h16 h9 hgroup hfree
    refine ⟨t, hexec, hfin, ?_⟩
    rw [hfin.retireOf]
    unfold State.retireOf
    rw [State.take_die, State.take_clu]
    exact State.retireOf_startRetire u common unit group _
  case tlbinv =>
    intro e u' hr hv hp hdone kind scope hv32 hkind hscope1 hscope4 hpage hall he hcur' hme hcores hmem root w husers
    obtain ⟨t, hexec, hfin⟩ := tlbinv_completed hr hx hv hp hdone he hcur' hv32 hkind hscope1 hscope4 hpage hall husers
    obtain ⟨-, hdmem, hdcore⟩ := State.tlbDrop_same w (slotCore s.cur) scope kind root x.toNat
    have hwcore (c : Nat) : w.core c = u.core c := by
      show (if kind = 0 then u' else u).core c = u.core c
      split
      · exact congrArg (SMap.get {} · c) hcores
      · rfl
    have hwmem : w.mem = s.mem := by
      show (if kind = 0 then u' else u).mem = s.mem
      split
      · exact hmem
      · exact s.entered_mem r
    have htlb (c : Nat) : (t.core c).tlb = ((u.core c).withoutHits kind root x.toNat (coreInScope (slotCore s.cur) scope c)).tlb := by
      rw [hfin.tlb, State.take_core, hdcore, hwcore]
    refine ⟨t, hexec, hfin, fun c hc => ?_, fun c hc => ?_, fun j => ?_⟩
    · rw [htlb, hc]
      rfl
    · rw [htlb, hc]
      rfl
    · rw [hfin.mem, State.take_eq]
      exact congrArg (Memory.read · j) (hdmem.trans hwmem)

end Sys2Proof.Claims
end

section
/-! PROOFS. Wheel swaps, retirements, losses, errors, bind records and moves of a role (O39): what each step of care does to its unit. -/

namespace Sys2Proof.Machine

open Sys2Proof.Claims

/-! ## Swaps of wheels (R85, R86) -/

theorem Wheel.boundary_iff {w : Wheel} {n : Nat} : w.boundary n = true ↔ atBoundary w n := by
  unfold Wheel.boundary atBoundary
  rw [Bool.and_eq_true, decide_eq_true_eq, decide_eq_true_eq]

/-- Only threads differ, and they in neither address nor registers. -/
structure SameWork (s t : State) : Prop where
  mem : t.mem = s.mem
  clus : t.clus = s.clus
  dies : t.dies = s.dies
  pc (n : Nat) : (t.slot n).pc = (s.slot n).pc
  w (n : Nat) : (t.slot n).w = (s.slot n).w

theorem SameWork.refl (s : State) : SameWork s s := ⟨rfl, rfl, rfl, fun _ => rfl, fun _ => rfl⟩

theorem SameWork.trans {s t u : State} (h : SameWork s t) (h' : SameWork t u) : SameWork s u :=
  ⟨h'.mem.trans h.mem, h'.clus.trans h.clus, h'.dies.trans h.dies, fun n => (h'.pc n).trans (h.pc n), fun n => (h'.w n).trans (h.w n)⟩

/-- A change of one thread that leaves its address and its registers. -/
theorem SameWork.modSlot (s : State) (n : Nat) {f : Slot → Slot} (hpc : (f (s.slot n)).pc = (s.slot n).pc)
    (hw : (f (s.slot n)).w = (s.slot n).w) : SameWork s (s.modSlot n f) where
  mem := rfl
  clus := rfl
  dies := rfl
  pc m := by
    rw [State.modSlot_eq, State.slot_setSlot]
    split
    · subst_vars; exact hpc
    · rfl
  w m := by
    rw [State.modSlot_eq, State.slot_setSlot]
    split
    · subst_vars; exact hw
    · rfl

theorem State.rewturn_sameWork (s : State) (n : Nat) : SameWork s (s.rewturn n) := by
  unfold State.rewturn
  split
  · exact .refl s
  · dsimp only
    split
    · exact .refl s
    · split
      · exact .refl s
      · exact .modSlot s n rfl rfl

theorem State.rewturns_sameWork (ns : List Nat) (s : State) : SameWork s (ns.foldl State.rewturn s) := by
  induction ns generalizing s with
  | nil => exact .refl s
  | cons n ns ih => exact (s.rewturn_sameWork n).trans (ih _)

/-- R85: at the boundary of a revolution an armed swap takes effect. -/
theorem wheelSwap_takes {outer : Bool} {unit : Nat} {s : State} (harmed : (wheelOf s outer unit).armed = true)
    (hat : atBoundary (wheelOf s outer unit) s.cyc) :
    ∃ t, exec (.wheelSwap outer unit) s = .next t ∧ wheelOf t outer unit = (wheelOf s outer unit).swap s.cyc ∧ t.mem = s.mem ∧
      ∀ n, (t.slot n).pc = (s.slot n).pc ∧ (t.slot n).w = (s.slot n).w := by
  have hgo : ((wheelOf s outer unit).armed && (wheelOf s outer unit).boundary s.cyc) = true := by
    rw [harmed, Wheel.boundary_iff.2 hat]
    rfl
  cases outer
  · refine ⟨_, if_neg (by rw [Bool.not_eq_true', Bool.not_eq_false]; exact hgo), ?_⟩
    obtain ⟨hmem, hclus, -, hpc, hw⟩ := State.rewturns_sameWork _ _
    refine ⟨?_, hmem, fun n => ⟨hpc n, hw n⟩⟩
    exact (congrArg (fun m => (SMap.get {} m unit).wheel) hclus).trans (congrArg Cluster.wheel (s.clu_setClu_self unit _))
  · refine ⟨_, if_neg (by rw [Bool.not_eq_true', Bool.not_eq_false]; exact hgo), ?_⟩
    obtain ⟨hmem, -, hdies, hpc, hw⟩ := State.rewturns_sameWork _ _
    refine ⟨?_, hmem, fun n => ⟨hpc n, hw n⟩⟩
    exact (congrArg (fun m => (SMap.get {} m unit).wheel) hdies).trans (congrArg Die.wheel (s.die_setDie_self unit _))

theorem wheelSwap_idle {outer : Bool} {unit : Nat} {s : State}
    (h : (wheelOf s outer unit).armed = false ∨ ¬ atBoundary (wheelOf s outer unit) s.cyc) : exec (.wheelSwap outer unit) s = .next s := by
  have hno : ((wheelOf s outer unit).armed && (wheelOf s outer unit).boundary s.cyc) = false := by
    rcases h with h | h
    · rw [h]
      rfl
    · rw [Bool.eq_false_iff.2 (mt Wheel.boundary_iff.1 h), Bool.and_false]
  exact if_pos (by rw [Bool.not_eq_true']; exact hno)

/-! ## Retirements (R87, R88) -/

theorem State.modRetire_sameData (s : State) (common : Bool) (unit group : Nat) (g : Retire → Retire) :
    sameData s (s.modRetire common unit group g) := by
  cases common <;> exact ⟨rfl, rfl⟩

theorem State.retireOf_modRetire (s : State) (common : Bool) (unit group : Nat) (g : Retire → Retire) :
    (s.modRetire common unit group g).retireOf common unit group = g (s.retireOf common unit group) := by
  cases common
  · simp [State.modRetire, State.retireOf]
  · simp [State.modRetire, State.retireOf, SMap.get_set_self]

/-- A group of a common store keeps its record when a cluster store's or another group's is changed. -/
theorem State.retireOf_common_modRetire (s : State) (common : Bool) {unit group d h : Nat} (g : Retire → Retire)
    (hne : common = false ∨ (d, h) ≠ (unit, group)) : (s.modRetire common unit group g).retireOf true d h = s.retireOf true d h := by
  cases common
  · rfl
  · have hne := hne.resolve_left Bool.noConfusion
    unfold State.modRetire State.retireOf
    simp only [if_true, State.modDie_eq, State.die_setDie]
    split
    · next hd =>
      subst hd
      exact SMap.get_set_of_ne _ _ _ fun hh => hne (by rw [hh])
    · rfl

theorem retirementSwap_takes {common : Bool} {k : Nat} {s : State} (hphase : (retireAt s common (if common then k / 32 else k) (k % 32)).phase = 1)
    (hdone : retireLines common ≤ (retireAt s common (if common then k / 32 else k) (k % 32)).done)
    (hat : atBoundary (wheelOf s common (if common then k / 32 else k)) s.cyc) :
    exec (.retirementSwap common k) s = .next (s.modRetire common (if common then k / 32 else k) (k % 32) fun r =>
      { r with phase := 2, swapEnd := s.cyc + (wheelOf s common (if common then k / 32 else k)).revolution }) := by
  refine if_pos ?_
  rw [Bool.and_eq_true, Bool.and_eq_true, decide_eq_true_eq, decide_eq_true_eq, Wheel.boundary_iff]
  exact ⟨⟨hphase, hdone⟩, hat⟩

theorem retirementSwap_idle {common : Bool} {k : Nat} {s : State}
    (hphase : (retireAt s common (if common then k / 32 else k) (k % 32)).phase ≠ 1) : exec (.retirementSwap common k) s = .next s := by
  refine if_neg ?_
  rw [Bool.and_eq_true, Bool.and_eq_true, decide_eq_true_eq]
  exact fun h => hphase h.1.1

/-- A retirement after one line of a bank is scrubbed (R88). -/
def Retire.scrubbed (common : Bool) (bank : Nat) (r : Retire) : Retire :=
  if r.phase = 1 ∧ r.bank = bank then { r with done := min (retireLines common) (r.done + 1) } else r

theorem scrub_bank (s : State) (k : Nat) (common : Bool) {bank : Nat} (hb : bank < 16) :
    exec (.scrub k (if common then 16 + bank else bank)) s = .next (s.modRetire common (if common then k / 32 else k)
      ((s.die (k / 32)).wheel.holds (k % 32) s.cyc) (Retire.scrubbed common bank)) := by
  have hkind : decide (16 ≤ if common then 16 + bank else bank) = common := by
    cases common
    · exact decide_eq_false (show ¬ 16 ≤ bank by omega)
    · exact decide_eq_true (show 16 ≤ 16 + bank by omega)
  have hbank : (if common then 16 + bank else bank) % 16 = bank := by
    cases common
    · exact Nat.mod_eq_of_lt hb
    · show (16 + bank) % 16 = bank
      omega
  have hline (c : Bool) : (fun r : Retire => if r.phase = 1 && r.bank = bank then { r with done := min (retireLines c) (r.done + 1) } else r)
      = Retire.scrubbed c bank := by
    funext r
    simp only [Retire.scrubbed, Bool.and_eq_true, decide_eq_true_eq]
  show execScrub k _ s = _
  unfold execScrub
  dsimp only
  rw [hkind, hbank, hline]
  rfl

/-- A retirement that started with the spare unused. -/
theorem Retire.retiring_start (r : Retire) (group bank : Nat) : retiring bank (r.start group bank) := ⟨rfl, rfl, rfl, rfl⟩

theorem Retire.free_iff {r : Retire} : r.free = true ↔ spareFree r := by
  simp [Retire.free, spareFree]

theorem State.startRetire_sameData (s : State) (common : Bool) (unit group bank : Nat) :
    sameData s (s.startRetire common unit group bank) := by
  cases common <;> exact ⟨rfl, rfl⟩

/-! ## Losses and errors (R89, R92, R329, R331) -/

/-- Only the telemetry of the clusters differs. -/
structure Counted (s t : State) : Prop where
  mem : t.mem = s.mem
  slots : t.slots = s.slots
  dies : t.dies = s.dies
  mgmt : t.mgmt = s.mgmt
  poison : t.poison = s.poison
  retire (c : Nat) : (t.clu c).retire = (s.clu c).retire

theorem State.tel_counted (s : State) (c i : Nat) : Counted s (s.tel c i) where
  mem := rfl
  slots := rfl
  dies := rfl
  mgmt := rfl
  poison := rfl
  retire k := by
    unfold State.tel
    rw [State.modClu_eq, State.clu_setClu]
    split
    · subst_vars; rfl
    · rfl

theorem Counted.trans {s t u : State} (h : Counted s t) (h' : Counted t u) : Counted s u :=
  ⟨h'.mem.trans h.mem, h'.slots.trans h.slots, h'.dies.trans h.dies, h'.mgmt.trans h.mgmt, h'.poison.trans h.poison,
    fun c => (h'.retire c).trans (h.retire c)⟩

/-- The errors that reached a threshold are counted one by one. -/
def State.tels (s : State) (c i n : Nat) : State := (List.range n).foldl (fun s _ => s.tel c i) s

theorem State.tels_counted (s : State) (c i n : Nat) : Counted s (s.tels c i n) := by
  unfold State.tels
  induction List.range n generalizing s with
  | nil => exact ⟨rfl, rfl, rfl, rfl, rfl, fun _ => rfl⟩
  | cons _ l ih => exact (s.tel_counted c i).trans (ih _)

theorem Counted.retireOf {s t : State} (h : Counted s t) (common : Bool) (unit group : Nat) :
    t.retireOf common unit group = s.retireOf common unit group := by
  cases common
  · exact h.retire unit
  · exact congrArg (fun m => SMap.get {} (SMap.get {} m unit).retire group) h.dies

theorem mem_insertNat {j k : Nat} {l : List Nat} : j ∈ insertNat k l ↔ j = k ∨ j ∈ l := by
  induction l with
  | nil => simp [insertNat]
  | cons i l ih =>
    unfold insertNat
    split
    · simp
    · split
      · simp_all
      · simp [ih, or_left_comm]

section

variable {s : State} {common : Bool} {unit group bank : Nat}

/-- R331: with an unused spare, the bank is retired onto it. -/
theorem bankLoss_retires (h : spareFree (retireAt s common unit group)) :
    exec (.bankLoss common unit group bank) s = .next (s.startRetire common unit group bank) := if_pos (Retire.free_iff.2 h)

/-- R89: with none, the store is degraded, and the management core is told. -/
theorem bankLoss_degrades (h : ¬ spareFree (retireAt s common unit group)) :
    ∃ t m, exec (.bankLoss common unit group bank) s = .next t ∧ sameData s t ∧ t.mgmt = s.mgmt ++ [m] ∧
      (common = false → (t.clu unit).absent = (s.clu unit).absent ||| (1#16 <<< bank)) ∧
      (common = true → SMap.get 0 (t.die unit).absent group = SMap.get 0 (s.die unit).absent group ||| (1#16 <<< bank)) := by
  refine ⟨_, { code := lossCode, clu := if common then unit * 32 + group else unit, core := 0, trap := {}, addr := bank },
    if_neg (mt Retire.free_iff.1 h), ?_⟩
  cases common
  · exact ⟨⟨rfl, rfl⟩, rfl, fun _ => congrArg Cluster.absent (s.clu_setClu_self unit _), fun h => nomatch h⟩
  · refine ⟨⟨rfl, rfl⟩, rfl, fun h => (nomatch h), fun _ => ?_⟩
    exact (congrArg (fun d => SMap.get 0 (Die.absent d) group) (s.die_setDie_self unit _)).trans (SMap.get_set_self _ _ _ _)

/-- R329: 64 corrected errors of a bank are counted, and then it is retired onto the spare, or the management core is told. -/
theorem errorThreshold_bank (s : State) (common : Bool) (unit group bank : Nat) :
    ∃ v, Counted s v ∧ exec (.errorThreshold (if common then 1 else 0) unit group bank) s =
      if (s.retireOf common unit group).free then .next (v.startRetire common unit group bank)
      else .next (v.tellMgmt lossCode (if common then unit * 32 + group else unit) bank {}) := by
  refine ⟨s.tels (if common then unit * 32 + group else unit) 1 64, s.tels_counted _ _ _, ?_⟩
  rw [← (s.tels_counted (if common then unit * 32 + group else unit) 1 64).retireOf common unit group]
  have hkind : (if common then 1 else 0) ≠ 2 := by cases common <;> decide
  have hcommon : ((if common then 1 else 0) = 1) = (common = true) := by cases common <;> decide
  show execErrorThreshold _ unit group bank s = _
  unfold execErrorThreshold
  rw [if_neg hkind]
  simp only [hcommon, Bool.decide_eq_true, State.tels]
  congr!

theorem errorThreshold_retires (h : spareFree (retireAt s common unit group)) :
    ∃ t, exec (.errorThreshold (if common then 1 else 0) unit group bank) s = .next t ∧ sameData s t ∧
      retiring bank (retireAt t common unit group) := by
  obtain ⟨v, hv, hexec⟩ := errorThreshold_bank s common unit group bank
  obtain ⟨hmem, hslots⟩ := v.startRetire_sameData common unit group bank
  refine ⟨_, hexec.trans (if_pos (Retire.free_iff.2 h)), ⟨hmem.trans hv.mem, hslots.trans hv.slots⟩, ?_⟩
  show retiring bank (State.retireOf _ common unit group)
  rw [State.retireOf_startRetire]
  exact Retire.retiring_start _ _ _

theorem errorThreshold_tells (h : ¬ spareFree (retireAt s common unit group)) :
    ∃ t m, exec (.errorThreshold (if common then 1 else 0) unit group bank) s = .next t ∧ sameData s t ∧ t.mgmt = s.mgmt ++ [m] := by
  obtain ⟨v, hv, hexec⟩ := errorThreshold_bank s common unit group bank
  refine ⟨_, { code := lossCode, clu := if common then unit * 32 + group else unit, core := 0, trap := {}, addr := bank },
    hexec.trans (if_neg (mt Retire.free_iff.1 h)), ⟨hv.mem, hv.slots⟩, ?_⟩
  exact congrArg (· ++ _) hv.mgmt

end

/-- R331: 64 corrected errors of a channel move it to one of its die's spares, or it is lost. -/
theorem errorThreshold_channel (s : State) (k g b : Nat) :
    ∃ t, exec (.errorThreshold 2 k g b) s = .next t ∧ sameData s t ∧
      ((s.die (k / 128)).spareChans < 4 → (t.die (k / 128)).spareChans = (s.die (k / 128)).spareChans + 1) ∧
      (4 ≤ (s.die (k / 128)).spareChans → k ∈ (t.die (k / 128)).failed) := by
  obtain ⟨v, hv, hexec⟩ : ∃ v, Counted s v ∧ exec (.errorThreshold 2 k g b) s =
      if (v.die (k / 128)).spareChans < 4 then .next (v.modDie (k / 128) fun d => { d with spareChans := d.spareChans + 1 })
      else .next ((v.modDie (k / 128) fun d => { d with failed := insertNat k d.failed }).tellMgmt 0x102 (chanClu k) k {}) :=
    ⟨_, s.tels_counted (chanClu k) 3 64, rfl⟩
  have hdie : v.die (k / 128) = s.die (k / 128) := by unfold State.die; rw [hv.dies]
  rw [hdie] at hexec
  by_cases h : (s.die (k / 128)).spareChans < 4
  · rw [if_pos h] at hexec
    refine ⟨_, hexec, ⟨hv.mem, hv.slots⟩, fun _ => ?_, fun h' => absurd h' (by omega)⟩
    rw [State.modDie_eq, State.die_setDie_self, hdie]
  · rw [if_neg h] at hexec
    refine ⟨_, hexec, ⟨hv.mem, hv.slots⟩, fun h' => absurd h' h, fun _ => ?_⟩
    have hfailed := congrArg Die.failed (v.die_setDie_self (k / 128) { v.die (k / 128) with failed := insertNat k (v.die (k / 128)).failed })
    exact hfailed.symm ▸ mem_insertNat.2 (.inl rfl)

/-- R92: the unit of the byte in error is poisoned, and no other. -/
theorem uncorrectableError_poisons (s : State) (key : Nat) :
    ∃ t, exec (.uncorrectableError key) s = .next t ∧ sameData s t ∧
      ∀ p, p ∈ t.poison ↔ p = (Place.ofKey key).unitBase.key ∨ p ∈ s.poison := by
  refine ⟨_, rfl, ⟨rfl, rfl⟩, fun p => ?_⟩
  show p ∈ insertNat _ _ ↔ _
  exact mem_insertNat

/-! ## Moves of a role (R298, R329) -/

theorem State.moveCycles_eq (s : State) (core : Nat) :
    s.moveCycles core = 1040 + 33 * s.classCount core 1 + 129 * s.classCount core 2 := by
  unfold State.moveCycles
  omega

theorem thermalCopy_runs {s : State} {k : Nat} {m : Move} (hmove : (s.clu k).move = some m) (hbegun : m.begun = true)
    (hcopied : m.copied = false) (hdrained : s.coreDrained (k * 20 + m.core) = true) :
    exec (.thermalCopy k) s = .next (s.modClu k fun c =>
      { c with move := some { m with copied := true, doneAt := s.cyc + s.moveCycles (k * 20 + m.core) } }) := by
  show execThermalCopy k s = _
  unfold execThermalCopy
  simp only [hmove, hbegun, hcopied, hdrained]
  rfl

/-- The roles after a move: the spare takes the role of the core, and the core is the spare. -/
def Cluster.remapped (c : Cluster) (m : Move) : Cluster :=
  { c with
    phys := (c.phys.set! m.core ((c.phys[16]?).getD 16)).set! 16 ((c.phys[m.core]?).getD 0)
    down := c.down ||| (1#17 <<< (c.phys[m.core]?).getD 0)
    move := none
    moved := c.moved || !m.wear
    thermcnt := if m.wear then c.thermcnt else (c.thermcnt + 1) % 2 ^ 32 }

theorem thermalRemap_takes {s : State} {k : Nat} {m : Move} (hmove : (s.clu k).move = some m) (hcopied : m.copied = true)
    (hdone : m.doneAt ≤ s.cyc) (hstep : (s.clu k).wheel.step s.cyc = 0) :
    ∃ t, exec (.thermalRemap k) s = .next t ∧ sameData s t ∧ t.clu k = (s.clu k).remapped m := by
  refine ⟨_, rfl, ⟨rfl, rfl⟩, ?_⟩
  rw [State.modClu_eq, State.clu_setClu_self]
  simp only [hmove, hcopied, hdone, hstep]
  rfl

theorem Cluster.remapped_phys (c : Cluster) (m : Move) (h : m.core < 16) :
    (c.remapped m).phys[m.core]? = c.phys[16]? ∧ (c.remapped m).phys[16]? = c.phys[m.core]? := by
  have h17 : m.core < 17 := by omega
  unfold Cluster.remapped
  simp [Vector.set!_eq_setIfInBounds, h17, show 16 ≠ m.core by omega]

theorem Cluster.remapped_down (c : Cluster) (m : Move) {p : Nat} (hp : c.phys[m.core]? = some p) (h17 : p < 17) :
    (c.remapped m).down.getLsbD p = true := by
  unfold Cluster.remapped
  simp [hp, h17]

theorem wearRotation_begins {s : State} {k g : Nat} (hg : g < 16) (hidle : ∀ i < 8, (s.slot ((k * 20 + g) * 8 + i)).live = false)
    (hmove : (s.clu k).move = none) (hwear : (s.clu k).lastWear = 0) (hdown : (s.clu k).down = 0) :
    exec (.wearRotation k g) s = .next (s.modClu k fun c =>
      { c with move := some { core := g, begun := true, wear := true }, lastWear := s.cyc }) := by
  refine if_pos ?_
  have hall : ((List.range 8).all fun i => !(s.slot ((k * 20 + g) * 8 + i)).live) = true :=
    List.all_eq_true.2 fun i hi => by rw [hidle i (List.mem_range.1 hi)]; rfl
  rw [hall, hmove, hwear, hdown, decide_eq_true hg]
  simp

end Sys2Proof.Machine

namespace Sys2Proof.Claims

open Sys2Proof.Machine

/-- Settles O39: each step of care does to its unit what the words say, and leaves every byte of memory and every thread. -/
theorem careSteps : Obligations.CareSteps := by
  intro s k g b common
  refine ⟨⟨fun harmed hat => wheelSwap_takes harmed hat, wheelSwap_idle⟩, ⟨?swap, ?idle, ?done⟩, ⟨?scrubCluster, ?scrubCommon⟩,
    ?spare, ?noSpare, errorThreshold_channel s k g b, ?poison, ?bind, ?copy, ?noMove, ?remap, ?wear⟩
  case swap =>
    intro hphase hdone hat
    exact ⟨_, retirementSwap_takes hphase hdone hat, s.modRetire_sameData _ _ _ _, s.retireOf_modRetire _ _ _ _⟩
  case idle =>
    exact fun hphase => retirementSwap_idle hphase
  case done =>
    refine ⟨_, rfl, s.modRetire_sameData _ _ _ _, (s.retireOf_modRetire _ _ _ _).trans ?_⟩
    simp only [Bool.and_eq_true, decide_eq_true_eq]
    rfl
  case scrubCluster =>
    intro hb
    exact ⟨_, scrub_bank s k false hb, s.modRetire_sameData _ _ _ _, s.retireOf_modRetire _ _ _ _,
      fun d h => s.retireOf_common_modRetire _ _ (.inl rfl)⟩
  case scrubCommon =>
    intro hb
    exact ⟨_, scrub_bank s k true hb, s.modRetire_sameData _ _ _ _, s.retireOf_modRetire _ _ _ _,
      fun d h hne => s.retireOf_common_modRetire _ _ (.inr hne), fun c => rfl⟩
  case spare =>
    intro h
    refine ⟨⟨_, bankLoss_retires h, s.startRetire_sameData _ _ _ _, ?_⟩, errorThreshold_retires h⟩
    show retiring b (State.retireOf _ common k g)
    rw [State.retireOf_startRetire]
    exact Retire.retiring_start _ _ _
  case noSpare =>
    exact fun h _ => ⟨bankLoss_degrades h, errorThreshold_tells h⟩
  case poison =>
    intro key
    obtain ⟨t, hexec, hsame, hpoison⟩ := uncorrectableError_poisons s key
    exact ⟨t, hexec, hsame, (hpoison _).2 (.inl rfl), fun p hp => (hpoison p).2 (.inr hp), fun p hp => ((hpoison p).1 hp).symm⟩
  case bind =>
    intro i v
    obtain ⟨ht, hk, hne⟩ := onlyClu_modClu s k fun c => { c with binds := vmod c.binds i fun _ => v }
    refine ⟨_, rfl, ht, hk.trans ?_, hne⟩
    simp only [vmod, i.isLt, dite_true]
  case copy =>
    intro m hmove hbegun hcopied hdrained
    refine ⟨_, thermalCopy_runs hmove hbegun hcopied hdrained, ?_⟩
    rw [State.moveCycles_eq]
    exact onlyClu_modClu s k _
  case noMove =>
    intro hmove
    show execThermalCopy k s = _
    unfold execThermalCopy
    rw [hmove]
  case remap =>
    intro m hmove hcore hcopied hdone hstep hwear
    obtain ⟨t, hexec, hsame, hclu⟩ := thermalRemap_takes hmove hcopied hdone hstep
    obtain ⟨hrole, hspare⟩ := (s.clu k).remapped_phys m hcore
    refine ⟨t, hexec, hsame, ?_⟩
    rw [hclu]
    refine ⟨hrole, hspare, fun p hp h17 => (s.clu k).remapped_down m hp h17, rfl, ?_⟩
    show (if m.wear then _ else _) = _
    rw [hwear]
    rfl
  case wear =>
    intro hg hidle hmove hwear hdown
    exact ⟨_, wearRotation_begins hg hidle hmove hwear hdown, onlyClu_modClu s k _⟩

end Sys2Proof.Claims
end

section
/-! PROOFS. Turns, waits, commits and passes (O45): what serving the one part of an access leaves, then the steps one by one. -/

namespace Sys2Proof.Machine

open Sys2Proof.Claims

/-! ## One part of an access served (R80, R81) -/

theorem serveAct_read {p : Place} {s : State} {a : Access} {n : Nat} (h : s.isPoisoned p n = false) (i : Nat) :
    serveAct p (s, a) (.rd i p.key n) = (s, { a with got := SMap.set a.got i (s.readMem p.key n) }) := by
  have hat : { p with off := p.off + (p.key - p.key) } = p := by rw [Nat.sub_self]; rfl
  refine if_neg ?_
  show ¬ s.isPoisoned { p with off := p.off + (p.key - p.key) } n = true
  rw [hat, h]
  exact Bool.false_ne_true

theorem serveAct_write (p : Place) (s : State) (a : Access) (n v : Nat) : serveAct p (s, a) (.wr p.key n v) = (s.store p v n, a) := by
  have hat : { p with off := p.off + (p.key - p.key) } = p := by rw [Nat.sub_self]; rfl
  unfold serveAct
  dsimp only
  rw [hat]

/-- Only poison is cleared where writes cover whole units (R92). -/
theorem State.clearCovered_eq (s : State) (u : MemUnit) : ∃ ps, s.clearCovered u = { s with poison := ps } := by
  unfold State.clearCovered
  dsimp only
  split
  · exact ⟨_, rfl⟩
  · exact ⟨s.poison, rfl⟩

/-- What a cluster's counters note of a turn (R315). -/
def State.noteTurn (s : State) (n : Nat) (svc : Bool) (p : Place) : State :=
  let s := if svc then s else if p.kind = 2 then s.event (slotClu n) (3 + 16 * coreIdx (slotCore n))
    else if p.kind = 3 then s.event (slotClu n) (4 + 16 * coreIdx (slotCore n)) else s
  if isMemCore (slotCore n) && (p.kind = 2 || p.kind = 3) then s.event (slotClu n) 5 else s

theorem State.noteTurn_eq (s : State) (n : Nat) (svc : Bool) (p : Place) : ∃ cs, s.noteTurn n svc p = { s with clus := cs } := by
  unfold State.noteTurn
  split_ifs <;> exact ⟨_, rfl⟩

/-- A slot's access as a service has left it. -/
def State.withAcc (s : State) (n : Nat) (b : Access) : State :=
  s.modSlot n fun x => { x with acc := x.acc.map fun y => if y.id = b.id then b else y }

section

variable {s : State} {n : Nat} {a b : Access} {u : MemUnit} {act : Act}

/-- What follows the actions of a part served: poison, and the end of the access where it was its last. -/
def State.served (n id : Nat) (u : MemUnit) (at' : Nat) (r : State × Access) : State :=
  let a := { r.2 with units := r.2.units.erase u }
  let s := (r.1.clearCovered u).modSlot n fun x => { x with acc := x.acc.map fun b => if b.id = id then a else b }
  let stop := match r.2.fin with
    | .vatom _ _ => r.2.poison.isSome
    | _ => false
  if r.2.units.erase u = [] || stop then s.finishAccess n a at' else s

/-- A part of one action of an access that is no pass of `BLD` is served. -/
theorem serveUnit_act (hfind : (s.slot n).acc.find? (·.id = a.id) = some a) (hacts : u.acts = [act])
    (hpass : ∀ r m d p, a.fin ≠ .bld r m d p) (at' : Nat) :
    s.serveUnit n a.id u at' = State.served n a.id u at' (serveAct u.place (s.noteTurn n a.svc u.place, a) act) := by
  unfold State.serveUnit
  rw [hfind]
  cases hf : a.fin
  case bld => exact absurd hf (hpass _ _ _ _)
  all_goals
    simp only [hf, hacts, List.foldl_cons, List.foldl_nil]
    rfl

/-- Where the part is the only one, the access ends. -/
theorem serveUnit_only {v : State} (hfind : (s.slot n).acc.find? (·.id = a.id) = some a) (hacts : u.acts = [act])
    (hpass : ∀ r m d p, a.fin ≠ .bld r m d p) (hact : serveAct u.place (s.noteTurn n a.svc u.place, a) act = (v, b))
    (hid : b.id = a.id) (hunits : b.units = [u]) (at' : Nat) :
    s.serveUnit n a.id u at' = ((v.clearCovered u).withAcc n { b with units := [] }).finishAccess n { b with units := [] } at' := by
  rw [serveUnit_act hfind hacts hpass, hact]
  unfold State.served
  simp only [hunits, List.erase_cons_head, decide_true, Bool.true_or, if_true, ← hid]
  rfl

end

/-! ## The end of an access -/

/-- A slot without one of its accesses. -/
def Slot.dropAcc (id : Nat) (x : Slot) : Slot := { x with acc := x.acc.filter fun b => b.id ≠ id }

section

variable {s : State} {n : Nat} {b : Access}

theorem finishAccess_store (hfin : b.fin = .store) (hjob : b.job = none) (at' : Nat) :
    s.finishAccess n b at' = s.modSlot n (Slot.dropAcc b.id) := by
  unfold State.finishAccess
  simp only [hfin, hjob]
  rfl

theorem finishAccess_reg {d : Spec} {size view : Nat} {sx e : Bool} (hfin : b.fin = .reg d size sx e view) (hjob : b.job = none)
    (hpoison : b.poison = none) (at' : Nat) :
    s.finishAccess n b at' = (s.modSlot n (Slot.dropAcc b.id)).deliver n b.id b.ws d (loadValue b.got size sx view) e at' := by
  unfold State.finishAccess
  simp only [hfin, hjob, hpoison]
  rfl

/-- The condition of a `WAITW` (R100). -/
def waitMet (c : Nat) (x v : Word) : Prop := if c = 0 then v ≠ x else if c = 1 then x.toNat ≤ v.toNat else v = x

theorem finishAccess_waitw {d : Spec} {c view : Nat} {x : Word} {us : List MemUnit} (hfin : b.fin = .waitw d c x us view)
    (hjob : b.job = none) (hpoison : b.poison = none) (at' : Nat) :
    (waitMet c x (loadValue b.got 8 false view) →
      s.finishAccess n b at' = (s.modSlot n (Slot.dropAcc b.id)).modSlot n fun y =>
        { y with phase := 2, buf := [(loadValue b.got 8 false view).toNat, at'] }) ∧
    (¬ waitMet c x (loadValue b.got 8 false view) →
      s.finishAccess n b at' = s.modSlot n fun y =>
        { y with acc := y.acc.map fun a => if a.id = b.id then { a with again := true, units := us } else a }) := by
  unfold State.finishAccess
  simp only [hfin, hjob, hpoison]
  constructor
  · intro h
    refine (if_neg Bool.false_ne_true).trans (if_pos ?_)
    match c, h with
    | 0, h => simpa [waitMet] using h
    | 1, h => simpa [waitMet] using h
    | c + 2, h => simpa [waitMet] using h
  · intro h
    refine (if_neg Bool.false_ne_true).trans (if_neg ?_)
    match c, h with
    | 0, h => simpa [waitMet] using h
    | 1, h => simpa [waitMet] using h
    | c + 2, h => simpa [waitMet] using h

/-- A value for a general register of the workspace that the thread holds lands in the register cache. -/
theorem deliver_reg {d : Spec} (hd : d.toNat < 32) (hwp : (s.slot n).wp = b.ws) (habs : (s.slot n).absent = false) (id : Nat) (v : Word) (e : Bool)
    (at' : Nat) :
    s.deliver n id b.ws d v e at' = (s.modSlot n fun x => x.setReg d v).modSlot n fun x => x.later (.spec d) (at' + 3) := by
  unfold State.deliver
  dsimp only
  rw [if_pos hd]
  unfold State.land
  dsimp only
  rw [if_pos (by simp [hwp, habs])]

end

/-! ## What a thread becomes -/

/-- A slot holds `y`, and every other is as in `s`. -/
structure Becomes (n : Nat) (y : Slot) (s t : State) : Prop where
  self : t.slot n = y
  others (m : Nat) : m ≠ n → t.slot m = s.slot m

theorem Becomes.of_slots {n : Nat} {s t : State} (h : t.slots = s.slots) : Becomes n (s.slot n) s t :=
  ⟨congrArg (SMap.get ({} : Slot) · n) h, fun m _ => congrArg (SMap.get ({} : Slot) · m) h⟩

theorem Becomes.modSlot {n : Nat} {y : Slot} {s t : State} (h : Becomes n y s t) (f : Slot → Slot) :
    Becomes n (f y) s (t.modSlot n f) := by
  constructor
  · rw [State.modSlot_eq, State.slot_setSlot_self, h.self]
  · intro m hm
    rw [State.modSlot_eq, State.slot_setSlot_of_ne _ _ _ _ hm, h.others m hm]

theorem Becomes.withAcc {n : Nat} {y : Slot} {s t : State} {a b : Access} (h : Becomes n y s t) (hacc : y.acc = [a]) (hid : b.id = a.id) :
    Becomes n { y with acc := [b] } s (t.withAcc n b) := by
  have hmap : (y.acc.map fun c => if c.id = b.id then b else c) = [b] := by
    rw [hacc, List.map_cons, if_pos hid.symm]
    rfl
  have := h.modSlot fun x => { x with acc := x.acc.map fun c => if c.id = b.id then b else c }
  rwa [hmap] at this

/-- A thread's only access ends. -/
theorem Becomes.dropAcc {n : Nat} {x : Slot} {s t : State} {b : Access} (h : Becomes n { x with acc := [b] } s t) :
    Becomes n { x with acc := [] } s (t.modSlot n (Slot.dropAcc b.id)) := by
  have hnone : [b].filter (fun c => c.id ≠ b.id) = [] := by simp
  have := h.modSlot (Slot.dropAcc b.id)
  unfold Slot.dropAcc at this
  rwa [hnone] at this

/-! ## Service at a turn (R81, R88) -/

section

variable {s : State} {n kind : Nat} {a : Access} {u : MemUnit}

theorem Slot.find_only {x : Slot} (hacc : x.acc = [a]) : x.acc.find? (·.id = a.id) = some a := by
  rw [hacc]
  exact List.find?_cons_of_pos (by simp)

/-- The only part of an access reads: what the thread then waits with has its bytes. -/
theorem serveUnit_read {size : Nat} (hacc : (s.slot n).acc = [a]) (hunits : a.units = [u]) (hgot : a.got = [])
    (hacts : u.acts = [.rd 0 u.place.key size]) (hpass : ∀ r m d p, a.fin ≠ .bld r m d p) (hpoison : s.isPoisoned u.place size = false)
    (at' : Nat) :
    ∃ v, Becomes n { s.slot n with acc := [{ a with got := [(0, s.readMem u.place.key size)], units := [] }] } s v ∧ v.mem = s.mem ∧
      s.serveUnit n a.id u at' = v.finishAccess n { a with got := [(0, s.readMem u.place.key size)], units := [] } at' := by
  obtain ⟨cs, hcs⟩ := s.noteTurn_eq n a.svc u.place
  obtain ⟨ps, hps⟩ := State.clearCovered_eq { s with clus := cs } u
  have hact : serveAct u.place (s.noteTurn n a.svc u.place, a) (.rd 0 u.place.key size)
      = ({ s with clus := cs }, { a with got := [(0, s.readMem u.place.key size)] }) := by
    rw [hcs]
    refine (serveAct_read (s := { s with clus := cs }) hpoison 0).trans ?_
    rw [hgot]
    rfl
  refine ⟨_, ?_, ?_, serveUnit_only (Slot.find_only hacc) hacts hpass hact rfl hunits at'⟩
  · rw [hps]
    exact Becomes.withAcc (b := { a with got := [(0, s.readMem u.place.key size)], units := [] }) (Becomes.of_slots rfl) hacc rfl
  · rw [hps]
    rfl

/-- The only part of a store writes. -/
theorem serveUnit_write {size v : Nat} (hacc : (s.slot n).acc = [a]) (hunits : a.units = [u]) (hfin : a.fin = .store) (hjob : a.job = none)
    (hacts : u.acts = [.wr u.place.key size v]) (hchan : s.chanFailed u.place = false) (at' : Nat) :
    Becomes n { s.slot n with acc := [] } s (s.serveUnit n a.id u at') ∧
      (s.serveUnit n a.id u at').mem = s.mem.writeLE u.place.key v size := by
  obtain ⟨cs, hcs⟩ := s.noteTurn_eq n a.svc u.place
  have hact := serveAct_write u.place (s.noteTurn n a.svc u.place) a size v
  have hmem : ((s.noteTurn n a.svc u.place).store u.place v size).mem = s.mem.writeLE u.place.key v size := by
    have hchan : (s.noteTurn n a.svc u.place).chanFailed u.place = false := by rw [hcs]; exact hchan
    unfold State.store
    rw [hchan, hcs]
    rfl
  have hslots : ((s.noteTurn n a.svc u.place).store u.place v size).slots = s.slots := by
    rw [State.store_eq_withMem, hcs]
    rfl
  generalize (s.noteTurn n a.svc u.place).store u.place v size = w at hact hmem hslots
  obtain ⟨ps, hps⟩ := w.clearCovered_eq u
  rw [serveUnit_only (Slot.find_only hacc) hacts (by rw [hfin]; nofun) hact rfl hunits at', hps,
    finishAccess_store (b := { a with units := [] }) hfin hjob]
  refine ⟨?_, hmem⟩
  exact (Becomes.withAcc (b := { a with units := [] }) (Becomes.of_slots (t := { w with poison := ps }) hslots) hacc rfl).dropAcc

theorem turnService_kind (hkind : kind < 4) : (4 * a.id + kind) / 4 = a.id ∧ (4 * a.id + kind) % 4 = kind := by omega

theorem turnService_idle (hacc : (s.slot n).acc = [a]) (hkind : kind < 4) (h : s.servable n a kind = none) :
    exec (.turnService n (4 * a.id + kind)) s = .next s := by
  show execTurnService n _ s = _
  unfold execTurnService
  rw [(turnService_kind hkind).1, (turnService_kind hkind).2, Slot.find_only hacc]
  dsimp only
  rw [h]

theorem turnService_serves (hacc : (s.slot n).acc = [a]) (hkind : kind < 4) (h : s.servable n a kind = some u) (hturn : ¬ noTurn s n u) :
    exec (.turnService n (4 * a.id + kind)) s = .next (s.serveUnit n a.id u s.cyc) := by
  show execTurnService n _ s = _
  unfold execTurnService
  rw [(turnService_kind hkind).1, (turnService_kind hkind).2, Slot.find_only hacc]
  dsimp only
  rw [h]
  exact if_neg (by simpa [noTurn] using hturn)

theorem turnService_holds (hacc : (s.slot n).acc = [a]) (hkind : kind < 4) (h : s.servable n a kind = some u) (hturn : noTurn s n u) :
    exec (.turnService n (4 * a.id + kind)) s = .next (s.holdUnit n a.id u) := by
  show execTurnService n _ s = _
  unfold execTurnService
  rw [(turnService_kind hkind).1, (turnService_kind hkind).2, Slot.find_only hacc]
  dsimp only
  rw [h]
  exact if_pos (by simpa [noTurn] using hturn)

/-- R88: a part on a missing turn is due one revolution later. -/
theorem holdUnit_only (hacc : (s.slot n).acc = [a]) (hunits : a.units = [u]) :
    (s.holdUnit n a.id u).slot n
      = { s.slot n with acc := [{ a with units := [{ u with due := s.cyc + s.revolution (slotClu n) u.place }] }] } := by
  unfold State.holdUnit
  rw [State.modSlot_eq, State.slot_setSlot_self, hacc]
  simp [hunits]

/-- A scalar load's value is in its register once its only part is served. -/
theorem serveUnit_load {size : Nat} {d : Spec} {e : Bool} (hacc : (s.slot n).acc = [a]) (hunits : a.units = [u]) (hgot : a.got = [])
    (hjob : a.job = none) (hgood : a.poison = none) (hacts : u.acts = [.rd 0 u.place.key size]) (hfin : a.fin = .reg d size false e 0)
    (hpoison : s.isPoisoned u.place size = false) (hd : d.toNat < 32) (hws : a.ws = (s.slot n).wp) (habs : (s.slot n).absent = false)
    (at' : Nat) :
    Becomes n ((Slot.setReg { s.slot n with acc := [] } d (BitVec.ofNat 64 (s.readMem u.place.key size))).later (.spec d) (at' + 3)) s
        (s.serveUnit n a.id u at') ∧ (s.serveUnit n a.id u at').mem = s.mem := by
  obtain ⟨v, hv, hmem, hserve⟩ := serveUnit_read hacc hunits hgot hacts (by rw [hfin]; nofun) hpoison at'
  have hdrop := hv.dropAcc
  rw [hserve, finishAccess_reg (b := { a with got := [(0, s.readMem u.place.key size)], units := [] }) hfin hjob hgood,
    deliver_reg hd (by rw [hdrop.self]; exact hws.symm) (by rw [hdrop.self]; exact habs)]
  exact ⟨(hdrop.modSlot fun x => x.setReg d _).modSlot fun x => x.later (.spec d) (at' + 3), hmem⟩

/-! ## Waits (R100) -/

theorem waitwReread_local (hacc : (s.slot n).acc = [a]) (hagain : a.again = true) (hunits : a.units = [u]) (hkind : u.place.kind = 1) :
    exec (.waitwReread n) s = .next ((s.claimPort (slotCore n)).serveUnit n a.id u s.cyc) := by
  have hfind : (s.slot n).acc.find? (·.again) = some a := by
    rw [hacc]
    exact List.find?_cons_of_pos hagain
  show execWaitwReread n s = _
  unfold execWaitwReread
  rw [hfind]
  dsimp only
  rw [hunits]
  exact if_pos hkind

theorem waitwReread_idle (h : ∀ a ∈ (s.slot n).acc, a.again = false) : exec (.waitwReread n) s = .next s := by
  have hfind : (s.slot n).acc.find? (·.again) = none := List.find?_eq_none.2 fun a ha => by rw [h a ha]; exact Bool.false_ne_true
  show execWaitwReread n s = _
  unfold execWaitwReread
  rw [hfind]

/-- A word read again either satisfies the wait, or the access goes on waiting. -/
theorem serveUnit_waitw {d : Spec} {c : Nat} {y : Word} {us : List MemUnit} (hacc : (s.slot n).acc = [a]) (hunits : a.units = [u])
    (hgot : a.got = []) (hjob : a.job = none) (hgood : a.poison = none) (hacts : u.acts = [.rd 0 u.place.key 8])
    (hfin : a.fin = .waitw d c y us 0) (hpoison : s.isPoisoned u.place 8 = false) (at' : Nat) :
    (waitMet c y (BitVec.ofNat 64 (s.readMem u.place.key 8)) →
      ((s.serveUnit n a.id u at').slot n) = { s.slot n with
        acc := [], phase := 2, buf := [(BitVec.ofNat 64 (s.readMem u.place.key 8) : Word).toNat, at'] }) ∧
    (¬ waitMet c y (BitVec.ofNat 64 (s.readMem u.place.key 8)) →
      ∃ b, (s.serveUnit n a.id u at').slot n = { s.slot n with acc := [b] }) ∧
    (s.serveUnit n a.id u at').mem = s.mem := by
  obtain ⟨v, hv, hmem, hserve⟩ := serveUnit_read hacc hunits hgot hacts (by rw [hfin]; nofun) hpoison at'
  obtain ⟨hmet, hunmet⟩ := finishAccess_waitw (s := v) (n := n)
    (b := { a with got := [(0, s.readMem u.place.key 8)], units := [] }) hfin hjob hgood at'
  have hdrop := hv.dropAcc
  rw [hserve]
  refine ⟨fun h => ?_, fun h => ⟨{ a with got := [(0, s.readMem u.place.key 8)], units := us, again := true }, ?_⟩, ?_⟩
  · rw [hmet h]
    exact (hdrop.modSlot _).self
  · rw [hunmet h, (hv.modSlot _).self]
    simp only [List.map_cons, List.map_nil, if_true]
  · by_cases h : waitMet c y (BitVec.ofNat 64 (s.readMem u.place.key 8))
    · rw [hmet h]
      exact hmem
    · rw [hunmet h]
      exact hmem

end

/-! ## Commits of a stripe row (R96, R97) -/

theorem Place.add_key (p : Place) (n : Nat) : (p.add n).key = p.key + n := (Nat.add_assoc _ _ _).symm

/-- The lines of a stripe row are stored. -/
def State.storeLines (s : State) (row : Place) (ls : List (Nat × Nat)) : State :=
  ls.foldl (fun s l => s.store (row.add (128 * l.1)) l.2 128) s

theorem State.storeLines_eq_withMem (s : State) (row : Place) (ls : List (Nat × Nat)) :
    s.storeLines row ls = s.withMem (s.storeLines row ls) := foldl_eq_withMem (fun _ _ => State.store_eq_withMem _ _ _ _) ls s

theorem State.storeLines_outside (row : Place) (ls : List (Nat × Nat)) (s : State) {a : Nat}
    (h : ∀ l ∈ ls, a < (row.add (128 * l.1)).key ∨ (row.add (128 * l.1)).key + 128 ≤ a) :
    (s.storeLines row ls).mem.read a = s.mem.read a := by
  induction ls generalizing s with
  | nil => rfl
  | cons l ls ih =>
    calc ((s.store (row.add (128 * l.1)) l.2 128).storeLines row ls).mem.read a
      _ = (s.store (row.add (128 * l.1)) l.2 128).mem.read a := ih _ fun l' h' => h l' (List.mem_cons_of_mem _ h')
      _ = s.mem.read a := State.store_read (h := h l List.mem_cons_self) ..

/-- Lines of different banks do not overlap: each is what was staged for it. -/
theorem State.storeLines_read {row : Place} (hk : row.kind ≠ 4) (ls : List (Nat × Nat)) (hne : ls.Pairwise fun a b => a.1 ≠ b.1) (s : State)
    (hwf : s.mem.wf = true) {l : Nat × Nat} (hl : l ∈ ls) :
    (s.storeLines row ls).readMem (row.add (128 * l.1)).key 128 = l.2 % 256 ^ 128 := by
  induction ls generalizing s with
  | nil => cases hl
  | cons l' ls ih =>
    obtain ⟨hfirst, hrest⟩ := List.pairwise_cons.1 hne
    have hmem : (s.store (row.add (128 * l'.1)) l'.2 128).mem = s.mem.writeLE (row.add (128 * l'.1)).key l'.2 128 := by
      unfold State.store
      rw [if_neg (by simp [State.chanFailed, Place.add, hk])]
      rfl
    rcases List.mem_cons.1 hl with rfl | hl
    · calc ((s.store (row.add (128 * l.1)) l.2 128).storeLines row ls).mem.readLE (row.add (128 * l.1)).key 128
        _ = (s.store (row.add (128 * l.1)) l.2 128).mem.readLE (row.add (128 * l.1)).key 128 := by
          refine Memory.readLE_congr fun k hlo hhi => State.storeLines_outside _ _ _ fun x hx => ?_
          have := hfirst x hx
          rw [Place.add_key] at hlo hhi ⊢
          omega
        _ = l.2 % 256 ^ 128 := by rw [hmem, Memory.readLE_writeLE hwf]
    · exact ih hrest _ (by rw [hmem]; exact Memory.wf_writeLE hwf _ _ _) hl

/-- A cluster after a commit on a row (R97). -/
def Cluster.committed (m : Commit) (c : Cluster) : Cluster :=
  { c with
    commits := c.commits.erase m
    commitCount := SMap.set c.commitCount m.row ((c.counter m.row + 1) % 16)
    passes := c.passes.map fun p => if p.row = m.row && p.started then { p with since := p.since + 1 } else p }

section

variable {s : State} {n : Nat} {m : Commit}

theorem stripeCommit_applies (hfind : (s.clu (slotClu n)).commits.find? (fun c => c.slot = n) = some m) (hready : m.ready ≤ s.cyc)
    (hfree : (s.clu (slotClu n)).commitHeld m.row = false) :
    exec (.stripeCommit n) s = .next (((s.storeLines (Place.ofKey m.row) m.lines).modClu (slotClu n) (Cluster.committed m)).modSlot n
      fun x => { x with phase := 2 }) := by
  show execStripeCommit n s = _
  unfold execStripeCommit
  dsimp only
  rw [hfind]
  dsimp only
  rw [hfree, decide_eq_false (show ¬ s.cyc < m.ready by omega)]
  rfl

theorem stripeCommit_idle (hfind : (s.clu (slotClu n)).commits.find? (fun c => c.slot = n) = some m)
    (h : s.cyc < m.ready ∨ (s.clu (slotClu n)).commitHeld m.row = true) : exec (.stripeCommit n) s = .next s := by
  show execStripeCommit n s = _
  unfold execStripeCommit
  dsimp only
  rw [hfind]
  exact if_pos (by simpa using h)

theorem Cluster.counter_committed (m : Commit) (c : Cluster) : (c.committed m).counter m.row = (c.counter m.row + 1) % 16 :=
  SMap.get_set_self _ _ _ _

end

/-! ## Passes of `BLD` (R98) -/

section

variable {s : State} {n row m dst pass v : Nat} {a : Access} (hacc : (s.slot n).acc = [a]) (hfin : a.fin = .bld row m dst pass)
  (hlast : a.last = some v) (hpoison : a.poison = none)
include hacc hfin hlast hpoison

/-- A pass that saw one version ends the instruction's accesses. -/
theorem bldPass_ends (hfirst : a.first = some v) : s.bldPass n = s.finishBld n a m dst := by
  unfold State.bldPass
  simp [hacc, hfin, hlast, hpoison, hfirst]

/-- A pass that saw two versions is noted, and the next one waits for an inner step 0. -/
theorem bldPass_fails (hfirst : a.first ≠ some v) (hlen : (maskBanks m).length ≠ 1) (hstep : (s.clu (slotClu n)).wheel.step s.cyc ≠ 0) :
    s.bldPass n = (s.event (slotClu n) 7).modSlot n fun x =>
      { x with buf := (pass + 1) :: x.buf.drop 1, acc := x.acc.filter fun b => b.id ≠ a.id } := by
  have hwheel : ((s.event (slotClu n) 7).clu (slotClu n)).wheel = (s.clu (slotClu n)).wheel := by
    rw [State.event, State.modClu_eq, State.clu_setClu_self]
  have hcyc : (s.event (slotClu n) 7).cyc = s.cyc := rfl
  unfold State.bldPass
  simp [hacc, hfin, hlast, hpoison, hfirst, hlen, hwheel, hcyc, hstep]

end

theorem isochronePass_waits {s : State} {n : Nat} (h : (s.clu n).iso.pleft = 0) : exec (.isochronePass n) s = .next (s.modClu n id) := by
  show Host.Outcome.next (s.setClu n (if _ then _ else _)) = _
  rw [if_pos h]
  rfl

theorem isochronePass_ends {s : State} {n : Nat} (h : (s.clu n).iso.pleft ≠ 0) :
    exec (.isochronePass n) s = .next (s.modClu n fun c => { c with iso := {
      c.iso.pass c.iso.gwin c.iso.gmode with
        pleft := c.iso.pleft - 1, pdone := c.iso.pdone + 1, lastEnd := c.iso.nextPass
        nextPass := c.iso.nextPass + (c.iso.gwin + 5) / 2 } }) := by
  show Host.Outcome.next (s.setClu n (if _ then _ else _)) = _
  rw [if_neg h]
  rfl

end Sys2Proof.Machine

namespace Sys2Proof.Claims

open Sys2Proof.Machine

/-- Settles O45: a turn serves the access that may be served, a wait ends on the word that meets it, a commit stores its lines, and a pass
ends on one version. -/
theorem turnSteps : Obligations.TurnSteps := by
  intro s n x k
  refine ⟨?load, ?store, ?missing, ?idle, ?wait, ?noWait, ?commit, ?noCommit, ?pass, ?hold, ?noIso, ?iso⟩
  case load =>
    intro a u kind size d e hone hturn hd hfin hacts hsize hpoison hws habs
    obtain ⟨hacc, hunits, hgood, hgot, hjob, hserv, hkind, hchan⟩ := hone
    obtain ⟨⟨hself, hothers⟩, hmem⟩ := serveUnit_load hacc hunits hgot hjob hgood hacts hfin hpoison hd hws habs s.cyc
    refine ⟨_, turnService_serves hacc hkind hserv hturn, ?_, hmem, ?_, ?_, ?_, hothers⟩
    · rw [hself]
      rfl
    · rw [hself]
      simp [Slot.later, Slot.setReg, Nat.mod_eq_of_lt hd, hd]
    · intro i hi
      rw [hself]
      simp [Slot.later, Slot.setReg, Nat.mod_eq_of_lt hd, Ne.symm hi, x]
    · rw [hself]
      rfl
  case store =>
    intro a u kind size v hone hturn hfin hacts
    obtain ⟨hacc, hunits, hgood, hgot, hjob, hserv, hkind, hchan⟩ := hone
    obtain ⟨⟨hself, hothers⟩, hmem⟩ := serveUnit_write hacc hunits hfin hjob hacts hchan s.cyc
    refine ⟨_, turnService_serves hacc hkind hserv hturn, hself, ⟨fun hwf => ?_, fun j hj => ?_⟩, hothers⟩
    · unfold State.readMem
      rw [hmem]
      exact Memory.readLE_writeLE hwf _ _ _
    · rw [hmem]
      exact Memory.read_writeLE_of_outside _ _ _ _ _ hj
  case missing =>
    intro a u kind hone hturn
    obtain ⟨hacc, hunits, hgood, hgot, hjob, hserv, hkind, hchan⟩ := hone
    exact ⟨_, turnService_holds hacc hkind hserv hturn, rfl, holdUnit_only hacc hunits⟩
  case idle =>
    exact fun a kind hacc hkind hserv => turnService_idle hacc hkind hserv
  case wait =>
    intro a u d c y us hacc hagain hunits hgood hgot hjob hkind hacts hpoison hfin v ok
    have hexec := waitwReread_local hacc hagain hunits hkind
    obtain ⟨hmet, hunmet, hmem⟩ := serveUnit_waitw (s := s.claimPort (slotCore n)) hacc hunits hgot hjob hgood hacts hfin hpoison s.cyc
    refine ⟨fun h => ?_, fun h => ?_⟩
    · refine ⟨_, hexec, ?_, ?_, ?_, hmem⟩ <;> rw [hmet h]
      rfl
    · obtain ⟨b, hb⟩ := hunmet h
      refine ⟨_, hexec, ?_, ?_, hmem⟩ <;> rw [hb] <;> rfl
  case noWait =>
    exact waitwReread_idle
  case commit =>
    intro m hfind hready hfree hkind hne
    have hmem := State.storeLines_eq_withMem s (Place.ofKey m.row) m.lines
    refine ⟨_, stripeCommit_applies hfind hready hfree, ?_, ?_, fun hwf l hl => ?_, fun j hj => ?_⟩
    · rw [State.modSlot_eq, State.slot_setSlot_self]
    · rw [State.modSlot_eq, State.clu_setSlot, State.modClu_eq, State.clu_setClu_self, Cluster.counter_committed, hmem]
      rfl
    · exact State.storeLines_read hkind m.lines hne s hwf hl
    · exact State.storeLines_outside (Place.ofKey m.row) m.lines s hj
  case noCommit =>
    exact fun m hfind h => stripeCommit_idle hfind h
  case pass =>
    intro a row m dst pass v hacc hfin hlast hpoison
    have hnone : x.acc.filter (fun b => b.id ≠ a.id) = [] := by
      rw [hacc]
      simp
    refine ⟨fun hfirst => ?_, fun hfirst hlen hstep => ?_⟩
    · refine ⟨_, congrArg Host.Outcome.next (bldPass_ends hacc hfin hlast hpoison hfirst), ?_, ?_, ?_, rfl, ?_⟩
      all_goals unfold State.finishBld
      · rw [State.modSlot_eq, State.slot_setSlot_self]
        rfl
      · rw [State.modSlot_eq, State.slot_setSlot_self]
        exact hnone
      · intro p hp
        rw [State.modSlot_eq, State.clu_setSlot, State.modClu_eq, State.clu_setClu_self] at hp
        simpa using (List.mem_filter.1 hp).2
      · rw [State.modSlot_eq, State.core_setSlot, State.modClu_eq, State.core_setClu, State.modCore_eq, State.core_setCore_self]
    · refine ⟨_, congrArg Host.Outcome.next (bldPass_fails hacc hfin hlast hpoison hfirst hlen hstep), ?_, ?_, ?_, rfl⟩
      all_goals rw [State.modSlot_eq, State.slot_setSlot_self]
      · rfl
      · exact hnone
      · rfl
  case hold =>
    exact ⟨_, rfl, rfl, s.slot_setSlot_self n _, fun m hm => s.slot_setSlot_of_ne _ _ _ hm⟩
  case noIso =>
    exact fun h => ⟨_, isochronePass_waits h, onlyClu_modClu s n id⟩
  case iso =>
    exact fun h => ⟨_, isochronePass_ends h, onlyClu_modClu s n _⟩

end Sys2Proof.Claims
end

section
/-! PROOFS. What every vector instruction shares (O48 to O52): the lanes of a register that is built lane by lane, the vector unit and
the normaliser, and the writes of a register, a mask and the sticky flags; then integer instructions (O48). -/

namespace Sys2Proof.Machine

open Sys2Proof.Claims

/-! ## Sixty-four digits (R111) -/

/-- The number whose 64 digits in base `B` are given, lane 0 the lowest. -/
def packed (B : Nat) (v : Nat → Nat) : Nat := (List.range 64).foldr (fun i acc => acc * B + v i) 0

theorem foldr_digit {B : Nat} {v : Nat → Nat} (hv : ∀ i, v i < B) (l : List Nat) (i : Nat) :
    l.foldr (fun k acc => acc * B + v k) 0 / B ^ i % B = (l[i]?.map v).getD 0 := by
  have hB : 0 < B := Nat.zero_lt_of_lt (hv 0)
  induction l generalizing i with
  | nil => simp
  | cons k l ih =>
    cases i with
    | zero => simp [Nat.mod_eq_of_lt (hv k)]
    | succ i =>
      rw [List.foldr_cons, pow_succ', ← Nat.div_div_eq_div_mul, Nat.mul_comm, Nat.mul_add_div hB, Nat.div_eq_of_lt (hv k), Nat.add_zero,
        ih, List.getElem?_cons_succ]

theorem foldr_lt {B : Nat} {v : Nat → Nat} (hv : ∀ i, v i < B) (l : List Nat) :
    l.foldr (fun k acc => acc * B + v k) 0 < B ^ l.length := by
  induction l with
  | nil => simp
  | cons k l ih =>
    calc l.foldr (fun k acc => acc * B + v k) 0 * B + v k
        < (l.foldr (fun k acc => acc * B + v k) 0 + 1) * B := by rw [Nat.add_mul]; have := hv k; omega
      _ ≤ B ^ (k :: l).length := by rw [List.length_cons, pow_succ]; exact Nat.mul_le_mul_right B ih

section

variable {v : Nat → Nat} {i : Nat}

/-- A field of `w` bits of a register of 64 of them. -/
theorem extractLsb'_packed {w n : Nat} (hn : n = 64 * w) (hv : ∀ i, v i < 2 ^ w) (hi : i < 64) :
    ((BitVec.ofNat n (packed (2 ^ w) v)).extractLsb' (w * i) w).toNat = v i := by
  have hlt : packed (2 ^ w) v < 2 ^ n := by
    rw [hn, Nat.mul_comm, pow_mul]
    exact (foldr_lt hv (List.range 64)).trans_eq (by rw [List.length_range])
  rw [BitVec.extractLsb'_toNat, BitVec.toNat_ofNat, Nat.mod_eq_of_lt hlt, Nat.shiftRight_eq_div_pow, pow_mul]
  exact (foldr_digit hv _ i).trans (by simp [hi])

theorem lane_packed (hv : ∀ i, v i < 2 ^ 32) (hi : i < 64) : lane (BitVec.ofNat 2048 (packed (2 ^ 32) v)) i = BitVec.ofNat 32 (v i) := by
  rw [← extractLsb'_packed (w := 32) (n := 2048) rfl hv hi, BitVec.ofNat_toNat, BitVec.setWidth_eq]
  rfl

theorem getLsbD_packed {b : Nat → Bool} (hi : i < 64) : (BitVec.ofNat 64 (packed 2 fun i => (b i).toNat)).getLsbD i = b i := by
  have h := extractLsb'_packed (w := 1) (n := 64) rfl (v := fun i => (b i).toNat) (fun i => (b i).toNat_lt) hi
  rw [BitVec.extractLsb'_toNat, Nat.one_mul, Nat.shiftRight_eq_div_pow, pow_one] at h
  rw [BitVec.getLsbD, Nat.testBit_eq_decide_div_mod_eq, h]
  cases b i <;> rfl

end

/-- A lane that `setLanes` writes, and one that it leaves (R113). -/
theorem lane_setLanes (old : BitVec 2048) (m : Word) (f : Nat → Nat) {i : Nat} (hi : i < 64) :
    lane (setLanes old m f) i = if m.getLsbD i then BitVec.ofNat 32 (f i) else lane old i := by
  have hv (k : Nat) : (if m.getLsbD k then f k % 2 ^ 32 else (lane old k).toNat) < 2 ^ 32 := by
    split
    · exact Nat.mod_lt _ (by decide)
    · exact (lane old k).isLt
  refine (lane_packed hv hi).trans ?_
  split
  · exact BitVec.eq_of_toNat_eq (by simp)
  · rw [BitVec.ofNat_toNat, BitVec.setWidth_eq]

/-- The lane of a result, as a number and as a word (R112). -/
theorem ofNat_laneExt (ty b : Nat) : BitVec.ofNat 32 (laneExt ty b) = extendedLane ty b := by
  have signed (w : Nat) (hw : 0 < w) (hty : tySigned ty = true) (hbits : tyBits ty = w) :
      BitVec.ofNat 32 (intBits 32 (tyVal ty b)) = (BitVec.ofNat w b).signExtend 32 := by
    have hval : tyVal ty b = (BitVec.ofNat w b).toInt := by
      rw [← signed_eq hw, BitVec.toNat_ofNat, Nat.mod_mod]
      simp only [tyVal, hty, hbits, Bool.true_and, decide_eq_true_eq]
    rw [hval, intBits, ← BitVec.toNat_ofInt, BitVec.ofNat_toNat, BitVec.setWidth_eq]
    rfl
  unfold laneExt extendedLane
  by_cases h0 : ty = 0
  · subst h0
    exact signed 8 (by decide) rfl rfl
  · by_cases h2 : ty = 2
    · subst h2
      exact signed 16 (by decide) rfl rfl
    · simp only [h0, h2, or_self, if_false]

/-! ## The units (R115, R116) -/

theorem myCore_run (s : State) : myCore s = .ok (s.core (slotCore s.cur), s) := rfl

@[simp] theorem unitTaken_cur (s : State) : (unitTaken s).cur = s.cur := by unfold unitTaken; split <;> rfl
@[simp] theorem unitTaken_cyc (s : State) : (unitTaken s).cyc = s.cyc := by unfold unitTaken; split <;> rfl
@[simp] theorem unitTaken_me (s : State) : (unitTaken s).me = s.me := by unfold unitTaken; split <;> rfl
@[simp] theorem unitTaken_mem (s : State) : (unitTaken s).mem = s.mem := by unfold unitTaken; split <;> rfl

/-- The vector unit accepts an instruction where it is free. -/
theorem vecUnit_run {s : State} (h : unitFree s) : vecUnit s = .ok (unitLate s, unitTaken s) := by
  unfold vecUnit unitLate unitTaken
  rw [M.bind_ok (M.get_run _)]
  split
  · rename_i hm
    rw [M.bind_ok (myCore_run _), M.bind_ok (waitIf_of (decide_eq_false (Nat.not_lt.mpr (h hm))) _ _), M.bind_ok (M.modCore_run _ _)]
    rfl
  · rfl

/-! ## What is written (R35, R46, R114) -/

theorem setV_run (d : Spec) (v : BitVec 2048) (lat : Nat) (s : State) : setV d v lat s = .ok ((), withVector s d v lat) := rfl

theorem setMask_run (d : Spec) (k : Word) (lat : Nat) (s : State) : setMask d k lat s = .ok ((), withMask s d k lat) := by
  unfold setMask withMask
  rw [M.bind_ok (M.get_run _), ite_not]
  split <;> rfl

@[simp] theorem withVector_cur (s : State) (d : Spec) (v : BitVec 2048) (lat : Nat) : (withVector s d v lat).cur = s.cur := rfl
@[simp] theorem withMask_cur (s : State) (d : Spec) (k : Word) (lat : Nat) : (withMask s d k lat).cur = s.cur := by
  unfold withMask; split <;> rfl

end Sys2Proof.Machine

namespace Sys2Proof.Claims

open Sys2Proof.Machine

/-! ## Integer instructions (O48) -/

/-- An operation on numbers that computes one on words of every width. -/
def Computes (op : Nat → Nat → Nat → Int) (g : (w : Nat) → BitVec w → BitVec w → BitVec w) : Prop :=
  ∀ (w : Nat) (x y : BitVec w), 0 < w → BitVec.ofInt w (op w x.toNat y.toNat) = g w x y

theorem sgn_toNat {w : Nat} (hw : 0 < w) (x : BitVec w) : sgn w x.toNat = x.toInt := by
  rw [← signed_eq hw x, Nat.mod_eq_of_lt x.isLt]
  rfl

section

variable {w : Nat} (x y : BitVec w)

/-- A word is what its number leaves at its own width. -/
theorem ofInt_toNat : BitVec.ofInt w (x.toNat : Int) = x := by rw [BitVec.ofInt_natCast, BitVec.ofNat_toNat, BitVec.setWidth_eq]

theorem ofInt_sub_toNat : BitVec.ofInt w ((x.toNat : Int) - y.toNat) = x - y := by
  rw [eq_sub_iff_add_eq]
  calc BitVec.ofInt w ((x.toNat : Int) - y.toNat) + y = BitVec.ofInt w ((x.toNat : Int) - y.toNat + y.toNat) := by
        rw [BitVec.ofInt_add, ofInt_toNat y]
    _ = x := by rw [Int.sub_add_cancel, ofInt_toNat]

theorem ofInt_vshlI : BitVec.ofInt w (vshlI w x.toNat y.toNat) = x <<< (y.toNat % w) := by
  rw [vshlI, BitVec.ofInt_natCast]
  exact BitVec.eq_of_toNat_eq (by rw [BitVec.toNat_ofNat, BitVec.toNat_shiftLeft, Nat.shiftLeft_eq])

theorem ofInt_vshrI : BitVec.ofInt w (vshrI w x.toNat y.toNat) = x >>> (y.toNat % w) := by
  rw [vshrI, ← Nat.shiftRight_eq_div_pow, ← BitVec.toNat_ushiftRight, ofInt_toNat]

theorem ofInt_vsarI (hw : 0 < w) : BitVec.ofInt w (vsarI w x.toNat y.toNat) = x.sshiftRight (y.toNat % w) := by
  rw [vsarI, sgn_toNat hw, ← Int.shiftRight_eq_div_pow, ← BitVec.toInt_sshiftRight, BitVec.ofInt_toInt]

end

/-- R124: each of the fifteen is issued with an operation that computes that of its row. -/
theorem exec_vectorIntTable (d a b : Spec) (f : Form) (s : State) : ∀ p ∈ vectorIntTable d a b f,
    ∃ op, Computes op p.2.1 ∧ exec p.1 s = issue p.1 (int2 f d a b op p.2.2) s := by
  simp only [vectorIntTable, List.forall_mem_cons]
  refine ⟨⟨_, ?add, rfl⟩, ⟨_, ?sub, rfl⟩, ⟨_, ?mul, rfl⟩, ⟨_, ?mulh, rfl⟩, ⟨_, ?mulhn, rfl⟩,
    ⟨_, ?and, rfl⟩, ⟨_, ?or, rfl⟩, ⟨_, ?xor, rfl⟩, ⟨_, ?shl, rfl⟩, ⟨_, ?shr, rfl⟩, ⟨_, ?sar, rfl⟩,
    ⟨_, ?smin, rfl⟩, ⟨_, ?smax, rfl⟩, ⟨_, ?umin, rfl⟩, ⟨_, ?umax, rfl⟩,
    List.forall_mem_nil _⟩ <;> intro w x y hw <;> beta_reduce
  case add => rw [BitVec.ofInt_add, ofInt_toNat, ofInt_toNat]
  case sub => exact ofInt_sub_toNat x y
  case mul => rw [BitVec.ofInt_mul, ofInt_toNat, ofInt_toNat]
  case mulh => rw [sgn_toNat hw, sgn_toNat hw, Nat.cast_pow]; rfl
  case mulhn => exact BitVec.ofInt_natCast _ _
  case and => rw [← BitVec.toNat_and, ofInt_toNat]
  case or => rw [← BitVec.toNat_or, ofInt_toNat]
  case xor => rw [← BitVec.toNat_xor, ofInt_toNat]
  case shl => exact ofInt_vshlI x y
  case shr => exact ofInt_vshrI x y
  case sar => exact ofInt_vsarI x y hw
  case smin => rw [sgn_toNat hw, sgn_toNat hw, Int.min_def, apply_ite (BitVec.ofInt w), BitVec.ofInt_toInt, BitVec.ofInt_toInt]
  case smax =>
    rw [sgn_toNat hw, sgn_toNat hw, Int.max_def, apply_ite (BitVec.ofInt w), BitVec.ofInt_toInt, BitVec.ofInt_toInt]
    simp only [← not_le, ite_not]
  case umin => rw [Nat.min_def, apply_ite Nat.cast, apply_ite (BitVec.ofInt w), ofInt_toNat, ofInt_toNat]
  case umax =>
    rw [Nat.max_def, apply_ite Nat.cast, apply_ite (BitVec.ofInt w), ofInt_toNat, ofInt_toNat]
    simp only [← not_le, ite_not]

theorem tyBits_pos (ty : Nat) : 0 < tyBits ty := by unfold tyBits; split <;> decide

/-- The operation on a pair of elements, which are numbers below the width (R124). -/
theorem Computes.elements {op : Nat → Nat → Nat → Int} {g : (w : Nat) → BitVec w → BitVec w → BitVec w} (h : Computes op g)
    (u : State) (ty : Nat) (a b : Spec) (i : Nat) :
    intBits (tyBits ty) (op (tyBits ty) (elem ty (u.me.vreg a) i) (elem ty (u.me.vreg b) i))
      = (g (tyBits ty) (BitVec.ofNat _ (element u ty a i)) (BitVec.ofNat _ (element u ty b i))).toNat := by
  have small (c : Spec) : (BitVec.ofNat (tyBits ty) (element u ty c i)).toNat = elem ty (u.me.vreg c) i := by
    rw [BitVec.toNat_ofNat, element, Nat.mod_mod, elem]
  rw [← h (tyBits ty) _ _ (tyBits_pos ty), small, small, BitVec.toNat_ofInt, intBits]

/-- An integer instruction where the unit is free. -/
theorem int2_run {u : State} (free : unitFree u) (f : Form) (d a b : Spec) (op : Nat → Nat → Nat → Int) (lat : Nat) :
    int2 f d a b op lat u = .ok ((), withVector (unitTaken u) d (setLanes (u.me.vreg d) (u.me.kmask f.mask) fun i => laneExt (f.ty 4)
      (intBits (tyBits (f.ty 4)) (op (tyBits (f.ty 4)) (elem (f.ty 4) (u.me.vreg a) i) (elem (f.ty 4) (u.me.vreg b) i))))
      (lat + unitLate u)) := by
  unfold int2
  rw [M.bind_ok (M.me_run _), M.bind_ok (vecUnit_run free), setV_run]

/-- Settles O48: an integer instruction writes its lanes, each of which computes the row's operation on words of the element's width. -/
theorem vectorInteger : Obligations.VectorInteger := by
  intro d a b f p hp r s h u ty w free
  obtain ⟨op, hop, he⟩ := exec_vectorIntTable d a b f s p hp
  obtain ⟨t, ht, hfin⟩ := issue_completed h (int2_run free f d a b op p.2.2) (by simp [u])
  refine ⟨t, _, he.trans ht, hfin, fun i hi => ?_⟩
  rw [lane_setLanes _ _ _ hi, ofNat_laneExt, hop.elements u ty a b i]
  rfl

end Sys2Proof.Claims
end

section
/-! PROOFS. Comparisons and masks (O50): what the normaliser, the sticky flags and the destinations of the vector unit have to do with
each other, one pass over the lanes, and the instructions. -/

namespace Sys2Proof.Machine

open Sys2Proof.Claims

/-! ## The normaliser, the divider and the flags (R114 to R116) -/

@[simp] theorem normTaken_cur (s : State) (n : Bool) : (normTaken s n).cur = s.cur := by unfold normTaken; split <;> rfl
@[simp] theorem normTaken_cyc (s : State) (n : Bool) : (normTaken s n).cyc = s.cyc := by unfold normTaken; split <;> rfl
@[simp] theorem dividerTaken_cur (s : State) (b : Bool) : (dividerTaken s b).cur = s.cur := by unfold dividerTaken; split <;> rfl
@[simp] theorem dividerTaken_cyc (s : State) (b : Bool) : (dividerTaken s b).cyc = s.cyc := by unfold dividerTaken; split <;> rfl
@[simp] theorem dividerTaken_me (s : State) (b : Bool) : (dividerTaken s b).me = s.me := by unfold dividerTaken; split <;> rfl
@[simp] theorem unitLate_dividerTaken (s : State) (b : Bool) : unitLate (dividerTaken s b) = unitLate s := by simp [unitLate]
@[simp] theorem unitsLate_dividerTaken (s : State) (b n : Bool) : unitsLate (dividerTaken s b) n = unitsLate s n := by simp [unitsLate]
@[simp] theorem withFlags_cur (s : State) (f : Form) (g : BitVec 320) (w : List (Res × Nat)) : (withFlags s f g w).cur = s.cur := by
  unfold withFlags; split <;> rfl

/-- Where the units are free, the vector unit and then the normaliser, where it is used, take the instruction. -/
theorem units_run {s : State} (h : unitsFree s false) (n : Bool) {β : Type} (k : Nat → Nat → M β) :
    (do let u ← vecUnit; let e ← normaliser n; k u e : M β) s = k (unitLate s) (if n then 8 else 0) (normTaken (unitTaken s) n) := by
  obtain ⟨unit, norm, -⟩ := h
  have hcore : ((unitTaken s).core (slotCore (unitTaken s).cur)).normFree = (s.core (slotCore s.cur)).normFree := by
    rw [unitTaken_cur]
    unfold unitTaken
    split
    · rw [State.modCore_eq, State.core_setCore_self]
    · rfl
  have hnorm : normaliser n (unitTaken s) = .ok (if n then 8 else 0, normTaken (unitTaken s) n) := by
    unfold normaliser normTaken
    cases n with
    | false => rfl
    | true =>
      rw [if_pos rfl, M.bind_ok (M.get_run _), M.bind_ok (myCore_run _),
        M.bind_ok (waitIf_of (decide_eq_false (Nat.not_lt.mpr (by rw [hcore, unitTaken_cyc]; exact norm))) _ _)]
      rfl
  rw [M.bind_ok (vecUnit_run unit), M.bind_ok hnorm]

theorem vecDivider_run {s : State} (h : (s.core (slotCore s.cur)).vdivFree ≤ s.cyc) :
    vecDivider s = .ok ((), dividerTaken s true) := by
  unfold vecDivider
  rw [M.bind_ok (M.get_run _), M.bind_ok (myCore_run _), M.bind_ok (waitIf_of (decide_eq_false (Nat.not_lt.mpr h)) _ _)]
  rfl

/-- Raising flags delays no other resource. -/
theorem raiseFlags_run (f : Form) (fl lat : Nat) (s : State) :
    ∃ w, raiseFlags f fl lat s = .ok ((), withFlags s f (BitVec.ofNat 320 fl) w) ∧
    ∀ p ∈ s.me.avail, p.1 ≠ .flags → p ∈ ((withFlags s f (BitVec.ofNat 320 fl) w).slot s.cur).avail := by
  unfold raiseFlags withFlags
  rw [M.bind_ok (M.get_run _)]
  cases f.quiet with
  | true => exact ⟨[], rfl, fun p hp _ => hp⟩
  | false =>
    refine ⟨_, rfl, fun p hp hne => ?_⟩
    rw [if_neg (by decide), State.modSlot_eq, State.slot_setSlot_self]
    exact List.mem_cons_of_mem _ (List.mem_filter.mpr ⟨hp, by simpa using hne⟩)

/-! ## Destinations that are no buffer slots -/

section

variable {d : Spec} (hd : isHandle d = false) (s : State) (f : Form)
include hd

/-- Such a destination asks of a core what is armed there, and nothing else. -/
theorem canWrite_setCore (n : Nat) {x : Core} (hx : x.armedS = (s.core n).armedS) : (s.setCore n x).canWrite f d = s.canWrite f d := by
  have harmed : isArmed (s.setCore n x) d = isArmed s d := by
    unfold isArmed
    rw [State.core_setCore, State.setCore_cur, State.me_setCore]
    split
    · rename_i h
      rw [hx, h]
    · rfl
  unfold State.canWrite
  simp only [hd, Bool.false_eq_true, if_false, harmed]
  rfl

/-- When the thread may issue again is no matter of its destinations. -/
theorem canWrite_notBefore (c : Nat) : (s.modSlot s.cur fun x => { x with notBefore := c }).canWrite f d = s.canWrite f d := by
  have hme : (s.modSlot s.cur fun x => { x with notBefore := c }).me = { s.me with notBefore := c } := State.me_setSlot_cur s _
  have hslot (n : Nat) : ∃ b, (s.modSlot s.cur fun x => { x with notBefore := c }).slot n = { s.slot n with notBefore := b } := by
    rw [State.modSlot_eq, State.slot_setSlot]
    split
    · subst_vars
      exact ⟨c, rfl⟩
    · exact ⟨_, rfl⟩
  obtain ⟨b, hnext⟩ := hslot (nextSlot s.cur)
  have hroom (q : Nat) : (s.modSlot s.cur fun x => { x with notBefore := c }).hopRoom s.cur q = s.hopRoom s.cur q := by
    unfold State.hopRoom
    rw [State.modSlot_eq, State.slot_setSlot_self]
    rfl
  have harmed : isArmed (s.modSlot s.cur fun x => { x with notBefore := c }) d = isArmed s d := by
    unfold isArmed
    rw [hme]
    rfl
  unfold State.canWrite
  simp only [hd, Bool.false_eq_true, if_false, harmed, hme]
  rw [show (s.modSlot s.cur fun x => { x with notBefore := c }).cur = s.cur from rfl, hnext, hroom]
  rfl

theorem canWrite_unitTaken : (unitTaken s).canWrite f d = s.canWrite f d := by
  unfold unitTaken
  split
  · exact canWrite_setCore hd s f _ rfl
  · rfl

theorem canWrite_normTaken (n : Bool) : (normTaken s n).canWrite f d = s.canWrite f d := by
  unfold normTaken
  split
  · exact (canWrite_notBefore hd (s.setCore _ _) f _).trans (canWrite_setCore hd s f _ rfl)
  · rfl

end

/-! ## One pass over the lanes -/

/-- A pass that adds a digit to each of two numbers, and notes whether any lane says so. -/
theorem foldr_lanes {step : Nat → Nat × Nat × Bool → Nat × Nat × Bool} (B C : Nat) (v g : Nat → Nat) (n : Nat → Bool)
    (h : ∀ i acc, step i acc = (acc.1 * B + v i, acc.2.1 * C + g i, acc.2.2 || n i)) :
    (List.range 64).foldr step (0, 0, false) = (packed B v, packed C g, (List.range 64).any n) := by
  unfold packed
  generalize List.range 64 = l
  induction l with
  | nil => rfl
  | cons i l ih => simp only [List.foldr_cons, List.any_cons, ih, h, Bool.or_comm]

theorem any_range_iff {n : Nat → Bool} : (List.range 64).any n = true ↔ ∃ i < 64, n i = true := by simp

/-! ## Elements and masks -/

theorem elem_lt (ty : Nat) (v : BitVec 2048) (i : Nat) : elem ty v i < 2 ^ tyBits ty := Nat.mod_lt _ (Nat.two_pow_pos _)

/-- A pattern is what its number leaves modulo the width (R108). -/
theorem tyVal_emod {ty p : Nat} (hp : p < 2 ^ tyBits ty) : tyVal ty p % ((2 ^ tyBits ty : Nat) : Int) = p := by
  unfold tyVal
  dsimp only
  rw [Nat.mod_eq_of_lt hp]
  split
  · rw [Int.sub_emod_right, ← Int.natCast_mod, Nat.mod_eq_of_lt hp]
  · rw [← Int.natCast_mod, Nat.mod_eq_of_lt hp]

/-- Elements that stand for one number are one pattern. -/
theorem tyVal_inj {ty p q : Nat} (hp : p < 2 ^ tyBits ty) (hq : q < 2 ^ tyBits ty) : tyVal ty p = tyVal ty q ↔ p = q := by
  refine ⟨fun h => ?_, congrArg _⟩
  exact Int.ofNat_inj.mp ((tyVal_emod hp).symm.trans ((congrArg (· % _) h).trans (tyVal_emod hq)))

theorem getLsbD_kmask (u : State) (a : Spec) {i : Nat} (hi : i < 64) : (u.me.kmask (a.extractLsb' 0 3)).getLsbD i = maskBit u a i := by
  unfold Slot.kmask maskBit
  by_cases h : a.extractLsb' 0 3 = 0
  · rw [if_pos h, if_pos (c := _ = 0#3) h, BitVec.getLsbD_allOnes, decide_eq_true hi]
  · rw [if_neg h, if_neg (c := _ = 0#3) h]

end Sys2Proof.Machine

namespace Sys2Proof.Claims

open Sys2Proof.Machine

/-! ## Comparisons (R126) -/

/-- A comparison raises at most the first flag. -/
theorem compareLane_flags (ty c p q : Nat) : (compareLane ty c p q).2 < 32 := by
  unfold compareLane
  split
  · unfold Fmt.cmp
    dsimp only
    split
    · exact (Bool.toNat_lt _).trans (by decide)
    · exact (Bool.toNat_lt _).trans (by decide)
  · exact Nat.zero_lt_succ _

section

variable {d a b : Spec} {f : Form} {r : Raw} {s : State}

/-- What `VCMP` leaves: the mask, the flags, and the normaliser where an active lane has a subnormal. -/
theorem vcmp_completed {c : BitVec 6} (h : Ready (.vcmp d a b c f) r s) (free : unitsFree (s.entered r) false) :
    let u := s.entered r
    let ty := f.ty 10
    let one (i : Nat) : Bool × Nat := compareLane ty c.toNat (element u ty a i) (element u ty b i)
    let n := (List.range 64).any fun i => active u f i && (isSubnormal ty (element u ty a i) || isSubnormal ty (element u ty b i))
    ∃ t w, exec (.vcmp d a b c f) s = .next t ∧
      Finished r s ((withFlags (withMask (unitsTaken u false n) d (BitVec.ofNat 64 (packed 2 fun i => (active u f i && (one i).1).toNat))
        (4 + unitsLate u n)) f (BitVec.ofNat 320 (packed 32 fun i => if active u f i then (one i).2 else 0)) w).take s.cur r.taken) t := by
  intro u ty one n
  obtain ⟨w, hw, -⟩ := raiseFlags_run f (packed 32 fun i => if active u f i then (one i).2 else 0) (4 + unitsLate u n)
    (withMask (unitsTaken u false n) d (BitVec.ofNat 64 (packed 2 fun i => (active u f i && (one i).1).toNat)) (4 + unitsLate u n))
  rw [exists_comm]
  refine ⟨w, issue_completed (i := .vcmp d a b c f) h ?_ (by simp [unitsTaken, u])⟩
  rw [M.bind_ok (M.me_run _)]
  dsimp only
  rw [foldr_lanes 2 32 (fun i => (active u f i && (one i).1).toNat) (fun i => if active u f i then (one i).2 else 0)
    (fun i => active u f i && (isSubnormal ty (element u ty a i) || isSubnormal ty (element u ty b i))) ?step]
  case step =>
    intro i acc
    have hinj : tyVal ty (element u ty a i) = tyVal ty (element u ty b i) ↔ element u ty a i = element u ty b i :=
      tyVal_inj (elem_lt ty (u.me.vreg a) i) (elem_lt ty (u.me.vreg b) i)
    change (if active u f i = true then _ else _) = _
    cases hm : active u f i with
    | false => simp
    | true =>
      rw [if_pos rfl, if_pos rfl, Bool.true_and, Bool.true_and]
      refine (congrArg (fun x : Bool × Nat => (acc.1 * 2 + x.1.toNat, acc.2.1 * 32 + x.2, acc.2.2 || _)) (?_ : _ = one i)).trans
        (congrArg (fun x : Bool => (_, _, acc.2.2 || x)) (Bool.and_or_distrib_left _ _ _))
      change _ = compareLane ty c.toNat (element u ty a i) (element u ty b i)
      by_cases ht : tyFloat ty = true
      · exact (if_pos ht).trans (if_pos ht).symm
      · refine (if_neg ht).trans (Eq.trans ?_ (if_neg ht).symm)
        generalize c.toNat = k
        rcases k with _ | _ | _ | _ | _ | k
        case zero => exact congrArg (·, 0) (decide_eq_decide.mpr hinj.symm)
        case succ.zero => exact congrArg (·, 0) (decide_eq_decide.mpr (not_congr hinj.symm))
        all_goals rfl
  dsimp only
  rw [units_run free, M.bind_ok (setMask_run _ _ _ _), Nat.add_assoc]
  exact hw

/-- R126: `VCMP`. -/
theorem vcmp_compares (c : BitVec 6) (h : Ready (.vcmp d a b c f) r s) (free : unitsFree (s.entered r) false) :
    let u := s.entered r
    let ty := f.ty 10
    let one (i : Nat) : Bool × Nat := compareLane ty c.toNat (element u ty a i) (element u ty b i)
    ∃ (t : State) (k : Word) (g : BitVec 320) (n : Bool) (w : List (Res × Nat)), exec (.vcmp d a b c f) s = .next t ∧
      Finished r s ((withFlags (withMask (unitsTaken u false n) d k (4 + unitsLate u n)) f g w).take s.cur r.taken) t ∧
      (n = true ↔ ∃ i < 64, active u f i = true ∧
        (isSubnormal ty (element u ty a i) = true ∨ isSubnormal ty (element u ty b i) = true)) ∧
      ∀ i < 64, k.getLsbD i = (active u f i && (one i).1) ∧
        (g.extractLsb' (5 * i) 5).toNat = if active u f i then (one i).2 else 0 := by
  intro u ty one
  obtain ⟨t, w, ht, hfin⟩ := vcmp_completed h free
  refine ⟨t, _, _, _, w, ht, hfin, any_range_iff.trans (by simp only [Bool.and_eq_true, Bool.or_eq_true]; rfl), fun i hi =>
    ⟨getLsbD_packed hi, extractLsb'_packed (w := 5) (n := 320) rfl (fun j => ?_) hi⟩⟩
  split
  · exact compareLane_flags _ _ _ _
  · decide

/-! ## Masks (R127) -/

/-- Each of the four is issued with an operation that computes that of its row bit by bit. -/
theorem exec_maskTable (d a b : Spec) (f : Form) (s : State) : ∀ p ∈ maskTable d a b f,
    ∃ op : Word → Word → Word, (∀ x y i, i < 64 → (op x y).getLsbD i = p.2 (x.getLsbD i) (y.getLsbD i)) ∧
      exec p.1 s = issue p.1 (mask2 d a b op) s := by
  simp only [maskTable, List.forall_mem_cons]
  refine ⟨⟨_, ?and, rfl⟩, ⟨_, ?or, rfl⟩, ⟨_, ?xor, rfl⟩, ⟨fun x _ => ~~~x, ?not, rfl⟩, List.forall_mem_nil _⟩
  case and => exact fun x y i _ => BitVec.getLsbD_and
  case or => exact fun x y i _ => BitVec.getLsbD_or
  case xor => exact fun x y i _ => BitVec.getLsbD_xor
  case not => exact fun x y i hi => by rw [BitVec.getLsbD_not, decide_eq_true hi, Bool.true_and]

theorem mask2_run {u : State} (free : unitFree u) (d a b : Spec) (op : Word → Word → Word) : mask2 d a b op u
    = .ok ((), withMask (unitTaken u) d (op (u.me.kmask (a.extractLsb' 0 3)) (u.me.kmask (b.extractLsb' 0 3))) (3 + unitLate u)) := by
  unfold mask2
  rw [M.bind_ok (M.me_run _), M.bind_ok (vecUnit_run free), setMask_run]

theorem masks : ∀ p ∈ maskTable d a b f, Ready p.1 r s → unitFree (s.entered r) →
    ∃ t k, exec p.1 s = .next t ∧
      Finished r s ((withMask (unitTaken (s.entered r)) d k (3 + unitLate (s.entered r))).take s.cur r.taken) t ∧
      ∀ i < 64, k.getLsbD i = p.2 (maskBit (s.entered r) a i) (maskBit (s.entered r) b i) := by
  intro p hp h free
  obtain ⟨op, hop, he⟩ := exec_maskTable d a b f s p hp
  obtain ⟨t, ht, hfin⟩ := issue_completed h (mask2_run free d a b op) (by simp)
  refine ⟨t, _, he.trans ht, hfin, fun i hi => ?_⟩
  rw [hop _ _ i hi, getLsbD_kmask _ _ hi, getLsbD_kmask _ _ hi]

/-- The population of a mask is that of the bits it reads as. -/
theorem popcW_kmask (u : State) (a : Spec) :
    popcW (u.me.kmask (a.extractLsb' 0 3)) = BitVec.ofNat 64 ((List.range 64).filter fun i => maskBit u a i).length := by
  unfold popcW popN
  exact congrArg (fun l : List Nat => BitVec.ofNat 64 l.length)
    (List.filter_congr fun i hi => getLsbD_kmask u a (List.mem_range.mp hi))

/-- R127: an instruction that writes a scalar from what a mask reads as. -/
theorem mask_read {i : Instr} (h : Ready i r s) (free : unitFree (s.entered r)) (hd : isHandle d = false)
    (hw : (s.entered r).canWrite f d) (op : Slot → Word) :
    ∃ t, issue i (do let x ← me; let u ← vecUnit; dst f d (op x) (3 + u)) s = .next t ∧ Finished r s
      (((unitTaken (s.entered r)).put f d (op (s.entered r).me) (3 + unitLate (s.entered r))).take s.cur r.taken) t := by
  refine issue_completed h ?_ (by simp)
  rw [M.bind_ok (M.me_run _), M.bind_ok (vecUnit_run free)]
  exact dst_put _ _ (by rwa [canWrite_unitTaken hd])

theorem kmovk_writes (v : Word) (h : Ready (.kmovk d a f) r s) (free : unitFree (s.entered r)) (ha : isHandle a = false)
    (hv : (s.entered r).reads f a = some v) : ∃ t, exec (.kmovk d a f) s = .next t ∧
      Finished r s ((withMask (unitTaken (s.entered r)) d v (3 + unitLate (s.entered r))).take s.cur r.taken) t := by
  refine issue_completed (i := .kmovk d a f) h ?_ (by simp)
  rw [M.bind_ok (src_reads hv), touched_eq_self ha, M.bind_ok (vecUnit_run free), setMask_run]

/-- R127: `VSEL` takes the lanes of one register or the other. -/
theorem vsel_selects (h : Ready (.vsel d a b f) r s) (free : unitFree (s.entered r)) :
    let u := s.entered r
    ∃ t v, exec (.vsel d a b f) s = .next t ∧ Finished r s ((withVector (unitTaken u) d v (3 + unitLate u)).take s.cur r.taken) t ∧
      ∀ i < 64, lane v i = if maskBit u f.c i then lane (u.me.vreg a) i else lane (u.me.vreg b) i := by
  intro u
  suffices hrun : ∃ t, exec (.vsel d a b f) s = .next t ∧ Finished r s ((withVector (unitTaken u) d (setLanes (u.me.vreg b)
      (u.me.kmask (f.c.extractLsb' 0 3)) fun i => (lane (u.me.vreg a) i).toNat) (3 + unitLate u)).take s.cur r.taken) t by
    obtain ⟨t, ht, hfin⟩ := hrun
    refine ⟨t, _, ht, hfin, fun i hi => ?_⟩
    rw [lane_setLanes _ _ _ hi, getLsbD_kmask _ _ hi, BitVec.ofNat_toNat, BitVec.setWidth_eq]
  refine issue_completed (i := .vsel d a b f) h ?_ (by simp [u])
  rw [M.bind_ok (M.me_run _), M.bind_ok (vecUnit_run free), setV_run]

end

/-- Settles O50: a comparison and the mask instructions write a mask bit by bit; the others read a mask or select by one. -/
theorem vectorCompareAndMask : Obligations.VectorCompareAndMask := by
  intro d a b f r s u
  refine ⟨fun c h free => vcmp_compares c h free, masks,
    fun h free hw => ?kpop, fun h free hw => ?kmovw, fun v h free hv => ?kmovk, vsel_selects⟩
  case kpop =>
    obtain rfl := Option.some.inj h.raw
    have hd := Raw.operand_not_handle h.operands rfl (k := 1) (x := d) (.inr rfl) List.mem_cons_self
    rw [← popcW_kmask]
    exact mask_read (i := .kpop d a f) h free hd hw fun x => popcW (x.kmask (a.extractLsb' 0 3))
  case kmovw =>
    obtain rfl := Option.some.inj h.raw
    have hd := Raw.operand_not_handle h.operands rfl (k := 1) (x := d) (.inr rfl) List.mem_cons_self
    obtain ⟨t, ht, hfin⟩ := mask_read (i := .kmovw d a f) h free hd hw fun x => x.kmask (a.extractLsb' 0 3)
    exact ⟨t, _, ht, hfin, fun i hi => getLsbD_kmask _ _ hi⟩
  case kmovk =>
    obtain rfl := Option.some.inj h.raw
    exact kmovk_writes v h free (Raw.operand_not_handle h.operands rfl (k := 2) (x := a) (.inl rfl)
      (List.mem_cons_of_mem _ List.mem_cons_self)) hv

end Sys2Proof.Claims
end

section
/-! PROOFS. Floating-point instructions lane by lane (O49): one effect for the eighteen of them, and what it leaves in each lane. -/

namespace Sys2Proof.Machine

open Sys2Proof.Claims

/-! ## One pass of a float instruction (R112, R113, R115, R116) -/

/-- The results of a pass, their flags, and whether the normaliser is used, as digits and as a test of lanes. -/
theorem eachLane_eq (m : Word) (old : BitVec 2048) (op : Nat → Nat × Nat × Bool) : eachLane m old op =
    (packed (2 ^ 32) fun i => (if m.getLsbD i then (op i).1 else (lane old i).toNat) % 2 ^ 32,
      packed 32 fun i => (if m.getLsbD i then (op i).2.1 else 0) % 32, (List.range 64).any fun i => m.getLsbD i && (op i).2.2) := by
  unfold eachLane
  refine foldr_lanes _ _ _ _ _ fun i acc => ?_
  cases m.getLsbD i <;> rfl

/-- The register that is written is available after its delay (R46). -/
theorem withVector_avail (s : State) (d : Spec) (v : BitVec 2048) (lat : Nat) :
    (Res.vreg (d.extractLsb' 0 5), s.cyc + lat) ∈ (withVector s d v lat).me.avail := by
  unfold withVector
  rw [State.modSlot_eq, State.me_setSlot_cur]
  exact List.mem_cons_self

section

variable {u : State} (free : unitsFree u false) (f : Form) (d : Spec) (src dst : Nat) (as : List Spec) (op : List Nat → Nat × Nat)
  (norm : Bool) (lat : Nat)
include free

/-- What a float instruction leaves: each lane's result with its flags, the normaliser where an active lane meets a subnormal, and
when the register is available. -/
theorem floatLanes_run :
    let args (i : Nat) : List Nat := as.map fun x => element u src x i
    ∃ (v : BitVec 2048) (g : BitVec 320) (n : Bool) (w : List (Res × Nat)),
      floatLanes f d src dst (as.map u.me.vreg) op norm lat u
        = .ok ((), withFlags (withVector (normTaken (unitTaken u) n) d v (lat + unitsLate u n)) f g w) ∧
      (n = true ↔ norm = true ∧ ∃ i < 64, active u f i = true ∧
        ((∃ e ∈ args i, isSubnormal src e = true) ∨ isSubnormal dst (op (args i)).1 = true)) ∧
      (Res.vreg (d.extractLsb' 0 5), u.cyc + lat + unitsLate u n) ∈
        ((withFlags (withVector (normTaken (unitTaken u) n) d v (lat + unitsLate u n)) f g w).slot u.cur).avail ∧
      ∀ i < 64,
        lane v i = (if active u f i then extendedLane dst (op (args i)).1 else lane (u.me.vreg d) i) ∧
        (g.extractLsb' (5 * i) 5).toNat = if active u f i then (op (args i)).2 % 32 else 0 := by
  intro args
  have hargs (i : Nat) : (as.map u.me.vreg).map (fun r => elem src r i) = args i := List.map_map
  let n := (List.range 64).any fun i => active u f i && (norm && ((args i).any (isSubnormal src) || isSubnormal dst (op (args i)).1))
  let v := packed (2 ^ 32) fun i => (if active u f i then laneExt dst (op (args i)).1 else (lane (u.me.vreg d) i).toNat) % 2 ^ 32
  let g := packed 32 fun i => (if active u f i then (op (args i)).2 else 0) % 32
  obtain ⟨w, hw, havail⟩ := raiseFlags_run f g (lat + unitsLate u n)
    (withVector (normTaken (unitTaken u) n) d (BitVec.ofNat 2048 v) (lat + unitsLate u n))
  refine ⟨BitVec.ofNat 2048 v, BitVec.ofNat 320 g, n, w, ?run, ?norm, ?avail, fun i hi => ⟨?lane, ?flags⟩⟩
  case run =>
    unfold floatLanes
    rw [M.bind_ok (M.me_run _)]
    dsimp only
    simp only [eachLane_eq, hargs]
    rw [units_run free, M.bind_ok (setV_run _ _ _ _), Nat.add_assoc]
    exact hw
  case norm =>
    refine any_range_iff.trans ?_
    simp only [Bool.and_eq_true, Bool.or_eq_true, List.any_eq_true]
    exact ⟨fun ⟨i, hi, ha, hn, h⟩ => ⟨hn, i, hi, ha, h⟩, fun ⟨hn, i, hi, ha, h⟩ => ⟨i, hi, ha, hn, h⟩⟩
  case avail =>
    have h := withVector_avail (normTaken (unitTaken u) n) d (BitVec.ofNat 2048 v) (lat + unitsLate u n)
    rw [normTaken_cyc, unitTaken_cyc, ← Nat.add_assoc] at h
    have := havail _ h Res.noConfusion
    rwa [withVector_cur, normTaken_cur, unitTaken_cur] at this
  case lane =>
    refine (lane_packed (fun _ => Nat.mod_lt _ (by decide)) hi).trans ?_
    split
    · rw [← ofNat_laneExt]
      exact BitVec.eq_of_toNat_eq (by simp)
    · rw [Nat.mod_eq_of_lt (lane (u.me.vreg d) i).isLt, BitVec.ofNat_toNat, BitVec.setWidth_eq]
  case flags =>
    refine (extractLsb'_packed (w := 5) (n := 320) rfl (fun _ => Nat.mod_lt _ (by decide)) hi).trans ?_
    split <;> rfl

end

end Sys2Proof.Machine

namespace Sys2Proof.Claims

open Sys2Proof.Machine

/-! ## The eighteen instructions (R122, R123, R125) -/

/-- The pass over the lanes that a row of the table names. -/
def FloatOp.lanes (p : FloatOp) (f : Form) (d : Spec) : M Unit := do
  let x ← me
  floatLanes f d p.src p.dst (p.args.map x.vreg) p.op p.norm p.lat

/-- Each row is issued with its pass, behind the divider where it uses that. -/
theorem exec_floatTable (d a b : Spec) (sr t : BitVec 4) (f : Form) (s : State) : ∀ p ∈ floatTable d a b sr t f,
    exec p.instr s = issue p.instr (if p.divide then (do vecDivider; p.lanes f d) else p.lanes f d) s := by
  simp only [floatTable, List.forall_mem_cons]
  exact ⟨rfl, rfl, rfl, rfl, rfl, rfl, rfl, rfl, rfl, rfl, rfl, rfl, rfl, rfl, rfl, rfl, rfl, rfl, List.forall_mem_nil _⟩

/-- Taking the divider leaves the vector unit and the normaliser as free as they were. -/
theorem unitsFree_dividerTaken {u : State} {b : Bool} (h : unitsFree u b) : unitsFree (dividerTaken u b) false := by
  obtain ⟨unit, norm, -⟩ := h
  have hcore : ((dividerTaken u b).core (slotCore u.cur)).vecFree = (u.core (slotCore u.cur)).vecFree ∧
      ((dividerTaken u b).core (slotCore u.cur)).normFree = (u.core (slotCore u.cur)).normFree := by
    unfold dividerTaken
    split
    · rw [State.modCore_eq, State.core_setCore_self]
      exact ⟨rfl, rfl⟩
    · exact ⟨rfl, rfl⟩
  refine ⟨fun hm => ?_, ?_, nofun⟩
  · rw [dividerTaken_cur] at hm ⊢
    rw [hcore.1, dividerTaken_cyc]
    exact unit hm
  · rw [dividerTaken_cur, hcore.2, dividerTaken_cyc]
    exact norm

/-- The effect of a row where the units that it needs are free. -/
theorem FloatOp.effect_run (p : FloatOp) (f : Form) (d : Spec) {u : State} (free : unitsFree u p.divide) :
    (if p.divide then (do vecDivider; p.lanes f d) else p.lanes f d) u
      = floatLanes f d p.src p.dst (p.args.map u.me.vreg) p.op p.norm p.lat (dividerTaken u p.divide) := by
  have hlanes (y : State) : p.lanes f d y = floatLanes f d p.src p.dst (p.args.map y.me.vreg) p.op p.norm p.lat y :=
    M.bind_ok (M.me_run y)
  obtain ⟨-, -, divider⟩ := free
  cases hp : p.divide with
  | false => exact hlanes u
  | true =>
    rw [if_pos rfl, M.bind_ok (vecDivider_run (divider hp))]
    exact hlanes _

/-- R112 to R116, R122, R123, R125: the eighteen instructions, in every lane. -/
theorem vectorFloat : VectorFloat := by
  intro d a b sr ty f p hp r s h u args free
  have hactive (i : Nat) : active (dividerTaken u p.divide) f i = active u f i := by rw [active, dividerTaken_me]; rfl
  have helement (x : Spec) (i : Nat) : element (dividerTaken u p.divide) p.src x i = element u p.src x i := by
    rw [element, dividerTaken_me]; rfl
  obtain ⟨v, g, n, w, hrun, hn, havail, hlanes⟩ := floatLanes_run (unitsFree_dividerTaken free) f d p.src p.dst p.args p.op p.norm p.lat
  simp only [hactive, helement, dividerTaken_me, dividerTaken_cyc, unitsLate_dividerTaken, dividerTaken_cur] at hrun hn havail hlanes
  have hcur : u.cur = s.cur := s.entered_cur r
  obtain ⟨t, ht, hfin⟩ := issue_completed h ((p.effect_run f d free).trans hrun) (by simp [hcur])
  refine ⟨t, v, g, n, w, (exec_floatTable d a b sr ty f s p hp).trans ht, hfin, hn, ?_, hlanes⟩
  obtain ⟨⟨q, pv, htake⟩, -⟩ := State.take_took _ s.cur r.taken
  rw [hfin.slot, htake, ← hcur]
  exact havail

end Sys2Proof.Claims
end

section
/-! PROOFS. What the float operations deliver (O49): values that are exact, NaNs, invalid operations and poles. -/

namespace Sys2Proof.Machine

/-! ## Patterns and their values (R106) -/

section

variable (z : Fmt) (x : Nat)

/-- The sign, the exponent and the fraction of a pattern. -/
def Fmt.signOf : Bool := decide (z.signBit ≤ x % 2 ^ z.width)
def Fmt.expOf : Nat := x % 2 ^ z.width / 2 ^ z.fb % 2 ^ z.eb
def Fmt.fracOf : Nat := x % 2 ^ z.width % 2 ^ z.fb

theorem Fmt.decode_eq : z.decode x =
    if z.expOf x = z.expMax then if z.fracOf x = 0 then .inf (z.signOf x) else .nan (decide (z.fracOf x < 2 ^ (z.fb - 1)))
    else if z.expOf x = 0 then .fin (z.signOf x) (z.fracOf x) (1 - z.bias - z.fb)
    else .fin (z.signOf x) (2 ^ z.fb + z.fracOf x) ((z.expOf x : Int) - z.bias - z.fb) := rfl

/-- A pattern is its three parts. -/
theorem Fmt.parts : z.signed (z.signOf x) (z.expOf x * 2 ^ z.fb + z.fracOf x) = x % 2 ^ z.width := by
  have hlow : z.expOf x * 2 ^ z.fb + z.fracOf x = x % 2 ^ z.width % z.signBit := by
    rw [Fmt.signBit, Nat.add_comm z.eb, pow_add, Nat.mod_mul, Nat.add_comm, Nat.mul_comm]
    rfl
  have hlt : x % 2 ^ z.width < 2 * z.signBit := by
    rw [Fmt.signBit, ← pow_succ']
    exact Nat.mod_lt _ (Nat.two_pow_pos _)
  rw [hlow, Fmt.signed, Fmt.signOf]
  simp only [decide_eq_true_eq]
  split
  · rename_i h
    rw [Nat.mod_eq_sub_mod h, Nat.mod_eq_of_lt (by omega)]
    omega
  · rename_i h
    exact Nat.mod_eq_of_lt (Nat.lt_of_not_le h)

theorem Fmt.fracOf_lt : z.fracOf x < 2 ^ z.fb := Nat.mod_lt _ (Nat.two_pow_pos _)
theorem Fmt.expOf_le : z.expOf x ≤ z.expMax := Nat.le_sub_one_of_lt (Nat.mod_lt _ (Nat.two_pow_pos _))

end

section

variable {z : Fmt} {x m : Nat} {n : Bool} {e : Int}

/-- A pattern whose value is finite is a subnormal or zero, or is normal. -/
theorem Fmt.decode_fin (h : z.decode x = .fin n m e) : n = z.signOf x ∧
    ((z.expOf x = 0 ∧ m = z.fracOf x ∧ e = 1 - z.bias - z.fb) ∨
      (0 < z.expOf x ∧ z.expOf x < z.expMax ∧ m = 2 ^ z.fb + z.fracOf x ∧ e = (z.expOf x : Int) - z.bias - z.fb)) := by
  rw [Fmt.decode_eq] at h
  split at h
  · split at h <;> cases h
  · rename_i hmax
    split at h
    · obtain ⟨rfl, rfl, rfl⟩ := Fl.fin.inj h
      exact ⟨rfl, .inl ⟨‹_›, rfl, rfl⟩⟩
    · obtain ⟨rfl, rfl, rfl⟩ := Fl.fin.inj h
      exact ⟨rfl, .inr ⟨Nat.pos_of_ne_zero ‹_›, Nat.lt_of_le_of_ne (z.expOf_le x) hmax, rfl, rfl⟩⟩

/-- The pattern of an infinity. -/
theorem Fmt.decode_inf (h : z.decode x = .inf n) : z.signed n z.inf = x % 2 ^ z.width := by
  rw [Fmt.decode_eq] at h
  split at h
  · rename_i hmax
    split at h
    · rename_i hfrac
      obtain rfl := Fl.inf.inj h
      rw [← z.parts x, hmax, hfrac]
      rfl
    · cases h
  · split at h <;> cases h

/-- The pattern of a zero: of a format that has a fraction, no normal value is one. -/
theorem Fmt.decode_zero (h : z.decode x = .fin n 0 e) : z.signed n 0 = x % 2 ^ z.width := by
  obtain ⟨rfl, ⟨hexp, hfrac, -⟩ | ⟨-, -, hm, -⟩⟩ := Fmt.decode_fin h
  · rw [← z.parts x, hexp, ← hfrac, Nat.zero_mul]
  · exact absurd hm (Nat.ne_of_lt (Nat.add_pos_left (Nat.two_pow_pos _) _))

/-! ## Exact values (R107) -/

/-- Nothing is rounded where nothing is discarded. -/
theorem roundsUp_zero (rm : Nat) (neg odd : Bool) {half : Nat} (h : 0 < half) : roundsUp rm neg odd 0 half = false := by
  unfold roundsUp
  split <;> simp <;> omega

/-- A value of the format's own precision and range is delivered as its pattern, with no flag. -/
theorem Fmt.round_exact (rm : Nat) (hm : m ≠ 0) (hlt : m < 2 ^ (z.fb + 1)) (hmin : 1 - (z.bias : Int) - z.fb ≤ e)
    (hnorm : e = 1 - z.bias - z.fb ∨ 2 ^ z.fb ≤ m) (hmax : e + z.fb ≤ z.bias) :
    z.round rm n m e false = (z.signed n (if m < 2 ^ z.fb then m else (e + z.fb + z.bias).toNat * 2 ^ z.fb + (m - 2 ^ z.fb)), 0) := by
  have hlog : Nat.log2 m ≤ z.fb := Nat.le_of_lt_succ ((Nat.log2_lt hm).mpr hlt)
  have hq : max ((Nat.log2 (2 * m) : Int) + (e - 1) - z.fb) (1 - z.bias - z.fb) = e := by
    rw [Nat.log2_two_mul hm]
    rcases hnorm with h | h
    · omega
    · have := (Nat.le_log2 hm).mpr h
      omega
  have hsh : e - (e - 1) = 1 := by omega
  have hover : ¬ (2 ^ z.fb ≤ m ∧ (z.bias : Int) < e + z.fb) := by omega
  unfold Fmt.round
  simp only [hm, false_and, if_false, Bool.toNat_false, Nat.add_zero, hq, hsh]
  simp [roundsUp_zero, hover, Nat.ne_of_lt hlt]

/-- The formats of the device have a bias that is half the greatest exponent (R106). -/
theorem Fmt.bias_of {z : Fmt} (hz : z ∈ [Fmt.f16, Fmt.bf16, Fmt.f32]) : 0 < z.bias ∧ z.expMax = 2 * z.bias + 1 := by
  revert z
  decide

/-- R107: the value of a pattern is delivered as the pattern, with no flag, under every rounding mode. -/
theorem Fmt.round_decode (hz : 0 < z.bias ∧ z.expMax = 2 * z.bias + 1) (rm : Nat) (h : z.decode x = .fin n m e) :
    z.round rm n m e false = (x % 2 ^ z.width, 0) := by
  obtain ⟨hbias, htop⟩ := hz
  by_cases hm : m = 0
  · subst hm
    rw [← Fmt.decode_zero h]
    rfl
  · have hfrac := z.fracOf_lt x
    have hpow : 2 ^ (z.fb + 1) = 2 * 2 ^ z.fb := pow_succ' 2 z.fb
    obtain ⟨rfl, ⟨hexp, rfl, rfl⟩ | ⟨hpos, hlt, rfl, rfl⟩⟩ := Fmt.decode_fin h
    · rw [Fmt.round_exact rm hm (by omega) (by omega) (.inl rfl) (by omega), if_pos hfrac, ← z.parts x, hexp, Nat.zero_mul, Nat.zero_add]
    · have hval : ((z.expOf x : Int) - z.bias - z.fb + z.fb + z.bias).toNat = z.expOf x := by omega
      rw [Fmt.round_exact rm hm (by omega) (by omega) (.inr (by omega)) (by omega), if_neg (by omega), hval, Nat.add_sub_cancel_left,
        z.parts x]

end

/-! ## NaNs (R107) -/

theorem Fl.isNan_iff {a : Fl} : a.isNan = true ↔ ∃ s, a = .nan s := by
  cases a <;> simp [Fl.isNan]

section

variable (z : Fmt) (rm : Nat) {x y : Nat}

theorem Fmt.nanOf_pair (a b : Fl) : z.nanOf [a, b] = (z.qnan, if a.isSnan = true ∨ b.isSnan = true then 1 else 0) := by
  simp [Fmt.nanOf]

theorem Fmt.addV_nan {a b : Fl} (h : a.isNan = true ∨ b.isNan = true) : z.addV rm a b = z.nanOf [a, b] := by
  rw [Fl.isNan_iff, Fl.isNan_iff] at h
  obtain ⟨s, rfl⟩ | ⟨s, rfl⟩ := h
  · cases b <;> rfl
  · cases a <;> rfl

theorem Fmt.mul_nan (h : (z.decode x).isNan = true ∨ (z.decode y).isNan = true) :
    z.mul rm x y = z.nanOf [z.decode x, z.decode y] := by
  rw [Fl.isNan_iff, Fl.isNan_iff] at h
  unfold Fmt.mul
  dsimp only
  obtain ⟨s, hs⟩ | ⟨s, hs⟩ := h
  · rw [hs]
  · rw [hs]
    cases z.decode x <;> rfl

theorem Fmt.div_nan (h : (z.decode x).isNan = true ∨ (z.decode y).isNan = true) :
    z.div rm x y = z.nanOf [z.decode x, z.decode y] := by
  rw [Fl.isNan_iff, Fl.isNan_iff] at h
  unfold Fmt.div
  dsimp only
  obtain ⟨s, hs⟩ | ⟨s, hs⟩ := h
  · rw [hs]
  · rw [hs]
    cases z.decode x <;> rfl

theorem Fl.negate_isNan (a : Fl) : a.negate.isNan = a.isNan := by cases a <;> rfl
theorem Fl.negate_isSnan (a : Fl) : a.negate.isSnan = a.isSnan := by cases a <;> rfl

/-- A NaN operand of a binary operation. -/
theorem Fmt.binary_nan (h : (z.decode x).isNan = true ∨ (z.decode y).isNan = true) :
    ∀ op ∈ [z.add rm, z.sub rm, z.mul rm, z.div rm],
      op x y = (z.qnan, if (z.decode x).isSnan = true ∨ (z.decode y).isSnan = true then 1 else 0) := by
  simp only [List.forall_mem_cons, ← Fmt.nanOf_pair]
  refine ⟨Fmt.addV_nan z rm h, ?_, Fmt.mul_nan z rm h, Fmt.div_nan z rm h, List.forall_mem_nil _⟩
  refine (Fmt.addV_nan z rm (by rwa [Fl.negate_isNan])).trans ?_
  rw [Fmt.nanOf_pair, Fmt.nanOf_pair, Fl.negate_isSnan]

/-- A NaN operand of a unary one. -/
theorem Fmt.unary_nan (h : (z.decode x).isNan = true) : ∀ op ∈ [z.sqrt rm, z.rcp rm, z.rsq rm, z.exp2 rm, z.log2 rm, z.rint rm],
    op x = (z.qnan, if (z.decode x).isSnan = true then 1 else 0) := by
  obtain ⟨s, hs⟩ := Fl.isNan_iff.mp h
  rw [hs, show (if (Fl.nan s).isSnan = true then 1 else 0) = s.toNat by cases s <;> rfl]
  simp only [List.forall_mem_cons, Fmt.sqrt, Fmt.rcp, Fmt.rsq, Fmt.exp2, Fmt.log2, Fmt.rint, hs]
  exact ⟨trivial, trivial, trivial, trivial, trivial, trivial, List.forall_mem_nil _⟩

/-- A minimum or maximum of a NaN and a number is the number (R122). -/
theorem Fmt.minMax_nan (isMax : Bool) (hx : (z.decode x).isNan = true) (hy : (z.decode y).isNan = false) :
    (z.minMax isMax x y).1 = y % 2 ^ z.width := by
  simp [Fmt.minMax, hx, hy]

end

/-! ## Infinities and zeros (R107, R122) -/

section

variable {z : Fmt} (rm : Nat) {x y m : Nat} {n k : Bool} {e e' : Int}

theorem Fmt.add_inf_opposite (hx : z.decode x = .inf n) (hy : z.decode y = .inf !n) : z.add rm x y = z.invalid := by
  rw [Fmt.add, hx, hy]
  cases n <;> rfl

theorem Fmt.add_inf_same (hx : z.decode x = .inf n) (hy : z.decode y = .inf n) : z.add rm x y = (x % 2 ^ z.width, 0) := by
  rw [Fmt.add, hx, hy, ← Fmt.decode_inf hx]
  exact if_pos rfl

theorem Fmt.sub_inf_same (hx : z.decode x = .inf n) (hy : z.decode y = .inf n) : z.sub rm x y = z.invalid := by
  rw [Fmt.sub, hx, hy]
  cases n <;> rfl

theorem Fmt.mul_inf_zero (hx : z.decode x = .inf n) (hy : z.decode y = .fin k 0 e) :
    z.mul rm x y = z.invalid ∧ z.mul rm y x = z.invalid := by
  simp [Fmt.mul, hx, hy]

theorem Fmt.div_zero_zero (hx : z.decode x = .fin n 0 e) (hy : z.decode y = .fin k 0 e') : z.div rm x y = z.invalid := by
  simp [Fmt.div, hx, hy]

theorem Fmt.div_zero (hx : z.decode x = .fin n m e) (hm : m ≠ 0) (hy : z.decode y = .fin k 0 e') :
    z.div rm x y = (z.signed (n != k) z.inf, 2) := by
  simp [Fmt.div, hx, hy, hm]

theorem Fmt.root_negative (hx : z.decode x = .fin true m e) (hm : m ≠ 0) :
    z.sqrt rm x = z.invalid ∧ z.rsq rm x = z.invalid ∧ z.log2 rm x = z.invalid := by
  simp [Fmt.sqrt, Fmt.rsq, Fmt.log2, hx, hm]

theorem Fmt.root_zero (hx : z.decode x = .fin n 0 e) :
    z.sqrt rm x = (x % 2 ^ z.width, 0) ∧ z.rcp rm x = (z.signed n z.inf, 2) ∧ z.log2 rm x = (z.signed true z.inf, 2) := by
  rw [← Fmt.decode_zero hx]
  simp [Fmt.sqrt, Fmt.rcp, Fmt.log2, hx]

end

/-! ## Operands in either order -/

section

variable (z : Fmt) (rm : Nat)

theorem dyAdd_comm (n1 n2 : Bool) (m1 m2 : Nat) (e1 e2 : Int) : dyAdd n1 m1 e1 n2 m2 e2 = dyAdd n2 m2 e2 n1 m1 e1 := by
  unfold dyAdd
  rw [min_comm e1 e2]
  exact congrArg (·, min e2 e1) (Int.add_comm _ _)

theorem zeroSign_comm (n k : Bool) : zeroSign rm n k = zeroSign rm k n := by
  cases n <;> cases k <;> rfl

theorem Fmt.nanOf_comm (a b : Fl) : z.nanOf [a, b] = z.nanOf [b, a] := by
  rw [Fmt.nanOf_pair, Fmt.nanOf_pair]
  simp only [or_comm]

theorem Fmt.addV_fin (n k : Bool) (m l : Nat) (e e' : Int) : z.addV rm (.fin n m e) (.fin k l e')
    = z.roundInt rm (zeroSign rm n k) (dyAdd n m e k l e').1 (dyAdd n m e k l e').2 := rfl

theorem Fmt.addV_comm (a b : Fl) : z.addV rm a b = z.addV rm b a := by
  by_cases hnan : a.isNan = true ∨ b.isNan = true
  · rw [Fmt.addV_nan z rm hnan, Fmt.addV_nan z rm hnan.symm, Fmt.nanOf_comm]
  · match a, b with
    | .nan _, _ => exact absurd (.inl rfl) hnan
    | _, .nan _ => exact absurd (.inr rfl) hnan
    | .inf n, .inf k => cases n <;> cases k <;> rfl
    | .inf _, .fin _ _ _ => rfl
    | .fin _ _ _, .inf _ => rfl
    | .fin n m e, .fin k l e' => rw [Fmt.addV_fin, Fmt.addV_fin, dyAdd_comm, zeroSign_comm]

theorem Fmt.mul_comm (x y : Nat) : z.mul rm x y = z.mul rm y x := by
  by_cases hnan : (z.decode x).isNan = true ∨ (z.decode y).isNan = true
  · rw [Fmt.mul_nan z rm hnan, Fmt.mul_nan z rm hnan.symm, Fmt.nanOf_comm]
  · unfold Fmt.mul
    dsimp only
    generalize z.decode x = a at *
    generalize z.decode y = b at *
    match a, b with
    | .nan _, _ => exact absurd (.inl rfl) hnan
    | _, .nan _ => exact absurd (.inr rfl) hnan
    | .inf n, .inf k => cases n <;> cases k <;> rfl
    | .inf _, .fin _ _ _ => rfl
    | .fin _ _ _, .inf _ => rfl
    | .fin n m e, .fin k l e' => simp only [Nat.mul_comm m l, Int.add_comm e e', bne_comm (a := n)]

end

end Sys2Proof.Machine

namespace Sys2Proof.Claims

open Sys2Proof.Machine

/-- R107: what the formats deliver of exact values, NaNs, invalid operations and poles. -/
theorem floatResults : FloatResults := by
  intro z hz rm x y a b bits
  refine ⟨fun n m e h => Fmt.round_decode (Fmt.bias_of hz) rm h, fun op hop h => Fmt.binary_nan z rm h op hop,
    fun op hop h => Fmt.unary_nan z rm h op hop, fun n => Fmt.add_inf_opposite rm,
    fun n ha hb => ⟨Fmt.add_inf_same rm ha hb, Fmt.sub_inf_same rm ha hb⟩, fun n k e => Fmt.mul_inf_zero rm,
    fun n k e e' => Fmt.div_zero_zero rm, fun n m k e e' => Fmt.div_zero rm, fun m e => Fmt.root_negative rm, fun n e => Fmt.root_zero rm,
    fun ha hb => ⟨Fmt.minMax_nan z false ha hb, Fmt.minMax_nan z true ha hb⟩, Fmt.addV_comm z rm a b, Fmt.mul_comm z rm x y⟩

/-- Settles O49: the eighteen instructions in every lane, and what the formats deliver of exact values and of the special ones. -/
theorem vectorFloats : Obligations.VectorFloats := ⟨vectorFloat, floatResults⟩

end Sys2Proof.Claims
end

section
/-! PROOFS. Reductions and lane instructions (O51): the fixed tree, the destination of a reduction, and each lane of the others. -/

namespace Sys2Proof.Machine

open Sys2Proof.Claims

/-! ## The fixed tree (R128) -/

section

variable {α : Type} (z : α) (op : α → α → α)

/-- A tree over the halves of a list is one over the halves of its numbers. -/
theorem reduceTree_eq (n : Nat) (x : Nat → α) : reduceTree z op n ((List.range (2 ^ n)).map x) = halves op n x := by
  induction n generalizing x with
  | zero => rfl
  | succ n ih =>
    have hsplit : (List.range (2 ^ (n + 1))).map x = (List.range (2 ^ n)).map x ++ (List.range (2 ^ n)).map fun i => x (2 ^ n + i) := by
      rw [pow_succ, Nat.mul_two, List.range_add, List.map_append, List.map_map]
      rfl
    have hlen : ((List.range (2 ^ n)).map x).length = 2 ^ n := by simp
    rw [reduceTree, hsplit, List.take_left' hlen, List.drop_left' hlen, List.zipWith_map, List.zipWith_self, ih]
    rfl

theorem reduceTree_lanes (x : Nat → α) : reduceTree z op 6 ((List.range 64).map x) = halves op 6 x := reduceTree_eq z op 6 x

end

/-! ## The effects of reductions (R128) -/

section

variable {u : State} {f : Form} {d : Spec} (hd : isHandle d = false) (hw : u.canWrite f d)
include hd hw

theorem intRed_run (free : unitFree u) (a : Spec) (ident : Nat → Int) (op : Int → Int → Int) : intRed f d a ident op u
    = .ok ((), (unitTaken u).put f d (BitVec.ofInt 64 (halves op 6 fun i =>
      if active u f i then tyVal (f.ty 4) (element u (f.ty 4) a i) else ident (f.ty 4))) (6 + unitLate u)) := by
  unfold intRed
  rw [M.bind_ok (M.me_run _), M.bind_ok (vecUnit_run free), reduceTree_lanes]
  exact dst_put _ _ (by rwa [canWrite_unitTaken hd])

theorem bitRed_run (free : unitFree u) (a : Spec) (ident : Nat → Nat) (op : Nat → Nat → Nat) : bitRed f d a ident op u
    = .ok ((), (unitTaken u).put f d (BitVec.ofNat 64 (halves op 6 fun i =>
      if active u f i then element u (f.ty 4) a i else ident (tyBits (f.ty 4)))) (6 + unitLate u)) := by
  unfold bitRed redLanes
  rw [M.bind_ok (M.me_run _), M.bind_ok (vecUnit_run free), reduceTree_lanes]
  exact dst_put _ _ (by rwa [canWrite_unitTaken hd])

/-- A float reduction's flags go to lane 0, and it uses the normaliser for a subnormal among its operands or as its result. -/
theorem floatRed_run (free : unitsFree u false) (hty : tyFloat (f.ty 10) = true) (a : Spec) (ident : Fmt → Nat)
    (op : Fmt → Nat → Nat → Nat × Nat) :
    let z := Fmt.ofType (f.ty 10)
    let lanes (i : Nat) : Nat × Nat := (if active u f i then element u (f.ty 10) a i else ident z, 0)
    let total := halves (fun x y => ((op z x.1 y.1).1, x.2 ||| y.2 ||| (op z x.1 y.1).2)) 6 lanes
    ∃ (n : Bool) (w : List (Res × Nat)), floatRed f d a ident op u = .ok ((), withFlags ((normTaken (unitTaken u) n).put f d
        (BitVec.ofNat 64 total.1) (10 + unitsLate u n)) f (BitVec.ofNat 320 total.2) w) ∧
      (n = true ↔ isSubnormal (f.ty 10) total.1 = true ∨
        ∃ i < 64, active u f i = true ∧ isSubnormal (f.ty 10) (element u (f.ty 10) a i) = true) := by
  intro z lanes total
  let n := ((List.range 64).any fun i => active u f i && z.subnormal (element u (f.ty 10) a i)) || z.subnormal total.1
  have htotal : reduceTree ((0, 0) : Nat × Nat) (fun p q => let (v, g) := op z p.1 q.1; (v, p.2 ||| q.2 ||| g)) 6
      ((redLanes u.me f a (f.ty 10) (ident z)).map fun v => (v, 0)) = total := by
    rw [redLanes, List.map_map, reduceTree_lanes]
    rfl
  obtain ⟨w, hflags, -⟩ := raiseFlags_run f total.2 (10 + unitsLate u n)
    ((normTaken (unitTaken u) n).put f d (BitVec.ofNat 64 total.1) (10 + unitsLate u n))
  refine ⟨n, w, ?run, ?norm⟩
  case run =>
    have hw' : (normTaken (unitTaken u) n).canWrite f d := by rwa [canWrite_normTaken hd, canWrite_unitTaken hd]
    have hgate : dstGate f d u = .ok ((), u) := by rw [dstGate_of hw, hd]; rfl
    unfold floatRed
    rw [M.bind_ok (M.me_run _)]
    dsimp only
    rw [htotal, M.bind_ok hgate, units_run free, Nat.add_assoc]
    exact (M.bind_ok (dst_put _ _ hw')).trans hflags
  case norm =>
    simp only [n, Bool.or_eq_true, any_range_iff, Bool.and_eq_true, isSubnormal, hty, Bool.true_and]
    exact or_comm

end

/-! ## Types (R114) -/

/-- The type of an instruction in the extended form is one that it accepts. -/
theorem Raw.type_mem {r : Raw} {x : Ext} (h : r.wf = true) (hx : r.f.ext? = some x) : x.ty.toNat ∈ r.types := by
  have hext : r.extOk x = true := by
    unfold Raw.wf at h
    cases hf : r.f with
    | base => rw [hf] at hx; cases hx
    | lit v => rw [hf] at hx; cases hx
    | ext y i =>
      rw [hf] at hx h
      obtain rfl := Option.some.inj hx
      exact (Bool.and_eq_true_iff.mp (Bool.and_eq_true_iff.mp h).2).1
    | extLit y i v =>
      rw [hf] at hx h
      obtain rfl := Option.some.inj hx
      exact (Bool.and_eq_true_iff.mp (Bool.and_eq_true_iff.mp h).2).1
  simp only [Raw.extOk, Bool.and_eq_true] at hext
  obtain ⟨⟨⟨⟨⟨-, htypes⟩, -⟩, -⟩, -⟩, -⟩ := hext
  exact List.contains_iff_mem.mp htypes

theorem Issues.raw_wf {i : Instr} {r : Raw} {s : State} (h : Issues i r s) : r.wf = true := by
  have hwf := h.wf
  unfold Instr.wf at hwf
  rw [h.raw] at hwf
  exact (Bool.and_eq_true_iff.mp hwf).1

/-- A float reduction has a float type. -/
theorem floatRed_type {i : Instr} {r : Raw} {s : State} (h : Issues i r s) (hmaj : r.maj = 0x2D) (hfn : r.fn.toNat ≤ 2) :
    tyFloat (r.f.ty 10) = true := by
  unfold Form.ty
  cases hx : r.f.ext? with
  | none => rfl
  | some x =>
    have htypes : r.types = floatTypes := by simp [Raw.types, hmaj, hfn]
    have := Raw.type_mem h.raw_wf hx
    rw [htypes] at this
    exact List.contains_iff_mem.mpr this

theorem reduction_dst {i : Instr} {r : Raw} {s : State} (h : Ready i r s) (hmaj : r.maj = 0x2D) : isHandle r.d = false := by
  have hroles : r.roles = [(1, r.d, .dst), (2, r.a, .vreg)] := by simp [Raw.roles, hmaj]
  exact Raw.operand_not_handle h.operands (by simp [Raw.bufferValue, hmaj]) (k := 1) (.inr rfl) (by rw [hroles]; exact List.mem_cons_self)

/-! ## Lane instructions (R129) -/

theorem laneOp_run {u : State} (free : unitFree u) (f : Form) (d : Spec) (op : Slot → Nat → Nat) (lat : Nat) : laneOp f d op lat u
    = .ok ((), withVector (unitTaken u) d (setLanes (u.me.vreg d) (u.me.kmask f.mask) (op u.me)) (lat + unitLate u)) := by
  unfold laneOp
  rw [M.bind_ok (M.me_run _), M.bind_ok (vecUnit_run free), setV_run]

/-- An instruction that completes with its lanes set has the lanes of its operation where it is active, and the old ones elsewhere. -/
theorem lanes_completed {i : Instr} {r : Raw} {s u : State} {f : Form} {d : Spec} {lat : Nat} {op : Nat → Nat} {g : Nat → Word32}
    (h : ∃ t, exec i s = .next t ∧ Finished r s ((withVector (unitTaken u) d (setLanes (u.me.vreg d) (u.me.kmask f.mask) op)
      (lat + unitLate u)).take s.cur r.taken) t)
    (hg : ∀ k, BitVec.ofNat 32 (op k) = g k) :
    ∃ t v, exec i s = .next t ∧ Finished r s ((withVector (unitTaken u) d v (lat + unitLate u)).take s.cur r.taken) t ∧
      ∀ k < 64, lane v k = if active u f k then g k else lane (u.me.vreg d) k := by
  obtain ⟨t, ht, hfin⟩ := h
  exact ⟨t, _, ht, hfin, fun k hk => (lane_setLanes _ _ _ hk).trans (by rw [hg]; rfl)⟩

/-- A scalar source of an instruction whose operands are no buffer slots: the read leaves the state as it is. -/
theorem src_scalar {f : Form} {x : Spec} {u : State} {v : Word} (h : isHandle x = false) (hv : u.reads f x = some v) :
    src f x u = .ok (v, u) := by
  rw [src_reads hv, touched_eq_self h]

/-- The flags of the lanes that a mask names are cleared, and no other. -/
theorem extractLsb'_keep (vf : BitVec 320) (m : Word) {i : Nat} (hi : i < 64) :
    (vf &&& BitVec.ofNat 320 (packed 32 fun i => if m.getLsbD i then 0 else 31)).extractLsb' (5 * i) 5
      = if m.getLsbD i then 0 else vf.extractLsb' (5 * i) 5 := by
  have hkeep : (BitVec.ofNat 320 (packed 32 fun i => if m.getLsbD i then 0 else 31)).extractLsb' (5 * i) 5
      = if m.getLsbD i then 0 else BitVec.allOnes 5 := by
    refine BitVec.eq_of_toNat_eq ((extractLsb'_packed (w := 5) (n := 320) rfl (fun k => ?_) hi).trans ?_)
    · split <;> decide
    · split <;> rfl
  rw [BitVec.extractLsb'_and, hkeep]
  split
  · exact BitVec.and_zero
  · exact BitVec.and_allOnes

end Sys2Proof.Machine

namespace Sys2Proof.Claims

open Sys2Proof.Machine

/-! ## Reductions (R128) -/

section

variable (d a : Spec) (f : Form) (s : State)

theorem exec_intReductions : ∀ p ∈ intReductions d a f, ∃ ident : Nat → Int, ident (f.ty 4) = p.2.1 ∧
    exec p.1 s = issue p.1 (intRed f d a ident p.2.2) s := by
  simp only [intReductions, List.forall_mem_cons]
  exact ⟨⟨fun _ => 0, rfl, rfl⟩, ⟨tyMin, rfl, rfl⟩, ⟨tyMax, rfl, rfl⟩, List.forall_mem_nil _⟩

theorem exec_bitReductions : ∀ p ∈ bitReductions d a f, ∃ ident : Nat → Nat, ident (tyBits (f.ty 4)) = p.2.1 ∧
    exec p.1 s = issue p.1 (bitRed f d a ident p.2.2) s := by
  simp only [bitReductions, List.forall_mem_cons]
  exact ⟨⟨fun w => 2 ^ w - 1, rfl, rfl⟩, ⟨fun _ => 0, rfl, rfl⟩, List.forall_mem_nil _⟩

theorem exec_floatReductions : ∀ p ∈ floatReductions d a f, ∃ (ident : Fmt → Nat) (op : Fmt → Nat → Nat → Nat × Nat),
    ident (Fmt.ofType (f.ty 10)) = p.2.1 ∧ op (Fmt.ofType (f.ty 10)) = p.2.2 ∧ exec p.1 s = issue p.1 (floatRed f d a ident op) s := by
  simp only [floatReductions, List.forall_mem_cons]
  exact ⟨⟨fun t => t.signBit, fun t => t.add f.rm, rfl, rfl, rfl⟩,
    ⟨fun t => t.signBit + t.inf, fun t => t.minMax true, rfl, rfl, rfl⟩,
    ⟨fun t => t.inf, fun t => t.minMax false, rfl, rfl, rfl⟩, List.forall_mem_nil _⟩

/-- The words of the reductions: one major, the destination in D, and a function of at most 2 for those over floats. -/
theorem raw_intReductions : ∀ p ∈ intReductions d a f, ∃ fn, p.1.raw = some ⟨0x2D, d, a, 0, fn, f⟩ := by
  simp only [intReductions, List.forall_mem_cons]
  exact ⟨⟨_, rfl⟩, ⟨_, rfl⟩, ⟨_, rfl⟩, List.forall_mem_nil _⟩

theorem raw_bitReductions : ∀ p ∈ bitReductions d a f, ∃ fn, p.1.raw = some ⟨0x2D, d, a, 0, fn, f⟩ := by
  simp only [bitReductions, List.forall_mem_cons]
  exact ⟨⟨_, rfl⟩, ⟨_, rfl⟩, List.forall_mem_nil _⟩

theorem raw_floatReductions : ∀ p ∈ floatReductions d a f, ∃ fn, p.1.raw = some ⟨0x2D, d, a, 0, fn, f⟩ ∧ fn.toNat ≤ 2 := by
  simp only [floatReductions, List.forall_mem_cons]
  exact ⟨⟨0, rfl, by decide⟩, ⟨1, rfl, by decide⟩, ⟨2, rfl, by decide⟩, List.forall_mem_nil _⟩

end

/-- R128: every reduction completes with the fixed tree over its lanes. -/
theorem vectorReductions : VectorReductions := by
  intro d a f r s u hw
  refine ⟨fun p hp h free => ?int, fun p hp h free => ?bits, fun p hp h free => ?float⟩
  case int =>
    obtain ⟨fn, hraw⟩ := raw_intReductions d a f p hp
    obtain rfl := Option.some.inj (hraw.symm.trans h.raw)
    obtain ⟨ident, hident, he⟩ := exec_intReductions d a f s p hp
    rw [he, ← hident]
    exact issue_completed h (intRed_run (reduction_dst h rfl) hw free a ident p.2.2) (by simp [u])
  case bits =>
    obtain ⟨fn, hraw⟩ := raw_bitReductions d a f p hp
    obtain rfl := Option.some.inj (hraw.symm.trans h.raw)
    obtain ⟨ident, hident, he⟩ := exec_bitReductions d a f s p hp
    rw [he, ← hident]
    exact issue_completed h (bitRed_run (reduction_dst h rfl) hw free a ident p.2.2) (by simp [u])
  case float =>
    obtain ⟨fn, hraw, hfn⟩ := raw_floatReductions d a f p hp
    obtain rfl := Option.some.inj (hraw.symm.trans h.raw)
    obtain ⟨ident, op, hident, hop, he⟩ := exec_floatReductions d a f s p hp
    rw [he, ← hident, ← hop]
    obtain ⟨n, w, hrun, hn⟩ := floatRed_run (reduction_dst h rfl) hw free (floatRed_type h.toIssues rfl hfn) a ident op
    obtain ⟨t, ht, hfin⟩ := issue_completed h hrun (by simp [u])
    exact ⟨t, n, w, ht, hfin, hn⟩

/-! ## Lane instructions (R129) -/

section

variable {d a b : Spec} {f : Form} {r : Raw} {s : State} {x y : Word}

/-- R129: each lane instruction that writes a vector register reads its scalars and then writes its lanes. -/
theorem laneTable_completed : ∀ p ∈ laneTable (s.entered r) d a b f, Ready p.1 r s → unitFree (s.entered r) →
    (p.2.1 = true → (s.entered r).reads f a = some x) → (p.2.2.1 = true → (s.entered r).reads f b = some y) →
    ∃ t v, exec p.1 s = .next t ∧
      Finished r s ((withVector (unitTaken (s.entered r)) d v (p.2.2.2.2 + unitLate (s.entered r))).take s.cur r.taken) t ∧
      ∀ i < 64, lane v i = if active (s.entered r) f i then p.2.2.2.1 x y i else lane ((s.entered r).me.vreg d) i := by
  have second {k : Nat} {c : Spec} {l : List (Nat × Spec × Role)} {e : Nat × Spec × Role} :
      (k, c, Role.src) ∈ e :: (k, c, Role.src) :: l :=
    List.mem_cons_of_mem _ List.mem_cons_self
  have word (v : Word32) : BitVec.ofNat 32 v.toNat = v := by rw [BitVec.ofNat_toNat, BitVec.setWidth_eq]
  simp only [laneTable, List.forall_mem_cons]
  refine ⟨fun h free hx hy => ?vbcast, fun h free hx hy => ?vperm, fun h free hx hy => ?vrot, fun h free hx hy => ?vsetl,
    fun h free hx hy => ?viota, fun h free hx hy => ?vflgr, List.forall_mem_nil _⟩
  case vbcast =>
    obtain rfl := Option.some.inj h.raw
    have ha := Raw.operand_not_handle h.operands rfl (k := 2) (x := a) (.inl rfl) second
    exact lanes_completed (issue_completed (i := .vbcast d a f) h
      ((M.bind_ok (src_scalar ha (hx trivial))).trans (laneOp_run free f d _ 3)) (by simp)) fun k => BitVec.ofNat_toNat _ _
  case vperm =>
    exact lanes_completed (issue_completed (i := .vperm d a b f) h (laneOp_run free f d _ 4) (by simp)) fun k => word _
  case vrot =>
    obtain rfl := Option.some.inj h.raw
    have hb := Raw.operand_not_handle h.operands rfl (k := 3) (x := b) (.inl rfl) (List.mem_cons_of_mem _ second)
    exact lanes_completed (issue_completed (i := .vrot d a b f) h
      ((M.bind_ok (src_scalar hb (hy trivial))).trans (laneOp_run free f d _ 3)) (by simp)) fun k => word _
  case vsetl =>
    obtain rfl := Option.some.inj h.raw
    have ha := Raw.operand_not_handle h.operands rfl (k := 2) (x := a) (.inl rfl) second
    have hb := Raw.operand_not_handle h.operands rfl (k := 3) (x := b) (.inl rfl) (List.mem_cons_of_mem _ second)
    refine lanes_completed (issue_completed (i := .vsetl d a b f) h ((M.bind_ok (src_scalar ha (hx trivial))).trans
      ((M.bind_ok (src_scalar hb (hy trivial))).trans (laneOp_run free f d _ 3))) (by simp)) fun k => ?_
    rw [apply_ite (BitVec.ofNat 32), BitVec.ofNat_toNat, word]
  case viota =>
    obtain rfl := Option.some.inj h.raw
    have ha := Raw.operand_not_handle h.operands rfl (k := 2) (x := a) (.inl rfl) second
    refine lanes_completed (issue_completed (i := .viota d a f) h
      ((M.bind_ok (src_scalar ha (hx trivial))).trans (laneOp_run free f d _ 3)) (by simp)) fun k => ?_
    rw [BitVec.ofNat_add, BitVec.ofNat_toNat]
  case vflgr =>
    exact lanes_completed (issue_completed (i := .vflgr d f) h (laneOp_run free f d _ 3) (by simp)) fun k => BitVec.ofNat_toNat _ _

/-- R129: `VGETL`. -/
theorem vgetl_reads (h : Ready (.vgetl d a b f) r s) (free : unitFree (s.entered r)) (hy : (s.entered r).reads f b = some y)
    (hw : (s.entered r).canWrite f d) :
    let l := lane ((s.entered r).me.vreg a) (y.toNat % 64)
    ∃ t, exec (.vgetl d a b f) s = .next t ∧ Finished r s (((unitTaken (s.entered r)).put f d
      (if f.ty 5 = 4 then l.signExtend 64 else l.setWidth 64) (3 + unitLate (s.entered r))).take s.cur r.taken) t := by
  obtain rfl := Option.some.inj h.raw
  have hd := Raw.operand_not_handle h.operands rfl (k := 1) (x := d) (.inr rfl) List.mem_cons_self
  have hb := Raw.operand_not_handle h.operands rfl (k := 3) (x := b) (.inl rfl)
    (List.mem_cons_of_mem _ (List.mem_cons_of_mem _ List.mem_cons_self))
  refine issue_completed (i := .vgetl d a b f) h ?_ (by simp)
  rw [M.bind_ok (src_scalar hb hy), M.bind_ok (M.me_run _), M.bind_ok (vecUnit_run free)]
  exact dst_put _ _ (by rwa [canWrite_unitTaken hd])

/-- R129: `VFLGC`. -/
theorem vflgc_clears (h : Ready (.vflgc f) r s) (free : unitFree (s.entered r)) :
    let u := s.entered r
    ∃ t g w, exec (.vflgc f) s = .next t ∧
      Finished r s (((unitTaken u).modSlot s.cur fun z => { z with vec := { z.vec with vf := g }, avail := w }).take s.cur r.taken) t ∧
      ∀ i < 64, g.extractLsb' (5 * i) 5 = if active u f i then 0 else u.me.vec.vf.extractLsb' (5 * i) 5 := by
  intro u
  have hcur : u.cur = s.cur := s.entered_cur r
  let keep := packed 32 fun i => if (u.me.kmask f.mask).getLsbD i then 0 else 31
  let g := u.me.vec.vf &&& BitVec.ofNat 320 keep
  let w := (Res.flags, u.cyc + 3 + unitLate u) :: u.me.avail.filter (·.1 ≠ .flags)
  obtain ⟨t, ht, hfin⟩ : ∃ t, exec (.vflgc f) s = .next t ∧
      Finished r s (((unitTaken u).modSlot s.cur fun z => { z with vec := { z.vec with vf := g }, avail := w }).take s.cur r.taken) t := by
    refine issue_completed (i := .vflgc f) h ?_ (by simp [hcur])
    have hslot : (unitTaken u).slot s.cur = u.me := by rw [← hcur, ← unitTaken_cur u]; exact unitTaken_me u
    rw [M.bind_ok (M.me_run _), M.bind_ok (vecUnit_run free), M.bind_ok (M.get_run _), M.modMe_run, State.modSlot_eq, State.modSlot_eq,
      unitTaken_cur, unitTaken_cyc, hcur, hslot]
    rfl
  exact ⟨t, g, w, ht, hfin, fun i hi => extractLsb'_keep _ _ hi⟩

end

/-- R129: the lane instructions. -/
theorem vectorLanes : VectorLanes := by
  intro d a b f r s x y u
  exact ⟨laneTable_completed, vgetl_reads, vflgc_clears⟩

/-- Settles O51: a reduction is the fixed tree over its lanes, and a lane instruction writes lane by lane. -/
theorem vectorReduceAndLanes : Obligations.VectorReduceAndLanes := ⟨vectorReductions, vectorLanes⟩

end Sys2Proof.Claims
end

section
/-! PROOFS. Vector loads, stores and atomics (O52): the units into which the lanes of an access are grouped, the access that joins those of
the thread, and the addresses of the lanes. -/

namespace Sys2Proof.Machine

open Sys2Proof.Claims

/-! ## Units that hold an act (R118) -/

/-- A unit at a place holds an act. -/
def HoldsAct (us : List MemUnit) (p : Place) (a : Act) : Prop := ∃ m ∈ us, m.place = p ∧ a ∈ m.acts

/-- Every unit is at a place of a kind other than a DRAM channel's (R200). -/
def OnChip (us : List MemUnit) : Prop := ∀ m ∈ us, m.place.kind ≠ 4

section

variable (us : List MemUnit) (p : Place) (stage : Nat) (a : Act)

theorem putUnit_self : HoldsAct (putUnit us p stage a) p.line a := by
  induction us with
  | nil => exact ⟨_, List.mem_cons_self, rfl, List.mem_cons_self⟩
  | cons u us ih =>
    unfold putUnit
    split
    · rename_i h
      exact ⟨_, List.mem_cons_self, h.1, by simp⟩
    · obtain ⟨m, hm, h⟩ := ih
      exact ⟨m, List.mem_cons_of_mem _ hm, h⟩

variable {us p}

theorem putUnit_keeps {q : Place} {b : Act} (h : HoldsAct us q b) : HoldsAct (putUnit us p stage a) q b := by
  induction us with
  | nil =>
    obtain ⟨m, hm, -⟩ := h
    cases hm
  | cons u us ih =>
    obtain ⟨m, hm, hq, hb⟩ := h
    unfold putUnit
    split
    · rcases List.mem_cons.mp hm with rfl | hm
      · exact ⟨_, List.mem_cons_self, hq, List.mem_append_left _ hb⟩
      · exact ⟨m, List.mem_cons_of_mem _ hm, hq, hb⟩
    · rcases List.mem_cons.mp hm with rfl | hm
      · exact ⟨m, List.mem_cons_self, hq, hb⟩
      · obtain ⟨m', hm', h'⟩ := ih ⟨m, hm, hq, hb⟩
        exact ⟨m', List.mem_cons_of_mem _ hm', h'⟩

theorem putUnit_onChip (hus : OnChip us) (hp : p.kind ≠ 4) : OnChip (putUnit us p stage a) := by
  induction us with
  | nil =>
    intro m hm
    obtain rfl := List.mem_singleton.mp hm
    exact hp
  | cons u us ih =>
    obtain ⟨hu, hus⟩ := List.forall_mem_cons.mp hus
    unfold putUnit
    split
    · exact List.forall_mem_cons.mpr ⟨hu, hus⟩
    · exact List.forall_mem_cons.mpr ⟨hu, ih hus⟩

end

/-- A step that adds the act of a lane to the units of an access, at the line of its place. -/
structure Gathers {τ : Type} (place : τ → Place) (act : τ → Act) (add : List MemUnit → τ → List MemUnit) : Prop where
  self : ∀ us q, HoldsAct (add us q) (place q).line (act q)
  keeps : ∀ us q p b, HoldsAct us p b → HoldsAct (add us q) p b
  onChip : ∀ us q, OnChip us → (place q).kind ≠ 4 → OnChip (add us q)

theorem gathers_putUnit {τ : Type} (place : τ → Place) (act : τ → Act) :
    Gathers place act fun us q => putUnit us (place q) 0 (act q) where
  self us q := putUnit_self us (place q) 0 (act q)
  keeps _ _ _ _ h := putUnit_keeps 0 _ h
  onChip _ _ hus hp := putUnit_onChip 0 _ hus hp

/-- In the local store each lane of an atomic is a unit of its own (R118, R131). -/
theorem gathers_append {τ : Type} (place : τ → Place) (act : τ → Act) :
    Gathers place act fun us q => us ++ [{ place := (place q).line, acts := [act q] }] where
  self us q := ⟨_, List.mem_append_right _ List.mem_cons_self, rfl, List.mem_cons_self⟩
  keeps us q p b h := by
    obtain ⟨m, hm, h⟩ := h
    exact ⟨m, List.mem_append_left _ hm, h⟩
  onChip us q hus hp m hm := by
    rcases List.mem_append.mp hm with hm | hm
    · exact hus m hm
    · obtain rfl := List.mem_singleton.mp hm
      exact hp

section

variable {τ : Type} {place : τ → Place} {act : τ → Act} {add add' : List MemUnit → τ → List MemUnit}

theorem Gathers.ite (h : Gathers place act add) (h' : Gathers place act add') (c : τ → Prop) [DecidablePred c] :
    Gathers place act fun us q => if c q then add us q else add' us q where
  self us q := by split; exacts [h.self us q, h'.self us q]
  keeps us q p b hb := by split; exacts [h.keeps us q p b hb, h'.keeps us q p b hb]
  onChip us q hus hp := by split; exacts [h.onChip us q hus hp, h'.onChip us q hus hp]

/-- The units of an access hold the act of each of its lanes. -/
theorem Gathers.foldl (h : Gathers place act add) (ts : List τ) (us : List MemUnit) :
    (∀ p b, HoldsAct us p b → HoldsAct (ts.foldl add us) p b) ∧ ∀ q ∈ ts, HoldsAct (ts.foldl add us) (place q).line (act q) := by
  induction ts generalizing us with
  | nil => exact ⟨fun _ _ hb => hb, nofun⟩
  | cons q ts ih =>
    obtain ⟨hkeeps, hall⟩ := ih (add us q)
    exact ⟨fun p b hb => hkeeps p b (h.keeps us q p b hb), List.forall_mem_cons.mpr ⟨hkeeps _ _ (h.self us q), hall⟩⟩

theorem Gathers.foldl_onChip (h : Gathers place act add) (ts : List τ) (us : List MemUnit) (hus : OnChip us)
    (hts : ∀ q ∈ ts, (place q).kind ≠ 4) : OnChip (ts.foldl add us) := by
  induction ts generalizing us with
  | nil => exact hus
  | cons q ts ih =>
    obtain ⟨hq, hts⟩ := List.forall_mem_cons.mp hts
    exact ih (add us q) (h.onChip us q hus hq) hts

end

section

variable (ts : List (Nat × Word × Target)) {us : List MemUnit}

/-- Units marked with the kinds of their pages hold what they held. -/
theorem partUnits_holds {p : Place} {a : Act} (h : HoldsAct us p a) : HoldsAct (partUnits ts us) p a := by
  unfold partUnits
  dsimp only
  split
  · exact h
  · obtain ⟨m, hm, hp⟩ := h
    exact ⟨_, List.mem_map_of_mem hm, hp⟩

theorem partUnits_onChip (h : OnChip us) : OnChip (partUnits ts us) := by
  unfold partUnits
  dsimp only
  split
  · exact h
  · intro m hm
    obtain ⟨m', hm', rfl⟩ := List.mem_map.mp hm
    exact h m' hm'

end

/-! ## An access of lanes (R81, R119) -/

@[simp] theorem State.withAccess_mem (s : State) (a : Access) : (s.withAccess a).mem = s.mem := by
  unfold State.withAccess
  dsimp only
  generalize List.filter _ _ = l
  have hfold (f : State → MemUnit → Dram → Dram) (v : State) :
      (l.foldl (fun s u => s.modDram u.place.unit (f s u)) v).mem = v.mem := by
    induction l generalizing v with
    | nil => rfl
    | cons u l ih => rw [List.foldl_cons, ih]; rfl
  exact hfold _ _

/-- The accesses that `VLD` and `VLDX`, `VST` and `VSTX`, and `VATOM` add to those of a thread (R117, R121, R130). -/
def vloadAccess (f : Form) (d : Spec) (x : Slot) (ts : List (Nat × Word × Target)) : Access :=
  { id := 0, units := partUnits ts (ts.foldl (fun us p => readUnits us p.2.2 p.1 (tySize (f.ty 10))) [])
    got := ts.foldl (fun g p => readMarks g p.2.2 p.1) []
    fin := .vload (d.toNat % 32) (f.ty 10) (x.kmask f.mask) 0, va := (ts.head?.map (·.2.1)).getD 0
    ord := partOrd ts, acq := vecQual f ts = 1 || vecQual f ts = 3, scope := f.scope }

def vstoreAccess (f : Form) (d : Spec) (x : Slot) (ts : List (Nat × Word × Target)) : Access :=
  { id := 0
    units := partUnits ts (ts.foldl (fun us p =>
      putUnit us p.2.2.place 0 (.wr p.2.2.place.key (tySize (f.ty 10)) (elem (f.ty 10) (x.vreg d) p.1))) [])
    fin := .store, va := (ts.head?.map (·.2.1)).getD 0, ord := partOrd ts, rel := 2 ≤ vecQual f ts, scope := f.scope }

def vatomAccess (f : Form) (d : Spec) (w : BitVec 1) (op : Nat) (x : Slot) (ts : List (Nat × Word × Target)) : Access :=
  { id := 0
    units := partUnits ts (ts.foldl (fun us q =>
      if q.2.2.place.kind = 1 then
        us ++ [{ place := q.2.2.place.line
                 acts := [.rmw (4 * q.1) q.2.2.place.key 4 op (lane (x.vreg (if f.ext?.isSome then f.c else d)) q.1).toNat 0] }]
      else putUnit us q.2.2.place 0
        (.rmw (4 * q.1) q.2.2.place.key 4 op (lane (x.vreg (if f.ext?.isSome then f.c else d)) q.1).toNat 0)) [])
    fin := .vatom (if w = 1 then some (d.toNat % 32) else none) (x.kmask f.mask)
    va := (ts.head?.map (·.2.1)).getD 0, ord := partOrd ts }

/-- With no active lane there are no targets. -/
theorem vecTargets_idle {u : State} {f : Form} (h : ∀ i < 64, active u f i = false) (k : Acc) (ty z : Nat) (buf : Option (Nat × Nat))
    (dram : Bool) (at' : Nat → Nat → Word) : vecTargets f k ty z buf dram at' u = .ok ([], u) := by
  have hnone : (List.range 64).filter (fun i => (u.me.kmask f.mask).getLsbD i) = [] :=
    List.filter_eq_nil_iff.mpr fun i hi => Bool.eq_false_iff.mp (h i (List.mem_range.mp hi))
  unfold vecTargets
  rw [M.bind_ok (M.me_run _)]
  dsimp only
  rw [hnone]
  rfl

section

variable {u u' : State} {f : Form} {d : Spec} {buf : Option (Nat × Nat)} {at' : Nat → Nat → Word} {ts : List (Nat × Word × Target)}

theorem vecLoad_idle (h : ∀ i < 64, active u f i = false) (free : unitFree u) : vecLoad f d buf at' u = .ok ((), unitTaken u) := by
  unfold vecLoad
  dsimp only
  rw [M.bind_ok (vecTargets_idle h _ _ _ _ _ _), M.bind_ok (show vecGate [] _ false u = .ok ((), u) from rfl), M.bind_ok (vecUnit_run free)]
  rfl

theorem vecStore_idle (h : ∀ i < 64, active u f i = false) (free : unitFree u) : vecStore f d buf at' u = .ok ((), unitTaken u) := by
  unfold vecStore
  dsimp only
  rw [M.bind_ok (M.me_run _), M.bind_ok (vecTargets_idle h _ _ _ _ _ _), M.bind_ok (show vecGate [] _ true u = .ok ((), u) from rfl)]
  exact M.bind_ok (vecUnit_run free)

theorem vload_acts (plain : ∀ q ∈ ts, q.2.2.view = 0 ∧ q.2.2.place.kind ≠ 4) (x : Slot) :
    OnChip (vloadAccess f d x ts).units ∧
      ∀ q ∈ ts, HoldsAct (vloadAccess f d x ts).units q.2.2.place.line (.rd (4 * q.1) q.2.2.place.key (tySize (f.ty 10))) := by
  have hunits : ts.foldl (fun us p => readUnits us p.2.2 p.1 (tySize (f.ty 10))) []
      = ts.foldl (fun us p => putUnit us p.2.2.place 0 (.rd (4 * p.1) p.2.2.place.key (tySize (f.ty 10)))) [] :=
    List.foldl_ext _ _ _ fun us p hp => if_pos (plain p hp).1
  have gathers := gathers_putUnit (fun p : Nat × Word × Target => p.2.2.place)
    fun p => .rd (4 * p.1) p.2.2.place.key (tySize (f.ty 10))
  unfold vloadAccess
  dsimp only
  rw [hunits]
  exact ⟨partUnits_onChip ts (gathers.foldl_onChip ts [] nofun fun q hq => (plain q hq).2),
    fun q hq => partUnits_holds ts ((gathers.foldl ts []).2 q hq)⟩

theorem vstore_acts (chip : ∀ q ∈ ts, q.2.2.place.kind ≠ 4) (u : State) :
    OnChip (vstoreAccess f d u.me ts).units ∧ ∀ q ∈ ts, HoldsAct (vstoreAccess f d u.me ts).units q.2.2.place.line
      (.wr q.2.2.place.key (tySize (f.ty 10)) (element u (f.ty 10) d q.1)) := by
  have gathers := gathers_putUnit (fun p : Nat × Word × Target => p.2.2.place)
    fun p => .wr p.2.2.place.key (tySize (f.ty 10)) (element u (f.ty 10) d p.1)
  exact ⟨partUnits_onChip ts (gathers.foldl_onChip ts [] nofun chip), fun q hq => partUnits_holds ts ((gathers.foldl ts []).2 q hq)⟩

theorem vatom_acts (chip : ∀ q ∈ ts, q.2.2.place.kind ≠ 4) (w : BitVec 1) (op : Nat) (x : Slot) :
    OnChip (vatomAccess f d w op x ts).units ∧ ∀ q ∈ ts, HoldsAct (vatomAccess f d w op x ts).units q.2.2.place.line
      (.rmw (4 * q.1) q.2.2.place.key 4 op (lane (x.vreg (if f.ext?.isSome then f.c else d)) q.1).toNat 0) := by
  have gathers := (gathers_append (fun p : Nat × Word × Target => p.2.2.place) fun q =>
    .rmw (4 * q.1) q.2.2.place.key 4 op (lane (x.vreg (if f.ext?.isSome then f.c else d)) q.1).toNat 0).ite (gathers_putUnit _ _)
    fun q => q.2.2.place.kind = 1
  exact ⟨partUnits_onChip ts (gathers.foldl_onChip ts [] nofun chip), fun q hq => partUnits_holds ts ((gathers.foldl ts []).2 q hq)⟩

/-- An access on the chip joins those of a thread that has room. -/
theorem addAccess_onChip {g : Access} (chip : OnChip g.units) (room : u'.me.acc.length < 4) :
    addAccess g (unitTaken u') = .ok ((), (unitTaken u').withAccess g) :=
  addAccess_room ⟨by rwa [unitTaken_me], fun m hm h4 => absurd h4 (chip m hm)⟩

variable (free : unitFree u') (room : u'.me.acc.length < 4) (hne : ts ≠ [])
include free room hne

/-- R117, R119: a load whose lanes have targets waits with its reads. -/
theorem vecLoad_run (htargets : vecTargets f .load (f.ty 10) (tySize (f.ty 10)) buf true at' u = .ok (ts, u'))
    (gate : Passes (vecGate ts (tySize (f.ty 10)) false) u') (watch : Passes (vecWatch ts 1 (tySize (f.ty 10))) (unitTaken u'))
    (plain : ∀ q ∈ ts, q.2.2.view = 0 ∧ q.2.2.place.kind ≠ 4) :
    vecLoad f d buf at' u = .ok ((), (unitTaken u').withAccess (vloadAccess f d u'.me ts)) := by
  unfold vecLoad
  dsimp only
  rw [M.bind_ok htargets, M.bind_ok gate, M.bind_ok (vecUnit_run free), M.bind_ok watch, if_pos hne, M.bind_ok (M.me_run _), unitTaken_me]
  exact addAccess_onChip (vload_acts plain u'.me).1 room

/-- R117, R121: a store whose lanes have targets waits with its data. -/
theorem vecStore_run (htargets : vecTargets f .store (f.ty 10) (tySize (f.ty 10)) buf true at' u = .ok (ts, u'))
    (gate : Passes (vecGate ts (tySize (f.ty 10)) true) u') (rel : Passes (releaseGate f.qual f.scope 1) u')
    (watch : Passes (vecWatch ts 2 (tySize (f.ty 10))) (unitTaken u')) (chip : ∀ q ∈ ts, q.2.2.place.kind ≠ 4) :
    vecStore f d buf at' u = .ok ((), (unitTaken u').withAccess (vstoreAccess f d u.me ts)) := by
  have tail : (do let _ ← vecUnit; vecWatch ts 2 (tySize (f.ty 10)); addAccess (vstoreAccess f d u.me ts) : M Unit) u'
      = .ok ((), (unitTaken u').withAccess (vstoreAccess f d u.me ts)) := by
    rw [M.bind_ok (vecUnit_run free), M.bind_ok watch]
    exact addAccess_onChip (vstore_acts chip u).1 room
  unfold vecStore
  dsimp only
  rw [M.bind_ok (M.me_run _), M.bind_ok htargets, M.bind_ok gate]
  simp only [ne_eq, hne, not_false_eq_true, if_true]
  split
  · exact (M.bind_ok rel).trans tail
  · exact tail

end

/-! ## The addresses of the lanes (R117, R121) -/

section

variable {u : State} {f : Form} {a : Spec} {tail : Bool} {base stride : Word} {buf : Option (Nat × Nat)}
  (hbase : u.baseAt f a tail = some (base, buf))
include hbase

theorem laneAt_run (o : BitVec 12) (hstride : f.xfn.getLsbD 3 = true → isHandle f.c = false ∧ u.reads f f.c = some stride) :
    laneAt f a o tail u = .ok ((lanesFrom f o base stride, buf), u) := by
  unfold laneAt
  rw [M.bind_ok (baseOf_of hbase)]
  dsimp only
  cases hx : f.xfn.getLsbD 3 with
  | true =>
    obtain ⟨hc, hv⟩ := hstride hx
    rw [if_pos rfl, M.bind_ok (src_scalar hc hv)]
    have hlanes : lanesFrom f o base stride = fun i _ => base + _ * 64 + BitVec.ofNat 64 i * stride :=
      funext₂ fun i e => congrArg (base + _ * 64 + ·) (if_pos hx)
    rw [hlanes]
    rfl
  | false =>
    have hlanes : lanesFrom f o base stride = fun i e => base + _ * 64 + BitVec.ofNat 64 (e * i) :=
      funext₂ fun i e => congrArg (base + _ * 64 + ·) (if_neg (by rw [hx]; decide))
    rw [hlanes]
    rfl

theorem laneIdx_run (b : Spec) : laneIdx f a b tail u = .ok ((lanesIndexed u b base, buf), u) := by
  unfold laneIdx
  rw [M.bind_ok (baseOf_of hbase)]
  rfl

end

end Sys2Proof.Machine

namespace Sys2Proof.Claims

open Sys2Proof.Machine

section

variable {d a b : Spec} {o : BitVec 12} {f : Form} {r : Raw} {s y : State} {base stride : Word} {buf : Option (Nat × Nat)}
  {p : Instr × Bool × (Nat → Nat → Word)}

/-- R117, R121: each vector load or store finds the addresses of its lanes and then does what `vecLoad` or `vecStore` says. -/
theorem vectorMem_completed (hp : p ∈ vectorMemTable (s.entered r) d a b o base stride f) (hr : Ready p.1 r s)
    (hbase : (s.entered r).baseAt f a p.2.1 = some (base, buf))
    (hstride : (∃ i, p.1 = .vld d a i f ∨ p.1 = .vst d a i f) → f.xfn.getLsbD 3 = true → (s.entered r).reads f f.c = some stride)
    (hrun : (if p.2.1 then vecStore f d buf p.2.2 else vecLoad f d buf p.2.2) (s.entered r) = .ok ((), y)) (hc : y.cur = s.cur) :
    ∃ t, exec p.1 s = .next t ∧ Finished r s (y.take s.cur r.taken) t := by
  simp only [vectorMemTable, List.mem_cons, List.not_mem_nil, or_false] at hp
  rcases hp with rfl | rfl | rfl | rfl
  case inl =>
    refine issue_completed (i := .vld d a o f) hr ((M.bind_ok (laneAt_run hbase o fun hx => ?_)).trans hrun) hc
    obtain rfl := Option.some.inj hr.raw
    exact ⟨Raw.operand_not_handle hr.operands rfl (k := 4) (.inl rfl) (by simp [Raw.roles, hx]), hstride ⟨o, .inl rfl⟩ hx⟩
  case inr.inl =>
    refine issue_completed (i := .vst d a o f) hr ((M.bind_ok (laneAt_run hbase o fun hx => ?_)).trans hrun) hc
    obtain rfl := Option.some.inj hr.raw
    exact ⟨Raw.operand_not_handle hr.operands rfl (k := 4) (.inl rfl) (by simp [Raw.roles, hx]), hstride ⟨o, .inr rfl⟩ hx⟩
  case inr.inr.inl => exact issue_completed (i := .vldx d a b f) hr ((M.bind_ok (laneIdx_run hbase b)).trans hrun) hc
  case inr.inr.inr => exact issue_completed (i := .vstx d a b f) hr ((M.bind_ok (laneIdx_run hbase b)).trans hrun) hc

/-- An access that joins those of a thread changes no byte of memory (R119). -/
theorem withAccess_keeps_mem {u t : State} {g : Access} (h : Finished r s (((unitTaken u).withAccess g).take s.cur r.taken) t) (k : Nat) :
    t.mem.read k = u.mem.read k := by
  rw [h.mem, State.take_eq]
  change ((unitTaken u).withAccess g).mem.read k = _
  rw [State.withAccess_mem, unitTaken_mem]

/-- The address of an atomic is no buffer slot (R195). -/
theorem vatom_source {w : BitVec 1} {q : BitVec 3} (hr : Ready (.vatom d a b w q f) r s) : isHandle a = false := by
  obtain rfl := Option.some.inj hr.raw
  exact Raw.operand_not_handle hr.operands rfl (k := 2) (x := a) (.inl rfl) (List.mem_cons_of_mem _ List.mem_cons_self)

/-- R130: an atomic with no active lane. -/
theorem vatom_idle {w : BitVec 1} {q : BitVec 3} (hr : Ready (.vatom d a b w q f) r s) (hbase : (s.entered r).reads f a = some base)
    (free : unitFree (s.entered r)) (idle : ∀ i < 64, active (s.entered r) f i = false) :
    ∃ t, exec (.vatom d a b w q f) s = .next t ∧ Finished r s ((unitTaken (s.entered r)).take s.cur r.taken) t := by
  refine issue_completed (i := .vatom d a b w q f) hr ?_ (by simp)
  rw [M.bind_ok (src_scalar (vatom_source hr) hbase), M.bind_ok (M.me_run _)]
  dsimp only
  rw [M.bind_ok (vecTargets_idle idle _ _ _ _ _ _), M.bind_ok (show vecGate [] 4 true _ = .ok ((), _) from rfl),
    M.bind_ok (vecUnit_run free)]
  rfl

/-- R130: an atomic whose lanes have targets waits with its updates. -/
theorem vatom_waits {w : BitVec 1} {q : BitVec 3} {ts : List (Nat × Word × Target)} {u' : State} (hr : Ready (.vatom d a b w q f) r s)
    (hbase : (s.entered r).reads f a = some base) (hne : ts ≠ [])
    (htargets : vecTargets f .atomic (f.ty (if q.toNat < 6 then 4 else if q.toNat = 6 then 10 else 9)) 4 none false
      (fun i _ => lanesIndexed (s.entered r) b base i 4) (s.entered r) = .ok (ts, u'))
    (hcur : u'.cur = s.cur) (gate : Passes (vecGate ts 4 true) u') (free : unitFree u') (watch : Passes (vecWatch ts 3 4) (unitTaken u'))
    (room : u'.me.acc.length < 4) (chip : ∀ p ∈ ts, p.2.2.place.kind ≠ 4) :
    ∃ t, exec (.vatom d a b w q f) s = .next t ∧ Finished r s (((unitTaken u').withAccess (vatomAccess f d w
      (vatomOp q.toNat (f.ty (if q.toNat < 6 then 4 else if q.toNat = 6 then 10 else 9)) f.rm) (s.entered r).me ts)).take
      s.cur r.taken) t := by
  refine issue_completed (i := .vatom d a b w q f) hr ?_ (by simp [hcur])
  rw [M.bind_ok (src_scalar (vatom_source hr) hbase), M.bind_ok (M.me_run _)]
  refine (M.bind_ok htargets).trans ?_
  rw [M.bind_ok gate, M.bind_ok (vecUnit_run free), M.bind_ok watch]
  dsimp only
  rw [if_pos hne]
  exact addAccess_onChip (vatom_acts chip w _ (s.entered r).me).1 room

end

/-- Settles O52: the lanes' targets become the units of one access, which waits; with no active lane there is none. -/
theorem vectorMemory : Obligations.VectorMemory := by
  intro d a b o f r s base stride buf u ty z
  refine ⟨fun p hp hr hbase hstride idle free => ?idle,
    fun p hp hr hbase hstride ts u' hne htargets hcur hme gate rel free watch room plain => ?lanes,
    fun w p hr hbase free idle => vatom_idle hr hbase free idle,
    fun w p ts u' hr hbase hne htargets hcur hme gate free watch room chip => ?atomic⟩
  case idle =>
    refine vectorMem_completed hp hr hbase hstride ?_ (by simp [u])
    split
    · exact vecStore_idle idle free
    · exact vecLoad_idle idle free
  case lanes =>
    cases hst : p.2.1 with
    | false =>
      rw [hst] at htargets gate watch
      have hrun := vecLoad_run (d := d) free room hne htargets gate watch plain
      obtain ⟨t, ht, hfin⟩ := vectorMem_completed hp hr hbase hstride (by rw [hst]; exact hrun) (by simp [hcur])
      exact ⟨t, _, ht, hfin, withAccess_keeps_mem hfin, fun _ => ⟨congrArg (fun x : Slot => AccEnd.vload _ _ (x.kmask f.mask) 0) hme,
        (vload_acts plain u'.me).2⟩, nofun⟩
    | true =>
      rw [hst] at htargets gate watch
      have chip : ∀ q ∈ ts, q.2.2.place.kind ≠ 4 := fun q hq => (plain q hq).2
      have hrun := vecStore_run (d := d) free room hne htargets gate (rel hst) watch chip
      obtain ⟨t, ht, hfin⟩ := vectorMem_completed hp hr hbase hstride (by rw [hst]; exact hrun) (by simp [hcur])
      exact ⟨t, _, ht, hfin, withAccess_keeps_mem hfin, nofun, fun _ => ⟨rfl, (vstore_acts chip u).2⟩⟩
  case atomic =>
    obtain ⟨t, ht, hfin⟩ := vatom_waits hr hbase hne htargets hcur gate free watch room chip
    refine ⟨t, _, ht, hfin, withAccess_keeps_mem hfin, rfl, fun q hq => ?_⟩
    obtain ⟨m, hm, hplace, hact⟩ := (vatom_acts chip w _ u.me).2 q hq
    exact ⟨m, hm, hplace, _, hact⟩

end Sys2Proof.Claims
end

section
/-! PROOFS. What a unit command makes of its destination tile (O53): the elements of a tile that is built element by element, the
arithmetic of each operation, and the ancestors of a draft query. -/

namespace Sys2Proof.Machine

open Sys2Proof.Claims

/-! ## The tiles of a slot (R132) -/

theorem Slot.tile_setTile (x : Slot) (t k : Nat) (v : BitVec 32768) :
    (x.setTile t v).tile k = if k % 8 = t % 8 then v else x.tile k := by
  have ht : t % 8 < 8 := Nat.mod_lt _ (by decide)
  unfold Slot.setTile Slot.tile
  rw [Vector.set!_eq_setIfInBounds, Vector.getElem?_setIfInBounds]
  simp only [ht, if_true, eq_comm (a := t % 8)]
  split <;> rfl

/-- Sticky flags are no part of a tile. -/
theorem Slot.tile_ifFlagged (x : Slot) (q : Bool) (t fl k : Nat) : (if q then x else x.tileFlags t fl).tile k = x.tile k := by
  split <;> rfl

/-! ## The elements of a tile that is built element by element (R132) -/

theorem tileElem_eq (t : BitVec 32768) (cols eb i j : Nat) : tileElem t eb (i * cols + j) = tileAt t cols eb i j := by
  unfold tileElem tileAt
  rw [Nat.mul_assoc, pow_mul 2 8, pow_mul 2 8]
  rfl

theorem tileElem_lt (t : BitVec 32768) (k : Nat) : tileElem t 4 k < 2 ^ 32 := Nat.mod_lt _ (Nat.two_pow_pos _)

/-- The values of `tileMap` are those of `setTile`; its flags stand beside them. -/
theorem tileMap_fst (old : BitVec 32768) (rows cols : Nat) (f : Nat → Nat → Nat × Nat) :
    (tileMap old rows cols f).1 = setTile old rows cols 4 fun i j => (f i j).1 := by
  unfold tileMap setTile
  dsimp only
  rw [← List.foldr_hom Prod.fst (g₂ := fun k acc => acc * 2 ^ 32 + (f (k / cols) (k % cols)).1 % 2 ^ 32) fun _ _ => rfl]

/-- A digit of a number is that of any number that agrees with it modulo a power of the base above the digit. -/
theorem digit_congr {B k M x y : Nat} (hM : B ^ (k + 1) ∣ M) (h : x % M = y % M) : x / B ^ k % B = y / B ^ k % B := by
  have hxy : x % B ^ (k + 1) = y % B ^ (k + 1) := by rw [← Nat.mod_mod_of_dvd x hM, h, Nat.mod_mod_of_dvd y hM]
  rw [← Nat.mod_mul_right_div_self, ← Nat.mod_mul_right_div_self, ← pow_succ, hxy]

theorem digit_ofNat {w b k : Nat} (x : Nat) (h : b * (k + 1) ≤ w) :
    (BitVec.ofNat w x).toNat / (2 ^ b) ^ k % 2 ^ b = x / (2 ^ b) ^ k % 2 ^ b := by
  rw [BitVec.toNat_ofNat]
  refine digit_congr ?_ (Nat.mod_mod _ _)
  rw [← pow_mul]
  exact Nat.pow_dvd_pow 2 h

/-- An element that `setTile` writes. -/
theorem tileAt_setTile (old : BitVec 32768) {rows cols eb : Nat} (f : Nat → Nat → Nat) (hfit : rows * cols * eb ≤ 4096) {i j : Nat}
    (hi : i < rows) (hj : j < cols) : tileAt (setTile old rows cols eb f) cols eb i j = f i j % 2 ^ (8 * eb) := by
  have hlt (k : Nat) : f (k / cols) (k % cols) % 2 ^ (8 * eb) < 2 ^ (8 * eb) := Nat.mod_lt _ (Nat.two_pow_pos _)
  have hk : i * cols + j < rows * cols := by
    have := Nat.mul_le_mul_right cols hi
    rw [Nat.succ_mul] at this
    omega
  have hrow : (i * cols + j) / cols = i := by
    rw [Nat.mul_comm, Nat.mul_add_div (by omega), Nat.div_eq_of_lt hj, Nat.add_zero]
  have hcol : (i * cols + j) % cols = j := by rw [Nat.mul_comm, Nat.mul_add_mod, Nat.mod_eq_of_lt hj]
  generalize hkdef : i * cols + j = k at hk hrow hcol
  have hbits : 8 * eb * (k + 1) ≤ 8 * eb * (rows * cols) := Nat.mul_le_mul_left _ hk
  have hfit' : 8 * eb * (rows * cols) ≤ 32768 := by
    calc 8 * eb * (rows * cols) = 8 * (rows * cols * eb) := by rw [Nat.mul_assoc, Nat.mul_comm eb]
      _ ≤ 32768 := by omega
  rw [← tileElem_eq, hkdef]
  unfold tileElem setTile
  dsimp only
  rw [pow_mul 2 (8 * eb) k, digit_ofNat _ (hbits.trans hfit')]
  calc _ = (List.range (rows * cols)).foldr (fun k acc => acc * 2 ^ (8 * eb) + f (k / cols) (k % cols) % 2 ^ (8 * eb)) 0
          / (2 ^ (8 * eb)) ^ k % 2 ^ (8 * eb) := by
        refine digit_congr (M := 2 ^ (8 * eb * (rows * cols))) ?_ (Nat.mul_add_mod_self_right _ _ _)
        rw [← pow_mul]
        exact Nat.pow_dvd_pow 2 hbits
    _ = f i j % 2 ^ (8 * eb) := by
        rw [foldr_digit hlt, List.getElem?_range hk, ← hrow, ← hcol]
        rfl

/-! ## The arithmetic of the commands (R107, R142, R143) -/

/-- A signed element is a two's complement number of its width (R37). -/
theorem tyVal_signed {ty w : Nat} (hw : 0 < w) (hs : tySigned ty = true) (hb : tyBits ty = w) (b : Nat) :
    tyVal ty b = (BitVec.ofNat w b).toInt := by
  rw [← signed_eq hw, BitVec.toNat_ofNat, Nat.mod_mod]
  simp only [tyVal, hs, hb, Bool.true_and, decide_eq_true_eq]

theorem tyVal_i32 (b : Nat) : tyVal 4 b = (BitVec.ofNat 32 b).toInt := tyVal_signed (by decide) rfl rfl b
theorem tyVal_i8 (b : Nat) : tyVal 0 b = (BitVec.ofNat 8 b).toInt := tyVal_signed (by decide) rfl rfl b

theorem sat32_fst (v : Int) : (sat32 v).1 = saturated v := by
  unfold sat32 saturated
  split
  case isTrue h => rw [min_eq_right (by omega), max_eq_left (by omega)]; rfl
  case isFalse h =>
    split
    case isTrue h' => rw [min_eq_left (by omega), max_eq_right (by omega)]; rfl
    case isFalse h' =>
      rw [min_eq_right (by omega), max_eq_right (by omega), BitVec.toNat_ofInt]
      rfl

theorem saturated_lt (v : Int) : saturated v < 2 ^ 32 := BitVec.isLt _
theorem sat32_lt (v : Int) : (sat32 v).1 < 2 ^ 32 := by
  rw [sat32_fst]
  exact saturated_lt v

/-- The numbers of a group of eight, in the order in which a product takes them (R142). -/
theorem group_perm (kk g : Nat) : ((List.range 8).filterMap fun i => if 8 * g + i < kk then some (8 * g + i) else none).Perm
    ((List.range kk).filter fun k => k / 8 = g) := by
  refine (List.perm_ext_iff_of_nodup ?_ (List.nodup_range.filter _)).mpr fun k => ?_
  · refine List.nodup_range.filterMap fun i j k hi hj => ?_
    simp only [Option.mem_def, Option.ite_none_right_eq_some, Option.some.injEq] at hi hj
    omega
  · simp only [List.mem_filterMap, List.mem_range, Option.ite_none_right_eq_some, Option.some.injEq, List.mem_filter, decide_eq_true_eq]
    constructor
    · rintro ⟨i, hi, hk, rfl⟩
      omega
    · rintro ⟨hk, rfl⟩
      exact ⟨k % 8, by omega, by omega, by omega⟩

/-- An element of an i8 product (R142): the exact sum of each group, accumulated and saturated. -/
theorem mmaElem_i8 (kk : Nat) (a b : Nat → Nat) (s : Nat) : (mmaElem 2 kk a b s).1 =
    (List.range ((kk + 7) / 8)).foldl (fun s g => saturated ((BitVec.ofNat 32 s).toInt +
      (((List.range kk).filter fun k => k / 8 = g).map fun k => (BitVec.ofNat 8 (a k)).toInt * (BitVec.ofNat 8 (b k)).toInt).sum)) s := by
  unfold mmaElem
  rw [← List.foldl_hom Prod.fst]
  intro acc g
  have hsum (l : List Nat) (t : Int) : l.foldl (fun t k => t + tyVal 0 (a k) * tyVal 0 (b k)) t
      = t + (l.map fun k => (BitVec.ofNat 8 (a k)).toInt * (BitVec.ofNat 8 (b k)).toInt).sum := by
    induction l generalizing t with
    | nil => simp
    | cons k l ih => rw [List.foldl_cons, ih, tyVal_i8, tyVal_i8, List.map_cons, List.sum_cons, Int.add_assoc]
  simp only [if_true, hsum, Int.zero_add, sat32_fst, tyVal_i32]
  rw [((group_perm kk g).map _).sum_eq]

theorem mmaElem_i8_lt (kk : Nat) (a b : Nat → Nat) {s : Nat} (hs : s < 2 ^ 32) : (mmaElem 2 kk a b s).1 < 2 ^ 32 := by
  rw [mmaElem_i8]
  exact List.foldlRecOn (motive := (· < 2 ^ 32)) _ _ hs fun _ _ _ _ => saturated_lt _

section

variable {z : Fmt}

theorem Fmt.signed_lt {b : Nat} (neg : Bool) (h : b < z.signBit) : z.signed neg b < 2 ^ z.width := by
  have : 2 ^ z.width = 2 * z.signBit := by rw [Fmt.width, Fmt.signBit, pow_succ, Nat.mul_comm]
  unfold Fmt.signed
  split <;> omega

theorem Fmt.inf_lt : z.inf < z.signBit := by
  unfold Fmt.inf Fmt.signBit Fmt.expMax
  rw [pow_add]
  exact Nat.mul_lt_mul_of_pos_right (Nat.sub_lt (Nat.two_pow_pos _) Nat.one_pos) (Nat.two_pow_pos _)

/-- What is kept of a number has at most one digit more than a fraction (R106). -/
theorem kept_le (m fb : Nat) (sh : Int) (hsh : (Nat.log2 m : Int) - fb ≤ sh) :
    (if sh ≤ 0 then m * 2 ^ (-sh).toNat else m / 2 ^ sh.toNat) < 2 ^ (fb + 1) := by
  have hm : m < 2 ^ (Nat.log2 m + 1) := Nat.lt_log2_self
  split
  case isTrue h =>
    calc m * 2 ^ (-sh).toNat < 2 ^ (Nat.log2 m + 1) * 2 ^ (-sh).toNat := Nat.mul_lt_mul_of_pos_right hm (Nat.two_pow_pos _)
      _ = 2 ^ (Nat.log2 m + 1 + (-sh).toNat) := (pow_add _ _ _).symm
      _ ≤ 2 ^ (fb + 1) := Nat.pow_le_pow_right (by decide) (by omega)
  case isFalse h =>
    rw [Nat.div_lt_iff_lt_mul (Nat.two_pow_pos _), ← pow_add]
    exact hm.trans_le (Nat.pow_le_pow_right (by decide) (by omega))

/-- The exponent and the fraction of a kept number that does not overflow. -/
theorem Fmt.finite_lt (hz : z.expMax = 2 * z.bias + 1) {n : Nat} {q : Int} (hn : n < 2 ^ (z.fb + 1))
    (hq : ¬ (2 ^ z.fb ≤ n ∧ (z.bias : Int) < q + z.fb)) :
    (if n < 2 ^ z.fb then n else (q + z.fb + z.bias).toNat * 2 ^ z.fb + (n - 2 ^ z.fb)) < z.signBit := by
  have hsign : z.signBit = (2 * z.bias + 2) * 2 ^ z.fb := by
    have := Nat.two_pow_pos z.eb
    rw [Fmt.signBit, pow_add, show 2 ^ z.eb = 2 * z.bias + 2 by unfold Fmt.expMax at hz; omega]
  rw [pow_succ] at hn
  rw [hsign]
  split
  case isTrue h => exact h.trans_le (Nat.le_mul_of_pos_left _ (by omega))
  case isFalse h =>
    have hexp : (q + z.fb + z.bias).toNat * 2 ^ z.fb ≤ 2 * z.bias * 2 ^ z.fb := Nat.mul_le_mul_right _ (by omega)
    rw [Nat.add_mul]
    omega

/-- A rounded result is a pattern of the format (R107). -/
theorem Fmt.round_lt (hz : z.expMax = 2 * z.bias + 1) (rm : Nat) (n : Bool) (m : Nat) (e : Int) (st : Bool) :
    (z.round rm n m e st).1 < 2 ^ z.width := by
  unfold Fmt.round
  split
  case isTrue => exact Fmt.signed_lt _ (Nat.two_pow_pos _)
  case isFalse =>
    dsimp only
    generalize 2 * m + st.toNat = m
    have hkept := kept_le m z.fb (max ((Nat.log2 m : Int) + (e - 1) - z.fb) (1 - (z.bias : Int) - z.fb) - (e - 1)) (by omega)
    generalize max ((Nat.log2 m : Int) + (e - 1) - z.fb) (1 - (z.bias : Int) - z.fb) = q at hkept ⊢
    generalize (if q - (e - 1) ≤ 0 then m * 2 ^ (-(q - (e - 1))).toNat else m / 2 ^ (q - (e - 1)).toNat) = k at hkept ⊢
    generalize roundsUp rm n _ _ _ = up
    have hup : (if up then k + 1 else k) ≤ 2 ^ (z.fb + 1) := by split <;> omega
    generalize (if up then k + 1 else k) = k at hup ⊢
    have hnorm : (if k = 2 ^ (z.fb + 1) then (2 ^ z.fb, q + 1) else (k, q)).1 < 2 ^ (z.fb + 1) := by
      split
      case isTrue => exact Nat.pow_lt_pow_right Nat.one_lt_two (Nat.lt_succ_self _)
      case isFalse h => omega
    generalize (if k = 2 ^ (z.fb + 1) then (2 ^ z.fb, q + 1) else (k, q)) = p at hnorm ⊢
    have hbig (b : Bool) : (if b then z.inf else z.maxFinite) < z.signBit := by
      split
      · exact Fmt.inf_lt
      · exact (Nat.sub_le _ _).trans_lt Fmt.inf_lt
    split
    case isTrue => exact Fmt.signed_lt _ (hbig _)
    case isFalse h => exact Fmt.signed_lt _ (Fmt.finite_lt hz hnorm h)

theorem Fmt.roundInt_lt (hz : z.expMax = 2 * z.bias + 1) (rm : Nat) (n : Bool) (v e : Int) : (z.roundInt rm n v e).1 < 2 ^ z.width := by
  unfold Fmt.roundInt
  split
  · exact Fmt.signed_lt _ (Nat.two_pow_pos _)
  · exact Fmt.round_lt hz _ _ _ _ _

/-- A sum is a pattern of the format. -/
theorem Fmt.add_lt (hz : z.expMax = 2 * z.bias + 1) (hq : z.qnan < 2 ^ z.width) (rm x y : Nat) : (z.add rm x y).1 < 2 ^ z.width := by
  unfold Fmt.add Fmt.addV
  split
  case h_1 | h_2 => exact hq
  case h_3 =>
    split
    · exact Fmt.signed_lt _ Fmt.inf_lt
    · exact hq
  case h_4 | h_5 => exact Fmt.signed_lt _ Fmt.inf_lt
  case h_6 => exact Fmt.roundInt_lt hz _ _ _ _

end

/-! ## Ancestors of a draft query (R145) -/

/-- The search for an ancestor finds those of the parent relation, where parents lie below their children. -/
theorem isAncestor_iff {p : List Nat} (hp : ∀ i q, p[i]? = some q → q = 0xFF ∨ q < i) {n i : Nat} (hi : i < n) (j : Nat) :
    isAncestor p n i j = true ↔ Relation.ReflTransGen (parentOf p) i j := by
  induction n generalizing i with
  | zero => cases hi
  | succ n ih =>
    have hparent (q : Nat) (hq : parentOf p i q) : isAncestor p n q j = true ↔ Relation.ReflTransGen (parentOf p) q j :=
      ih (by have := (hp i q hq.1).resolve_left hq.2; omega)
    rw [Relation.ReflTransGen.cases_head_iff]
    unfold isAncestor
    cases hq : p[i]? with
    | none => simp [parentOf, hq]
    | some q =>
      have hex : (∃ c, parentOf p i c ∧ Relation.ReflTransGen (parentOf p) c j) ↔ q ≠ 0xFF ∧ isAncestor p n q j = true := by
        constructor
        · rintro ⟨c, hc, hcj⟩
          obtain rfl := Option.some.inj (hq.symm.trans hc.1)
          exact ⟨hc.2, (hparent _ hc).mpr hcj⟩
        · rintro ⟨hne, hcj⟩
          exact ⟨q, ⟨hq, hne⟩, (hparent q ⟨hq, hne⟩).mp hcj⟩
      rw [hex]
      simp

end Sys2Proof.Machine

namespace Sys2Proof.Claims

open Sys2Proof.Machine

section

variable {x : Slot} {u : UnitCmd} {sd sa : Word} {i j : Nat}

/-- No other tile changes. -/
theorem runUnit_tile_of_ne {t : Nat} (ht : t % 8 ≠ u.d % 8) : (x.runUnit u).tile t = x.tile t := by
  unfold Slot.runUnit
  dsimp only
  split
  case h_1 | h_3 | h_4 => rw [Slot.tile_ifFlagged, Slot.tile_setTile, if_neg ht]
  case h_2 | h_5 => rw [Slot.tile_setTile, if_neg ht]

variable (hfit : shapeRows sd * shapeCols sd * 4 ≤ 4096) (hi : i < shapeRows sd) (hj : j < shapeCols sd)
include hfit hi hj

/-- An element of the destination of a command that computes each from the old tiles. -/
theorem tileAt_tileMap (old : BitVec 32768) {f : Nat → Nat → Nat × Nat} (hf : (f i j).1 < 2 ^ 32) :
    tileAt (tileMap old (shapeRows sd) (shapeCols sd) f).1 (shapeCols sd) 4 i j = (f i j).1 := by
  rw [tileMap_fst, tileAt_setTile old _ hfit hi hj]
  exact Nat.mod_eq_of_lt hf

theorem tzero_element (hop : u.op = 1) (hsh : u.shapes = [sd]) (heb : shapeEb sd = 4) :
    tileAt ((x.runUnit u).tile u.d) (shapeCols sd) 4 i j = 0 := by
  unfold Slot.runUnit
  simp only [hop, hsh, List.headD_cons, heb, Slot.tile_setTile, if_true]
  rw [tileAt_setTile _ _ hfit hi hj, Nat.zero_mod]

theorem tscale_element (hop : u.op = 2) (hsh : u.shapes = [sd]) (hty : shapeTy sd = 4) :
    tileAt ((x.runUnit u).tile u.d) (shapeCols sd) 4 i j = saturated ((BitVec.ofNat 32 (tileAt (x.tile u.a) (shapeCols sd) 4 i j)).toInt *
      (BitVec.ofNat 32 (u.x.toNat % 2 ^ 32)).toInt) := by
  unfold Slot.runUnit
  simp only [hop, hsh, List.headD_cons, hty, Nat.reduceEqDiff, if_false, Slot.tile_ifFlagged, Slot.tile_setTile, if_true]
  rw [tileAt_tileMap hfit hi hj _ (sat32_lt _), sat32_fst, tyVal_i32, tyVal_i32, tileElem_eq]

theorem tadd_element_i32 (hop : u.op = 3) (hsh : u.shapes = [sd]) (hty : shapeTy sd = 4) :
    tileAt ((x.runUnit u).tile u.d) (shapeCols sd) 4 i j = saturated ((BitVec.ofNat 32 (tileAt (x.tile u.a) (shapeCols sd) 4 i j)).toInt +
      (BitVec.ofNat 32 (tileAt (x.tile u.b) (shapeCols sd) 4 i j)).toInt) := by
  unfold Slot.runUnit
  simp only [hop, hsh, List.headD_cons, hty, Nat.reduceEqDiff, if_false, Slot.tile_ifFlagged, Slot.tile_setTile, if_true]
  rw [tileAt_tileMap hfit hi hj _ (sat32_lt _), sat32_fst, tyVal_i32, tyVal_i32, tileElem_eq, tileElem_eq]

theorem tadd_element_f32 (hop : u.op = 3) (hsh : u.shapes = [sd]) (hty : shapeTy sd = 10) :
    tileAt ((x.runUnit u).tile u.d) (shapeCols sd) 4 i j
      = (Fmt.f32.add u.rm (tileAt (x.tile u.a) (shapeCols sd) 4 i j) (tileAt (x.tile u.b) (shapeCols sd) 4 i j)).1 := by
  unfold Slot.runUnit
  simp only [hop, hsh, List.headD_cons, hty, Slot.tile_ifFlagged, Slot.tile_setTile, if_true]
  rw [tileAt_tileMap hfit hi hj _ (Fmt.add_lt (by decide) (by decide) _ _ _), tileElem_eq, tileElem_eq]

/-- R142: an element of an i8 product is the accumulated sum of its groups. -/
theorem tmma_element (hop : u.op = 0) (hsh : u.shapes.take 2 = [sd, sa]) (hkind : u.kind = 2) (hty : shapeTy sa = 0) :
    tileAt ((x.runUnit u).tile u.d) (shapeCols sd) 4 i j = (mmaElem 2 (shapeCols sa) (fun k => tileAt (x.tile u.a) (shapeCols sa) 1 i k)
      (fun k => tileAt (x.tile u.b) (shapeCols sd) 1 k j) (if u.clr then 0 else tileAt (x.tile u.d) (shapeCols sd) 4 i j)).1 := by
  obtain ⟨l, hl⟩ : ∃ l, u.shapes = sd :: sa :: l := by
    match hm : u.shapes, hsh with
    | a :: b :: l, hsh => exact ⟨l, by simpa using hsh⟩
  have hstart : (if u.clr then 0 else tileElem (x.tile u.d) 4 (i * shapeCols sd + j)) < 2 ^ 32 := by
    split
    · decide
    · exact tileElem_lt _ _
  have heb : shapeEb sa = 1 := congrArg tySize hty
  unfold Slot.runUnit
  simp only [hop, hl, List.headD_cons, List.getElem?_cons_succ, List.getElem?_cons_zero, Option.getD_some, hkind, heb,
    Slot.tile_ifFlagged, Slot.tile_setTile, if_true]
  rw [tileAt_tileMap hfit hi hj _ (mmaElem_i8_lt _ _ _ hstart)]
  simp only [tileElem_eq]

/-- R145: `TMASK` keeps of a row the prefix and the ancestors of its draft query. -/
theorem tmask_element (hop : u.op = 4) (hsh : u.shapes = [sd]) (hp : ∀ i q, u.parents[i]? = some q → q = 0xFF ∨ q < i) :
    let kept := j < u.x.toNat ∨ (j < u.x.toNat + shapeRows sd ∧ Relation.ReflTransGen (parentOf u.parents) i (j - u.x.toNat))
    let new := tileAt ((x.runUnit u).tile u.d) (shapeCols sd) 4 i j
    (kept → new = tileAt (x.tile u.d) (shapeCols sd) 4 i j) ∧ (¬ kept → new = 0xFF800000) := by
  intro kept new
  let test := decide (j < u.x.toNat) || (decide (u.x.toNat ≤ j ∧ j < u.x.toNat + shapeRows sd)
    && isAncestor u.parents (i + 1) i (j - u.x.toNat))
  have hkept : test = true ↔ kept := by
    rw [Bool.or_eq_true, Bool.and_eq_true, isAncestor_iff hp (Nat.lt_succ_self i), decide_eq_true_eq, decide_eq_true_eq]
    by_cases h : j < u.x.toNat
    · simp [kept, h]
    · simp [kept, h, Nat.not_lt.mp h]
  have hnew : new = (if test then (tileAt (x.tile u.d) (shapeCols sd) 4 i j, 0) else ((0xFF800000, 0) : Nat × Nat)).1 := by
    unfold new Slot.runUnit
    simp only [hop, hsh, List.headD_cons, Slot.tile_setTile, if_true]
    rw [tileAt_tileMap hfit hi hj]
    · simp only [tileElem_eq]
      rfl
    · split
      · exact tileElem_lt _ _
      · decide
  exact ⟨fun hk => by rw [hnew, if_pos (hkept.mpr hk)], fun hk => by rw [hnew, if_neg fun h => hk (hkept.mp h)]⟩

end

/-- Settles O53: each command writes its destination element by element and leaves the other tiles. -/
theorem tileResults : Obligations.TileResults := by
  intro x u sd sa rows cols y old new val hd hfit
  refine ⟨fun t ht hne => runUnit_tile_of_ne (by omega), fun hop hsh heb i hi j hj => tzero_element hfit hi hj hop hsh heb,
    fun hop hsh hty i hi j hj => tscale_element hfit hi hj hop hsh hty,
    fun hop hsh hty i hi j hj => tadd_element_i32 hfit hi hj hop hsh hty,
    fun hop hsh hty i hi j hj => tadd_element_f32 hfit hi hj hop hsh hty,
    fun hop hsh hkind hty i hi j hj => (tmma_element hfit hi hj hop hsh hkind hty).trans (mmaElem_i8 _ _ _ _),
    fun hop hsh hp i hi j hj => tmask_element hfit hi hj hop hsh hp⟩

end Sys2Proof.Claims
end

section
/-! PROOFS. The tile commands are accepted in order (O55), and `TCMD` sends its command block and waits for the answer. -/

namespace Sys2Proof

theorem Memory.length_bytes (m : Memory) (a n : Nat) : (m.bytes a n).length = n := by
  induction n generalizing a with
  | zero => rfl
  | succ n ih => rw [Memory.bytes, List.length_cons, ih]

end Sys2Proof

namespace Sys2Proof.Machine

open Sys2Proof.Claims

/-! ## The unit and the scoreboard (R135, R136) -/

theorem waitTileR_run {t : Spec} {s : State} (h : readable s t) : waitTileR t s = .ok ((), s) := by
  unfold waitTileR
  rw [M.bind_ok (M.get_run _)]
  exact waitIf_of h _ _

theorem waitTileW_run {t : Spec} {s : State} (h : writable s t) : waitTileW t s = .ok ((), s) := by
  unfold waitTileW
  rw [M.bind_ok (M.get_run _)]
  exact waitIf_of h _ _

theorem placeGate_run {s : State} (h : (s.core (slotCore s.cur)).munit.length < 3) : placeGate s = .ok ((), s) := by
  unfold placeGate
  rw [M.bind_ok (myCore_run _)]
  exact waitIf_of (decide_eq_false (Nat.not_le.mpr h)) _ _

theorem charge_run {s : State} {n : Nat} (h : s.covers n = true) : charge n s = .ok ((), s.takeCharge s.cur n) := by
  unfold charge
  rw [M.bind_ok (M.get_run _), M.bind_ok (waitIf_of (by rw [h]; rfl) _ _)]
  rfl

theorem State.takeCharge_cur (s : State) (slot n : Nat) : (s.takeCharge slot n).cur = s.cur := by
  rw [State.takeCharge_rest]

theorem accepted_cur (s : State) (c : UnitCmd) (w : Nat) : (accepted s c w).cur = s.cur := State.takeCharge_cur s _ _

/-- A command that the unit has room for is accepted, and pays for its cycles. -/
theorem acceptUnit_run {c : UnitCmd} {w : Nat} {s : State} (h : accepts s c w) : acceptUnit c w s = .ok ((), accepted s c w) := by
  obtain ⟨room, covers⟩ := h
  unfold acceptUnit
  rw [M.bind_ok (M.get_run _), M.bind_ok (placeGate_run room), M.bind_ok (charge_run covers), M.modCore_run, State.takeCharge_cur]
  rfl

/-- Taking the local-store port changes nothing that the acceptance of a command asks. -/
theorem accepts_portTaken {c : UnitCmd} {w : Nat} {s : State} (h : accepts s c w) : accepts s.portTaken c w := by
  obtain ⟨room, covers⟩ := h
  refine ⟨?_, covers⟩
  rw [State.portTaken_cur, State.portTaken, State.modCore_eq, State.core_setCore_self]
  exact room

/-! ## The commands (R142, R143, R145) -/

/-- The commands that `TMMA`, `TZERO`, `TSCALE` and `TADD`, and `TMASK` make of their operands. -/
def mmaCommand (u : State) (d a b : Spec) (clr : Bool) (kind : Nat) (q : Bool) : UnitCmd :=
  { slot := 0, op := 0, d := d.toNat % 8, a := a.toNat % 8, b := b.toNat % 8, kind := kind, clr := clr, q := q
    cycles := upTo (rowsOf u a * colsOf u a * colsOf u b) (if kind = 2 then 2048 else 1024)
    shapes := [u.me.shapeOf d, u.me.shapeOf a, u.me.shapeOf b] }

def zeroCommand (u : State) (d : Spec) : UnitCmd :=
  { slot := 0, op := 1, d := d.toNat % 8, cycles := upTo (rowsOf u d * colsOf u d * bytesOf u d) 256, shapes := [u.me.shapeOf d] }

def arithCommand (u : State) (op : Nat) (d a b : Spec) (v : Word) (rm : Nat) (q : Bool) : UnitCmd :=
  { slot := 0, op := op, d := d.toNat % 8, a := a.toNat % 8, b := b.toNat % 8, q := q, rm := rm, x := v
    cycles := upTo (rowsOf u d * colsOf u d) 64, shapes := [u.me.shapeOf d] }

def maskCommand (u : State) (d : Spec) (p : Word) (parents : List Nat) : UnitCmd :=
  { slot := 0, op := 4, d := d.toNat % 8, x := p, parents := parents
    cycles := upTo (rowsOf u d * colsOf u d) 64 + 1, shapes := [u.me.shapeOf d] }

section

variable {u : State} {d a b : Spec}

theorem tileMma_run {clr : Bool} {kind : Nat} {q : Bool} (hta : typeOf u a = if kind = 0 then 9 else if kind = 1 then 8 else 0)
    (htb : typeOf u b = typeOf u a) (htd : typeOf u d = if kind = 2 then 4 else 10) (hrb : rowsOf u b = colsOf u a)
    (hrd : rowsOf u d = rowsOf u a) (hcd : colsOf u d = colsOf u b) (hda : d ≠ a) (hdb : d ≠ b) (ra : readable u a) (rb : readable u b)
    (wd : writable u d) (room : accepts u (mmaCommand u d a b clr kind q) (if kind = 2 then 36 else 40)) :
    tileMma d a b clr kind q none false u = .ok ((), accepted u (mmaCommand u d a b clr kind q) (if kind = 2 then 36 else 40)) := by
  unfold tileMma
  rw [M.bind_ok (M.me_run _)]
  dsimp only
  rw [M.bind_ok (raiseIf_of ?shapes _ _ _ _ _), M.bind_ok (waitTileR_run ra), M.bind_ok (waitTileR_run rb), M.bind_ok (M.get_run _),
    M.bind_ok (myCore_run _), M.guarded_run fun _ => waitTileW_run wd]
  case shapes =>
    simp only [typeOf, rowsOf, colsOf] at hta htb htd hrb hrd hcd
    clear room
    rcases kind with _ | _ | kind <;> simp_all
  exact acceptUnit_run room

theorem tileZero_run (wd : writable u d) (room : accepts u (zeroCommand u d) 8) :
    tileZero d none false u = .ok ((), accepted u (zeroCommand u d) 8) := by
  unfold tileZero
  rw [M.bind_ok (M.me_run _), M.bind_ok (waitTileW_run wd)]
  exact acceptUnit_run room

theorem tileArith_run {op : Nat} {v : Word} {rm : Nat} {q : Bool} (hsa : sameShape u a d) (hsb : op = 3 → sameShape u b d ∧ readable u b)
    (hty : typeOf u d = 10 ∨ typeOf u d = 4) (ra : readable u a) (wd : writable u d)
    (room : accepts u (arithCommand u op d a b v rm q) 8) :
    tileArith op d a b v rm q none false u = .ok ((), accepted u (arithCommand u op d a b v rm q) 8) := by
  unfold tileArith
  rw [M.bind_ok (M.me_run _)]
  dsimp only
  rw [M.bind_ok (raiseIf_of ?shapes _ _ _ _ _), M.bind_ok (waitTileR_run ra), M.guarded_run fun h => waitTileR_run (hsb h).2,
    M.bind_ok (waitTileW_run wd)]
  case shapes =>
    obtain ⟨ta, rowsA, colsA⟩ := hsa
    have hd : ¬ shapeTy (u.me.shapeOf d) = 10 → shapeTy (u.me.shapeOf d) = 4 := hty.resolve_left
    simp only [typeOf, rowsOf, colsOf] at ta rowsA colsA
    split
    case isTrue h =>
      obtain ⟨⟨tb, rowsB, colsB⟩, -⟩ := hsb h
      simp only [typeOf, rowsOf, colsOf] at tb rowsB colsB
      simp [ta, rowsA, colsA, tb, rowsB, colsB]; exact hd
    case isFalse => simp [ta, rowsA, colsA]; exact hd
  exact acceptUnit_run room

/-- The parent array of `TMASK`, one byte for each row, in the core's local store (R145). -/
def parentsAt (u : State) (va : Word) (rows : Nat) : List Nat :=
  (u.readBytes (localPlace (slotCore u.cur) va.toNat).key rows).map BitVec.toNat

theorem parentsAt_ok {u : State} {va : Word} {rows : Nat} (h : ∀ i < rows, ∀ q, (parentsAt u va rows)[i]? = some q → q = 0xFF ∨ q < i) :
    ((List.range rows).any fun i => decide ((parentsAt u va rows)[i]?.getD 0 ≠ 0xFF ∧ i ≤ (parentsAt u va rows)[i]?.getD 0)) = false := by
  rw [List.any_eq_false]
  intro i hi
  have hi := List.mem_range.mp hi
  have hlen : (parentsAt u va rows).length = rows := (List.length_map _).trans (Memory.length_bytes _ _ _)
  have hsome := List.getElem?_eq_getElem (hi.trans_eq hlen.symm)
  have := h i hi _ hsome
  rw [hsome, Option.getD_some, decide_eq_true_eq]
  omega

theorem tileMask_run {va p : Word} {bound : Nat} {u' : State} (hty : typeOf u d = 10) (hlow : va.toNat + rowsOf u d ≤ 0x40000)
    (hbound : localBound u = .ok (bound, u')) (hin : va.toNat + rowsOf u d ≤ bound) (wd : writable u' d)
    (hord : u'.ordered (localPlace (slotCore u'.cur) va.toNat) u'.windowOrd (rowsOf u d) false = false) (free : u'.portFree)
    (clean : u'.isPoisoned (localPlace (slotCore u'.cur) va.toNat) (rowsOf u d) = false)
    (hparents : ∀ i < rowsOf u d, ∀ q, (parentsAt u' va (rowsOf u d))[i]? = some q → q = 0xFF ∨ q < i)
    (watch : Passes (checkWatch 1 va (rowsOf u d)) u'.portTaken)
    (room : accepts u' (maskCommand u d p (parentsAt u' va (rowsOf u d))) 8) :
    tileMask d va p none false u = .ok ((), accepted u'.portTaken (maskCommand u d p (parentsAt u' va (rowsOf u d))) 8) := by
  simp only [rowsOf] at hlow hin hord clean hparents watch room ⊢
  unfold tileMask
  rw [M.bind_ok (M.me_run _)]
  dsimp only
  rw [M.bind_ok (raiseIf_of (by simpa [typeOf] using hty) _ _ _ _ _), M.bind_ok (raiseIf_of (decide_eq_false (Nat.not_lt.mpr hlow)) _ _ _ _ _),
    M.bind_ok hbound, M.bind_ok (raiseIf_of (decide_eq_false (Nat.not_lt.mpr hin)) _ _ _ _ _), M.bind_ok (waitTileW_run wd),
    M.bind_ok (placeGate_run room.1), M.bind_ok (M.get_run _), M.bind_ok (M.get_run _), M.bind_ok (orderGate_of hord),
    M.bind_ok (needPort_of free), M.bind_ok (localPoison_of (s := u'.portTaken) clean _), M.bind_ok (M.get_run _)]
  refine (M.bind_ok (raiseIf_of (parentsAt_ok hparents) _ _ _ _ _)).trans ?_
  rw [M.bind_ok watch]
  exact acceptUnit_run (accepts_portTaken room)

end

/-! ## Sending a command (R150) -/

/-- Sampling a thread's block again leaves the ordering kind of its windows (R226). -/
theorem myEff_windowOrd {s t : State} {e : Eff} (h : myEff s = .ok (e, t)) : t.windowOrd = s.windowOrd := by
  have sampled (h : sampleBlock s.me.rcb s = .ok (e, t)) : t.windowOrd = s.windowOrd := by
    obtain ⟨he, rfl⟩ := sampleBlock_inv h
    have kept : (s.cacheEff s.me.rcb e).eff? s.me.rcb = some e := by
      rw [State.eff?, State.cacheEff, if_pos (SMap.has_set_self _ _ _), SMap.get_set_self]
    unfold State.windowOrd
    rw [he]
    exact congrArg (fun o => (Option.map Eff.ord o).getD 1) kept
  unfold myEff at h
  rw [M.bind_ok (M.me_run _)] at h
  cases hx : s.me.sampled with
  | none => rw [hx] at h; exact sampled h
  | some e' =>
    rw [hx] at h
    dsimp only at h
    split at h
    · cases h
      rfl
    · exact sampled h

theorem destCheck_windowOrd {w : Word} {port : Bool} {s t : State} (h : destCheck w port s = .ok ((), t)) :
    t.windowOrd = s.windowOrd := by
  unfold destCheck at h
  obtain ⟨_, u, h1, h'⟩ := M.bind_inv h
  obtain ⟨e, v, h2, h3⟩ := M.bind_inv h'
  obtain ⟨_, rfl⟩ := raiseIf_inv h1
  obtain ⟨_, rfl⟩ := raiseIf_inv h3
  exact myEff_windowOrd h2

/-- A word of a command block in the core's local store. -/
def blockWord (u : State) (ea : Word) (i : Nat) : Word :=
  BitVec.ofNat 64 (u.readMem ((localPlace (slotCore u.cur) ea.toNat).key + 8 * i) 8)

theorem blockWord_add (u : State) (ea : Word) (i : Nat) :
    BitVec.ofNat 64 (u.readMem ((localPlace (slotCore u.cur) ea.toNat).add (8 * i)).key 8) = blockWord u ea i := by
  rw [Place.add_key]
  rfl

/-- The state in which the sender of a command waits for the answer, which it is owed (R150, R178). -/
def State.commanded (s : State) (p : Packet) (ea : Word) : State :=
  (((s.modCore (slotCore s.cur) fun c => { c with credits := c.credits - 1 }).modSlot s.cur fun x =>
    x.owing { id := 0, what := 7, va := ea }).send p).modSlot s.cur fun x => { x with phase := 1 }

/-- What waiting for that answer leaves: the slot that waits, memory, and the packet in the network. -/
theorem State.commanded_keeps (s : State) (p : Packet) (ea : Word) :
    let t := s.commanded p ea
    t.slot s.cur = { s.me.owing { id := 0, what := 7, va := ea } with phase := 1 } ∧ (t.slot s.cur).begun = true ∧ t.mem = s.mem ∧
      t.net = s.net ++ [s.injected p] := by
  have hslot : (s.commanded p ea).slot s.cur = { s.me.owing { id := 0, what := 7, va := ea } with phase := 1 } := by
    rw [State.commanded, State.modSlot_eq, State.slot_setSlot_self, State.slot_send, State.modSlot_eq, State.slot_setSlot_self]
    rfl
  exact ⟨hslot, by rw [hslot]; exact Slot.begun_of_phase rfl, rfl, rfl⟩

/-- The packet of a command (R150). -/
def State.commandPacket (s : State) (id : Nat) (ea cap pc : Word) : Packet :=
  let g := blockWord s ea
  { s.packetOf s.cur 12 with
    ddev := destDev (g 0), dst := destClu (g 0), dep := destEp (g 0), owed := id, ws := [cap, g 0, g 1, g 2, g 3, ea, pc] }

end Sys2Proof.Machine

namespace Sys2Proof.Claims

open Sys2Proof.Machine

/-- R142, R143, R145: each tile command reads its operands, which are no buffer slots, and is accepted. -/
theorem tileCommands : TileCommands := by
  intro d a b f r s u n shape
  have hcur : u.cur = s.cur := s.entered_cur r
  have done {w : State} (hw : w.cur = s.cur) (c : UnitCmd) (k : Nat) : (accepted w c k).cur = s.cur := (accepted_cur w c k).trans hw
  refine ⟨?tmma, ?tzero, ?tscale, ?tadd, ?tmask⟩
  case tmma =>
    intro c k hr kind cmd hta htb htd hrb hrd hcd hda hdb ra rb wd room
    exact issue_completed hr (tileMma_run hta htb htd hrb hrd hcd hda hdb ra rb wd room) (done hcur _ _)
  case tzero =>
    intro hr cmd wd room
    exact issue_completed hr (tileZero_run wd room) (done hcur _ _)
  case tscale =>
    intro v hr hv cmd hsa hty ra wd room
    have hb : isHandle b = false := by
      obtain rfl := Option.some.inj hr.raw
      exact Raw.operand_not_handle hr.operands rfl (k := 3) (.inl rfl) (by simp [Raw.roles])
    exact issue_completed hr ((M.bind_ok (src_scalar hb hv)).trans (tileArith_run hsa nofun hty ra wd room)) (done hcur _ _)
  case tadd =>
    intro hr cmd hsa hsb hty ra rb wd room
    exact issue_completed hr (tileArith_run hsa (fun _ => ⟨hsb, rb⟩) hty ra wd room) (done hcur _ _)
  case tmask =>
    intro v p bound u' hr hv hp hty hlow hbound hcur' hme hin place parents hord free clean hparents watch cmd wd room
    have hab : isHandle a = false ∧ isHandle b = false := by
      obtain rfl := Option.some.inj hr.raw
      exact ⟨Raw.operand_not_handle hr.operands rfl (k := 2) (.inl rfl) (by simp [Raw.roles]),
        Raw.operand_not_handle hr.operands rfl (k := 3) (.inl rfl) (by simp [Raw.roles])⟩
    have hparentsAt : parents = parentsAt u' v (rowsOf u d) := by rw [parentsAt, hcur']
    rw [hparentsAt] at hparents
    have hcmd : cmd = maskCommand u d p (parentsAt u' v (rowsOf u d)) := by rw [← hparentsAt]; rfl
    rw [hcmd] at room ⊢
    refine issue_completed hr ?_ (done (w := u'.portTaken) hcur' _ _)
    rw [M.bind_ok (src_scalar hab.1 hv), M.bind_ok (src_scalar hab.2 hp)]
    exact tileMask_run hty hlow hbound hin wd (by rwa [hcur']) free (by rwa [hcur']) hparents watch room

section

variable {a b : Spec} {f : Form} {r : Raw} {s u1 u2 : State} {ea cap : Word} {bound : Nat}

theorem tcmd_sources (hr : Ready (.tcmd a b f) r s) : isHandle a = false ∧ isHandle b = false := by
  obtain rfl := Option.some.inj hr.raw
  exact ⟨Raw.operand_not_handle hr.operands rfl (k := 2) (.inl rfl) (by simp [Raw.roles]),
    Raw.operand_not_handle hr.operands rfl (k := 3) (.inl rfl) (by simp [Raw.roles])⟩

/-- R150: a command whose checks pass is sent, and waits for its answer. -/
theorem tcmd_sends (hr : Ready (.tcmd a b f) r s) (hphase : (s.entered r).me.phase = 0) (ha : (s.entered r).reads f a = some ea)
    (hb : (s.entered r).reads f b = some cap) (hal : ea.toNat % 32 = 0) (hlow : ea.toNat + 32 ≤ 0x40000)
    (hbound : localBound (s.entered r) = .ok (bound, u1)) (hin : ea.toNat + 32 ≤ bound) (hcur1 : u1.cur = s.cur)
    (hcarried : (carried ((blockWord u1 ea 1).setWidth 32)).isSome = true) (h35 : (blockWord u1 ea 1).extractLsb' 35 5 = 0)
    (h45 : (blockWord u1 ea 1).extractLsb' 45 3 = 0) (h48 : (blockWord u1 ea 1).extractLsb' 48 16 = 0)
    (hdest : destCheck (blockWord u1 ea 0) false u1 = .ok ((), u2)) (hcur : u2.cur = s.cur)
    (clean : u2.isPoisoned (localPlace (slotCore s.cur) ea.toNat) 32 = false) (hst : (s.entered r).me.storesDone = true)
    (hord : u2.ordered (localPlace (slotCore s.cur) ea.toNat) u2.windowOrd 32 false = false) (hgate : Passes launchGate u2)
    (free : u2.portFree) (watch : Passes (checkWatch 1 ea 32) u2.portTaken) (hcred : 0 < (u2.core (slotCore s.cur)).credits) :
    ∃ refill, exec (.tcmd a b f) s = .next (s.settle r s.me.pc refill
      (.wait (u2.portTaken.commanded (u1.commandPacket u2.me.accNext ea cap (s.entered r).me.pc) ea) 3)) := by
  have hword : u2.windowOrd = u1.windowOrd := destCheck_windowOrd hdest
  have hcred' : 1 ≤ (u2.portTaken.core (slotCore u2.portTaken.cur)).credits := by
    rw [State.portTaken_cur, State.portTaken, State.modCore_eq, State.core_setCore_self, hcur]
    exact hcred
  refine issue_waits (i := .tcmd a b f) hr ?_
  rw [M.bind_ok (M.me_run _)]
  simp only [hphase, OfNat.zero_ne_ofNat, if_false]
  rw [M.bind_ok (src_scalar (tcmd_sources hr).1 ha), M.bind_ok (src_scalar (tcmd_sources hr).2 hb), M.bind_ok (waitIf_of (by decide) _ _),
    M.bind_ok (raiseIf_of (decide_eq_false (not_not.mpr hal)) _ _ _ _ _), M.bind_ok (raiseIf_of (decide_eq_false (Nat.not_lt.mpr hlow)) _ _ _ _ _),
    M.bind_ok hbound, M.bind_ok (raiseIf_of (decide_eq_false (Nat.not_lt.mpr hin)) _ _ _ _ _), M.bind_ok (M.get_run _), M.bind_ok (M.get_run _)]
  simp only [blockWord_add]
  rw [M.bind_ok (raiseIf_of (by simp [Option.isNone_eq_false_iff.mpr hcarried, h35, h45, h48]) _ _ _ _ _), M.bind_ok hdest,
    M.bind_ok (waitIf_of (by rw [hst]; rfl) _ _), M.bind_ok (orderGate_of (by rw [hcur1, ← hword]; exact hord)), M.bind_ok hgate,
    M.bind_ok (needPort_of free), M.bind_ok (localPoison_of (s := u2.portTaken) (by rw [hcur1]; exact clean) _), M.bind_ok watch,
    M.bind_ok (reserveCredits_run hcred'), M.bind_ok (addOwed_run _ _)]
  rfl

theorem matrixCommand : MatrixCommand := by
  intro a b f r s u1 u2 ea cap bound hr u
  refine ⟨fun hphase => ?answered, ?sends⟩
  case answered =>
    refine issue_completed (i := .tcmd a b f) hr ?_ (s.entered_cur r)
    rw [M.bind_ok (M.me_run _), if_pos hphase]
    rfl
  case sends =>
    intro key g hphase ha hb hal hlow hbound hin hcur1 hme1 hcarried h35 h45 h48 hdest hcur hme hnet hmem clean hst hord hgate free watch hcred
    have hg : g = blockWord u1 ea := by
      funext i
      rw [blockWord, hcur1]
    rw [hg] at hcarried h35 h45 h48 hdest ⊢
    obtain ⟨refill, ht⟩ := tcmd_sends hr hphase ha hb hal hlow hbound hin hcur1 hcarried h35 h45 h48 hdest hcur clean hst hord hgate free
      watch hcred
    obtain ⟨hslot, hbegun, hmem', hnet'⟩ := u2.portTaken.commanded_keeps (u1.commandPacket u2.me.accNext ea cap u.me.pc) ea
    rw [State.portTaken_cur, hcur] at hslot hbegun
    obtain ⟨hmemt, hnett, ⟨w, k, e, hself⟩, -⟩ := settle_wait_begun (s := s) (why := 3) r s.me.pc refill (by decide) hbegun
    rw [hslot] at hself
    have hpc : u2.me.pc = s.me.pc := (congrArg Slot.pc hme).trans (entered_pc s r)
    refine ⟨_, _, ht, by rw [hnett, hnet', ← hnet]; rfl, rfl, rfl, rfl, rfl, ?_, by rw [hself]; exact hpc, by rw [hself], fun k => ?_⟩
    · rw [← entered_pc s r]
      rfl
    · rw [hmemt, hmem', ← hmem]
      rfl

end

/-- Settles O55: each tile command passes its checks and is accepted with its shapes, sources and cycles; `TCMD` sends its block and
completes once it is answered. -/
theorem tileCommandsAndMatrix : Obligations.TileCommandsAndMatrix := ⟨tileCommands, matrixCommand⟩

end Sys2Proof.Claims
end

section
/-! PROOFS. `TLD` and `TST` become one access whose units hold the act of each element (O54); `TGETR`, `TPUTR` and `TWAIT`. -/

namespace Sys2Proof.Machine

open Sys2Proof.Claims

/-! ## The footprint table (R191) -/

/-- Two states with the same current thread, in the same slot, and the same memory. -/
structure SameThread (s t : State) : Prop where
  cur : t.cur = s.cur
  me : t.me = s.me
  mem : t.mem = s.mem

theorem enterJob_run {s : State} (reads writes : List (Nat × Nat)) (kv : Bool) (h : (s.clu (slotClu s.cur)).jobs.length < 32) :
    ∃ j w, enterJob reads writes kv s = .ok (j, w) ∧ SameThread s w := by
  unfold enterJob
  rw [M.bind_ok (M.get_run _), M.bind_ok (show myClu s = .ok (s.clu (slotClu s.cur), s) from rfl),
    M.bind_ok (waitIf_of (decide_eq_false (Nat.not_le.mpr h)) _ _)]
  exact ⟨_, _, rfl, rfl, rfl, rfl⟩

/-- An access of a tile enters the table where it has a footprint there. -/
theorem footJob_run {s : State} (lines reads writes : List (Nat × Nat)) (h : (s.clu (slotClu s.cur)).jobs.length < 32) :
    ∃ job w, (do
      if lines = [] then return none
      let (j, _) ← enterJob reads writes false
      return some j : M (Option Nat)) s = .ok (job, w) ∧ SameThread s w := by
  split
  case isTrue => exact ⟨none, s, rfl, rfl, rfl, rfl⟩
  case isFalse =>
    obtain ⟨j, w, hj, hw⟩ := enterJob_run reads writes false h
    exact ⟨some j.1, w, by rw [M.bind_ok hj]; rfl, hw⟩

/-! ## Loads and stores of tiles (R137, R140) -/

/-- The accesses that `TLD` and `TST` add to those of a thread. -/
def tloadAccess (x : Slot) (d : Spec) (e rm : Nat) (base : Word) (ts : List (Nat × Word × Target)) (job : Option Nat) : Access :=
  { id := 0, units := partUnits ts (ts.foldl (fun us p => readUnits us p.2.2 p.1 e) [])
    got := ts.foldl (fun m p => readMarks m p.2.2 p.1) []
    fin := .tload (d.toNat % 8) (shapeTy (x.shapeOf d)) (shapeRows (x.shapeOf d)) (shapeCols (x.shapeOf d)) rm 0
    va := base, ord := partOrd ts, job := job, post := none }

def tstoreAccess (x : Slot) (d : Spec) (base : Word) (ts : List (Nat × Word × Target)) (job : Option Nat) : Access :=
  { id := 0
    units := partUnits ts (ts.foldl (fun us p => putUnit us p.2.2.place 0
      (.wr p.2.2.place.key (shapeEb (x.shapeOf d)) (tileElem (x.tile d.toNat) (shapeEb (x.shapeOf d)) p.1))) [])
    fin := .tstore none, va := base, ord := partOrd ts, job := job }

section

variable {u u1 u2 : State} {d : Spec} {ts : List (Nat × Word × Target)} {buf : Option (Nat × Nat)} {base stride : Word}

theorem tload_acts (plain : ∀ q ∈ ts, q.2.2.view = 0 ∧ q.2.2.place.kind ≠ 4) (x : Slot) (e rm : Nat) (job : Option Nat) :
    OnChip (tloadAccess x d e rm base ts job).units ∧
      ∀ q ∈ ts, HoldsAct (tloadAccess x d e rm base ts job).units q.2.2.place.line (.rd (4 * q.1) q.2.2.place.key e) := by
  have hunits : ts.foldl (fun us p => readUnits us p.2.2 p.1 e) []
      = ts.foldl (fun us p => putUnit us p.2.2.place 0 (.rd (4 * p.1) p.2.2.place.key e)) [] :=
    List.foldl_ext _ _ _ fun us p hp => if_pos (plain p hp).1
  have gathers := gathers_putUnit (fun p : Nat × Word × Target => p.2.2.place) fun p => .rd (4 * p.1) p.2.2.place.key e
  unfold tloadAccess
  dsimp only
  rw [hunits]
  exact ⟨partUnits_onChip ts (gathers.foldl_onChip ts [] nofun fun q hq => (plain q hq).2),
    fun q hq => partUnits_holds ts ((gathers.foldl ts []).2 q hq)⟩

theorem tstore_acts (chip : ∀ q ∈ ts, q.2.2.place.kind ≠ 4) (x : Slot) (job : Option Nat) :
    OnChip (tstoreAccess x d base ts job).units ∧ ∀ q ∈ ts, HoldsAct (tstoreAccess x d base ts job).units q.2.2.place.line
      (.wr q.2.2.place.key (shapeEb (x.shapeOf d)) (tileElem (x.tile d.toNat) (shapeEb (x.shapeOf d)) q.1)) := by
  have gathers := gathers_putUnit (fun p : Nat × Word × Target => p.2.2.place) fun p =>
    .wr p.2.2.place.key (shapeEb (x.shapeOf d)) (tileElem (x.tile d.toNat) (shapeEb (x.shapeOf d)) p.1)
  exact ⟨partUnits_onChip ts (gathers.foldl_onChip ts [] nofun chip), fun q hq => partUnits_holds ts ((gathers.foldl ts []).2 q hq)⟩

/-- The elements of a tile that a `TLD` reads, with their addresses (R137, R138). -/
def loadElements (u : State) (d : Spec) (z t : Bool) (base stride ext : Word) : List (Nat × Word) :=
  let rows := rowsOf u d
  let cols := colsOf u d
  let e := bytesOf u d
  let vr := if z then (ext.extractLsb' 0 6).toNat else rows
  let vc := if z then (ext.extractLsb' 8 8).toNat else cols
  let pitch : Word := if stride ≠ 0 then stride else BitVec.ofNat 64 (if t then rows * e else cols * e)
  let place (i j : Nat) : Word :=
    if t then base + BitVec.ofNat 64 j * pitch + BitVec.ofNat 64 (i * e) else base + BitVec.ofNat 64 i * pitch + BitVec.ofNat 64 (j * e)
  (List.range (rows * cols)).filterMap fun k =>
    if k / cols < vr ∧ k % cols < vc then some (k, place (k / cols) (k % cols)) else none

/-- What follows the checks of a `TLD` (R137): an empty extent zeroes the tile, any other becomes an access. -/
theorem tileLoad_run {z g t : Bool} {rm : Nat} {ext : Word} (hview : tileView base u = .ok (false, u1))
    (hg : t = true → (if g then 2 else 1) = bytesOf u d)
    (hz : z = true → (ext.extractLsb' 0 6).toNat ≤ 32 ∧ (ext.extractLsb' 8 8).toNat ≤ 128 ∧ ext.extractLsb' 16 48 = 0 ∧ ext.extractLsb' 6 2 = 0)
    (hts : tileTargets .load (typeOf u d) (bytesOf u d) buf (loadElements u d z t base stride ext) u1 = .ok (ts, u2))
    (hme : u2.me = u.me) (wd : writable u2 d) (gate : Passes (vecGate ts (bytesOf u d) true) u2) (watch : Passes (vecWatch ts 1 (bytesOf u d)) u2) :
    (ts = [] → tileLoad d z g t rm base buf stride ext none u = .ok ((), u2.modSlot u2.cur fun x =>
      (x.setTile d.toNat (setTile (x.tile d.toNat) (rowsOf u d) (colsOf u d) (bytesOf u d) fun _ _ => 0)).later
        (.tile (d.extractLsb' 0 3)) (u2.cyc + 3))) ∧
    (ts ≠ [] → u.me.acc.length < 4 → (u2.clu (slotClu u2.cur)).jobs.length < 32 → (∀ q ∈ ts, q.2.2.view = 0 ∧ q.2.2.place.kind ≠ 4) →
      ∃ job w, SameThread u2 w ∧
        tileLoad d z g t rm base buf stride ext none u = .ok ((), w.withAccess (tloadAccess u.me d (bytesOf u d) rm base ts job))) := by
  unfold tileLoad
  rw [M.bind_ok (M.me_run _)]
  dsimp only
  rw [M.bind_ok hview, M.bind_ok (raiseIf_of (Bool.false_and _) _ _ _ _ _), M.bind_ok (raiseIf_of ?grain _ _ _ _ _),
    M.bind_ok (raiseIf_of ?extent _ _ _ _ _)]
  case grain =>
    cases t with
    | false => rfl
    | true => simpa [bytesOf, typeOf] using hg rfl
  case extent =>
    cases z with
    | false => rfl
    | true => simpa [and_assoc] using hz rfl
  refine ⟨fun hnil => ?empty, fun hne few jobs plain => ?waits⟩
  case empty =>
    refine (M.bind_ok hts).trans ?_
    rw [M.bind_ok (waitTileW_run wd)]
    refine (M.bind_ok gate).trans ((M.bind_ok watch).trans ?_)
    rw [M.bind_ok (M.get_run _), if_pos hnil]
    rfl
  case waits =>
    obtain ⟨job, w, hjob, hw⟩ := footJob_run _ _ _ jobs
    refine ⟨job, w, hw, (M.bind_ok hts).trans ?_⟩
    rw [M.bind_ok (waitTileW_run wd)]
    refine (M.bind_ok gate).trans ((M.bind_ok watch).trans ?_)
    rw [M.bind_ok (M.get_run _), if_neg hne, M.bind_ok (waitIf_of (decide_eq_false (Nat.not_le.mpr few)) _ _)]
    refine (M.bind_ok hjob).trans (addAccess_room ⟨?_, fun m hm h4 => absurd h4 ((tload_acts plain u.me _ rm job).1 m hm)⟩)
    rwa [hw.me, hme]

/-- What follows the checks of a `TST` (R140): it becomes an access. -/
theorem tileStore_run (hts : tileTargets .store (typeOf u d) (bytesOf u d) buf ((List.range (rowsOf u d * colsOf u d)).map fun k =>
      (k, base + BitVec.ofNat 64 (k / colsOf u d) * (if stride ≠ 0 then stride else BitVec.ofNat 64 (colsOf u d * bytesOf u d))
        + BitVec.ofNat 64 (k % colsOf u d * bytesOf u d))) u = .ok (ts, u2))
    (hme : u2.me = u.me) (rd : readable u2 d) (gate : Passes (vecGate ts (bytesOf u d) true) u2)
    (watch : Passes (vecWatch ts 2 (bytesOf u d)) u2) (few : u.me.acc.length < 4) (jobs : (u2.clu (slotClu u2.cur)).jobs.length < 32)
    (chip : ∀ q ∈ ts, q.2.2.place.kind ≠ 4) :
    ∃ job w, SameThread u2 w ∧ tileStore d base buf stride none u = .ok ((), w.withAccess (tstoreAccess u.me d base ts job)) := by
  obtain ⟨job, w, hjob, hw⟩ := footJob_run _ _ _ jobs
  refine ⟨job, w, hw, ?_⟩
  unfold tileStore
  rw [M.bind_ok (M.me_run _)]
  refine (M.bind_ok hts).trans ?_
  rw [M.bind_ok (waitTileR_run rd)]
  refine (M.bind_ok gate).trans ((M.bind_ok watch).trans ?_)
  rw [M.bind_ok (M.me_run _), M.bind_ok (M.get_run _), hme, M.bind_ok (waitIf_of (decide_eq_false (Nat.not_le.mpr few)) _ _)]
  refine (M.bind_ok hjob).trans (addAccess_room ⟨?_, fun m hm h4 => absurd h4 ((tstore_acts chip u.me job).1 m hm)⟩)
  rwa [hw.me, hme]

/-! ## Eight bytes of a tile (R143) -/

theorem tileOffset_run {o : Word} (hlt : o.toNat < 4096) (hal : o.toNat % 8 = 0) (s : State) : tileOffset o s = .ok (o.toNat, s) := by
  have high : o.extractLsb' 12 52 = 0 := BitVec.eq_of_toNat_eq (by
    rw [BitVec.extractLsb'_toNat, Nat.shiftRight_eq_div_pow, Nat.div_eq_of_lt hlt]
    rfl)
  have low : o.extractLsb' 0 3 = 0 := BitVec.eq_of_toNat_eq (by
    rw [BitVec.extractLsb'_toNat]
    exact hal)
  unfold tileOffset
  rw [M.bind_ok (raiseIf_of (by simp [high]) _ _ _ _ _), M.bind_ok (raiseIf_of (by simp [low]) _ _ _ _ _)]
  rfl

/-- A tile with 64 bits replaced. -/
def putBits (x : BitVec 32768) (k : Nat) (v : Word) : BitVec 32768 :=
  (x &&& ~~~(0xFFFFFFFFFFFFFFFF#32768 <<< k)) ||| (v.setWidth 32768 <<< k)

theorem getLsbD_putBits (x : BitVec 32768) {k i : Nat} (v : Word) (hk : k + 64 ≤ 32768) :
    (putBits x k v).getLsbD i = if k ≤ i ∧ i < k + 64 then v.getLsbD (i - k) else x.getLsbD i := by
  have ones (j : Nat) : (0xFFFFFFFFFFFFFFFF#32768).getLsbD j = decide (j < 64) := by
    rw [BitVec.getLsbD_ofNat, show 0xFFFFFFFFFFFFFFFF = 2 ^ 64 - 1 from rfl, Nat.testBit_two_pow_sub_one, ← Bool.decide_and, decide_eq_decide]
    omega
  unfold putBits
  simp only [BitVec.getLsbD_or, BitVec.getLsbD_and, BitVec.getLsbD_not, BitVec.getLsbD_shiftLeft, BitVec.getLsbD_setWidth, ones]
  by_cases hin : k ≤ i ∧ i < k + 64
  · have hw : i < 32768 := by omega
    have hsub : i - k < 64 := by omega
    simp [hin, hw, hsub, Nat.not_lt.mpr hin.1]
    omega
  · rw [if_neg hin]
    by_cases hlow : i < k
    · simpa [hlow] using BitVec.lt_of_getLsbD
    · have hhigh : ¬ i - k < 64 := by omega
      simpa [hlow, hhigh, BitVec.getLsbD_of_ge v (i - k) (Nat.not_lt.mp hhigh)] using BitVec.lt_of_getLsbD

/-- The bits replaced are those of the word. -/
theorem extractLsb'_putBits (x : BitVec 32768) {k : Nat} (v : Word) (hk : k + 64 ≤ 32768) : (putBits x k v).extractLsb' k 64 = v := by
  refine BitVec.eq_of_getLsbD_eq fun i hi => ?_
  rw [BitVec.getLsbD_extractLsb', getLsbD_putBits x v hk, if_pos ⟨Nat.le_add_right k i, by omega⟩, Nat.add_sub_cancel_left]
  simp [hi]

end

end Sys2Proof.Machine

namespace Sys2Proof.Claims

open Sys2Proof.Machine

/-- Neither instruction has a buffer slot for its stride or its extent (R195). -/
theorem tld_sources {d a b : Spec} {z g t : BitVec 1} {f : Form} {r : Raw} {s : State} (hr : Ready (.tld d a b z g t f) r s) :
    isHandle b = false ∧ (z = 1 → isHandle f.c = false) := by
  obtain rfl := Option.some.inj hr.raw
  refine ⟨Raw.operand_not_handle hr.operands rfl (k := 3) (.inl rfl) (by simp [Raw.roles]), fun hz => ?_⟩
  have hbit : ∀ g t : BitVec 1, (0#3 ++ 1#1 ++ g ++ t).getLsbD 2 = true := by decide
  subst hz
  refine Raw.operand_not_handle hr.operands rfl (k := 4) (.inl rfl) (x := f.c) ?_
  change _ ∈ [_, _, _] ++ (if (0#3 ++ 1#1 ++ g ++ t).getLsbD 2 then _ else [])
  rw [if_pos (hbit g t)]
  exact List.mem_append_right _ List.mem_cons_self

section

variable {d a b : Spec} {f : Form} {r : Raw} {s v : State} {base st : Word} {buf : Option (Nat × Nat)}

/-- R137, R138: `TLD` reads its base, its stride and, for `.z`, its extent, and then does what `tileLoad` says. -/
theorem tld_completed {z g t : BitVec 1} {ext : Word} (hr : Ready (.tld d a b z g t f) r s)
    (hbase : (s.entered r).baseAt f a false = some (base, buf)) (hst : (s.entered r).reads f b = some st)
    (hext : z = 1 → (s.entered r).reads f f.c = some ext) (hext0 : z = 0 → ext = 0)
    (hrun : tileLoad d (z = 1) (g = 1) (t = 1) f.rm (base + disp f) buf st ext none (s.entered r) = .ok ((), v)) (hv : v.cur = s.cur) :
    ∃ t', exec (.tld d a b z g t f) s = .next t' ∧ Finished r s (v.take s.cur r.taken) t' := by
  obtain ⟨hb, hc⟩ := tld_sources hr
  refine issue_completed (i := .tld d a b z g t f) hr ?_ hv
  rw [M.bind_ok (baseOf_of hbase)]
  dsimp only
  rw [M.bind_ok (src_scalar hb hst)]
  split
  case isTrue hz =>
    rw [M.bind_ok (src_scalar (hc hz) (hext hz))]
    exact hrun
  case isFalse hz =>
    rw [hext0 ((BitVec.eq_zero_or_eq_one z).resolve_right hz)] at hrun
    exact hrun

/-- R140: `TST` reads its base and its stride, and then does what `tileStore` says. -/
theorem tst_completed (hr : Ready (.tst d a b f) r s) (hbase : (s.entered r).baseAt f a true = some (base, buf))
    (hst : (s.entered r).reads f b = some st) (hrun : tileStore d (base + disp f) buf st none (s.entered r) = .ok ((), v))
    (hv : v.cur = s.cur) : ∃ t', exec (.tst d a b f) s = .next t' ∧ Finished r s (v.take s.cur r.taken) t' := by
  have hb : isHandle b = false := by
    obtain rfl := Option.some.inj hr.raw
    exact Raw.operand_not_handle hr.operands rfl (k := 3) (.inl rfl) (by simp [Raw.roles])
  refine issue_completed (i := .tst d a b f) hr ?_ hv
  rw [M.bind_ok (baseOf_of hbase)]
  dsimp only
  rw [M.bind_ok (src_scalar hb hst)]
  exact hrun

/-- R143: `TPUTR` replaces eight bytes of a tile. -/
theorem tputr_completed {o w : Word} (hr : Ready (.tputr d a b f) r s) (hw : (s.entered r).reads f a = some w)
    (ho : (s.entered r).reads f b = some o) (hlt : o.toNat < 4096) (hal : o.toNat % 8 = 0) (wd : writable (s.entered r) d) :
    ∃ t', exec (.tputr d a b f) s = .next t' ∧ Finished r s (((s.entered r).modSlot s.cur fun x =>
      (x.setTile d.toNat (putBits ((s.entered r).me.tile d.toNat) (8 * o.toNat) w)).later (.tile (d.extractLsb' 0 3)) (s.cyc + 3)).take
        s.cur r.taken) t' := by
  have hab : isHandle a = false ∧ isHandle b = false := by
    obtain rfl := Option.some.inj hr.raw
    exact ⟨Raw.operand_not_handle hr.operands rfl (k := 2) (.inl rfl) (by simp [Raw.roles]),
      Raw.operand_not_handle hr.operands rfl (k := 3) (.inl rfl) (by simp [Raw.roles])⟩
  refine issue_completed (i := .tputr d a b f) hr ?_ (s.entered_cur r)
  rw [M.bind_ok (src_scalar hab.1 hw), M.bind_ok (src_scalar hab.2 ho), M.bind_ok (tileOffset_run hlt hal _),
    M.bind_ok (waitTileW_run wd), M.bind_ok (M.get_run _), M.modMe_run, State.entered_cur, State.entered_cyc]
  rw [State.modSlot_eq, State.modSlot_eq, State.me, State.entered_cur]
  rfl

/-- An access that joins those of a thread changes no byte of memory. -/
theorem tileAccess_keeps_mem {u w t : State} {k : Access} (hw : SameThread u w) (h : Finished r s ((w.withAccess k).take s.cur r.taken) t)
    (n : Nat) : t.mem.read n = u.mem.read n := by
  rw [h.mem, State.take_eq]
  change (w.withAccess k).mem.read n = _
  rw [State.withAccess_mem, hw.mem]

end

/-- Settles O54: the elements' targets become the units of one access, which waits; the other instructions act at once. -/
theorem tileAccesses : Obligations.TileAccesses := by
  intro d a b f r s base st buf u ea rows cols
  have hcuru : u.cur = s.cur := s.entered_cur r
  refine ⟨?tld, ?tst, ?tgetr, ?tputr, fun hr quiet => ?twait⟩
  case tld =>
    intro z g t ext u1 u2 ts hr hbase hst hext hext0 e vr vc pitch place as hview hcur1 hme1 hgrain hlimits hts hcur hme wd gate watch
    have has : as = loadElements u d (z = 1) (t = 1) ea st ext := by
      unfold loadElements
      simp only [decide_eq_true_eq]
      rfl
    have hlimits' (hz : decide (z = 1) = true) : (ext.extractLsb' 0 6).toNat ≤ 32 ∧ (ext.extractLsb' 8 8).toNat ≤ 128 ∧
        ext.extractLsb' 16 48 = 0 ∧ ext.extractLsb' 6 2 = 0 := by
      have hz := of_decide_eq_true hz
      simpa only [vr, vc, if_pos hz] using hlimits hz
    rw [has] at hts
    obtain ⟨hempty, hwaits⟩ := tileLoad_run (g := decide (g = 1)) (rm := f.rm) hview (by simpa using hgrain) hlimits' hts hme wd gate watch
    refine ⟨fun hnil => ?empty, fun hne few jobs plain => ?waits⟩
    case empty =>
      have := tld_completed hr hbase hst hext hext0 (hempty hnil) hcur
      rwa [hcur] at this
    case waits =>
      obtain ⟨job, w, hw, hrun⟩ := hwaits hne few (by rwa [hcur]) plain
      obtain ⟨t', ht, hfin⟩ := tld_completed hr hbase hst hext hext0 hrun (by rw [State.withAccess_cur, hw.cur, hcur])
      exact ⟨t', w, _, ht, hfin, hw.me.trans hme, tileAccess_keeps_mem hw hfin, rfl, (tload_acts plain u.me e f.rm job).2⟩
  case tst =>
    intro u2 ts hr hbase hst e pitch as hts hcur hme rd gate watch few jobs chip
    obtain ⟨job, w, hw, hrun⟩ := tileStore_run hts hme rd gate watch few (by rwa [hcur]) chip
    obtain ⟨t', ht, hfin⟩ := tst_completed hr hbase hst hrun (by rw [State.withAccess_cur, hw.cur, hcur])
    refine ⟨t', w, _, ht, hfin, hw.me.trans hme, tileAccess_keeps_mem hw hfin, rfl, fun q hq => ?_⟩
    have hact := (tstore_acts (d := d) (base := ea) chip u.me job).2 q hq
    have hq : q.1 = q.1 / cols * cols + q.1 % cols := by rw [Nat.mul_comm, Nat.div_add_mod]
    rw [← tileElem_eq, ← hq]
    exact hact
  case tgetr =>
    intro o hr ho hlt hal ra hd
    have hb : isHandle b = false := by
      obtain rfl := Option.some.inj hr.raw
      exact Raw.operand_not_handle hr.operands rfl (k := 3) (.inl rfl) (by simp [Raw.roles])
    refine issue_completed (i := .tgetr d a b f) hr ?_ ((State.put_cur _ _ _ _ _).trans hcuru)
    rw [M.bind_ok (src_scalar hb ho), M.bind_ok (tileOffset_run hlt hal _), M.bind_ok (waitTileR_run ra), M.bind_ok (M.me_run _)]
    exact dst_put _ _ hd
  case tputr =>
    intro o v hr hv ho hlt hal wd
    have hfit : 8 * o.toNat + 64 ≤ 32768 := by omega
    obtain ⟨t, ht, hfin⟩ := tputr_completed hr hv ho hlt hal wd
    exact ⟨t, _, ht, hfin, extractLsb'_putBits _ _ hfit, fun k hk => (getLsbD_putBits _ _ hfit).trans (if_neg (by omega))⟩
  case twait =>
    refine issue_completed (i := .twait f) hr ?_ hcuru
    rw [M.bind_ok (M.get_run _), hcuru]
    exact waitIf_of (by rw [quiet]; rfl) _ _

end Sys2Proof.Claims
end

section
/-! PROOFS. Circular buffers and `KVCOMMIT` (O23): the handle that each instruction leaves, and what completes or goes on waiting. -/

namespace Sys2Proof.Machine

open Sys2Proof.Claims

/-! ## Handles (R194, R196) -/

/-- A buffer of the current core is set to a value. -/
def State.withHandle (s : State) (a : Spec) (g : Handle) : State :=
  s.modCore (slotCore s.cur) fun c => { c with handles := vmod c.handles (a.toNat % 8) fun _ => g }

theorem vmod_congr {α : Type} {n : Nat} {v : Vector α n} {i : Nat} {f : α → α} {x : α} (h : ∀ hi : i < n, f v[i] = x) :
    vmod v i f = vmod v i fun _ => x := by
  unfold vmod
  split
  case isTrue hi => rw [h hi]
  case isFalse => rfl

/-- Changing a handle sets it to what its value becomes. -/
theorem modHandle_run (a : Spec) (f : Handle → Handle) (s : State) :
    modHandle a f s = .ok ((), s.withHandle a (f (handleOf s a))) := by
  have hset : vmod (s.core (slotCore s.cur)).handles (a.toNat % 8) f
      = vmod (s.core (slotCore s.cur)).handles (a.toNat % 8) fun _ => f (handleOf s a) :=
    vmod_congr fun hi => by rw [handleOf, Vector.getElem?_eq_getElem hi, Option.getD_some]
  unfold modHandle State.withHandle
  rw [M.modCore_run, State.modCore_eq, State.modCore_eq, hset]

theorem liveHandle_run {a : Spec} {s : State} (h : (handleOf s a).scount ≠ 0) : liveHandle a s = .ok (handleOf s a, s) := by
  unfold liveHandle
  rw [M.bind_ok (M.get_run _), M.bind_ok (raiseIf_of (decide_eq_false h) _ _ _ _ _)]
  rfl

/-- A result that goes to no buffer slot leaves every buffer. -/
theorem State.handles_put (s : State) (f : Form) {x : Spec} (v : Word) (lat c : Nat) (hx : isHandle x = false) :
    ((s.put f x v lat).core c).handles = (s.core c).handles := by
  have shared (r at' : Nat) : ((s.setShared s.cur r v at').core c).handles = (s.core c).handles := by
    rw [State.setShared, State.modCore_eq, State.core_setCore]
    split
    · subst_vars
      rfl
    · rfl
  unfold State.put
  simp only [hx, Bool.false_eq_true, if_false]
  split
  · rfl
  · split
    · rfl
    · split
      · split <;> rfl
      · split
        · exact shared _ _
        · rfl

theorem handleOf_put {s : State} {f : Form} {x : Spec} (v : Word) (lat : Nat) (hx : isHandle x = false) (a : Spec) :
    handleOf (s.put f x v lat) a = handleOf s a := by
  rw [handleOf, State.handles_put s f v lat _ hx, State.put_cur]
  rfl

/-- A result is written, and then a buffer of the core changed. -/
theorem dst_modHandle {s : State} {f : Form} {d : Spec} (hd : isHandle d = false) (v : Word) (lat : Nat) (hw : s.canWrite f d) (a : Spec)
    (g : Handle → Handle) :
    (do dst f d v lat; modHandle a g : M Unit) s = .ok ((), (s.put f d v lat).withHandle a (g (handleOf s a))) := by
  rw [M.bind_ok (dst_put v lat hw), modHandle_run, handleOf_put v lat hd]

/-! ## Results that come late (R23) -/

theorem State.pumpPort_cur (s : State) (n q : Nat) : (s.pumpPort n q).cur = s.cur := by
  unfold State.pumpPort
  dsimp only
  split
  · rfl
  · split
    · rfl
    · split
      · rfl
      · split <;> rfl

theorem State.putLate_cur (s : State) (f : Form) (x : Spec) (v : Word) (c : Nat) : (s.putLate f x v c).cur = s.cur := by
  unfold State.putLate
  split
  case isTrue hp =>
    have hx : ¬ x.toNat < 32 := by simp [isPort] at hp; omega
    simp only [State.deliver, hx, hp, if_false, if_true, State.pumpPort_cur]
    rfl
  case isFalse => exact State.put_cur _ _ _ _ _

end Sys2Proof.Machine

namespace Sys2Proof.Claims

open Sys2Proof.Machine

section

variable {d a b : Spec} {f : Form} {r : Raw} {s : State}

/-- The operands of the circular-buffer instructions but for the buffer itself are no buffer slots (R195). -/
theorem buffer_operand {i : Instr} (hr : Ready i r s) (hmaj : r.maj = 0x1B) {k : Nat} {x : Spec} {role : Role}
    (hrole : role = .src ∨ role = .dst) (hx : (k, x, role) ∈ r.roles) : isHandle x = false :=
  Raw.operand_not_handle hr.operands (by rw [Raw.bufferValue, hmaj]; rfl) hrole hx

theorem circularBuffers : CircularBuffers := by
  intro d a b f r s u core h with'
  have hcur : u.cur = s.cur := s.entered_cur r
  have hwith {v : State} (hv : v.cur = s.cur) (g : Handle) : v.withHandle a g = with' v g := by rw [State.withHandle, hv]
  refine ⟨?cbinit, ?cbprod, ?cbcons, fun hr hd => ?cbstat⟩
  case cbinit =>
    intro base w bound u' hr hbase hw z n hhigh hz0 hz8 hn hal hbound hcur' hin
    have hdb : isHandle d = false ∧ isHandle b = false := by
      obtain rfl := Option.some.inj hr.raw
      exact ⟨buffer_operand hr rfl (k := 1) (.inl rfl) (by simp [Raw.roles]), buffer_operand hr rfl (k := 3) (.inl rfl) (by simp [Raw.roles])⟩
    rw [← hwith hcur']
    refine issue_completed (i := .cbinit d a b f) hr ?_ hcur'
    rw [M.bind_ok (src_scalar hdb.1 hbase), M.bind_ok (src_scalar hdb.2 hw), M.bind_ok (raiseIf_of ?_ _ _ _ _ _), M.bind_ok (raiseIf_of (decide_eq_false (not_not.mpr hal)) _ _ _ _ _), M.bind_ok hbound,
      M.bind_ok (raiseIf_of (decide_eq_false (Nat.not_lt.mpr hin)) _ _ _ _ _), modHandle_run]
    rw [hhigh, decide_eq_false (not_not.mpr rfl), decide_eq_false hz0, decide_eq_false (not_not.mpr hz8), decide_eq_false hn]
    rfl
  case cbprod =>
    intro n hr hn hlive h0 hle hstores hroom hd
    have hdb : isHandle d = false ∧ isHandle b = false := by
      obtain rfl := Option.some.inj hr.raw
      exact ⟨buffer_operand hr rfl (k := 1) (.inr rfl) (by simp [Raw.roles]), buffer_operand hr rfl (k := 3) (.inl rfl) (by simp [Raw.roles])⟩
    have h0 : n.toNat ≠ 0 := fun e => h0 (BitVec.eq_of_toNat_eq e)
    rw [← hwith ((State.put_cur _ _ _ _ _).trans hcur)]
    refine issue_completed (i := .cbprod d a b f) hr ?_ ((State.put_cur _ _ _ _ _).trans hcur)
    rw [M.bind_ok (src_scalar hdb.2 hn), M.bind_ok (liveHandle_run hlive), M.bind_ok (raiseIf_of (by simpa [h0] using hle) _ _ _ _ _),
      M.bind_ok (M.get_run _), M.bind_ok (waitIf_of (by rw [hcur, hstores]; rfl) _ _),
      M.bind_ok (waitIf_of (decide_eq_false (Nat.not_lt.mpr hroom)) _ _)]
    exact dst_modHandle hdb.1 _ _ hd _ _
  case cbcons =>
    intro n hr hn hlive h0 hle hloads hroom hd
    have hdb : isHandle d = false ∧ isHandle b = false := by
      obtain rfl := Option.some.inj hr.raw
      exact ⟨buffer_operand hr rfl (k := 1) (.inr rfl) (by simp [Raw.roles]), buffer_operand hr rfl (k := 3) (.inl rfl) (by simp [Raw.roles])⟩
    have h0 : n.toNat ≠ 0 := fun e => h0 (BitVec.eq_of_toNat_eq e)
    rw [← hwith ((State.put_cur _ _ _ _ _).trans hcur)]
    refine issue_completed (i := .cbcons d a b f) hr ?_ ((State.put_cur _ _ _ _ _).trans hcur)
    rw [M.bind_ok (src_scalar hdb.2 hn), M.bind_ok (liveHandle_run hlive), M.bind_ok (raiseIf_of (by simpa [h0] using hle) _ _ _ _ _),
      M.bind_ok (M.get_run _)]
    rw [M.bind_ok (waitIf_of ?_ _ _), M.bind_ok (waitIf_of (decide_eq_false (Nat.not_lt.mpr hroom)) _ _)]
    · exact dst_modHandle hdb.1 _ _ hd _ _
    · simp only [hcur, List.any_eq_false, Bool.not_eq_true]
      intro g hg m hm x hx
      cases x with
      | rd i k z =>
        have hapart := hloads g hg m hm i k z hx
        simp only [List.any_eq_false, List.mem_range, decide_eq_true_eq]
        intro j hj hmeet
        have hj := hapart j hj
        simp only [h, core] at hj
        omega
      | wr | rmw => rfl
  case cbstat =>
    refine issue_completed (i := .cbstat d a f) hr ?_ ((State.put_cur _ _ _ _ _).trans hcur)
    rw [M.bind_ok (M.get_run _)]
    exact dst_put _ _ hd

/-- R147: `KVCOMMIT` delivers its length once it is performed, and waits at its address before. -/
theorem kvCommit : KvCommit := by
  intro d a b f r s hr u
  have hcur : u.cur = s.cur := s.entered_cur r
  refine ⟨fun n c hphase hbuf hd => ?performed, fun hphase => ?waits⟩
  case performed =>
    refine issue_completed (i := .kvcommit d a b f) hr ?_ ((State.putLate_cur _ _ _ _ _).trans hcur)
    rw [M.bind_ok (M.me_run _), if_pos hphase, hbuf]
    exact lateDst_put _ _ hd
  case waits =>
    have hme : u.slot s.cur = u.me := by rw [State.me, hcur]
    have hbegun : (u.slot s.cur).begun = true := by
      rw [hme]
      simp only [List.mem_cons, List.not_mem_nil, or_false] at hphase
      rcases hphase with h | h | h | h <;> simp [Slot.begun, h]
    have hheld : (u.me.phase = 40 || u.me.phase = 42 || u.me.phase = 43 || u.me.phase = 46) = true := by
      simpa [or_assoc] using hphase
    obtain ⟨refill, ht⟩ : ∃ refill, exec (.kvcommit d a b f) s = .next (s.settle r s.me.pc refill (.wait u 3)) := by
      refine issue_waits (i := .kvcommit d a b f) hr ?_
      rw [M.bind_ok (M.me_run _), if_neg (fun h => by rw [h] at hphase; simp at hphase), M.bind_error]
      rw [hheld]
      rfl
    obtain ⟨hmem, -, ⟨w, k, e, hself⟩, -⟩ := settle_wait_begun (s := s) (why := 3) r s.me.pc refill (by decide) hbegun
    rw [hme] at hself
    exact ⟨_, ht, by rw [hself]; exact entered_pc s r, by rw [hself], by rw [hself], fun n => by rw [hmem, State.entered_mem]⟩

end

/-- Settles O23: each buffer instruction leaves its handle as the rules say, and `KVCOMMIT` waits until it has been performed. -/
theorem bufferInstructions : Obligations.BufferInstructions := ⟨circularBuffers, kvCommit⟩

end Sys2Proof.Claims
end

section
/-! PROOFS. Streams (O44): a loss notice that names a service port as its endpoint, which the statement's hypotheses let pass. -/

namespace Sys2Proof.Machine

/-! ## A loss notice for a service port

`LOSS_NOTICE` looks at the endpoint of the notice first: one for a copy channel, or for a service port (endpoints 24 and 25), ends there
(R63, R292), and only one for a thread ends a stream (R181). The statement's clause excludes the copy channels, but not the ports. -/

/-- A loss notice of an open of stream 0 at port 0 of slot 0, with the endpoint of a service port. -/
def portNotice : Packet := { pid := 0, kind := 16, op := 6, src := 0, sep := 30, dep := portEp false, slot := 0, dev := State.reset.device }

/-- A thread in slot 0, and that notice in the network. -/
def portNoticed : State := { State.reset with slots := [(0, { live := true })], net := [portNotice], pidNext := 1 }

/-- The step hands the notice to the service port of its cluster. -/
theorem portNoticed_lossNotice :
    exec (.lossNotice 0) portNoticed =
      .next ((portNoticed.dropPacket 0).modClu portNotice.dst fun c => c.readAnswer portNotice portNoticed.cyc) := rfl

/-- The ports of the thread are as before: its port 0 has lost nothing. -/
theorem portNoticed_port {t : State} (h : exec (.lossNotice 0) portNoticed = .next t) : (t.slot 0).ports[0]? = some ({} : Port) := by
  rw [portNoticed_lossNotice] at h
  cases h
  rfl

end Sys2Proof.Machine

namespace Sys2Proof.Claims

open Sys2Proof.Machine

theorem inNet_portNotice : inNet portNotice portNoticed := by
  refine ⟨rfl, rfl, fun p hp => ?_⟩
  obtain rfl := List.mem_singleton.mp hp
  decide

theorem ownPort_portNotice : ownPort portNotice portNoticed := ⟨rfl, rfl, {}, rfl, rfl⟩

/-- Refutes O44: a loss notice of a stream's packet whose endpoint is a service port goes to that port, and the sender's port does not
learn of the loss. -/
theorem not_networkSteps : ¬ Obligations.NetworkSteps := by
  unfold Obligations.NetworkSteps
  rintro ⟨streams, -⟩
  obtain ⟨-, -, -, -, -, -, -, lost, -⟩ := streams portNoticed portNotice inNet_portNotice (by decide)
  obtain ⟨t, ht, -, -, hport⟩ := lost (by decide) (by decide) rfl ownPort_portNotice
  obtain ⟨hlost, -⟩ := hport {} (portNoticed_port ht)
  exact absurd hlost (by decide)

end Sys2Proof.Claims
end

section
/-! PROOFS. Copy channels, DRAM channels, footprints and the matrix unit (O46): what a step of a channel does with the transfer at its
head, what a DRAM channel's start leaves of its queue, and the unit's completion. -/

namespace Sys2Proof.Machine

open Sys2Proof.Claims

/-! ## Clusters that other steps leave as they are -/

/-- What a change of some cluster leaves of every one. -/
theorem State.modClu_field {β : Type} (field : Cluster → β) {f : Cluster → Cluster} (h : ∀ c, field (f c) = field c) (s : State)
    (j k : Nat) : field ((s.modClu j f).clu k) = field (s.clu k) := by
  rw [State.modClu_eq, State.clu_setClu]
  by_cases hk : k = j
  · subst hk
    rw [if_pos rfl]
    exact h _
  · rw [if_neg hk]

theorem State.wakeRouter_chans (s : State) (j k : Nat) : ((s.wakeRouter j).clu k).chans = (s.clu k).chans :=
  s.modClu_field Cluster.chans (fun c => by split_ifs <;> rfl) j k

theorem State.send_chans (s : State) (p : Packet) (k : Nat) : ((s.send p).clu k).chans = (s.clu k).chans :=
  (State.wakeRouter_chans _ _ k).trans (s.modClu_field Cluster.chans (fun _ => by rfl) p.src k)

theorem State.takeCharge_chans (s : State) (n m k : Nat) : ((s.takeCharge n m).clu k).chans = (s.clu k).chans := by
  unfold State.takeCharge
  dsimp only
  split
  · rfl
  · exact s.modClu_field Cluster.chans (fun _ => by rfl) _ k

theorem State.store_clu (s : State) (p : Place) (v n k : Nat) : (s.store p v n).clu k = s.clu k := by
  rw [State.store_eq_withMem]
  rfl

theorem State.store_slot (s : State) (p : Place) (v n m : Nat) : (s.store p v n).slot m = s.slot m := by
  rw [State.store_eq_withMem]
  rfl

/-- A store where no DRAM channel has failed. -/
theorem State.stored_store {s : State} {p : Place} (h : s.chanFailed p = false) (v n : Nat) : stored p v n s (s.store p v n) := by
  refine ⟨fun hwf => ?_, fun a ha => s.store_read p v n ha⟩
  have hmem : (s.store p v n).mem = s.mem.writeLE p.key v n := by
    unfold State.store
    rw [h]
    rfl
  rw [State.readMem, hmem]
  exact Memory.readLE_writeLE hwf _ _ _

theorem State.chanFailed_bank {s : State} {p : Place} (h : p.kind ≠ 4) : s.chanFailed p = false := by
  simp [State.chanFailed, h]

/-! ## The head of a channel -/

theorem State.head_fin (s : State) (k : Nat) (ch : Fin 4) : s.head k ch.val = ((s.clu k).chans[ch]).queue.head? := by
  unfold State.head
  rw [Vector.getElem?_eq_getElem ch.isLt]
  rfl

theorem State.head_of_chans {s t : State} {k : Nat} (h : (t.clu k).chans = (s.clu k).chans) (ch : Nat) : t.head k ch = s.head k ch := by
  unfold State.head
  rw [h]

theorem State.head_modHead {s : State} {k : Nat} {ch : Fin 4} {x : Transfer} (h : s.head k ch.val = some x) (f : Transfer → Transfer) :
    (s.modHead k ch.val f).head k ch.val = some (f x) := by
  rw [State.head_fin] at h ⊢
  have hq : (((s.modHead k ch.val f).clu k).chans[ch]).queue =
      match ((s.clu k).chans[ch]).queue with
      | [] => []
      | t :: ts => f t :: ts := by
    unfold State.modHead
    rw [State.modClu_eq, State.clu_setClu_self]
    exact congrArg Channel.queue (vmod_get_self _ _ _ ch.isLt)
  obtain ⟨ts, hts⟩ := List.head?_eq_some_iff.mp h
  rw [hq, hts]
  rfl

/-! ## One action of a channel (R185, R187) -/

theorem exec_channelStep {k n : Nat} {i : Instr} (h : channelStep k n i) (s : State) : exec i s = .next (s.copyStep k n) := by
  rcases h with rfl | rfl | rfl <;> rfl

section

variable {s : State} {k m : Nat} {ch : Fin 4}

theorem channelStep_number (ch : Fin 4) (m : Nat) : (ch.val + 4 * m) % 4 = ch.val ∧ (ch.val + 4 * m) / 4 = m := by omega

theorem copyStep_idle (h : s.chanAction k ch.val m = none) : s.copyStep k (ch.val + 4 * m) = s := by
  unfold State.copyStep
  rw [(channelStep_number ch m).1, (channelStep_number ch m).2, h]

variable {d : Todo} {p : Place} (h : s.chanAction k ch.val m = some d) (hp : d.place = some p) (hk : p.kind ≠ 4)
include h hp hk

theorem copyStep_missing (hserved : chanServed k p = 1) (hmiss : s.missing k p = true) :
    s.copyStep k (ch.val + 4 * m) = (s.holdLine k p).event k 9 := by
  unfold State.copyStep
  rw [(channelStep_number ch m).1, (channelStep_number ch m).2, h]
  dsimp only
  rw [hp]
  dsimp only
  rw [if_neg hk, hserved, hmiss]
  rfl

theorem copyStep_acts (hturn : chanServed k p = 1 → s.missing k p = false) :
    s.copyStep k (ch.val + 4 * m) = s.copyAct k ch.val 0 d := by
  unfold State.copyStep
  rw [(channelStep_number ch m).1, (channelStep_number ch m).2, h]
  dsimp only
  rw [hp]
  dsimp only
  rw [if_neg hk, if_neg]
  simpa using hturn

end

section

variable {s : State} {k ch : Nat} {x : Transfer} (hx : s.head k ch = some x)
include hx

/-- A source line that the channel's own service port reads. -/
theorem copyAct_fetch_local {p : Place} (hserved : chanServed k p = 1) (hbank : s.bankAbsent p = false) (n lat : Nat) :
    ∃ bad, s.copyAct k ch lat (.fetch p n) = s.modHead k ch fun t =>
      { t with asked := t.asked.erase p.key, got := SMap.set t.got p.key (s.readMem p.key n, bad, s.cyc + lat) } := by
  unfold State.copyAct
  rw [hx]
  dsimp only
  rw [hbank, hserved]
  exact ⟨_, rfl⟩

/-- A source line that is asked for over the network (R182). -/
theorem copyAct_fetch_remote {p : Place} (hserved : chanServed k p = 2) (n lat : Nat) :
    s.copyAct k ch lat (.fetch p n) =
      (s.chanPacket k ch 3 x p n 0 0 0 true).modHead k ch fun t => { t with asked := t.asked ++ [p.key] } := by
  unfold State.copyAct
  rw [hx]
  dsimp only
  rw [hserved]
  simp

/-- A part whose bytes are there is written (R185). -/
theorem copyAct_put {c : Part} {v : Nat} (hc : (x.parts k).head? = some c) (hserved : chanServed k c.dst = 1)
    (hbank : s.bankAbsent c.dst = false) (hgather : x.gather k c = (v, false)) (lat : Nat) :
    s.copyAct k ch lat (.put c.dst) =
      ((s.takeCharge (k * 160) 1).store c.dst v c.n).modHead k ch fun t => t.wrote k c true := by
  unfold State.copyAct
  rw [hx]
  dsimp only
  rw [hc]
  unfold State.putPart
  dsimp only
  rw [hgather, hbank, hserved]
  simp

/-- The stamp is written (R185). -/
theorem copyAct_stamp {p : Place} (hserved : chanServed k p = 1) (hbank : s.bankAbsent p = false) (hkv : x.kv = false) (lat : Nat) :
    s.copyAct k ch lat (.stamp p) = (s.store p x.seq.toNat 8).stamped k ch := by
  unfold State.copyAct
  rw [hx]
  dsimp only
  unfold State.putStamp
  rw [hbank, hserved, hkv]
  rfl

theorem stamped_hop (hkv : x.kv = false) (hhop : x.hop < x.hops.length) :
    s.stamped k ch = s.modHead k ch fun t =>
      { t with hop := t.hop + 1, pos := 0, got := [], asked := [], stampSent := false, stampDone := false } := by
  unfold State.stamped
  rw [hx]
  dsimp only
  rw [hkv, if_pos hhop]
  rfl

theorem stamped_over (hkv : x.kv = false) (hhop : x.hops.length ≤ x.hop) : s.stamped k ch = s.endTransfer k ch x false := by
  unfold State.stamped
  rw [hx]
  dsimp only
  rw [hkv, if_neg (Nat.not_lt.mpr hhop)]
  rfl

end

/-- A part delivered moves the position of its transfer behind it. -/
theorem Transfer.wrote_pos (x : Transfer) (k : Nat) (c : Part) (hkv : x.kv = false) :
    (x.wrote k c true).pos = c.pos + c.n ∧ (x.wrote k c true).hop = x.hop := by
  unfold Transfer.wrote
  dsimp only
  rw [hkv]
  exact ⟨rfl, rfl⟩

/-! ## The end of a transfer (R185, R190) -/

/-- What the end of a transfer leaves: the channel goes on to its next, and the transfer's footprint entry is free. -/
structure Ended (k : Nat) (ch : Fin 4) (x : Transfer) (s t : State) : Prop where
  queue : ((t.clu k).chans[ch]).queue = ((s.clu k).chans[ch]).queue.tail
  lastDone : ((t.clu k).chans[ch]).lastDone = x.seq
  jobs : (t.clu k).jobs = (s.clu k).jobs.filter fun j => j.id ≠ x.job
  mem : t.mem = s.mem
  thread : (t.slot x.slot).live = (s.slot x.slot).live ∧ (t.slot x.slot).cont = (s.slot x.slot).cont ∧
    (t.slot x.slot).reports = (s.slot x.slot).reports

/-- The count of the thread's most recent launch (R184) is no part of that. -/
theorem Ended.copyWp {k : Nat} {ch : Fin 4} {x : Transfer} {s t : State} (h : Ended k ch x s t) (w : Word) :
    Ended k ch x s (t.modSlot x.slot fun y => { y with copyWp := w }) where
  queue := h.queue
  lastDone := h.lastDone
  jobs := h.jobs
  mem := h.mem
  thread := by
    rw [State.modSlot_eq, State.slot_setSlot_self]
    exact h.thread

theorem endTransfer_ended (s : State) (k : Nat) (ch : Fin 4) {x : Transfer} (hkv : x.kv = false) (stopped : Bool) :
    Ended k ch x s (s.endTransfer k ch.val x stopped) := by
  unfold State.endTransfer
  extract_lets own away bound d u
  have hu : Ended k ch x s u := by
    have hchan : (u.clu k).chans[ch] = { (s.clu k).chans[ch] with
        queue := ((s.clu k).chans[ch]).queue.drop 1
        done := if x.kv then ((s.clu k).chans[ch]).done else (d :: ((s.clu k).chans[ch]).done).take 4
        lastDone := if x.kv then ((s.clu k).chans[ch]).lastDone else x.seq } := by
      show ((s.setClu k _).clu k).chans[ch] = _
      rw [State.clu_setClu_self]
      exact vmod_get_self _ _ _ ch.isLt
    constructor
    case queue =>
      rw [hchan]
      exact List.drop_one
    case lastDone =>
      rw [hchan, hkv]
      rfl
    case jobs =>
      show ((s.setClu k _).clu k).jobs = _
      rw [State.clu_setClu_self]
    case mem => rfl
    case thread => exact ⟨rfl, rfl, rfl⟩
  split
  · exact hu.copyWp _
  · exact hu

theorem Ended.freed {k : Nat} {ch : Fin 4} {x : Transfer} {s t : State} (h : Ended k ch x s t) :
    (∀ j ∈ (t.clu k).jobs, j.id ≠ x.job) ∧ ∀ j ∈ (s.clu k).jobs, j.id ≠ x.job → j ∈ (t.clu k).jobs := by
  rw [h.jobs]
  exact ⟨fun j hj => by simpa using (List.mem_filter.mp hj).2, fun j hj hne => List.mem_filter.mpr ⟨hj, by simpa using hne⟩⟩

theorem State.report_reported (s : State) (n : Nat) (c : TrapRec) : reported n c s (s.report n c) := by
  intro h
  unfold State.report
  rw [if_pos h, State.modSlot_eq, State.slot_setSlot_self]

theorem State.report_clu {β : Type} (field : Cluster → β) (h : ∀ (c : Cluster) (x : Telemetry), field { c with tel := x } = field c)
    (s : State) (n : Nat) (c : TrapRec) (k : Nat) : field ((s.report n c).clu k) = field (s.clu k) := by
  unfold State.report
  split
  · rfl
  · exact State.modClu_field field (fun c => h c _) _ _ k

theorem State.report_mem (s : State) (n : Nat) (c : TrapRec) : (s.report n c).mem = s.mem := by
  unfold State.report
  split <;> rfl

/-- The report of a transfer whose thread is in its slot goes to that slot. -/
theorem engineReport_slot {s : State} {x : Transfer} (hlive : (s.slot x.slot).live = true) (hcont : (s.slot x.slot).cont = x.cont)
    (c : TrapRec) : s.engineReport x c = s.report x.slot { c with eng := true, pc := x.pc } := by
  unfold State.engineReport
  rw [hlive, hcont]
  simp

/-- What a transfer that stops reports (R190, R277). -/
def Transfer.stopRecord (x : Transfer) (cause : Nat) : TrapRec :=
  if cause = 0x0D then { absentTrap x.stopAt with addr := BitVec.ofNat 64 x.stopAt.window }
  else { cause := 0x0E, addr := BitVec.ofNat 64 x.bytes, info := x.seq }

/-- A transfer that stops, of a thread in its slot. -/
theorem copyStop_ends {s : State} {k : Nat} {ch : Fin 4} {x : Transfer} (hx : s.head k ch.val = some x) (hkv : x.kv = false)
    (hlive : (s.slot x.slot).live = true) (hcont : (s.slot x.slot).cont = x.cont) (cause : Nat) :
    ∃ t, exec (.copyStop k ch.val cause) s = .next t ∧ ((t.clu k).chans[ch]).queue = ((s.clu k).chans[ch]).queue.tail ∧
      reported x.slot { x.stopRecord cause with eng := true, pc := x.pc } s t ∧ t.mem = s.mem ∧
      ∀ j ∈ (t.clu k).jobs, j.id ≠ x.job := by
  have ended := endTransfer_ended s k ch hkv true
  obtain ⟨hl, hc, hr⟩ := ended.thread
  have hstop : s.stopTransfer k ch.val cause = (s.endTransfer k ch.val x true).report x.slot
      { x.stopRecord cause with eng := true, pc := x.pc } := by
    unfold State.stopTransfer
    rw [hx]
    dsimp only
    rw [hkv, if_neg Bool.false_ne_true]
    exact engineReport_slot (hl.trans hlive) (hc.trans hcont) (x.stopRecord cause)
  refine ⟨_, congrArg Host.Outcome.next hstop, ?_, ?_, (State.report_mem _ _ _).trans ended.mem, ?_⟩
  · rw [State.report_clu Cluster.chans fun _ _ => rfl]
    exact ended.queue
  · have := State.report_reported (s.endTransfer k ch.val x true) x.slot { x.stopRecord cause with eng := true, pc := x.pc }
    unfold reported at this ⊢
    rwa [hr] at this
  · rw [State.report_clu Cluster.jobs fun _ _ => rfl]
    exact ended.freed.1


/-! ## DRAM channels (R200) -/

theorem State.dram_of_chans {s t : State} (h : t.chans = s.chans) (k : Nat) : t.dram k = s.dram k := by
  unfold State.dram
  rw [h]

theorem State.store_drams (s : State) (p : Place) (v n : Nat) : (s.store p v n).chans = s.chans := by
  rw [State.store_eq_withMem]
  rfl

theorem State.pumpPort_drams (s : State) (n q : Nat) : (s.pumpPort n q).chans = s.chans := by
  unfold State.pumpPort
  dsimp only
  split
  · rfl
  · split_ifs <;> rfl

theorem State.deliver_drams (s : State) (n id : Nat) (ws : Word) (d : Spec) (v : Word) (e : Bool) (at' : Nat) :
    (s.deliver n id ws d v e at').chans = s.chans := by
  unfold State.deliver
  dsimp only
  split_ifs
  case pos =>
    unfold State.land
    dsimp only
    split_ifs
    · rfl
    · exact State.store_drams _ _ _ _
  · exact State.pumpPort_drams _ _ _
  all_goals rfl

theorem State.report_drams (s : State) (n : Nat) (c : TrapRec) : (s.report n c).chans = s.chans := by
  unfold State.report
  split <;> rfl

theorem State.unclaimNext_drams (s : State) (n id : Nat) (d : Spec) : (s.unclaimNext n id d).chans = s.chans := by
  unfold State.unclaimNext
  split <;> rfl

theorem State.finishAccess_drams (s : State) (n : Nat) (a : Access) (at' : Nat) : (s.finishAccess n a at').chans = s.chans := by
  unfold State.finishAccess
  extract_lets clu drop0 drop more poison
  have hdrop : drop.chans = s.chans := by
    unfold drop
    split <;> rfl
  have hpoison (t : State) (l : Option Nat) : (poison t l).chans = t.chans := State.report_drams _ _ _
  split
  case h_1 | h_12 => exact hdrop
  case h_2 => split <;> exact hdrop
  case h_3 => split_ifs <;> simp [hpoison, State.unclaimNext_drams, State.deliver_drams, hdrop]
  case h_4 =>
    dsimp only
    split_ifs
    · exact hdrop
    · exact (hpoison _ _).trans hdrop
    · exact hdrop
    · rfl
  case h_5 => split_ifs <;> simp [hpoison, hdrop]
  case h_6 =>
    split
    · simp [hpoison, hdrop]
    · split <;> simp [hdrop]
  case h_7 =>
    split_ifs
    · simp [hpoison, hdrop]
    · split <;> simp [hdrop]
  case h_8 | h_10 | h_11 => simp [hdrop]
  case h_9 => rfl

theorem serveAct_drams (p : Place) (r : State × Access) (a : Act) : (serveAct p r a).1.chans = r.1.chans := by
  unfold serveAct
  cases a <;> dsimp only
  case rd => split <;> rfl
  case wr => exact State.store_drams _ _ _ _
  case rmw => split_ifs <;> rfl

theorem State.served_drams (n id : Nat) (u : MemUnit) (at' : Nat) (r : State × Access) :
    (State.served n id u at' r).chans = r.1.chans := by
  have hcovered : (r.1.clearCovered u).chans = r.1.chans := by
    obtain ⟨ps, hps⟩ := r.1.clearCovered_eq u
    rw [hps]
  unfold State.served
  dsimp only
  split
  all_goals
    split
    · exact (State.finishAccess_drams _ _ _ _).trans hcovered
    · exact hcovered

/-- Serving a part of an access is no change of the DRAM channels. -/
theorem State.serveUnit_drams (s : State) (n id : Nat) (u : MemUnit) (at' : Nat) : (s.serveUnit n id u at').chans = s.chans := by
  have hacts (l : List Act) (r : State × Access) : (l.foldl (serveAct u.place) r).1.chans = r.1.chans := by
    induction l generalizing r with
    | nil => rfl
    | cons a l ih => exact (ih _).trans (serveAct_drams _ _ _)
  unfold State.serveUnit
  split
  case h_1 => rfl
  case h_2 a _ =>
    refine (State.served_drams n id u at' _).trans ((hacts _ _).trans ?_)
    dsimp only
    split <;> split_ifs <;> rfl

/-- The only part of a store of an access is performed, and the access ends. -/
theorem serveUnit_store {s : State} {n : Nat} {a : Access} {u : MemUnit} {size v : Nat}
    (hfind : (s.slot n).acc.find? (·.id = a.id) = some a) (hunits : a.units = [u]) (hfin : a.fin = .store) (hjob : a.job = none)
    (hacts : u.acts = [.wr u.place.key size v]) (hchan : s.chanFailed u.place = false) (at' : Nat) :
    stored u.place v size s (s.serveUnit n a.id u at') ∧ ∀ b ∈ ((s.serveUnit n a.id u at').slot n).acc, b.id ≠ a.id := by
  obtain ⟨cs, hcs⟩ := s.noteTurn_eq n a.svc u.place
  have hact := serveAct_write u.place (s.noteTurn n a.svc u.place) a size v
  have hstore : stored u.place v size s ((s.noteTurn n a.svc u.place).store u.place v size) := by
    rw [hcs]
    exact State.stored_store (s := { s with clus := cs }) hchan v size
  generalize (s.noteTurn n a.svc u.place).store u.place v size = w at hact hstore
  obtain ⟨ps, hps⟩ := w.clearCovered_eq u
  rw [serveUnit_only hfind hacts (by rw [hfin]; nofun) hact rfl hunits at', hps,
    finishAccess_store (b := { a with units := [] }) hfin hjob]
  refine ⟨hstore, fun b hb => ?_⟩
  rw [State.modSlot_eq, State.slot_setSlot_self] at hb
  simpa using (List.mem_filter.mp hb).2

/-- At most one request of an access that waits for room joins a queue. -/
theorem State.refillQueue_joins (s : State) (k : Nat) :
    ∃ l, l.length ≤ 1 ∧ (s.refillQueue k).dram k = { s.dram k with queue := (s.dram k).queue ++ l } ∧
      (s.refillQueue k).mem = s.mem ∧ ∀ m, (s.refillQueue k).slot m = s.slot m := by
  have stays : s.dram k = { s.dram k with queue := (s.dram k).queue ++ [] } := by rw [List.append_nil]
  unfold State.refillQueue
  dsimp only
  split
  · exact ⟨[], Nat.zero_le 1, stays, rfl, fun _ => rfl⟩
  · split
    · exact ⟨[], Nat.zero_le 1, stays, rfl, fun _ => rfl⟩
    · exact ⟨[_], Nat.le_refl 1, by rw [State.modDram_eq, State.dram_setDram_self], rfl, fun _ => rfl⟩

section

variable {s : State} {k : Nat}

/-- A DRAM channel without a request, whose bus is busy, or in a refresh window starts none. -/
theorem dramStart_idle (h : (s.dram k).queue = [] ∨ s.cyc < (s.dram k).busFree ∨ inRefresh k s.cyc = true) : s.dramStart k = s := by
  unfold State.dramStart
  dsimp only
  split
  · rfl
  case isFalse hfree =>
    have hq : (s.dram k).queue = [] := h.resolve_right (by simpa using hfree)
    rw [hq]

variable {n id : Nat} {rest : List (Nat × Nat)} {a : Access} {u : MemUnit}

/-- A request of a memory core's thread asks for the first part of its access that may be served. -/
theorem dramWork_unit (hn : n < 65536) (ha : (s.slot n).acc.find? (fun a => a.id = id) = some a)
    (hu : a.units.find? (fun u => u.place.kind = 4 && u.place.unit = k && s.unitFree n a u) = some u) :
    s.dramWork k n id = some (.unit u) := by
  unfold State.dramWork
  dsimp only
  rw [if_neg (by unfold hostRequester; omega), if_neg (by unfold packetRequester; omega), if_neg (by omega), if_neg (by omega), ha,
    Option.bind_some, hu]
  rfl

/-- A DRAM channel with the row of the started request open, and its bus taken. -/
def Dram.begun (d : Dram) (cyc off : Nat) (rest acts : List (Nat × Nat)) : Dram :=
  { d with queue := rest, rows := SMap.set d.rows (off / 2048 % 16) (off / 32768)
           busFree := cyc + (if d.lineSeq % 3 = 2 then 8 else 9), lineSeq := (d.lineSeq + 1) % 3, acts := acts }

/-- The request at the head of a queue starts: its part is served, and the queue has room for another. -/
theorem dramStart_unit (hq : (s.dram k).queue = (n, id) :: rest) (hbus : (s.dram k).busFree ≤ s.cyc)
    (hrefresh : inRefresh k s.cyc = false) (hwork : s.dramWork k n id = some (.unit u)) :
    ∃ acts lat, s.dramStart k =
      ((s.setDram k ((s.dram k).begun s.cyc u.place.off rest acts)).serveUnit n id u (s.cyc + lat)).refillQueue k := by
  unfold State.dramStart
  dsimp only
  rw [if_neg (by simp [hrefresh, hbus]), hq]
  dsimp only
  rw [hwork]
  exact ⟨_, _, rfl⟩

end

/-! ## The matrix unit (R135, R136) -/

theorem Core.post_sems (c : Core) (i : Fin 16) : (c.post i.val).sems[i] = BitVec.ofNat 16 (min (c.sems[i].toNat + 1) 65535) := by
  unfold Core.post
  simp

theorem unitStep_idle {s : State} {k : Nat} (h : (s.core k).munit = []) : s.unitStep k = s := by
  unfold State.unitStep
  rw [h]

/-- The commands of a unit behind one that is complete. -/
def nextCommands (doneAt : Nat) : List UnitCmd → List UnitCmd
  | [] => []
  | v :: vs => { v with doneAt := doneAt + v.cycles } :: vs

theorem unitStep_completes {s : State} {k : Nat} {u : UnitCmd} {us : List UnitCmd} (h : (s.core k).munit = u :: us) :
    s.unitStep k = (s.modSlot (k * 8 + u.slot) fun x => x.runUnit u).modCore k fun c =>
      { (u.post.elim c c.post) with munit := nextCommands u.doneAt us } := by
  unfold State.unitStep
  rw [h]
  dsimp only
  congr 1
  funext c
  cases u.post <;> cases us <;> rfl

end Sys2Proof.Machine

namespace Sys2Proof.Claims

open Sys2Proof.Machine

theorem channelSteps : ChannelSteps := by
  intro s k ch x hx
  refine ⟨?held, ?starts, fun m p l hact hkind => ⟨?fetchLocal, ?fetchRemote⟩, ?missing, ?put, ?stamp, ?idle, ?lost, ?absent⟩
  case held =>
    rintro ⟨j, hj, hid, hheld⟩
    show execCopyTransferStart k ch.val s = _
    unfold execCopyTransferStart
    rw [hx]
    exact if_pos (List.any_eq_true.mpr ⟨j, hj, by simp [hid, hheld]⟩)
  case starts =>
    intro hfree
    refine ⟨s.modHead k ch.val fun t => { t with started := true }, ?_, s.head_modHead hx _, rfl, fun _ => rfl⟩
    show execCopyTransferStart k ch.val s = _
    unfold execCopyTransferStart
    rw [hx]
    refine if_neg fun h => ?_
    obtain ⟨j, hj, hjob⟩ := List.any_eq_true.mp h
    obtain ⟨hid, hheld⟩ := by simpa using hjob
    exact absurd (hfree j hj hid) (by simp [hheld])
  case fetchLocal =>
    intro hserved hmiss hbank i hi
    obtain ⟨bad, hfetch⟩ := copyAct_fetch_local hx hserved hbank l 0
    refine ⟨_, _, (exec_channelStep hi s).trans (congrArg _ ((copyStep_acts hact rfl hkind fun _ => hmiss).trans hfetch)),
      s.head_modHead hx _, rfl, rfl, ?_, rfl, fun _ => rfl⟩
    exact congrArg Prod.fst (SMap.get_set_self _ _ _ _)
  case fetchRemote =>
    intro hserved i hi
    have hfetch := copyAct_fetch_remote hx hserved l 0
    refine ⟨_, _, (exec_channelStep hi s).trans (congrArg _ ((copyStep_acts hact rfl hkind fun h => ?_).trans hfetch)),
      State.head_modHead ((State.head_of_chans (State.send_chans _ _ _) _).trans hx) _, ⟨rfl, fun _ => rfl⟩, rfl, rfl, rfl, rfl, rfl⟩
    exact absurd (hserved.symm.trans h) (by decide)
  case missing =>
    intro m d p hact hp hkind hserved hmiss i hi
    obtain ⟨hun, -, hheld⟩ := s.holdLine_held k p
    refine ⟨_, (exec_channelStep hi s).trans (congrArg _ (copyStep_missing hact hp hkind hserved hmiss)), hun, ?_, hheld⟩
    refine (State.head_of_chans ?_ _).trans hx
    exact (State.modClu_field Cluster.chans (fun _ => by rfl) _ k k).trans (s.modClu_field Cluster.chans (fun _ => by rfl) k k)
  case put =>
    intro m c v hact hc hkind hserved hmiss hbank hkv hgather i hi
    have hput := copyAct_put hx hc hserved hbank hgather 0
    have hhead : (((s.takeCharge (k * 160) 1).store c.dst v c.n)).head k ch.val = some x := by
      rw [State.head_of_chans (s := s) _ ch.val, hx]
      rw [State.store_clu, State.takeCharge_chans]
    obtain ⟨hpos, hhop⟩ := x.wrote_pos k c hkv
    refine ⟨_, _, (exec_channelStep hi s).trans (congrArg _ ((copyStep_acts hact rfl hkind fun _ => hmiss).trans hput)),
      State.head_modHead hhead _, hpos, hhop, ?_, fun n => ?_⟩
    · rw [State.takeCharge_rest]
      exact State.stored_store (s := { s with clus := (s.takeCharge (k * 160) 1).clus }) (State.chanFailed_bank hkind) v c.n
    · refine (State.store_slot _ _ _ _ n).trans ?_
      rw [State.takeCharge_rest]
      rfl
  case stamp =>
    intro m p hact hkind hserved hmiss hbank hkv i hi
    have hexec := (exec_channelStep hi s).trans (congrArg _ ((copyStep_acts hact rfl hkind fun _ => hmiss).trans
      (copyAct_stamp hx hserved hbank hkv 0)))
    have hstore := State.stored_store (State.chanFailed_bank (s := s) hkind) x.seq.toNat 8
    have hclu := s.store_clu p x.seq.toNat 8 k
    generalize s.store p x.seq.toNat 8 = w at hexec hstore hclu
    have hw : w.head k ch.val = some x := (State.head_of_chans (by rw [hclu]) _).trans hx
    refine ⟨fun hhop => ?_, fun hover => ?_⟩
    · rw [stamped_hop hw hkv hhop] at hexec
      exact ⟨_, hexec, hstore, w.head_modHead hw _⟩
    · rw [stamped_over hw hkv hover] at hexec
      have ended := endTransfer_ended w k ch hkv false
      refine ⟨_, hexec, ?_, ?_, ended.lastDone, ended.freed.1, ?_⟩
      · unfold stored State.readMem at hstore ⊢
        rw [ended.mem]
        exact hstore
      · rw [ended.queue, hclu]
      · rw [← hclu]
        exact ended.freed.2
  case idle =>
    intro m hnone i hi
    rw [exec_channelStep hi, copyStep_idle hnone]
  case lost =>
    exact fun hkv hlive hcont => copyStop_ends hx hkv hlive hcont 0x0E
  case absent =>
    intro hkv hlive hcont
    obtain ⟨t, hexec, hqueue, hreport, hmem, -⟩ := copyStop_ends hx hkv hlive hcont 0x0D
    exact ⟨t, hexec, hqueue, hreport, hmem⟩

theorem dramRequestStarts {s : State} {k n id : Nat} {rest : List (Nat × Nat)} {a : Access} {u : MemUnit}
    (hq : (s.dram k).queue = (n, id) :: rest) (hn : n < 65536) (hbus : (s.dram k).busFree ≤ s.cyc)
    (hrefresh : inRefresh k s.cyc = false) (ha : (s.slot n).acc.find? (fun a => a.id = id) = some a)
    (hu : a.units.find? (fun u => u.place.kind = 4 && u.place.unit = k && s.unitFree n a u) = some u) :
    ∃ t, exec (.dramRequest k) s = .next t ∧ (∃ l, (t.dram k).queue = rest ++ l ∧ l.length ≤ 1) ∧
      SMap.get 0 (t.dram k).rows (u.place.off / 2048 % 16) = u.place.off / 32768 ∧
      (t.dram k).busFree = s.cyc + (if (s.dram k).lineSeq % 3 = 2 then 8 else 9) ∧
      (∀ (size v : Nat), a.fin = .store → a.units = [u] → a.job = none → u.acts = [.wr u.place.key size v] →
        s.chanFailed u.place = false → stored u.place v size s t ∧ ∀ b ∈ (t.slot n).acc, b.id ≠ id) := by
  obtain rfl : a.id = id := by simpa using List.find?_some ha
  obtain ⟨acts, lat, hstart⟩ := dramStart_unit hq hbus hrefresh (dramWork_unit hn ha hu)
  obtain ⟨l, hl, hdram, hmem, hslot⟩ := State.refillQueue_joins
    ((s.setDram k ((s.dram k).begun s.cyc u.place.off rest acts)).serveUnit n a.id u (s.cyc + lat)) k
  rw [State.dram_of_chans (State.serveUnit_drams _ _ _ _ _), State.dram_setDram_self] at hdram
  refine ⟨_, congrArg Host.Outcome.next hstart, ⟨l, by rw [hdram]; rfl, hl⟩, ?_, by rw [hdram]; rfl, ?_⟩
  · rw [hdram]
    exact SMap.get_set_self _ _ _ _
  · intro size v hfin hunits hjob hacts hchan
    obtain ⟨hstored, hgone⟩ := serveUnit_store (s := s.setDram k ((s.dram k).begun s.cyc u.place.off rest acts)) ha hunits hfin hjob
      hacts hchan (s.cyc + lat)
    rw [hslot]
    refine ⟨?_, hgone⟩
    unfold stored State.readMem at hstored ⊢
    rw [hmem]
    exact hstored

theorem footprintReleased (s : State) (k job : Nat) :
    let js := (s.clu k).jobs.filter fun j => !j.over s.cyc
    ∃ t, exec (.footprintRelease k job) s = .next t ∧ untouched s t ∧ (t.clu k).jobs.length = js.length ∧
      (∀ j ∈ js, j.id ≠ job → j ∈ (t.clu k).jobs) ∧ ∀ j ∈ js, j.id = job → { j with held := heldBy js j } ∈ (t.clu k).jobs := by
  intro js
  refine ⟨_, rfl, ⟨rfl, fun _ => rfl⟩, ?_⟩
  rw [State.modClu_eq, State.clu_setClu_self]
  exact ⟨List.length_map _, fun j hj hne => List.mem_map.mpr ⟨j, hj, if_neg hne⟩,
    fun j hj hid => List.mem_map.mpr ⟨j, hj, if_pos hid⟩⟩

theorem unitCompletes {s : State} {k : Nat} {u : UnitCmd} {us : List UnitCmd} (h : (s.core k).munit = u :: us) :
    ∃ t, exec (.unitCommand k) s = .next t ∧ t.slot (k * 8 + u.slot) = (s.slot (k * 8 + u.slot)).runUnit u ∧ t.mem = s.mem ∧
      (∀ m, m ≠ k * 8 + u.slot → t.slot m = s.slot m) ∧ (t.core k).munit.length = us.length ∧
      (∀ v, us.head? = some v → (t.core k).munit.head? = some { v with doneAt := u.doneAt + v.cycles }) ∧
      (u.post = none → (t.core k).sems = (s.core k).sems) ∧
      (∀ i : Fin 16, u.post = some i.val → (t.core k).sems[i] = BitVec.ofNat 16 (min ((s.core k).sems[i].toNat + 1) 65535)) := by
  refine ⟨_, congrArg Host.Outcome.next (unitStep_completes h), ?_⟩
  rw [State.modCore_eq, State.core_setCore_self, State.modSlot_eq]
  simp only [State.slot_setCore, State.slot_setSlot_self, State.core_setSlot]
  refine ⟨trivial, rfl, fun m hm => State.slot_setSlot_of_ne _ _ _ _ hm, ?_, fun v hv => ?_, fun hnone => by rw [hnone]; rfl,
    fun i hi => ?_⟩
  · cases us <;> rfl
  · obtain ⟨vs, rfl⟩ := List.head?_eq_some_iff.mp hv
    rfl
  · rw [hi]
    exact Core.post_sems _ i

theorem unitSteps : UnitSteps := by
  intro s k
  refine ⟨footprintReleased s k, fun hidle => ?_, fun n id rest a u hq hn hbus hrefresh ha hu => ?_, ?_, fun hnone => ?_,
    fun u us h => unitCompletes h⟩
  · exact congrArg Host.Outcome.next (dramStart_idle hidle)
  · exact dramRequestStarts hq hn hbus hrefresh ha hu
  · exact ⟨_, rfl, ⟨rfl, fun _ => rfl⟩, State.dram_setDram_self _ _ _⟩
  · exact congrArg Host.Outcome.next (unitStep_idle hnone)

/-- Settles O46: a channel's step does the one action that its transfer wants and its turn allows; a DRAM channel's start takes the head
of its queue and serves one part, which leaves the channel itself alone; the unit completes its first command. -/
theorem channelAndUnitSteps : Obligations.ChannelAndUnitSteps := ⟨channelSteps, unitSteps⟩

end Sys2Proof.Claims
end
